-- ==== Sys2Proof/Word.lean ====
section
/-! DEFINITION. The word types of the device and the sparse table type its state is made of. -/

namespace Sys2Proof

/-- A byte of memory or of a payload. -/
abbrev Byte := BitVec 8

/-- A 64-bit word: the unit of every header, record and register map of the manual. -/
abbrev Word := BitVec 64

/-- A sparse table: entries by number, numbers strictly rising. -/
abbrev Tab (α : Type) := List (Nat × α)

end Sys2Proof
end

