-- ==== Sys2Proof/Syntax.lean ====
section
/-! DEFINITION. The commands of the device, one constructor for each row of spec/opcode_table.json, with their operands. -/

namespace Sys2Proof

/-- A request header: word 0 of Table 3.4 without KIND and OPC, and the words of Table 3.5.
`rsv` is the reserved field W1[4:0]. -/
structure ReqHdr where
  src : Nat := 0
  tag : Nat := 0
  stall : Nat := 0
  svc : Nat := 0
  cm : Bool := false
  tc : Nat := 1
  ver : Nat := 1
  handle : Nat := 0
  mepoch : Nat := 0
  qp : Nat := 0
  len : Nat := 0
  raw : Bool := false
  ri : Bool := false
  nocomb : Bool := false
  rsv : Nat := 0
  ownep : Nat := 0
  offset : Nat := 0
  key : Word := 0
deriving DecidableEq, Repr

/-- A response header (Tables 3.4 and 3.7); `rsv` is W1[31:16]. -/
structure RspHdr where
  src : Nat := 0
  tag : Nat := 0
  stall : Nat := 0
  svc : Nat := 0
  cm : Bool := false
  tc : Nat := 1
  ver : Nat := 1
  opc : Nat := 0
  status : Nat := 0
  load : Nat := 0
  len : Nat := 0
  retry : Nat := 0
  rsv : Nat := 0
  origid : Nat := 0
  detail : Word := 0
deriving DecidableEq, Repr

/-- An engine header (Tables 3.4 and 3.8); `rsv` is W2[11:0]. -/
structure EngHdr where
  src : Nat := 0
  tag : Nat := 0
  stall : Nat := 0
  svc : Nat := 0
  cm : Bool := false
  tc : Nat := 2
  ver : Nat := 1
  jobid : Nat := 0
  comp : Nat := 0
  fmt : Nat := 0
  len : Nat := 0
  block : Nat := 0
  rank : Nat := 0
  rsv : Nat := 0
  jkey : Word := 0
deriving DecidableEq, Repr

/-- A management header (Tables 3.4 and 3.9). -/
structure MgmtHdr where
  src : Nat := 0
  tag : Nat := 0
  stall : Nat := 0
  svc : Nat := 0
  cm : Bool := false
  tc : Nat := 0
  ver : Nat := 1
  dst : Nat := 0xFFFF
  len : Nat := 0
  mstat : Nat := 0
  part : Nat := 0
  npart : Nat := 0
  xid : Nat := 0
deriving DecidableEq, Repr

/-- What the receiver's FEC and GCM make of a link frame (R69). -/
inductive FrameCheck where
  | good
  | badCodeword
  | badTag
deriving DecidableEq, Repr

/-- The message a link frame carries, as far as the link and the switch look at it: its KIND, OPC and
VER, whether a reserved field is set, its class, and its length with header and payload. -/
structure FrameMsg where
  kind : Nat := 0
  opc : Nat := 0
  ver : Nat := 1
  rsv : Bool := false
  tc : Nat := 1
  src : Nat := 0
  tag : Nat := 0
  len : Nat := 0
  bytes : Nat := 32
  cm : Bool := false
deriving DecidableEq, Repr

/-- A link frame header (Table 3.3). -/
structure FrameHdr where
  seq : Nat := 0
  ackseq : Nat := 0
  ctc : Nat := 0
  credit : Nat := 0
  flen : Nat := 0
  nak : Bool := false
  idle : Bool := false
  keyid : Nat := 0
deriving DecidableEq, Repr

/-- The mailbox a command comes from (Table 16.1): the PF, VF k, or MBOX_CMD over Beypen on a port, from a
sender, with its exchange identifier; `quorum` is a command that a QUORUM message carries (R441). -/
inductive Issuer where
  | pf
  | vf (k : Nat)
  | fabric (port src xid : Nat)
  | quorum (port src xid : Nat)
deriving DecidableEq, Repr

/-- A command entry without its OPC (Table 16.5): C0 to C2 by field, C3 to C13 as words. `rsv` is C1[39:36]. -/
structure CmdEntry where
  seq : Nat := 0
  principal : Nat := 0
  dlen : Nat := 0
  dhandle : Nat := 0
  doff : Nat := 0
  dkey : Word := 0
  rsv : Nat := 0
  params : List Word := []
deriving DecidableEq, Repr

/-- The engine kinds in the order of the KIND field of RESET (Table 16.16). -/
inductive EngineKind where
  | thresher
  | gleaner
  | winnow
  | searchEngine
  | macArray
  | expander
deriving DecidableEq, Repr

/-- A unit that a hang detector watches (Table 18.1); a quarter and, where the row has several, a number. -/
inductive HangUnit where
  | engine (quarter : Nat) (kind : EngineKind) (index : Nat)
  | job (jobid : Nat)
  | sequencer (quarter qp : Nat)
  | homeAgent (quarter : Nat)
  | switchSlice (quarter : Nat)
  | hbmController (quarter index : Nat)
  | controlCore (quarter core : Nat)
  | trustCore (standby : Bool)
deriving DecidableEq, Repr

/-- The scope of a reset (Table 18.2). -/
inductive ResetScope where
  | context (qp : Nat)
  | engine (quarter : Nat) (kind : EngineKind) (index : Nat)
  | quarter (quarter : Nat)
  | device
  | power
deriving DecidableEq, Repr

/-- A place whose temperature is read (Table 21.2): one of the eight dies (compute then base die of each
quarter) or one of the twenty stacks. -/
inductive ThermalPlace where
  | die (index : Nat)
  | stack (index : Nat)
deriving DecidableEq, Repr

/-- How a tray answers a read or a write (R205, R575). -/
inductive TrayAnswer where
  | data (bytes : List Byte)
  | poison
  | error
deriving DecidableEq, Repr

/-- What a CXL port finds when its link comes up (R200, R201): what the tray offers by the rows of Table 7.4, IDE, and the capacity it
enumerated in 2 MiB units. -/
structure CxlLink where
  l0 : Bool := true
  /-- One directly attached Type-3 device. -/
  type3 : Bool := true
  /-- Lanes, 16 or 8; GT/s, 64 or 32; bytes of a flit, 256 or 68. -/
  lanes : Nat := 16
  rate : Nat := 64
  flit : Nat := 256
  /-- CXL.io and CXL.mem; one HDM decoder of so many units without interleave. -/
  io : Bool := true
  mem : Bool := true
  interleave : Bool := false
  /-- Dynamic capacity, where the tray uses it, by add-capacity events; poisoned data marked as such. -/
  addEvents : Bool := true
  poison : Bool := true
  /-- CXL.mem and CXL.io link IDE with AES-256-GCM in containment mode, its keys set over DOE: offered, and active. -/
  ideOffered : Bool := true
  ide : Bool := true
  /-- It needs one of the modes that are not supported: CXL.cache, Type-1, Type-2, MLD, a switch, back-invalidate, peer-to-peer. -/
  unsupported : Bool := false
  units : Nat := 0
  commonClock : Bool := true
deriving DecidableEq, Repr

/-- One reading of the telemetry period (R531, Table 21.1): temperatures in 1/16 °C, of compute dies Q0 to Q3 then base dies, and of
stacks H00 to H19; voltages of the 18 rails in 1/1000 above nominal (R540). -/
structure Telemetry where
  vinMv : Nat := 48000
  iinMa : Nat := 0
  pinW : Nat := 0
  dieTemp : Nat := 0
  stackTemp : Nat := 0
  dieTemps : List Nat := []
  stackTemps : List Nat := []
  rails : List Nat := []
deriving DecidableEq, Repr

/-- What a start-up phase finds on the board (R547, R563): the straps, latched in phase 2. -/
structure PhaseReport where
  addr : Nat := 0
  testMode : Bool := false
deriving DecidableEq, Repr

/-- What a portion did before it was closed (R43): whole input blocks processed, threshers whose datapath
corrupted an element (block, execution, element, value written in its place), and busy ACLK. -/
structure PortionReport where
  done : Nat := 0
  corrupt : List (Nat × Nat × Nat × BitVec 32) := []
  aclk : Nat := 0
deriving DecidableEq, Repr

/-- The commands: one constructor for each row of spec/opcode_table.json (LAWS.json names the row of each). -/
inductive Instr where
  -- requests
  | load (p : Nat) (h : ReqHdr) (d : List Byte)
  | store (p : Nat) (h : ReqHdr) (d : List Byte)
  | storeMasked (p : Nat) (h : ReqHdr) (d : List Byte)
  | loadShared (p : Nat) (h : ReqHdr) (d : List Byte)
  | loadExcl (p : Nat) (h : ReqHdr) (d : List Byte)
  | writeback (p : Nat) (h : ReqHdr) (d : List Byte)
  | evictClean (p : Nat) (h : ReqHdr) (d : List Byte)
  | atomicAdd (p : Nat) (h : ReqHdr) (d : List Byte)
  | atomicMin (p : Nat) (h : ReqHdr) (d : List Byte)
  | atomicMax (p : Nat) (h : ReqHdr) (d : List Byte)
  | atomicCas (p : Nat) (h : ReqHdr) (d : List Byte)
  | atomicSwap (p : Nat) (h : ReqHdr) (d : List Byte)
  | atomicAnd (p : Nat) (h : ReqHdr) (d : List Byte)
  | atomicOr (p : Nat) (h : ReqHdr) (d : List Byte)
  | atomicXor (p : Nat) (h : ReqHdr) (d : List Byte)
  | fence (p : Nat) (h : ReqHdr) (d : List Byte)
  | publish (p : Nat) (h : ReqHdr) (d : List Byte)
  | offer (p : Nat) (h : ReqHdr) (d : List Byte)
  | accept (p : Nat) (h : ReqHdr) (d : List Byte)
  | confirm (p : Nat) (h : ReqHdr) (d : List Byte)
  | xferRead (p : Nat) (h : ReqHdr) (d : List Byte)
  | xferWrite (p : Nat) (h : ReqHdr) (d : List Byte)
  -- responses
  | snoopResponse (p : Nat) (h : RspHdr) (d : List Byte)
  | forwardedResponse (p : Nat) (h : RspHdr) (d : List Byte)
  | parityDeltaResponse (p : Nat) (h : RspHdr) (d : List Byte)
  | gatewayXferResponse (p : Nat) (h : RspHdr) (d : List Byte)
  -- link and management messages
  | linkFrame (p : Nat) (f : FrameHdr) (check : FrameCheck) (m : FrameMsg)
  | hello (p : Nat) (h : MgmtHdr) (d : List Byte)
  | helloAck (p : Nat) (h : MgmtHdr) (d : List Byte)
  | sessInit (p : Nat) (h : MgmtHdr) (d : List Byte)
  | sessResp (p : Nat) (h : MgmtHdr) (d : List Byte)
  | sessFin (p : Nat) (h : MgmtHdr) (d : List Byte)
  | sessAck (p : Nat) (h : MgmtHdr) (d : List Byte)
  | spareReq (p : Nat) (h : MgmtHdr) (lane frame : Nat)
  | spareAck (p : Nat) (h : MgmtHdr) (lane frame : Nat)
  | window (p : Nat) (h : MgmtHdr) (d : List Byte)
  | windowAck (p : Nat) (h : MgmtHdr) (d : List Byte)
  | mboxCmd (p : Nat) (h : MgmtHdr) (d : List Byte)
  | mboxRsp (p : Nat) (h : MgmtHdr) (d : List Byte)
  | leaseRenew (p : Nat) (h : MgmtHdr) (d : List Byte)
  | leaseGrant (p : Nat) (h : MgmtHdr) (d : List Byte)
  | quorum (p : Nat) (h : MgmtHdr) (d : List Byte)
  -- engine messages
  | contrib (p : Nat) (h : EngHdr) (d : List Byte)
  | partialList (p : Nat) (h : EngHdr) (d : List Byte)
  | result (p : Nat) (h : EngHdr) (d : List Byte)
  | query (p : Nat) (h : EngHdr) (d : List Byte)
  -- CXL.mem from the host die
  | cxlmemAccess (fn handle slot offset len : Nat) (write : Option (List Byte))
  -- mailbox commands
  | regionCreate (i : Issuer) (e : CmdEntry)
  | regionDestroy (i : Issuer) (e : CmdEntry)
  | regionRead (i : Issuer) (e : CmdEntry)
  | keyIssue (i : Issuer) (e : CmdEntry)
  | keyRevoke (i : Issuer) (e : CmdEntry)
  | ownerSet (i : Issuer) (e : CmdEntry)
  | gwBind (i : Issuer) (e : CmdEntry)
  | hbmSplit (i : Issuer) (e : CmdEntry)
  | trayDiscard (i : Issuer) (e : CmdEntry)
  | trayRelease (i : Issuer) (e : CmdEntry)
  | mapStage (i : Issuer) (e : CmdEntry)
  | mapSwitch (i : Issuer) (e : CmdEntry)
  | mapStatus (i : Issuer) (e : CmdEntry)
  | movePrepare (i : Issuer) (e : CmdEntry)
  | stallSet (i : Issuer) (e : CmdEntry)
  | stallBind (i : Issuer) (e : CmdEntry)
  | quotaSet (i : Issuer) (e : CmdEntry)
  | policeSet (i : Issuer) (e : CmdEntry)
  | schedSet (i : Issuer) (e : CmdEntry)
  | meterRead (i : Issuer) (e : CmdEntry)
  | engineSet (i : Issuer) (e : CmdEntry)
  | qpAssign (i : Issuer) (e : CmdEntry)
  | qpRead (i : Issuer) (e : CmdEntry)
  | qpRelease (i : Issuer) (e : CmdEntry)
  | thresherReturn (i : Issuer) (e : CmdEntry)
  | tableLoad (i : Issuer) (e : CmdEntry)
  | tableRetire (i : Issuer) (e : CmdEntry)
  | indexLoad (i : Issuer) (e : CmdEntry)
  | indexPart (i : Issuer) (e : CmdEntry)
  | indexBatch (i : Issuer) (e : CmdEntry)
  | indexCommit (i : Issuer) (e : CmdEntry)
  | indexQepoch (i : Issuer) (e : CmdEntry)
  | indexCompact (i : Issuer) (e : CmdEntry)
  | indexUnload (i : Issuer) (e : CmdEntry)
  | sealInstall (i : Issuer) (e : CmdEntry)
  | sealRemove (i : Issuer) (e : CmdEntry)
  | attest (i : Issuer) (e : CmdEntry)
  | fwStage (i : Issuer) (e : CmdEntry)
  | fwRoll (i : Issuer) (e : CmdEntry)
  | keyRotate (i : Issuer) (e : CmdEntry)
  | reset (i : Issuer) (e : CmdEntry)
  | debugHalt (i : Issuer) (e : CmdEntry)
  | loopback (i : Issuer) (e : CmdEntry)
  | dirRead (i : Issuer) (e : CmdEntry)
  | regRead (i : Issuer) (e : CmdEntry)
  | regWrite (i : Issuer) (e : CmdEntry)
  | portSet (i : Issuer) (e : CmdEntry)
  | domainJoin (i : Issuer) (e : CmdEntry)
  | leaseStatus (i : Issuer) (e : CmdEntry)
  | deviceExpel (i : Issuer) (e : CmdEntry)
  | quorumSet (i : Issuer) (e : CmdEntry)
  | sheafSet (i : Issuer) (e : CmdEntry)
  | claim (i : Issuer) (e : CmdEntry)
  | release (i : Issuer) (e : CmdEntry)
  | claimList (i : Issuer) (e : CmdEntry)
  -- registers, buses and test
  | snap (fn : Nat)
  | go (fn : Nat)
  | pop (fn : Nat)
  | sqtailDoorbell (fn lq : Nat) (value : Word)
  | cqheadDoorbell (fn lq : Nat) (value : Word)
  | lwSel (fn offset size : Nat) (value : Word)
  | rcvGo (value : Word) (image : List Byte)
  | registerWrite (fn offset size : Nat) (value : Word)
  | clearFaults
  | mfrPcap (value : Nat)
  | setdasa (addr dynamic : Nat)
  | entdaa (dynamic : Nat)
  | extest
  | extestPulse
  | extestTrain
  | trstN
  -- start-up, pins, clocks, thermal
  | coldStart
  | startupPhaseEnd (r : PhaseReport)
  | startupPhaseOverrun
  | inputOutOfRange (exceeds : Bool)
  | resetN (microseconds : Nat)
  | resetNRelease
  | ppsEdge (widthNs sinceNs : Nat)
  | ptpTime (tai : Word)
  | holdover
  | refclkLoss
  | thermalAlarm (place : ThermalPlace) (temp : Nat)
  | thermalTrip (place : ThermalPlace) (temp : Nat)
  | thermalClear (place : ThermalPlace) (temp : Nat)
  -- lanes, ports, sessions
  | laneFault (p lane cause : Nat)
  | signalDetected (p : Nat)
  | trainingDone (p : Nat)
  | alignDone (p : Nat)
  | portStateTimeout (p : Nat)
  | authRetry (p : Nat)
  | linkDown (p : Nat)
  | rekeyDue (p : Nat)
  | rekeyRetry (p : Nat)
  | sessionKeysExpired (p : Nat)
  -- trays and HBM
  | cxlPortUp (c : Nat) (link : CxlLink)
  | cxlPortDown (c : Nat)
  | dynamicCapacityAdd (c dpa units : Nat)
  | trayReadCompletion (c line : Nat) (answer : TrayAnswer)
  | trayReadTimeout (c line : Nat)
  | trayWriteCompletion (c line : Nat) (answer : TrayAnswer)
  | trayWriteTimeout (c line : Nat)
  | trayTableEntryFree (c : Nat)
  | hbmCorrectableError (q stack pc row : Nat)
  | hbmUncorrectableError (q stack pc bank line : Nat)
  | pcDrainDone (q stack pc : Nat)
  -- bell and periodic events
  | bellStrike
  | portionClose (q : Nat) (kind : EngineKind) (index : Nat) (r : PortionReport)
  | hangDetected (u : HangUnit)
  | watchdogExpiry (q : Nat)
  | coreHealthFail (q core : Nat)
  | resetEnd (scope : ResetScope) (selfTestFailed : List Nat)
  | escalated (scope : ResetScope)
  | orderlyFlushAbandoned
  | pwrcycReq
  | pwrcycTimeout
  | flashOpDone
  | leaseRenewalDue
  | leaseLost
  | leaseRegained
  | telemetryPeriod (t : Telemetry)
  | capOverrun
  | lifetimeTick (t : Telemetry) (margins : List Nat) (badBer : List Nat)
  | bellCheckpoint
  -- requests falling due
  | deferredDue (p src tag : Nat)
  | aged (p src tag : Nat)
  | requestExpired (p src tag : Nat)
  | snoopTimeout (q agent tag : Nat)
  | offerLapsed (handle : Nat)
  | offerTableEntryFree (q : Nat)
  | keyDrained (handle slot : Nat)
  | mapRetired
  | moveCopyDone (handle : Nat)
  | moveComplete (handle : Nat)
  | tableFreed (slot : Nat)
  | combiningGroupClose (q line : Nat)
  | tallyAbsorb (q line : Nat)
  | tallyDemote (q line : Nat)
  | lineQueuePresentation (p src tag : Nat)
  | frameAvailable (q set : Nat)
  | dirtyWritebackDue (q line : Nat)
  | refusingStateTimeout (q point src stall svc qp : Nat)
  | refuseTableClear (q point : Nat)
  | gatewayFlush (handle block : Nat)
  | scrubPage (handle : Nat)
  | sheafPushDone (handle : Nat)
  | rebuildDone (handle : Nat)
  | reencodeDone (handle : Nat)
  -- engine events
  | jobAdmission (qp : Nat)
  | rowReadCompletion (jobid pos : Nat)
  | jobTimeout (jobid : Nat)
  | wjobTimeout (jobid : Nat)
  | shardTimeout (jobid query rank : Nat)
  | queryEpochHoldExpiry (index jobid query : Nat)
  | compactSwitch (index part : Nat)
  | qpReleased (qp : Nat)
  | interruptDelayExpiry (qp : Nat)
  | fwCoreCheck (q core : Nat) (passed : Bool)
  | fwFlashWriteDone
  | memoryKeyUnitDone (comp : Nat)
  | journalWrite (area : Nat)
  | hostDieReply (xid mstat : Nat) (d : List Byte)
  | refclkRestored
  | tripCleared (q : Nat)
  | sessionStepTimeout (p : Nat)
  | vinWarning (mv : Nat)
  | ledgerWindowRead (fn : Nat) (slots : List Nat)
  | engineAccessResponse (acc : Nat)
  | fineWheelSlot (q slot : Nat)
  | coreHealthCheckPassed (q core : Nat)
  | lineQueueAgeing (p src tag : Nat)
deriving DecidableEq, Repr

end Sys2Proof
end

