-- ==== Sys2Proof/Decode.lean ====
section
/-! DEFINITION. Decoding a word of the command table. The table gives bits to none of its rows, so no word spells a command. -/

namespace Sys2Proof

/-- The command a word spells by the bits of spec/opcode_table.json: no row of the table has bits. -/
def decodeTableWord (_nbits _w : Nat) : Option Instr := none

end Sys2Proof
end

