-- ==== Sys2Proof/Machine/Bits.lean ====
section
/-! DEFINITION. Bit fields of words, byte order, sparse tables and the small list operations the meanings share. -/

namespace Sys2Proof.Machine

/-! ### Words -/

/-- Field NAME[hi:lo] of a word, as a number. -/
def fld (w : Word) (hi lo : Nat) : Nat := w.toNat / 2 ^ lo % 2 ^ (hi + 1 - lo)

/-- Bit i of a word. -/
def bit (w : Word) (i : Nat) : Bool := w.getLsbD i

/-- A number as a 64-bit word. -/
def word (n : Nat) : Word := BitVec.ofNat 64 n

/-- A flag as a number. -/
def b2n (b : Bool) : Nat := if b then 1 else 0

/-- A word made of fields (low bit, value), which do not overlap. -/
def pack (fs : List (Nat × Nat)) : Word := word (fs.foldl (fun a f => a + f.2 * 2 ^ f.1) 0)

/-- Quotient rounded up. -/
def ceilDiv (a b : Nat) : Nat := (a + b - 1) / b

/-- Logarithm to base 2 rounded up, by search over 64 bits. -/
def ceilLog2 (n : Nat) : Nat := ((List.range 65).find? (fun i => n ≤ 2 ^ i)).getD 64

/-! ### Bytes: little-endian everywhere (R6) -/

/-- A number from bytes, lowest first. -/
def leNat : List Byte → Nat
  | [] => 0
  | b :: bs => b.toNat + 256 * leNat bs

/-- The n low bytes of a number, lowest first. -/
def natLe : Nat → Nat → List Byte
  | 0, _ => []
  | n + 1, v => BitVec.ofNat 8 v :: natLe n (v / 256)

/-- Bytes from an offset, as many as asked, zeros past the end. -/
def slice (d : List Byte) (off n : Nat) : List Byte :=
  let t := (d.drop off).take n
  t ++ List.replicate (n - t.length) 0

/-- The 64-bit word at a byte offset. -/
def wordAt (d : List Byte) (off : Nat) : Word := word (leNat (slice d off 8))

/-- A little-endian number of n bytes at an offset. -/
def natAt (d : List Byte) (off n : Nat) : Nat := leNat (slice d off n)

/-- The 8 bytes of a word. -/
def wordBytes (w : Word) : List Byte := natLe 8 w.toNat

/-- The bytes of a list of words. -/
def wordsBytes (ws : List Word) : List Byte := ws.flatMap wordBytes

/-- The 64-bit words of a byte string, by count. -/
def bytesWords (d : List Byte) (n : Nat) : List Word := (List.range n).map (fun i => wordAt d (8 * i))

/-- A byte string padded with zeros to n bytes. -/
def padTo (n : Nat) (d : List Byte) : List Byte := d ++ List.replicate (n - d.length) 0

/-- A byte string padded with zeros to whole 64-byte units. -/
def padUnits (d : List Byte) : List Byte := padTo (64 * ceilDiv d.length 64) d

/-- Is every byte zero. -/
def allZero (d : List Byte) : Bool := d.all (· == 0)

/-- Bytes of an ASCII string. -/
def ascii (t : String) : List Byte := t.toList.map (fun c => BitVec.ofNat 8 c.toNat)

/-- Exclusive or of two byte strings of one length. -/
def xorBytes (a b : List Byte) : List Byte := List.zipWith (· ^^^ ·) a b

/-- Replace the bytes of a string from an offset. -/
def patch (d : List Byte) (off : Nat) (b : List Byte) : List Byte :=
  d.take off ++ b ++ d.drop (off + b.length)

/-! ### Sparse tables -/

/-- The entry of a number. -/
def Tab.get? {α : Type} (t : Tab α) (k : Nat) : Option α := (t.find? (fun e => e.1 == k)).map (·.2)

/-- The entry of a number, or a default. -/
def Tab.getD {α : Type} (t : Tab α) (k : Nat) (d : α) : α := (Tab.get? t k).getD d

/-- Set the entry of a number, numbers kept rising. -/
def Tab.set {α : Type} : Tab α → Nat → α → Tab α
  | [], k, v => [(k, v)]
  | e :: t, k, v =>
    if e.1 < k then e :: Tab.set t k v else if e.1 = k then (k, v) :: t else (k, v) :: e :: t

/-- Remove the entry of a number. -/
def Tab.erase {α : Type} (t : Tab α) (k : Nat) : Tab α := t.filter (fun e => e.1 != k)

/-- Change the entry of a number, if there is one. -/
def Tab.adjust {α : Type} (t : Tab α) (k : Nat) (f : α → α) : Tab α :=
  t.map (fun e => if e.1 = k then (e.1, f e.2) else e)

/-- Change the entry of a number, starting from a default. -/
def Tab.upd {α : Type} (t : Tab α) (k : Nat) (d : α) (f : α → α) : Tab α := Tab.set t k (f (Tab.getD t k d))

/-- Is there an entry of a number. -/
def Tab.has {α : Type} (t : Tab α) (k : Nat) : Bool := t.any (fun e => e.1 == k)

/-! ### Lists -/

/-- Change the elements that meet a test. -/
def adjustWhere {α : Type} (l : List α) (p : α → Bool) (f : α → α) : List α :=
  l.map (fun a => if p a then f a else a)

/-- Element i of a list of numbers, 0 past the end. -/
def nth (l : List Nat) (i : Nat) : Nat := (l[i]?).getD 0

/-- Change element i of a list. -/
def modNth {α : Type} : List α → Nat → (α → α) → List α
  | [], _, _ => []
  | a :: l, 0, f => f a :: l
  | a :: l, i + 1, f => a :: modNth l i f

/-- Add an element to a list without repeats. -/
def addOnce {α : Type} [BEq α] (l : List α) (a : α) : List α := if l.contains a then l else l ++ [a]

/-- Put an element into a list kept sorted by a Boolean order, after its equals. -/
def insertBy {α : Type} (before : α → α → Bool) (a : α) : List α → List α
  | [] => [a]
  | b :: l => if before a b then a :: b :: l else b :: insertBy before a l

/-- Sort by a Boolean order, keeping equals in their order. -/
def sortBy {α : Type} (before : α → α → Bool) (l : List α) : List α :=
  l.foldl (fun acc a => insertBy before a acc) []

/-- The first element with the smallest key. -/
def minBy {α : Type} (key : α → Nat) : List α → Option α
  | [] => none
  | a :: l => match minBy key l with
    | none => some a
    | some b => if key a ≤ key b then some a else some b

/-- Fold a state over a list. -/
def each {σ α : Type} (l : List α) (f : α → σ → σ) (s : σ) : σ := l.foldl (fun s a => f a s) s

/-- Apply a function n times. -/
def iter {σ : Type} (f : σ → σ) : Nat → σ → σ
  | 0, s => s
  | n + 1, s => iter f n (f s)

/-! ### CRC-32C: the polynomial 0x1EDC6F41 reflected, initial value and final inversion all ones
(PRESUMED: the manual names the code and not its polynomial. Unsafe. Log 11) -/

/-- One bit of the reflected CRC. -/
def crcBit (c : BitVec 32) : BitVec 32 := if c.getLsbD 0 then (c >>> 1) ^^^ 0x82F63B78#32 else c >>> 1

/-- One byte. -/
def crcByte (c : BitVec 32) (b : Byte) : BitVec 32 := iter crcBit 8 (c ^^^ b.setWidth 32)

/-- CRC-32C of a byte string. -/
def crc32c (d : List Byte) : BitVec 32 := ~~~ (d.foldl crcByte 0xFFFFFFFF#32)

end Sys2Proof.Machine
end

