-- ==== Sys2Proof/Machine/Operands.lean ====
section
/-! DEFINITION. Operand forms: the payload units of stores, atomics and ownership operations, and what they do to a line. -/

namespace Sys2Proof.Machine

/-! ### Classes of request -/

/-- ATOMIC_ADD to ATOMIC_XOR. -/
def isAtomic (opc : Nat) : Bool := decide (0x10 ≤ opc) && decide (opc ≤ 0x17)

/-- PUBLISH, OFFER, ACCEPT, CONFIRM. -/
def isOwnOp (opc : Nat) : Bool := decide (0x30 ≤ opc) && decide (opc ≤ 0x33)

/-- XFER_READ, XFER_WRITE. -/
def isXfer (opc : Nat) : Bool := opc == 0x60 || opc == 0x61

/-- The opcodes a requester may use (Table 3.6). -/
def isRequest (opc : Nat) : Bool :=
  (decide (1 ≤ opc) && decide (opc ≤ 7)) || isAtomic opc || opc == 0x20 || isOwnOp opc || isXfer opc

/-- Does a request carry data (R120). -/
def carriesData (opc : Nat) : Bool :=
  opc == 2 || opc == 3 || opc == 6 || opc == 0x61 || isAtomic opc || isOwnOp opc

/-- Does it read lines and return them: LOAD, LOAD_SHARED, LOAD_EXCL, XFER_READ. -/
def readsLines (opc : Nat) : Bool := opc == 1 || opc == 4 || opc == 5 || opc == 0x60

/-- Does it write lines: STORE, STORE_MASKED, WRITEBACK, atomics, XFER_WRITE. -/
def writesLines (opc : Nat) : Bool := opc == 2 || opc == 3 || opc == 6 || opc == 0x61 || isAtomic opc

/-- The traffic class of a request (Table 3.6). -/
def requestTc (opc : Nat) : Nat := if isXfer opc then 3 else 1

/-- Rights a request needs: bit 2 atomic, bit 1 write, bit 0 read (after R581). -/
def rightsNeeded (opc : Nat) : Nat :=
  if opc == 5 then 3
  else if opc == 2 || opc == 3 || opc == 6 || opc == 0x61 then 2
  else if isAtomic opc || isOwnOp opc then 4
  else 1

/-- Does a rights field cover the rights needed. -/
def covers (rights need : Nat) : Bool := (List.range 3).all (fun i => !(need / 2 ^ i % 2 == 1) || rights / 2 ^ i % 2 == 1)

/-- The class of Table 5.5, with R188: 0 LOAD, 1 store, 2 atomic, 3 FENCE, 4 unordered (R131, R188). -/
def orderClass (opc : Nat) : Nat :=
  if opc == 1 || opc == 4 then 0
  else if opc == 2 || opc == 3 || opc == 5 || opc == 6 then 1
  else if isAtomic opc || isOwnOp opc then 2
  else if opc == 0x20 then 3
  else 4

/-- May a later request of a stream be performed before an earlier one (Table 5.5). -/
def mayPass (later earlier : Nat) (sameLine : Bool) : Bool :=
  if later == 4 || earlier == 4 then true
  else if later == 3 then false
  else if earlier == 3 then true
  else if later == 0 && earlier == 0 then true
  else if later == 0 || earlier == 0 then !sameLine
  else false

/-- An ordered write (R142). -/
def isOrderedWrite (opc : Nat) : Bool := let c := orderClass opc; c == 1 || c == 2 || c == 3

/-- Response data units of a request answered OK (Table 5.1, R171). -/
def responseUnits (opc len : Nat) : Nat :=
  if opc == 1 || opc == 0x60 then len else if opc == 4 || opc == 5 || isAtomic opc || isOwnOp opc then 1 else 0

/-- Charge of the policer in granules (R373). -/
def policeCharge (opc len payload : Nat) : Nat :=
  let back := if opc == 1 || opc == 0x60 then len * 64 else if isAtomic opc || isOwnOp opc then 64 else 0
  ceilDiv (32 + payload) 64 + ceilDiv (24 + back) 64

/-! ### Atomics (Tables 5.3 to 5.5a) -/

/-- An atomic operand unit. -/
structure AtomicOp where
  operand : Nat
  compare : Nat
  type : Nat
  bytes : Nat
  /-- Reserved fields are zero. -/
  clean : Bool
deriving DecidableEq, Repr

/-- Read an operand unit. -/
def atomicOperand (d : List Byte) : AtomicOp :=
  let a4 := wordAt d 32
  let n := 2 ^ (fld a4 1 0 + 2)
  { operand := (natAt d 0 8 + 2 ^ 64 * natAt d 16 8) % 2 ^ (8 * n)
    compare := (natAt d 8 8 + 2 ^ 64 * natAt d 24 8) % 2 ^ (8 * n)
    type := fld a4 3 2
    bytes := n
    clean := fld a4 63 4 == 0 && allZero (slice d 40 24) }

/-- SIZE and TYPE inside Table 5.5a. -/
def atomicOk (opc : Nat) (a : AtomicOp) : Bool :=
  a.clean && (match opc with
    | 0x10 => a.bytes ≤ 8 && a.type ≤ 1
    | 0x11 | 0x12 => a.bytes ≤ 8 && a.type ≤ 2
    | 0x13 | 0x14 => a.bytes ≤ 16 && a.type == 0
    | _ => a.bytes ≤ 8 && a.type == 0)

/-- A two's complement number of n bytes. -/
def signedOf (n v : Nat) : Int := if v < 2 ^ (8 * n - 1) then (v : Int) else (v : Int) - (2 ^ (8 * n) : Nat)

/-- Is a binary32 or binary64 a NaN. -/
def floatNan (n v : Nat) : Bool :=
  if n = 4 then v / 2 ^ 23 % 256 == 255 && v % 2 ^ 23 != 0 else v / 2 ^ 52 % 2048 == 2047 && v % 2 ^ 52 != 0

/-- Order of binary floating point numbers that are not NaN, −0 below +0 (R125): the key of their total order. -/
def floatKey (n v : Nat) : Nat := if v < 2 ^ (8 * n - 1) then v + 2 ^ (8 * n - 1) else 2 ^ (8 * n) - 1 - v

/-- Is x below y under an atomic's TYPE. -/
def typeLess (type n x y : Nat) : Bool :=
  if type = 0 then x < y else if type = 1 then signedOf n x < signedOf n y else floatKey n x < floatKey n y

/-- MIN or MAX (R124, R125). -/
def minMax (isMax : Bool) (a : AtomicOp) (old : Nat) : Nat :=
  if a.type == 2 && (floatNan a.bytes a.operand || floatNan a.bytes old) then
    if floatNan a.bytes a.operand then old else a.operand
  else if isMax then (if typeLess a.type a.bytes old a.operand then a.operand else old)
  else (if typeLess a.type a.bytes a.operand old then a.operand else old)

/-- The new value of an atomic (Table 5.5a). -/
def atomicNew (opc : Nat) (a : AtomicOp) (old : Nat) : Nat :=
  match opc with
  | 0x10 => (old + a.operand) % 2 ^ (8 * a.bytes)
  | 0x11 => minMax false a old
  | 0x12 => minMax true a old
  | 0x13 => if old = a.compare then a.operand else old
  | 0x14 => a.operand
  | 0x15 => old &&& a.operand
  | 0x16 => old ||| a.operand
  | _ => old ^^^ a.operand

/-- The result unit (Table 5.4). -/
def atomicResult (opc : Nat) (a : AtomicOp) (old : Nat) : List Byte :=
  natLe 8 old ++ natLe 8 (old / 2 ^ 64) ++ natLe 8 (b2n (opc == 0x13 && old == a.compare)) ++ List.replicate 40 0

/-! ### STORE_MASKED (Table 5.2) -/

/-- BASE of a unit. -/
def maskBase (u : List Byte) : Nat := fld (wordAt u 56) 59 56

/-- A line after a masked unit: data byte j lands on line byte BASE + j where MASK bit j is set (R123). -/
def maskedLine (u old : List Byte) : List Byte :=
  let w := wordAt u 56
  let base := maskBase u
  old.zipIdx.map (fun (b, i) => if base ≤ i && decide (i < base + 56) && bit w (i - base) then (u[i - base]?).getD b else b)

/-- MASK of a unit is zero: no store to the line. -/
def maskEmpty (u : List Byte) : Bool := fld (wordAt u 56) 55 0 == 0

/-! ### Ownership operations (Tables 6.3, 6.4) -/

/-- An ownership operand unit. -/
structure OwnOperand where
  expect : Word
  newver : Word
  src : Nat
  srcep : Nat
  toward : Nat
  srckey : Word
deriving DecidableEq, Repr

/-- Read an ownership operand unit. -/
def ownOperand (d : List Byte) : OwnOperand :=
  { expect := wordAt d 0, newver := wordAt d 8, src := fld (wordAt d 16) 63 40, srcep := fld (wordAt d 16) 39 24
    toward := fld (wordAt d 16) 15 0, srckey := wordAt d 24 }

/-- Reserved fields of an ownership operand unit are zero. -/
def ownClean (d : List Byte) : Bool := fld (wordAt d 16) 23 16 == 0 && allZero (slice d 32 32)

/-- An ownership result unit. -/
def ownResult (version : Word) (ownep owner : Nat) (success : Bool) : List Byte :=
  wordBytes version ++ wordBytes (pack [(32, ownep), (16, owner), (0, b2n success)]) ++ List.replicate 48 0

/-! ### The form of a request (R71, R72, R120, R159, R171) -/

/-- LEN inside the limits of a request. -/
def lenOk (opc len : Nat) : Bool :=
  if opc == 0x20 || opc == 7 then len == 0
  else if isAtomic opc || isOwnOp opc || opc == 4 || opc == 5 || opc == 6 then len == 1
  else decide (1 ≤ len) && decide (len ≤ 64)

/-- OFFSET inside the limits: aligned, one 4 KiB page for multi-line requests, operand size for atomics. -/
def offsetOk (opc : Nat) (h : ReqHdr) (d : List Byte) : Bool :=
  if opc == 0x20 then true
  else if isOwnOp opc then h.offset == 0
  else if isAtomic opc then h.offset % (atomicOperand d).bytes == 0
  else h.offset % 64 == 0 && h.offset / 4096 == (h.offset + max h.len 1 * 64 - 1) / 4096

/-- The payload matches the request (R120). -/
def payloadOk (opc len : Nat) (d : List Byte) : Bool := if carriesData opc then d.length == 64 * len else d.isEmpty

/-- The payload units are in form: SIZE and TYPE (R124), BASE (R123), reserved fields zero (R8). -/
def unitsOk (opc len : Nat) (d : List Byte) : Bool :=
  if isAtomic opc then atomicOk opc (atomicOperand d)
  else if isOwnOp opc then ownClean d
  else if opc == 3 then (List.range len).all (fun i =>
    let u := slice d (64 * i) 64
    maskBase u ≤ 8 && fld (wordAt u 56) 63 60 == 0)
  else true

/-- Is the request well formed as a message: version, length, reserved field, class, limits. -/
def formOk (opc : Nat) (h : ReqHdr) (d : List Byte) : Bool :=
  h.ver == 1 && h.len ≤ 64 && h.rsv == 0 && h.tc == requestTc opc && isRequest opc && lenOk opc h.len
    && payloadOk opc h.len d && offsetOk opc h d && unitsOk opc h.len d

end Sys2Proof.Machine
end

