-- ==== Sys2Proof/Config.lean ====
section
/-! DEFINITION. What one built device fixes and what the manual leaves open: constants without a body, so that no proof can see a value.
Every one is named in notes/assumptions. A `free` value is drawn with the state's counter, a new one each time. -/

namespace Sys2Proof.Config

/-- The random bit generator of the trust cores (R480): the nth value drawn. Log 5. -/
opaque drbg : Nat → Word

/-- A free value of 64 bits, by the state's counter. Log 2. -/
opaque freeWord : Nat → Word

/-- SHAKE256 (FIPS 202) of a byte string, as the manual names it: the first n bytes. Log 6. -/
opaque shake256 : List Byte → Nat → List Byte

/-- ML-DSA-65 (FIPS 204): does the signature verify over the message under the public key. Log 6. -/
opaque mldsaVerify : (publicKey message signature : List Byte) → Bool

/-- ML-DSA-65 signature of the device, by the number of its alias key. Log 6. -/
opaque mldsaSign : (aliasGen : Nat) → (message : List Byte) → List Byte

/-- The public key of the device's alias key of a generation (R479). Log 6. -/
opaque aliasPublic : Nat → List Byte

/-- The device certificates: 0 manufacturing CA, 1 device root (Table 19.2). Log 6. -/
opaque deviceCert : Nat → List Byte

/-- The certificate the root key issues for an alias generation (R479, R508). Log 6. -/
opaque aliasCert : Nat → List Byte

/-- ML-KEM-1024 (FIPS 203): the ephemeral encapsulation key of a draw. Log 6. -/
opaque kemPublic : Nat → List Byte

/-- ML-KEM-1024 encapsulation to a key with a draw: ciphertext and shared secret. Log 6. -/
opaque kemEncaps : (key : List Byte) → Nat → List Byte × List Byte

/-- ML-KEM-1024 decapsulation with the ephemeral key of a draw, or with the sealing key for draw 0. Log 6. -/
opaque kemDecaps : Nat → (ciphertext : List Byte) → List Byte

/-- The encapsulation key of the device's sealing key (R479). Log 6. -/
opaque sealingPublic : List Byte

/-- AES-256-GCM opening: key, nonce, associated data, ciphertext, tag. None when the tag fails. Log 6. -/
opaque gcmOpen : (key nonce aad ciphertext tag : List Byte) → Option (List Byte)

/-- The CA digest fused into the device (R482). Log 6. -/
opaque caDigest : List Byte

/-- The firmware key digest fused into the device (R500). Log 6. -/
opaque firmwareKeyDigest : List Byte

/-- The measurement of the trust core boot ROM (R484). Log 6. -/
opaque bootRomDigest : List Byte

/-- The serial number fused at manufacture (Table 15.1). Log 7. -/
opaque serial : Word

/-- Size of a data stalk, which a rebuilding device that holds no stalk of the sheaf is not told. Log 20. -/
opaque stalkSize : (handle : Nat) → Nat

/-- Words of a crash dump behind its header: dump, 64-byte unit, word (R468). Log 19. -/
opaque dumpWord : (dseq unit i : Nat) → Word

/-- Length of a crash dump in 64-byte units before it is cut to its slot (Table 18.4). Log 19. -/
opaque dumpLen : (dseq : Nat) → Nat

/-- A die or a stack as PARAM0 of 0x1604 to 0x1606 shows it: UNIT has no kind for a die. Log 24. -/
opaque placeUnit : (stack : Bool) → (index : Nat) → Nat

/-- Silicon stepping (Table 15.2). Log 7. -/
opaque stepping : BitVec 8

/-- The directory set of a line (R172: 16-way). Log 7. -/
opaque directorySet : (quarter line : Nat) → Nat

/-- The line cache set of a line (R576: 16-way). Log 7. -/
opaque lineCacheSet : (quarter line : Nat) → Nat

/-- The HBM cache set of a 4 KiB block (R194: 16-way). Log 7. -/
opaque hbmCacheSet : (quarter block : Nat) → Nat

/-- The hash that picks a port among those up to a device (R359): of SRCID, STALL, SVC, QP. Log 7. -/
opaque portHash : (src stall svc qp : Nat) → Nat

/-- Severity of an event code where no rule gives it (Table 20.2). Log 8. -/
opaque severity : (code : Nat) → Nat

/-- Words E0 to E6 of a region record as the old home of a move holds it: the manual gives no message that carries it. Log 17. -/
opaque movedWord : (device handle word : Nat) → Word

/-- The draw of a job's generator (R249, R250, R259): seed, block, ladder step, execution, index. Log 5. -/
opaque jobDraw : (seed : Nat) → (block step execution index : Nat) → Nat

/-- A product sum on a MAC array (R266 fixes the precision and not the order): the FP32 bits of the sum of
the operator over the two vectors. Operator 0 DOT, 1 squared L2, 2 L1 (Table 12.6). Log 9. -/
opaque macSum : (operator : Nat) → (x y : List (BitVec 32)) → BitVec 32

/-- Margin at manufacture of a lane, 0.1 mV (Table 21.3). Log 7. -/
opaque laneMargin : (lane : Nat) → Nat

/-- Conversion efficiency measured for a period of 1,000 bells, as numerator and denominator (R531, R532). Log 10. -/
opaque efficiency : (period : Nat) → Nat × Nat

/-- Estimate in watts of the power of everything but the engines at a bell (R532). Log 10. -/
opaque baseEstimate : (bell : Nat) → Nat

/-- Estimate of the engines' power in watts at a bell and a throttle level (R532). Log 10. -/
opaque engineEstimate : (bell level : Nat) → Nat

/-- Sign and payload of a NaN the device writes. Log 22. -/
opaque nanPayload : BitVec 32

/-- FMIN and FMAX of a predicate program where an operand is NaN or both are zeros: bits of the result. Log 23. -/
opaque minMax : (max : Bool) → (a b : BitVec 32) → BitVec 32

/-- ASUM of a block with an input element that is NaN, by the elements of its inputs. Log 22. -/
opaque nanSum : (inputs : List (List (BitVec 32))) → BitVec 32

/-- The memory key of a composition, by the device reset since which it was first drawn and the number of its rotations (R479, R497,
R509). Log 6. -/
opaque memoryKey : (comp era rotations : Nat) → BitVec 512

/-- The device memory key that a device reset draws (R479, R497). Log 6. -/
opaque deviceMemoryKey : (era : Nat) → BitVec 512

/-- AES-256-XTS (IEEE 1619) of one data unit of 64 bytes under a key and a tweak, and its inverse (R497). Log 6. -/
opaque xtsSeal : (key : BitVec 512) → (tweak : BitVec 128) → BitVec 512 → BitVec 512

opaque xtsOpen : (key : BitVec 512) → (tweak : BitVec 128) → BitVec 512 → BitVec 512

end Sys2Proof.Config
end

