-- ==== Sys2Proof/Machine/State.lean ====
section
/-! DEFINITION. The state of the device, plain data, and the state after reset. -/

namespace Sys2Proof.Machine

/-! ### Bell and time -/

/-- The bell and device time (R34 to R55). -/
structure TimeS where
  /-- BELL (R34). -/
  bell : Word := 0
  /-- Powered-on count (R38). -/
  powered : Word := 0
  /-- TAI (R47). -/
  tai : Word := 0
  valid : Bool := false
  ppsOk : Bool := false
  ptpOk : Bool := false
  holdover : Bool := false
  stepped : Bool := false
  /-- SCLK at which STEPPED was last set (R10). -/
  steppedAt : Nat := 0
  /-- Local bells in a second, as the last PPS edges measured them, and the part of a nanosecond not yet counted: the last disciplined
  rate, by which TAI runs in holdover (R49). -/
  rateBells : Nat := 1000000
  rateRem : Nat := 0
  /-- Offset still to be slewed out, ns (R48); SLEWING while it is not 0. -/
  slewLeft : Int := 0
  /-- SCLK within the bell, 0 to 1,399. -/
  phase : Nat := 0
  bellStrike : Word := 0
  taiStrike : Word := 0
  /-- Bell of the last accepted PPS edge (R550). -/
  lastPps : Option Word := none
  /-- Actions 8 to 10 that the control cores have abandoned for this bell (R41). -/
  abandoned : List Nat := []
  /-- SCLK, ACLK and the bell follow REFCLK_F2 because REFCLK_F0 is lost (R548). -/
  refclkLost : Bool := false
deriving DecidableEq, Repr

/-! ### Functions -/

/-- An MSI-X table entry in BAR2 (R391), as PCIe resets it: masked (PRESUMED, log 151). -/
structure MsixEntry where
  addr : Word := 0
  data : Nat := 0
  masked : Bool := true
deriving DecidableEq, Repr

/-- Registers of one function's BAR0 (Table 15.1) and its mailbox block (Tables 16.3, 16.4), and the MSI-X table of its BAR2. -/
structure FuncS where
  bellSnap : Word := 0
  taiSnap : Word := 0
  phaseSnap : Nat := 0
  lwSel : Word := 0
  ivec : Nat := 0x1FF
  /-- MB_CMD, C0 to C13. -/
  cmd : List Word := []
  overrun : Bool := false
  /-- SCLK at which OVERRUN was last set (R10). -/
  overrunAt : Nat := 0
  /-- Response FIFO (R415), oldest first; each entry is B0 to B15 without trailing zeros. -/
  fifo : List (List Word) := []
  /-- MSI-X table (R391, R405) by vector, and the vectors whose pending bit is set. -/
  msix : Tab MsixEntry := []
  msixPending : List Nat := []
  /-- MSI-X messages raised, newest first: vector, the quarter whose UCIe module carries it (R18), and the routing ID they carry (R389). -/
  irqs : List (Nat × Nat × Nat) := []
deriving DecidableEq, Repr

/-! ### Ports -/

/-- Port states of Table 3.1, with the number that PORT_STATE records (R573). -/
inductive PortState where
  | off | detect | train | align | hello | auth | up | authFail
deriving DecidableEq, Repr

/-- Where a port stands in the exchange of Table 3.16. -/
inductive SessStep where
  | idle
  | sentInit
  | sentResp
  | sentFin
deriving DecidableEq, Repr

/-- A message leaving the device. -/
inductive Msg where
  /-- A response; `sealOf` is the handle of the SEALED region whose expanded data it carries, 0 for none (R234). -/
  | rsp (h : RspHdr) (d : List Byte) (sealOf : Nat)
  | req (opc : Nat) (h : ReqHdr) (d : List Byte)
  | eng (opc : Nat) (h : EngHdr) (d : List Byte) (sealOf : Nat)
  | mgmt (opc : Nat) (h : MgmtHdr) (d : List Byte)
  | spare (opc : Nat) (xid lane frame : Nat)
  /-- A frame without a message (IDLE): NAK and ACKSEQ. -/
  | idle (nak : Bool) (ackseq : Nat)
deriving DecidableEq, Repr

/-- A node of the scheduling tree at one point (R381): virtual time of the node and the tags of its children. -/
structure SchedNode where
  v : Nat := 0
  start : Tab Nat := []
  finish : Tab Nat := []
deriving DecidableEq, Repr

/-- The tree of a scheduling point (Table 14.4): class node, then service nodes by class, stall nodes by class and
service, queue-pair nodes by class, service and stall. -/
structure SchedTree where
  cls : SchedNode := {}
  svc : Tab SchedNode := []
  stall : Tab SchedNode := []
  qp : Tab SchedNode := []
deriving DecidableEq, Repr

/-- A message in an egress queue: SCLK at which it entered, whether the shared pool holds it (R361), the message. -/
structure Queued where
  entered : Nat := 0
  shared : Bool := false
  msg : Msg
deriving DecidableEq, Repr

/-- Measurements of a partner as its evidence gives them (R486, R491). -/
structure Evidence where
  device : Bool := false
  issuer : List Byte := []
  epid : Nat := 0
  measures : List (List Byte) := []
deriving DecidableEq, Repr

/-- Keys of a session (R91): key and salt of the direction that leaves the device, key and salt of the other. -/
structure LinkKeys where
  txKey : List Byte := []
  txSalt : List Byte := []
  rxKey : List Byte := []
  rxSalt : List Byte := []
deriving DecidableEq, Repr

/-- A frame sent and not acknowledged (R68): its sequence number, 64 bits, the KEYID it was sent under, its message. -/
structure Sent where
  seq : Nat := 0
  keyId : Nat := 0
  msg : Msg
deriving DecidableEq, Repr

/-- One Beypen port. -/
structure PortS where
  st : PortState := .off
  enabled : Bool := false
  gang : Bool := false
  /-- Window set with PORT_SET (R429) and the window in force (R88). -/
  setWindow : Nat := 10
  window : Nat := 10
  /-- XID of a WINDOW not yet acknowledged. -/
  windowXid : Option Nat := none
  /-- Bell at which the port entered its state. -/
  since : Word := 0
  helloIn : Bool := false
  helloAckIn : Bool := false
  epid : Nat := 0
  ptype : Nat := 0
  caps : Nat := 0
  partnerPort : Nat := 0
  /-- Digest of the partner's identity key (Table 3.2). -/
  iddig : List Byte := []
  helloSent : List Byte := []
  helloGot : List Byte := []
  ackGot : List Byte := []
  /-- WINDOW of the partner (Table 3.2, R574). -/
  partnerWindow : Nat := 0
  /-- Lanes of the port that failed and are not spared, and the lane its spare carries (R62, R63). -/
  badLanes : List Nat := []
  sparedLane : Option Nat := none
  /-- A SPARE_REQ sent and not answered: lane, frame and cause. -/
  spareAsked : Option (Nat × Nat × Nat) := none
  /-- A lane whose symbols move to the spare lane at a frame, whether that frame is the partner's, and the cause (R62). -/
  sparing : Option (Nat × Nat × Bool × Nat) := none
  /-- Lanes in use: 4, 8 for an x8 port, fewer when degraded. -/
  width : Nat := 4
  -- session
  step : SessStep := .idle
  rekeying : Bool := false
  stepBell : Word := 0
  failures : Nat := 0
  retryAt : Option Word := none
  keyId : Nat := 0
  prevKeyId : Option Nat := none
  keyBell : Word := 0
  framesIn : Nat := 0
  framesOut : Nat := 0
  kemDraw : Nat := 0
  nonce : List Byte := []
  transcript : List Byte := []
  finishKey : List Byte := []
  /-- Keys in use, those that the exchange in progress has agreed, and those of the previous KEYID (R91, R93). -/
  keys : LinkKeys := {}
  keysNext : LinkKeys := {}
  keysPrev : LinkKeys := {}
  partner : Evidence := {}
  partnerNext : Evidence := {}
  /-- SIGKEY of the chain in the exchange (R482, R483). -/
  partnerKey : List Byte := []
  -- link layer
  /-- 64-bit sequence numbers of the next frame out and of the frame expected (R67). -/
  seqOut : Nat := 0
  seqIn : Nat := 0
  unacked : List Sent := []
  /-- Frames asked for again by a NAK, still to be resent, in order (R68). -/
  replay : List Nat := []
  /-- Times the frame now expected has failed (R69). -/
  replays : Nat := 0
  /-- ACKSEQ of the latest NAK received and NAKs with it in a row. -/
  nakRun : Nat × Nat := (0, 0)
  tagFails : List Word := []
  creditsHeld : List Nat := [0, 0, 0, 0]
  /-- Granules in use in the ingress minimum, per class (R356). -/
  inUse : List Nat := [0, 0, 0, 0]
  /-- Bells without credit, per class (0x0D04). -/
  noCredit : List Nat := [0, 0, 0, 0]
  /-- Messages waiting to leave the port, oldest first. -/
  egress : List Queued := []
  -- scheduling
  tcw : List Nat := [8, 4, 4]
  tree : SchedTree := {}
deriving DecidableEq, Repr

/-! ### Regions -/

/-- One key slot of a region record (Table 4.1). `state`: 0 FREE, 1 ACTIVE, 2 REVOKING, 3 REVOKED (Table 4.3). -/
structure KeySlot where
  state : Nat := 0
  stall : Nat := 0
  rights : Nat := 0
  any : Bool := false
  key : Word := 0
  /-- Bell of the KEY_ISSUE (HBELL of feature 0x0001) or of the fence commit. -/
  since : Word := 0
deriving DecidableEq, Repr

/-- One run of a placement chain (Table 7.2): `tray` is KIND. -/
structure Run where
  vpage : Nat := 0
  tray : Bool := false
  /-- The quarter of near memory or the CXL port. -/
  loc : Nat := 0
  base : Nat := 0
  count : Nat := 0
deriving DecidableEq, Repr

/-- A region record (Table 4.1). The ADMIT counts of the latest strike stand in `strikeAdmits` of RegionS. -/
structure Region where
  handle : Nat := 0
  comp : Nat := 0
  homedev : Nat := 0
  homeq : Nat := 0
  /-- 0 OWNED, 1 COHERENT. -/
  mode : Nat := 0
  tier : Nat := 0
  sealed : Bool := false
  ecx : Bool := false
  sheaf : Bool := false
  fenced : Bool := false
  moving : Bool := false
  valid : Bool := false
  size4k : Nat := 0
  /-- Placement chain, decoded. -/
  place : List Run := []
  /-- Places of its descriptors in the quarter's descriptor area, in 64-byte units; PLACE is the first (R192). -/
  desc : List Nat := []
  slotA : KeySlot := {}
  slotB : KeySlot := {}
  ownep : Nat := 0
  owner : Nat := 0
  version : Word := 0
  /-- REGION_DESTROY committed (R570). -/
  dying : Bool := false
  /-- Bell and principal of the REGION_CREATE. -/
  created : Word := 0
  princ : Nat := 0
deriving DecidableEq, Repr

/-- A gateway binding record (Table 5.8). -/
structure GwBinding where
  proxy : Nat := 0
  peergw : Nat := 0
  peerdom : Nat := 0
  block : Nat := 4
  rhandle : Nat := 0
  rmepoch : Nat := 0
  stale : Nat := 100
  flush : Nat := 16
  roffset : Nat := 0
  rstall : Nat := 0
  rkey : Word := 0
deriving DecidableEq, Repr

/-- A block copy of a proxy region (R146, R147). -/
structure GwBlock where
  handle : Nat := 0
  block : Nat := 0
  /-- Bell of the completed fetch; none while fetching. -/
  fetched : Option Word := none
  /-- 4 KiB pages still to arrive. -/
  missing : List Nat := []
  /-- Dirty lines, by line number in the region, and the bell of the first. -/
  dirty : List Nat := []
  dirtySince : Word := 0
  /-- Pages whose read has not been sent: they wait for a frame of the HBM cache (R145, R196). -/
  unsent : List Nat := []
deriving DecidableEq, Repr

/-- A transfer this device has issued and not had answered (R151): handle, first line, lines, whether a write. -/
structure GwXfer where
  tag : Nat := 0
  handle : Nat := 0
  line : Nat := 0
  count : Nat := 0
  write : Bool := false
  /-- A page of a region's copy: the device it comes from or goes to. -/
  dev : Nat := 0
  /-- The port that carried it; none while no port towards its peer is UP. -/
  port : Option Nat := none
  /-- Refused with a RETRY: the SCLK at which it is issued again (R89). -/
  retryAt : Option Nat := none
deriving DecidableEq, Repr

/-- A home move in progress at this device (Table 4.7). -/
structure Move where
  handle : Nat := 0
  /-- This device is the new home; false: the old one. -/
  new : Bool := false
  other : Nat := 0
  homeq : Nat := 0
  tier : Nat := 0
  /-- Next page to ask the old home for. -/
  cursor : Nat := 0
  copied : Bool := false
  /-- 4 KiB pages written meanwhile (old home). -/
  pages : List Nat := []
  switched : Bool := false
  /-- Principal that asked for it, bell of the start, and of the switch strike. -/
  princ : Nat := 0
  since : Word := 0
  struck : Word := 0
  /-- Pages reserved for a move between quarters of this device. -/
  place : List Run := []
deriving DecidableEq, Repr

/-- Regions and what hangs on them. -/
structure RegionS where
  recs : Tab Region := []
  /-- Placement descriptors, words P0 to P7, by quarter × 2^40 + place in its descriptor area in 64-byte units (Table 7.2). -/
  descriptors : Tab (List Word) := []
  /-- Admitted and unfinished requests by quarter (ADMIT_A, ADMIT_B): counts at the latest strike, by handle × 2 + slot. -/
  strikeAdmits : Tab Nat := []
  /-- Keys issued to a region so far (R103). -/
  issued : Tab (List Word) := []
  gw : Tab GwBinding := []
  gwBlocks : List GwBlock := []
  gwXfers : List GwXfer := []
  /-- Where the search for a tag of the device's own requests starts (R75). -/
  gwTag : Nat := 0
  /-- Failed flushes not yet reported to a FENCE (R148): handle and SEQ. -/
  gwFailed : List (Nat × Word) := []
  moves : List Move := []
deriving DecidableEq, Repr

/-! ### Maps and compositions -/

/-- Map entry of a handle (Table 16.11, KIND 0). -/
structure MapEntry where
  homedev : Nat := 0
  homeq : Nat := 0
  comp : Nat := 0
  qauto : Bool := false
deriving DecidableEq, Repr

/-- A composition map: entries by handle; role sets by device × 2^20 + composition (bit 0 HOME, 1 ENGINE,
2 GATEWAY, 3 SHADOW). -/
structure CompMap where
  epoch : Nat := 0
  handles : Tab MapEntry := []
  roles : Tab Nat := []
deriving DecidableEq, Repr

/-- Meter counters of a composition (Table 4.5), modulo 2^64. -/
structure Meter where
  rdBytes : Word := 0
  wrBytes : Word := 0
  atomics : Word := 0
  trayBytes : Word := 0
  capGibBells : Word := 0
  engineAclk : Word := 0
  /-- MACs; the counter counts 2^20 of them. -/
  macs : Nat := 0
  searchCodes : Word := 0
  refused : Word := 0
deriving DecidableEq, Repr

structure MapS where
  cur : CompMap := {}
  prev : Option CompMap := none
  staged : Option CompMap := none
  stagedFull : Bool := false
  /-- Bell of the last switch and of the last retirement. -/
  switchBell : Word := 0
  retireBell : Word := 0
  /-- Requests in flight under the previous map, summed over the quarters at the latest strike (R113, R114). -/
  strikeFlight : Nat := 0
  /-- A whole map became current and requests admitted before it are still in flight (R439). -/
  draining : Bool := false
  meters : Tab Meter := []
  closed : Tab Meter := []
deriving DecidableEq, Repr

/-! ### Stalls -/

/-- One stall (Table 16.12, Table 15.9). -/
structure StallS where
  principal : Nat := 0
  comp : Option Nat := none
  hbmQuota : Nat := 0
  trayQuota : Nat := 0
  /-- Lines charged in the current window per quarter: HBM tier, tray tier (R208). -/
  hbmUsed : List Nat := [0, 0, 0, 0]
  trayUsed : List Nat := [0, 0, 0, 0]
  /-- A0 of Table 15.9 per quarter: KINDS, MAXJOBS, RETAINMAX, ARRAYS. -/
  allot : Tab (Nat × Nat × Nat × Nat) := []
  /-- Bindings: endpoint IDs (R78). -/
  binds : List Nat := []
deriving DecidableEq, Repr

/-! ### The home agents -/

/-- Who issued a request that a home serves. -/
inductive Origin where
  /-- An endpoint or gateway, on an ingress port of this device. -/
  | port
  /-- A device that forwarded it (R581); responses carry ORIGID. -/
  | forwarded (device : Nat)
  /-- The host die by CXL.mem, with the function (R97). -/
  | cxl (fn : Nat)
  /-- An engine, a queue sequencer or a mailbox data area (R154, R416): the access number. -/
  | engine (acc : Nat)
  /-- A mirror performed on a shadow copy (R454). -/
  | mirror (home seq : Nat)
  /-- A delta store from the device of a data stalk (R446). -/
  | delta (device : Nat)
  /-- The copy of a region that moves: read by the new home, written by the old one (Table 4.7). -/
  | copy (device : Nat)
deriving DecidableEq, Repr

/-- Does a request come from the fabric, on a port. -/
def Origin.fabric : Origin → Bool
  | .port | .forwarded _ | .delta _ | .copy _ => true
  | _ => false

/-- Is a request the copy of a region that moves. -/
def Origin.copies : Origin → Bool
  | .copy _ => true
  | _ => false

/-- Does a request keep a stream and a quota: it is none of the device's stores to a stalk or a copy, and no mirror. -/
def Origin.stalls : Origin → Bool
  | .delta _ | .mirror _ _ | .copy _ => false
  | _ => true

/-- What an admitted request waits for. -/
inductive Wait where
  /-- Not begun: in its VOQ or the home's inbound queue (R366, R185, R211). -/
  | voq
  /-- Begun: behind other requests of its line, its stream or its region (R129, R158, R184). -/
  | order
  | fill
  | frame
  | snoop
  | group
  | tally
  | parity
  | gateway
  | offerTable
  | accept
  | flush
  | unit
  /-- A FENCE or PUBLISH answered by the home, held for other requests (R130, R169). -/
  | others
deriving DecidableEq, Repr

/-- A request admitted at the home and without a final response. -/
structure Req where
  /-- Place in the order of arrival at the home. -/
  id : Nat := 0
  org : Origin := .port
  port : Nat := 0
  opc : Nat := 0
  h : ReqHdr := {}
  data : List Byte := []
  /-- Home quarter, and composition of the region. -/
  q : Nat := 0
  comp : Nat := 0
  slot : Nat := 0
  /-- Routed by the previous map (R112). -/
  prev : Bool := false
  bell : Word := 0
  /-- SCLK at which it entered its VOQ (R367). -/
  entered : Nat := 0
  /-- Completion window kept for life (R88), one less for a forwarded request (R102). -/
  win : Nat := 10
  begun : Bool := false
  /-- Its place in the order in which requests began service at the home (R132). -/
  begunNo : Nat := 0
  /-- Its place in the order in which requests reached the home agent (R132, R184); 0 while its stream holds it (R129). -/
  lineNo : Nat := 0
  /-- The check of Table 6.2 has passed (R157). -/
  checked : Bool := false
  /-- Lines charged to the stall's quota already: HBM tier, tray tier (R208). -/
  charged : Bool := false
  usedTray : Bool := false
  deferrals : Nat := 0
  lastDefer : Word := 0
  /-- Lines of the request already performed. -/
  done : List Nat := []
  /-- Data read so far, by line. -/
  got : Tab (List Byte) := []
  status : Nat := 0
  detail : Word := 0
  wait : Wait := .voq
  /-- Failed presentations and the bell of the first (R185); `old`: aged, with its place among the aged. -/
  retries : Nat := 0
  firstTry : Option Word := none
  old : Option Nat := none
  /-- It was aged while the quarter's queue space was full (R185). -/
  oldQuarter : Bool := false
  /-- Result unit of an atomic or ownership operation. -/
  result : List Byte := []
  /-- The member in position 0 of its closed group, which is performed for all (R135); 0 for none. -/
  leader : Nat := 0
  /-- Lines that it missed and that were filled for it: no hit of the HBM cache (R195). -/
  filled : List Nat := []
  /-- Lines charged to its stall in its window, up to and including its own (R209). -/
  usedAt : Nat := 0
  /-- While it waits unbegun: granules charged to the shared pool or to the port's minimum (R362). -/
  shared : Bool := false
  /-- The handle is a parity delta's or a SEALED region's expanded data: carried to the response (R234). -/
  sealOf : Nat := 0
  /-- SEQ for the mirror of this request (R453), 0 for none. -/
  mirror : Nat := 0
deriving DecidableEq, Repr

/-- A directory entry (Table 6.9). -/
structure DirEntry where
  q : Nat := 0
  handle : Nat := 0
  line : Nat := 0
  /-- 0 I, 1 S, 2 E, 4 WAIT_S, 5 WAIT_E, 6 WAIT_I. -/
  state : Nat := 0
  coarse : Bool := false
  ptrs : List Nat := []
  vec : List Nat := []
  pend : Nat := 0
  /-- The request whose transition a WAIT state is: its id plus one, 0 for a recall. -/
  waiter : Nat := 0
  agedw : Bool := false
  /-- Port of the latest grant to each pointer (R179). -/
  ports : List (Nat × Nat) := []
  /-- Place in least-recently-used order: larger is later. -/
  used : Nat := 0
deriving DecidableEq, Repr

/-- A snoop without an answer (R177, R182). -/
structure Snoop where
  agent : Nat := 0
  tag : Nat := 0
  q : Nat := 0
  handle : Nat := 0
  line : Nat := 0
  /-- SNP_INV; false SNP_DATA. -/
  inv : Bool := true
  owner : Bool := false
  bell : Word := 0
deriving DecidableEq, Repr

/-- A tally slot in use (R137 to R141). Its queue is the requests waiting on `tally` for its line. -/
structure Tally where
  q : Nat := 0
  handle : Nat := 0
  line : Nat := 0
  /-- Entries absorbed in the bell now running, and in bells before it, newest first. -/
  absorbed : Nat := 0
  history : List Nat := []
  /-- An absorbed LOAD_SHARED or LOAD_EXCL ended absorbing (R141). -/
  closing : Bool := false
deriving DecidableEq, Repr

/-- An open combining group (R134, R135): its members are the requests waiting on `group` for it. -/
structure Group where
  q : Nat := 0
  handle : Nat := 0
  line : Nat := 0
  opc : Nat := 0
  first : Nat := 0
  /-- SCLK phase and bell of the first member. -/
  phase : Nat := 0
  bell : Word := 0
deriving DecidableEq, Repr

/-- A recorded offer (R160). -/
structure Offer where
  toward : Nat := 0
  ownep : Nat := 0
  accepted : Bool := false
  bell : Word := 0
deriving DecidableEq, Repr

/-- Requests that reached the home for a line, by opcode, in this bell and the bell before (R134), and the stores
and atomics of this bell (R137). -/
structure LineCount where
  cur : Tab Nat := []
  last : Tab Nat := []
  stores : Nat := 0
  /-- The line has been promoted since the last strike. -/
  promoted : Bool := false
  /-- It found no slot: its next store or atomic tries again (R137). -/
  wanted : Bool := false
deriving DecidableEq, Repr

structure HomeS where
  /-- Ids start at 1: 0 stands for no request. -/
  nextId : Nat := 1
  reqs : List Req := []
  dir : List DirEntry := []
  clock : Nat := 0
  snoops : List Snoop := []
  snoopTag : Nat := 0
  tallies : List Tally := []
  groups : List Group := []
  counts : Tab LineCount := []
  offers : Tab Offer := []
  /-- Poisoned lines by physical line number with the SEQ of their record, 0 for none (R577). -/
  poison : Tab Word := []
  /-- Quarters whose COHERENT lines without entry are unknown, with the lines since known (R467). -/
  unknown : List (Nat × List Nat) := []
  agedNext : Nat := 0
  /-- Requests performed or answered by each quarter's home agent: its progress counter (R458). -/
  served : Tab Nat := []
deriving DecidableEq, Repr

/-! ### Memory tiers -/

/-- An HBM cache frame (R194): its block, and valid and dirty lines by index 0 to 63. -/
structure Frame where
  q : Nat := 0
  set : Nat := 0
  way : Nat := 0
  /-- Tray place held: CXL port and 4 KiB block of its DPA space. -/
  port : Nat := 0
  block : Nat := 0
  valid : List Nat := []
  /-- Dirty lines with the bell each first became dirty (R197). -/
  dirty : Tab Word := []
  rrpv : Nat := 2
  /-- Chosen as a victim: its dirty lines are being written back (R197). -/
  evicting : Bool := false
deriving DecidableEq, Repr

/-- A line of the line cache (R576): quarter, physical line, its bytes, and whether its page or frame lacks them. -/
structure CacheLine where
  q : Nat := 0
  line : Nat := 0
  dirty : Bool := false
  data : List Byte := []
deriving DecidableEq, Repr

/-- A region record in a quarter's record cache (R172, R199): changed since it was last written to the table copy. -/
structure RecLine where
  q : Nat := 0
  handle : Nat := 0
  changed : Bool := false
deriving DecidableEq, Repr

/-- A read or write outstanding at a tray, or waiting for a table entry (R204, R575). -/
structure TrayOp where
  line : Nat := 0
  write : Bool := false
  /-- SCLK of its latest issue. -/
  issued : Option Nat := none
  reissued : Bool := false
  /-- A write whose line has been written again since its issue: it stays dirty. -/
  again : Bool := false
  /-- Waits to be tried again from this bell (R575). -/
  retryAt : Option Word := none
  recorded : Bool := false
deriving DecidableEq, Repr

/-- A CXL port (R200 to R207). -/
structure CxlS where
  up : Bool := false
  /-- What the link came up with (Table 7.4). -/
  link : CxlLink := {}
  /-- Keys of the link's IDE in the two directions, drawn by the device (Table 7.4). -/
  ideKeys : List Word := []
  /-- Available DPA extents in 2 MiB units: first, count. -/
  extents : List (Nat × Nat) := []
  /-- Extents added by a dynamic-capacity event and not yet visible. -/
  arriving : List (Nat × Nat) := []
  ops : List TrayOp := []
  /-- Completed reads: bell and latency in tenths of a bell (R206). -/
  latencies : List (Word × Nat) := []
  /-- SEQ of the latest CXL_PORT_DOWN record (R207). -/
  downSeq : Word := 0
deriving DecidableEq, Repr

/-- A pseudo-channel under drain (R213): quarter, stack in the quarter, channel; retire or repair. -/
structure Drain where
  q : Nat := 0
  stack : Nat := 0
  pc : Nat := 0
  retire : Bool := false
  /-- The near-memory page being copied and the page it goes to, and the next of its 4 KiB chunks. -/
  page : Option (Nat × Nat) := none
  chunk : Nat := 0
  /-- Pages moved so far. -/
  moved : Nat := 0
deriving DecidableEq, Repr

structure TierS where
  /-- Bytes of HBM and trays. -/
  mem : List Host.Cell := []
  /-- Near-memory share N of each quarter, GiB (R189). -/
  split : List Nat := [0, 0, 0, 0]
  /-- Line cache, most recently used first (R576). -/
  lineCache : List CacheLine := []
  /-- Region record cache, most recently used first, and the table copy in the system reserve (R172, R199). -/
  recCache : List RecLine := []
  recTable : Tab Region := []
  frames : List Frame := []
  cxl : Tab CxlS := []
  /-- Operations that each HBM controller has completed, by quarter × 5 + stack (R458). -/
  hbmOps : Tab Nat := []
  /-- Correctable errors of a row in this lifetime tick: key is quarter, stack, channel, row. -/
  rowErrors : List ((Nat × Nat × Nat × Nat) × Nat) := []
  repaired : List (Nat × Nat × Nat × Nat) := []
  badBanks : List (Nat × Nat × Nat × Nat) := []
  drains : List Drain := []
  retired : List (Nat × Nat × Nat) := []
  /-- Retirements held back because the cache share would fall too low (R215). -/
  held : List (Nat × Nat × Nat) := []
deriving DecidableEq, Repr

/-! ### Exponent-coded weights -/

/-- A code table slot (Table 8.10): 0 FREE, 1 LIVE, 2 RETIRING. -/
structure TableSlot where
  state : Nat := 0
  gen : Nat := 0
  image : List Byte := []
  tdig : Nat := 0
  fence : Word := 0
deriving DecidableEq, Repr

/-- A block an expander holds (R228). -/
structure HeldBlock where
  /-- Quarter × 9 + expander: 0 to 4 of the HBM controllers, 5 to 8 of the CXL ports. -/
  exp : Nat := 0
  handle : Nat := 0
  block : Nat := 0
  slot : Nat := 0
  literal : Bool := false
  bytes : List Byte := []
  /-- First stored line and lines. -/
  first : Nat := 0
  lines : Nat := 0
deriving DecidableEq, Repr

structure EcxS where
  tables : Tab TableSlot := []
  held : List HeldBlock := []
  /-- Latest record of a block and code: handle, block, code; bell and SEQ (R232). -/
  recent : List ((Nat × Nat × Nat) × Word × Word) := []
  /-- Blocks that each expander has finished or failed, by quarter × 9 + expander (R458). -/
  ended : Tab Nat := []
deriving DecidableEq, Repr

/-! ### Engines -/

/-- An annex (Table 9.4). -/
structure Annex where
  bound : BitVec 32 := 0
  asum : BitVec 32 := 0
  wfmt : Nat := 0
  depth : Nat := 0
  steps : Nat := 0
  nonfinite : Bool := false
  exceeds : Bool := false
  sampled : Bool := false
  mismatch : Bool := false
  poison : Bool := false
deriving DecidableEq, Repr

/-- The arithmetic report (Table 9.5). -/
structure Report where
  worst : BitVec 32 := 0
  blocks : Nat := 0
  widened : Nat := 0
  exceeds : Nat := 0
  sampled : Nat := 0
  mismatch : Nat := 0
  poisoned : Nat := 0
  nonfinite : Nat := 0
  topfmt : Nat := 0
deriving DecidableEq, Repr

/-- A retained input of a block: rank of a contributor, or device entry of a child with its annex. -/
structure Input where
  block : Nat := 0
  child : Bool := false
  rank : Nat := 0
  fmt : Nat := 0
  annex : Annex := {}
  bytes : List Byte := []
  /-- An FP32 partial whose second message has not come (R282). -/
  half : Bool := false
deriving DecidableEq, Repr

/-- How one execution of a block ended: its packed bytes, and what its annex says of them (R252 to R257). -/
structure Threshed where
  bytes : List Byte := []
  fmt : Nat := 0
  steps : Nat := 0
  nonfinite : Bool := false
  exceeds : Bool := false
  bound : BitVec 32 := 0
  asum : BitVec 32 := 0
deriving DecidableEq, Repr

/-- One execution of a block, as its job's context holds it between portions (R44, R258, R259): its thresher, the pass, the input blocks
added in the pass, their FP32 sum, A and E_in so far (for GFCOMB the outputs so far), and its outcome once it has one. -/
structure Exec where
  block : Nat := 0
  num : Nat := 1
  unit : Nat := 0
  step : Nat := 0
  taken : Nat := 0
  sum : List (BitVec 32) := []
  asum : BitVec 32 := 0
  bound : BitVec 32 := 0
  parity : List Byte := []
  out : Option Threshed := none
deriving DecidableEq, Repr

/-- A contributor entry (Table 10.5). -/
structure Contributor where
  src : Nat := 0
  collect : Nat := 0
  epid : Nat := 0
  handle : Nat := 0
  off : Nat := 0
  key : Word := 0
deriving DecidableEq, Repr

/-- A device entry of the membership table (Table 10.4). -/
structure JobDevice where
  dev : Nat := 0
  parent : Nat := 0
  depth : Nat := 0
deriving DecidableEq, Repr

/-- What a reduction job keeps (Tables 10.2 to 10.5, 10.9). -/
structure RedJob where
  kind : Nat := 0
  root : Bool := false
  nblk : Nat := 0
  retain : Nat := 0
  dst : Nat := 0
  dstOff : Nat := 0
  dstKey : Word := 0
  wcap : Nat := 0
  infmt : Nat := 0
  inscale : Nat := 0
  outfmt : Nat := 0
  outscale : Nat := 0
  round : Nat := 0
  bexp : Nat := 0
  bman : Nat := 0
  sample : Nat := 0
  nowiden : Bool := false
  txin : Int := 0
  txout : Int := 0
  devices : List JobDevice := []
  contributors : List Contributor := []
  nout : Nat := 0
  coef0 : List Nat := []
  coef1 : List Nat := []
  out1 : Nat := 0
  out1Off : Nat := 0
  out1Key : Word := 0
  inputs : List Input := []
  firstInput : Tab Word := []
  /-- Executions of blocks that have not closed (R44). -/
  execs : List Exec := []
  /-- Lowest block not closed; blocks closed above it. -/
  low : Nat := 0
  closedAbove : List Nat := []
  wideNext : Nat := 0
  wideFull : Bool := false
  report : Report := {}
  dups : Nat := 0
  discards : Nat := 0
  /-- Member: blocks whose PARTIAL went and whose RESULT has not come, with the bell (R290). -/
  awaiting : Tab Word := []
  /-- Member: blocks of which the first of two FP32 RESULTs has come. -/
  halves : List Nat := []
  /-- Blocks below this one have had their region sources read (R277). -/
  asked : Nat := 0
deriving DecidableEq, Repr

/-- What a gather job keeps (Tables 11.1, 11.7). -/
structure GatherJob where
  dkind : Nat := 0
  oorpol : Bool := false
  iw : Bool := false
  rowb : Nat := 0
  nidx : Nat := 0
  idx : Nat := 0
  idxOff : Nat := 0
  idxKey : Word := 0
  tbl : Nat := 0
  tblOff : Nat := 0
  tblKey : Word := 0
  nrows : Nat := 0
  stride : Nat := 0
  dst : Nat := 0
  dstOff : Nat := 0
  dstKey : Word := 0
  epid : Nat := 0
  ownep : Nat := 0
  /-- Index entries dealt to portions so far, and entries processed. -/
  dealt : Nat := 0
  next : Nat := 0
  /-- Index values read and not yet taken, by position. -/
  vals : Tab Nat := []
  /-- Row reads outstanding: position, row and gleaner. -/
  rows : List (Nat × Nat × Nat) := []
  delivered : Nat := 0
  oor : Nat := 0
  badRows : Nat := 0
  firstBad : Nat := 0
  /-- The winnow job fed under DKIND 2. -/
  feeds : Option Nat := none
deriving DecidableEq, Repr

/-- A selection entry (Table 11.5). -/
structure Entry where
  score : BitVec 32 := 0
  rank : Nat := 0
  ident : Word := 0
  record : List Byte := []
deriving DecidableEq, Repr

/-- What a winnow job keeps (Tables 11.2, 11.7). -/
structure WinnowJob where
  src : Nat := 0
  sel : Nat := 0
  dir : Bool := false
  emit : Bool := false
  resid : Bool := false
  dkind : Nat := 0
  nrec : Nat := 0
  input : Nat := 0
  inOff : Nat := 0
  inKey : Word := 0
  recb : Nat := 0
  vfmt : Nat := 0
  voff : Nat := 0
  vdim : Nat := 0
  pdim : Nat := 0
  parrays : Nat := 0
  pfmt : Nat := 0
  idoff : Nat := 0
  proj : Nat := 0
  projOff : Nat := 0
  projKey : Word := 0
  dst : Nat := 0
  dstOff : Nat := 0
  dstKey : Word := 0
  thr : BitVec 32 := 0
  k : Nat := 0
  parentDev : Nat := 0
  pjobid : Nat := 0
  pjkey : Word := 0
  rank : Nat := 0
  epid : Nat := 0
  npart : Nat := 0
  program : List Word := []
  list : List Entry := []
  ended : List Nat := []
  /-- Children's lists: entries merged so far and the latest message, by rank (R316). -/
  lists : Tab (Nat × List Byte) := []
  next : Nat := 0
  /-- Records read or gathered and not yet processed: position, index value, bytes. -/
  waitingRecs : List (Nat × Word × List Byte) := []
  dropped : Nat := 0
  discards : Nat := 0
  written : Nat := 0
  /-- Records dealt to portions so far (SRC 0 and 3), and records processed. -/
  dealt : Nat := 0
  /-- Its output has been sent. -/
  out : Bool := false
  /-- The projection matrix, once read (R310). -/
  matrix : Option (List Byte) := none
  fedBy : Option Nat := none
deriving DecidableEq, Repr

/-- The summary of one query's list (Table 12.12). -/
structure Summary where
  status : Nat := 0
  shards : Nat := 0
  failrank : Nat := 0
  scanned : Nat := 0
  fallback : Nat := 0
  tombpass : Nat := 0
  evaluated : Nat := 0
  badpages : Nat := 0
deriving DecidableEq, Repr

/-- A query's merge state at a root or at a merge parent: ranks that have ended, entries so far. -/
structure Merge where
  query : Nat := 0
  sum : Summary := {}
  list : List Entry := []
  ended : List Nat := []
  /-- Ranks whose first message, with the summary, has come. -/
  seen : List Nat := []
  sent : Word := 0
  delivered : Bool := false
deriving DecidableEq, Repr

/-- What a search job keeps at its root (Tables 12.7, 12.13). -/
structure SearchJob where
  index : Nat := 0
  nq : Nat := 0
  dkind : Nat := 0
  k : Nat := 0
  nprobe : Nat := 0
  rcand : Nat := 0
  entry : Nat := 0
  eval : Nat := 0
  qh : Nat := 0
  qoff : Nat := 0
  qkey : Word := 0
  dst : Nat := 0
  dstOff : Nat := 0
  dstKey : Word := 0
  epid : Nat := 0
  d0 : Word := 0
  d1 : Word := 0
  epoch : Nat := 0
  /-- Queries whose QUERYs have been sent; ACLK of MAC arrays that the pass of the group behind them has had (R331). -/
  sent : Nat := 0
  pass : Nat := 0
  /-- Query vectors read and not yet sent, by query. -/
  vecs : Tab (List Byte) := []
  merges : List Merge := []
  discards : Nat := 0
deriving DecidableEq, Repr

/-- The kinds of job (Table 15.6). -/
inductive JobKind where
  | red (j : RedJob)
  | gather (j : GatherJob)
  | winnow (j : WinnowJob)
  | search (j : SearchJob)
deriving DecidableEq, Repr

/-- A job in progress. -/
structure Job where
  jobid : Nat := 0
  jkey : Word := 0
  qp : Nat := 0
  stall : Nat := 0
  comp : Nat := 0
  svc : Nat := 0
  quarter : Nat := 0
  cid : Nat := 0
  user : Word := 0
  noirq : Bool := false
  tmo : Nat := 0
  seed : Nat := 0
  /-- Bell of the last input, RESULT, row or PARTIAL (R290, R319). -/
  heard : Word := 0
  /-- Items of portions that closed before they were processed: they go into the next portion (R43). -/
  owed : List Nat := []
  /-- Blocks closed, rows or records delivered, queries sent (R458). -/
  steps : Nat := 0
  /-- Sequence of the engine messages it has sent (Table 3.4). -/
  seq : Nat := 0
  body : JobKind
deriving DecidableEq, Repr

/-- A portion dealt to an engine for the current bell (R42, R45): its ACLK and the items assigned. A thresher's item is an execution
of a block, 4 times the block plus the execution's number. -/
structure Portion where
  quarter : Nat := 0
  kind : EngineKind := .thresher
  index : Nat := 0
  jobid : Nat := 0
  /-- For queries at a shard, which are no job of the device: the number of the index (R332). -/
  shard : Option Nat := none
  blocks : List Nat := []
  aclk : Nat := 0
deriving DecidableEq, Repr

/-- What an engine access is for. -/
inductive AccUse where
  /-- A ring entry (part 0), descriptor table or program read at admission, by queue pair. -/
  | admission (qp part : Nat)
  /-- A write of a queue pair's ring (R403, R409). -/
  | ring (qp : Nat)
  /-- A job's store; counts down its stores. -/
  | jobStore (jobid block : Nat)
  /-- A job's read of input: block, record, index line or query, and which of its reads. -/
  | jobRead (jobid item sub : Nat)
  /-- A gather row, by its index. -/
  | row (jobid row : Nat)
  /-- The data area of a mailbox command waiting under this number. -/
  | mailbox (cmd : Nat)
  /-- A line of another stalk read to rebuild a line of a data stalk (R449): region, line, stalk. -/
  | lineRebuild (handle line stalk : Nat)
  /-- A page of another stalk read for a push, rebuild, re-encode or scrub: region, page, stalk. -/
  | stalkPage (handle page stalk : Nat)
deriving DecidableEq, Repr

/-- An engine access without its final response. -/
structure Access where
  acc : Nat := 0
  use : AccUse
  write : Bool := false
  /-- The answer a home has given, until it is taken: status, DETAIL, data. -/
  answer : Option (Nat × Word × List Byte) := none
deriving DecidableEq, Repr

/-- An engine message waiting in its VOQ (R276, R278, R334): the port it came on, its SCLK and queue, and whether the shared pool holds
it. -/
structure EngWait where
  port : Nat := 0
  entered : Nat := 0
  key : Nat := 0
  opc : Nat := 0
  h : EngHdr := {}
  data : List Byte := []
  shared : Bool := false
deriving DecidableEq, Repr

structure EngineS where
  jobs : List Job := []
  jobCount : Nat := 0
  portions : List Portion := []
  /-- Disagreements charged to a thresher, by quarter × 32 + thresher, with their bells (R262). -/
  charges : Tab (List Word) := []
  /-- Threshers out of service: by R262, and by a failed self-test (R463). -/
  out : List Nat := []
  outNext : List Nat := []
  failed : List (Nat × EngineKind × Nat) := []
  access : List Access := []
  nextAcc : Nat := 0
  /-- Engine messages that wait for their window or for a query's place, oldest first. -/
  waiting : List EngWait := []
  /-- Messages that came marked, by engine service port: quarter × 3 + 0 for threshers, 1 for gleaners and winnows, 2 for search (R367). -/
  marks : Tab Nat := []
  /-- Suppressed discards: job, cause, bell of the last record, count since (R296, R321). -/
  discardLog : List ((Nat × Nat × Nat) × Word × Nat) := []
  /-- ACLK of work that each engine has done, by the engine's target in RESET (R458). -/
  work : Tab Nat := []
deriving DecidableEq, Repr

/-! ### Search -/

/-- A part region of an index on this device. -/
structure IndexPart where
  part : Nat := 0
  handle : Nat := 0
  key : Word := 0
  npage : Nat := 0
  nslot : Nat := 0
  quarter : Nat := 0
  /-- CEPOCH of a compaction and the bell it began. -/
  compacting : Option (Nat × Word) := none
  /-- Slots and pages to be freed after the switch, with the queries still reading the old slices (R345). -/
  oldSlots : List Nat := []
  oldPages : List Nat := []
  oldReaders : List (Nat × Nat) := []
  /-- Directory words L0 of the old slices, by list. -/
  oldDir : Tab Word := []
deriving DecidableEq, Repr

/-- A candidate of a query at a shard, with its slot. -/
structure Found where
  e : Entry := {}
  slot : Nat := 0
deriving DecidableEq, Repr

/-- A node of a graph walk: candidate, tombstones in a row, expanded (R344). -/
structure Node where
  f : Found := {}
  run : Nat := 0
  expanded : Bool := false
deriving DecidableEq, Repr

/-- A graph walk: its heap, the slots visited, the visible nodes found, nodes evaluated, tombstones among them (R344). -/
structure Walk where
  heap : List Node := []
  visited : List Nat := []
  found : List Found := []
  ev : Nat := 0
  tomb : Nat := 0
deriving DecidableEq, Repr

/-- The scan of a probed list at a shard (R336, R337): the coarse score, the part and its quarter, the page it has reached (none before
its first), the pages behind it, and whether it is done. -/
structure Probe where
  list : Nat := 0
  score : BitVec 32 := 0
  part : Nat := 0
  quarter : Nat := 0
  page : Option Nat := none
  pages : Nat := 0
  ended : Bool := false
deriving DecidableEq, Repr

/-- A query's tables in a quarter (R335): in HBM or in scratch, the ACLK of a MAC array that they still take, and their entries. -/
structure QueryTables where
  quarter : Nat := 0
  hbm : Bool := false
  left : Nat := 0
  entries : List (BitVec 32) := []
deriving DecidableEq, Repr

/-- A query a shard has taken. -/
structure ShardQuery where
  jobid : Nat := 0
  jkey : Word := 0
  query : Nat := 0
  root : Nat := 0
  stall : Nat := 0
  svc : Nat := 0
  epoch : Nat := 0
  k : Nat := 0
  rcand : Nat := 0
  entry : Nat := 0
  eval : Nat := 0
  d0 : Word := 0
  d1 : Word := 0
  probes : List (Nat × BitVec 32) := []
  vec : List Byte := []
  bell : Word := 0
  held : Bool := false
  /-- In its quarters' query batches (R335): its scans, its tables by quarter, the candidates of each quarter and what the scans have
  summed up to. -/
  started : Bool := false
  scans : List Probe := []
  tables : List QueryTables := []
  found : Tab (List Found) := []
  sum : Summary := {}
  /-- Candidates that the quarter merge has taken; what it came to; those still to be refined; the walk, once its seeds are set. -/
  taken : Nat := 0
  merged : Bool := false
  refine : List Found := []
  refined : List Found := []
  walk : Option Walk := none
  /-- Its own list is complete; lists of its merge children so far (R348). -/
  own : Bool := false
  merge : Merge := {}
deriving DecidableEq, Repr

structure Index where
  number : Nat := 0
  rank : Nat := 0
  nshard : Nat := 0
  m : Nat := 0
  qfmt : Nat := 0
  cfmt : Nat := 0
  term : Bool := false
  graph : Bool := false
  nlist : Nat := 0
  dim : Nat := 0
  gdeg : Nat := 0
  comp : Nat := 0
  /-- Device and merge parent of each rank (Table 12.2). -/
  shards : List (Nat × Nat) := []
  common : Nat := 0
  commonKey : Word := 0
  sarrays : Nat := 1
  nparts : Nat := 1
  parts : List IndexPart := []
  loaded : Bool := false
  /-- INDEX_UNLOAD is visible: the index goes once nothing uses it. -/
  dropped : Bool := false
  epoch : Nat := 0
  qepoch : Nat := 0
  floor : Nat := 0
  /-- Staged slots and recorded deletes of the batch (R340). -/
  stagedIns : List Nat := []
  stagedDel : List Nat := []
  queries : List ShardQuery := []
  since : Word := 0
deriving DecidableEq, Repr

structure SearchS where
  indexes : List Index := []
deriving DecidableEq, Repr

/-! ### Switch and scheduling -/

/-- A policer (Table 14.1) with what a POLICE_DROP record counts (R387). -/
structure Policer where
  mode : Nat := 0
  burst : Nat := 0
  rate : Nat := 0
  tokens : Nat := 0
  drops : Nat := 0
  since : Nat := 0
  firstDrop : Word := 0
  recorded : Option Word := none
deriving DecidableEq, Repr

/-- A shaper of one port, stall and service (R383, R384); `parked` is the SCLK it is parked until. -/
structure Shaper where
  shape : Nat := 0
  sburst : Nat := 0
  tat : Nat := 0
  parked : Option Nat := none
deriving DecidableEq, Repr

/-- A stream in the refusing state at a point (R142, R144). -/
structure Refusing where
  q : Nat := 0
  /-- Home device × 4 + quarter of the stream (R127). -/
  home : Nat := 0
  point : Nat := 0
  src : Nat := 0
  stall : Nat := 0
  svc : Nat := 0
  qp : Nat := 0
  port : Nat := 0
  last : Word := 0
  /-- At the home: the id of the request refused; those before it in the stream are not refused. -/
  after : Nat := 0
deriving DecidableEq, Repr

/-- A refusal point in its full state (R144): quarter, point, bell of the last full-table refusal, refusals. -/
structure FullPoint where
  q : Nat := 0
  point : Nat := 0
  last : Word := 0
  count : Nat := 0
deriving DecidableEq, Repr

structure SwitchS where
  /-- Policers by quarter × 32,768 + stall × 8 + service. -/
  policers : Tab Policer := []
  vw : List Nat := [1, 1, 1, 1, 1, 1, 1, 1]
  sw : Tab Nat := []
  qw : Tab Nat := []
  /-- Shapers by port × 32,768 + stall × 8 + service. -/
  shapers : Tab Shaper := []
  /-- Shared granules taken from each quarter's pool, by queue key; R361. -/
  shared : List (List (Nat × Nat)) := [[], [], [], []]
  /-- Bells a quarter's pool has been low (0x0D01, 0x0D02). -/
  lowSince : List (Option Word) := [none, none, none, none]
  refusing : List Refusing := []
  full : List FullPoint := []
  /-- Refusals under R363 of each stall since the last BUFFER_REFUSE record, by port × 4 + class, and the bell of that record. -/
  refusals : Tab (Tab Nat × Option Word) := []
  /-- Cell transfers made to each destination queue, and the granules in the latest one (R354). -/
  cells : Tab (Nat × Nat) := []
  /-- Grants that each quarter's slice has made (R458). -/
  grants : Tab Nat := []
  /-- Trees of the home inbound service port and of the engine dealing point of each quarter, and of the engine service ports (R378). -/
  homeTrees : Tab SchedTree := []
  engTrees : Tab SchedTree := []
  dealTrees : Tab SchedTree := []
deriving DecidableEq, Repr

/-- A request relayed to its home device (R581). -/
structure Relay where
  order : Nat := 0
  home : Nat := 0
  port : Nat := 0
  out : Nat := 0
  opc : Nat := 0
  h : ReqHdr := {}
  prev : Bool := false
  bell : Word := 0
  win : Nat := 10
  deferrals : Nat := 0
  lastDefer : Word := 0
  comp : Nat := 0
  /-- The engine access the device itself made, if it did; the function whose CXL.mem access it is. -/
  acc : Option Nat := none
  cxl : Option Nat := none
  /-- The home's answer to a FENCE, held by the ingress (R130). -/
  held : Option (RspHdr × List Byte) := none
deriving DecidableEq, Repr

/-- A mailbox command forwarded to another device (R415). -/
structure MboxRelay where
  port : Nat := 0
  src : Nat := 0
  xid : Nat := 0
  dst : Nat := 0
deriving DecidableEq, Repr

/-- The SR-IOV capability of the PF as it reports itself (R389). -/
structure SriovCap where
  totalVfs : Nat := 4096
  firstVfOffset : Nat := 1
  vfStride : Nat := 1
  ariNeeded : Bool := true
deriving DecidableEq, Repr

structure FabS where
  sriov : SriovCap := {}
  /-- Quarter whose UCIe module presents the configuration space and BAR0 (R17). -/
  front : Nat := 0
  relays : List Relay := []
  mbox : List MboxRelay := []
  /-- LEASE_RENEW and QUORUM messages passed to the host die: exchange, port, sender, opcode (R434). -/
  hostAsked : List (Nat × Nat × Nat × Nat) := []
  /-- CXL.mem completions to the host die, newest first: the quarter whose UCIe module carries it, function, poison, data (R18, R97). -/
  cxlOut : List (Nat × Nat × Bool × List Byte) := []
  /-- Suppression of records with a rate rule: code, key; bell and count since (R525). -/
  rate : List ((Nat × Nat) × Word × Nat) := []
deriving DecidableEq, Repr

/-! ### Queue pairs -/

/-- A queue-pair context (Table 15.4) and what its sequencer keeps. `state`: 0 FREE, 1 ACTIVE, 2 ERROR, 3 RELEASING. -/
structure Qp where
  stall : Nat := 0
  quarter : Nat := 0
  state : Nat := 0
  lq : Nat := 0
  log2sq : Nat := 4
  log2cq : Nat := 7
  pfv : Bool := false
  ivec : Nat := 0x1FF
  ring : Nat := 0
  ringOff : Nat := 0
  rkey : Word := 0
  icnt : Nat := 1
  ibells : Nat := 0
  sqhead : Nat := 0
  sqtail : Nat := 0
  cqtail : Nat := 0
  cqhead : Nat := 0
  /-- Held completions, oldest first: the 16 words of Table 15.7 without trailing zeros, and NOIRQ. -/
  held : List (List Word × Bool) := []
  /-- Completions since the last interrupt and the strike that delivers the delayed one (R405). -/
  count : Nat := 0
  irqAt : Option Word := none
  /-- What has been read for the entry at SQHEAD: the entry, then tables or a program, in order (R401). -/
  read : List (List Byte) := []
  /-- Values rung in BAR0 while the quarter is in reset: SQTAIL and CQHEAD (R410). -/
  rung : Nat × Nat := (0, 0)
  since : Word := 0
deriving DecidableEq, Repr

/-! ### Mailboxes and claims -/

/-- A claim of the registry (R28 to R32), by resource code and object. -/
structure ClaimRec where
  resource : Nat := 0
  object : Nat := 0
  stall : Nat := 0
  principal : Nat := 0
  bell : Word := 0
  /-- Quarter and physical control core on which the feature runs (R32); 8 for one that runs on no core. -/
  quarter : Nat := 0
  core : Nat := 8
deriving DecidableEq, Repr

/-- The sheaf of a region held here: `self` is the stalk number, K and K + 1 are P and Q. -/
structure Sheaf where
  handle : Nat := 0
  k : Nat := 4
  self : Nat := 0
  sgen : Nat := 0
  /-- Device, handle and key of each stalk. -/
  stalks : List (Nat × Nat × Word) := []
  stale : List Nat := []
  /-- What runs page by page: 0 nothing, 1 push, 2 rebuild, 3 re-encode, 4 scrub, 5 zeroing, 6 zeroing before a re-encoding; `cursor` is the page it has reached. -/
  work : Nat := 0
  cursor : Nat := 0
  /-- REBUILD: pages rebuilt ahead of the cursor, and the page whose sources are being read. -/
  ahead : List Nat := []
  current : Option Nat := none
  /-- REBUILD: stalks that are sources. -/
  avail : Nat := 0
  scrub : Nat := 0
deriving DecidableEq, Repr

/-- A firmware image by what R500 and Table 19.6 read of it; `fails` is the failing check, 0 for none. -/
structure FwImage where
  version : Nat := 0
  svn : Nat := 0
  minsvn : Nat := 0
  peermin : Nat := 0
  len : Nat := 0
  bdig : List Byte := []
  digest : List Byte := []
  fails : Nat := 0
deriving DecidableEq, Repr

/-- A change committed and not yet visible (R40). -/
inductive Change where
  | regionAdd (r : Region)
  | regionValid (handle : Nat)
  | regionDying (handle : Nat) (bell : Word)
  | key (handle slot : Nat) (k : KeySlot)
  | owner (handle owner : Nat)
  | gateway (g : GwBinding)
  | split (q n : Nat)
  | mapStaged (m : CompMap) (full : Bool)
  | mapSwitch (epoch : Nat)
  | moveStart (m : Move) (r : Option Region)
  | stall (number principal : Nat) (comp : Option Nat)
  | bind (number epid : Nat) (caching add : Bool)
  | quota (number hbm tray : Nat)
  | police (number svc mode burst rate : Nat)
  | tcw (ports : List Nat) (w : List Nat)
  | vw (svc w : Nat)
  | sw (number svc w : Nat)
  | qw (qp w : Nat)
  | shaper (ports : List Nat) (number svc shape sburst : Nat)
  | allot (number quarter kinds maxjobs retain arrays : Nat)
  | qpAssign (qp : Nat) (c : Qp)
  | qpRelease (qp : Nat)
  | thresherBack (quarter index : Nat)
  | tableLive (slot : Nat) (t : TableSlot)
  | tableFence (slot : Nat)
  | indexAdd (ix : Index)
  | indexPart (number : Nat) (p : IndexPart)
  | indexEpoch (number epoch : Nat)
  | indexQepoch (number epoch : Nat)
  | indexDrop (number : Nat)
  | contentKey (handle ckid : Nat) (ownerDigest key nsalt : List Byte) (rules : List (Nat × List Byte × List (List Byte)))
  | contentDrop (handle : Nat)
  | aliasGen (gen : Nat)
  | join (devid domain : Nat) (members : List (Nat × List Byte))
  | members (ms : List (Nat × List Byte))
  | expel (devid : Nat)
  | readmit
  | sheaf (x : Sheaf) (zero : Bool) (rebuilt : Option Region)
  | trayDiscard (c : Nat)
  | trayRelease (c dpa units : Nat)
  | claim (r : ClaimRec)
  | unclaim (resource object : Nat)
  | halt (q core : Nat) (on : Bool)
  | loop (lane : Nat) (start : Bool)
  | register (offset size : Nat) (value : Word)
  | port (p action window : Nat)
  | batch (number : Nat) (ins del : List Nat)
  | compact (number part cepoch : Nat)
  | fwStage (img : FwImage)
  | fwRoll
  | rotate (kind comp : Nat)
  | reset (scope : ResetScope)
  | keyBell (handle slot : Nat) (bell : Word)
deriving DecidableEq, Repr

/-- What ends a drain command (the Kind column of Tables 16.9 to 16.16). -/
inductive DrainOn where
  | destroy (handle : Nat)
  | revoke (handle slot : Nat)
  | gwBind (handle : Nat) (lines : List Nat)
  | split (q : Nat)
  | move (handle : Nat)
  | qp (qp : Nat)
  | table (slot gen : Nat)
  | batch (index : Nat)
  | commit (index epoch : Nat)
  | compact (index part : Nat)
  | unload (index : Nat) (queries : List (Nat × Nat))
  | fwStage
  | fwRoll
  | rotate (kind target : Nat) (ports : List (Nat × Nat))
  | reset (scope : ResetScope)
  | port (p action : Nat)
  | sheaf (handle : Nat)
deriving DecidableEq, Repr

/-- A mailbox command taken and without its final response. -/
structure Cmd where
  number : Nat := 0
  iss : Issuer := .pf
  opc : Nat := 0
  seq : Nat := 0
  principal : Nat := 0
  stall : Nat := 0
  params : List Word := []
  /-- Commit bell. -/
  bell : Word := 0
  lseq : Word := 0
  /-- Result words B3 onwards known at commit. -/
  result : List Word := []
  /-- None: an immediate command waiting for its visibility strike. -/
  drain : Option DrainOn := none
  /-- The PHASE 0 response has been issued. -/
  phase0 : Bool := false
  /-- Not yet checked: its entry. -/
  waiting : Option CmdEntry := none
  /-- Its data area has been asked for: accesses without an answer, pages read, the first status that was not OK. -/
  asked : Bool := false
  reads : List (Nat × Nat) := []
  area : Tab (List Byte) := []
  failed : Option Nat := none
deriving DecidableEq, Repr

structure MboxS where
  cmds : List Cmd := []
  nextCmd : Nat := 1
  /-- Changes committed, oldest first, each with its command. -/
  changes : List (Nat × Change) := []
  claims : List ClaimRec := []
deriving DecidableEq, Repr

/-! ### Domain -/

/-- A delta or record-mirror store sent to a parity home and not answered (R445, R447). -/
structure Delta where
  tag : Nat := 0
  req : Nat := 0
  handle : Nat := 0
  stalk : Nat := 0
  dev : Nat := 0
  line : Nat := 0
  acked : Bool := false
  /-- A store into the record mirror, and the words it carries. -/
  page : Bool := false
  data : List Byte := []
deriving DecidableEq, Repr

/-- What a shadow keeps for a home and composition (R453, R454). -/
structure Shadow where
  comp : Nat := 0
  home : Nat := 0
  theirs : Word := 0
  own : Word := 0
  agreed : Nat := 0
  copied : Bool := false
  /-- Regions of which pages have come, and whether one came in this bell. -/
  pages : List Nat := []
  fresh : Bool := false
  /-- Mirrors not yet performed: SEQ, unit and payload; the last of a request in two parts still to come. -/
  waiting : List (Nat × List Byte) := []
deriving DecidableEq, Repr

/-- A region a home copies to the shadow of its composition (R453): pages copied so far. -/
structure ShadowCopy where
  handle : Nat := 0
  dev : Nat := 0
  cursor : Nat := 0
deriving DecidableEq, Repr

structure DomainS where
  devid : Nat := 0
  dvalid : Bool := false
  domain : Nat := 0
  /-- Members: MDEV and public key (Table 17.1). -/
  members : List (Nat × List Byte) := []
  renewals : List Word := []
  /-- Counted grants by member: RBELL and MEPOCH (R435). -/
  grants : Tab (Word × Nat) := []
  lastRenewal : Word := 0
  fenced : Bool := false
  /-- Expelled itself: fenced until readmitted (R442). -/
  outcast : Bool := false
  leaseOk : Bool := false
  cseq : Word := 0
  expelled : List Nat := []
  sheaves : List Sheaf := []
  deltas : List Delta := []
  shadows : List Shadow := []
  copies : List ShadowCopy := []
  mirrorSeq : Nat := 0
  /-- Endpoint classes: CACHING endpoints (R152). -/
  caching : List Nat := []
deriving DecidableEq, Repr

/-! ### Reset and hang detection -/

/-- A reset in progress (Table 18.2). -/
structure ResetRun where
  scope : ResetScope
  cause : Nat := 1
  /-- The unit that caused it (R461). -/
  unit : Option HangUnit := none
  begun : Word := 0
  /-- Bell from which its bound counts: not while it is held (R536, R555, R559). -/
  counted : Word := 0
  held : Bool := false
  /-- Directory and dirty lines of the quarter were saved (R467). -/
  saved : Bool := true
  /-- Jobs that were in progress in the quarter (R410). -/
  jobs : List Job := []
  orderly : Bool := false
deriving DecidableEq, Repr

/-- A unit's indicators at the latest strike, progress counter and pending flag, and the consecutive bells it has been stalled
(R458, R459). -/
structure Detector where
  unit : HangUnit
  progress : Word := 0
  pending : Bool := true
  stalled : Nat := 0
deriving DecidableEq, Repr

/-- A dump header (Table 18.4). -/
structure Dump where
  dseq : Nat := 0
  bell : Word := 0
  tai : Word := 0
  level : Nat := 0
  cause : Nat := 0
  ukind : Nat := 0
  unit : Nat := 0
  qmask : Nat := 0
  len : Nat := 0
  discard : Bool := false
  orderly : Bool := false
  trunc : Bool := false
  inflash : Bool := false
  dirsaved : Bool := false
  fwver : Nat := 0
deriving DecidableEq, Repr

/-- Control cores of a quarter (R20, R579): physical core of each active position, the spare, failed and halted
cores, heartbeats missed. -/
structure CoreS where
  active : List Nat := [0, 1, 2, 3, 4, 5, 6]
  spare : Option Nat := some 7
  failed : List Nat := []
  /-- Halted cores with the spare that carries their duties. -/
  halted : List (Nat × Option Nat) := []
deriving DecidableEq, Repr

structure ResetS where
  running : List ResetRun := []
  /-- Indicators as latched at action 2 of the latest strike, of the units whose pending flag was set (R458). -/
  latched : List (HangUnit × Word) := []
  detectors : List Detector := []
  /-- Heartbeats of the control cores, by quarter × 8 + core, and of the two trust cores, 32 and 33 (R458). -/
  beats : Tab Nat := []
  /-- Bells in a row in which no active control core of a quarter advanced its heartbeat: the watchdogs of the base dies (R460). -/
  watch : List Nat := [0, 0, 0, 0]
  /-- End of the last reset that a unit caused (R461). -/
  ended : List (HangUnit × Word) := []
  cores : List CoreS := [{}, {}, {}, {}]
  dumps : List (Nat × Dump) := []
  flashDumps : List Dump := []
  dseq : Nat := 0
  /-- The standby trust core serves (R21). -/
  standby : Bool := false
  /-- Bell at which a commanded level 4 or 5 reset begins (Table 16.16). -/
  due : Option (ResetScope × Word) := none
  /-- Flush of R472 running since this bell. -/
  flushing : Option Word := none
deriving DecidableEq, Repr

/-! ### Security -/

/-- A content key (R487). Rules: RFLAGS, ISSUER, measurements. -/
structure ContentKey where
  ckid : Nat := 0
  owner : List Byte := []
  key : List Byte := []
  nsalt : List Byte := []
  rules : List (Nat × List Byte × List (List Byte)) := []
deriving DecidableEq, Repr

/-- A rolling update (R503 to R507). -/
structure Roll where
  cmd : Nat := 0
  /-- Quarters finished, in the order Q1, Q3, Q2, Q0; checks passed in the quarter now updating. -/
  quarters : Nat := 0
  steps : Nat := 0
  /-- The core under check that has taken an active position's duties, and the core it freed (R503). -/
  carrying : Option (Nat × Nat) := none
  /-- Cores updated so far: quarter × 8 + core, newest first. -/
  updated : List Nat := []
  writing : Bool := false
deriving DecidableEq, Repr

/-- A memory key rotation (R509): composition, cursor by handle and unit, regions rotated out of turn. -/
structure MemRotation where
  comp : Nat := 0
  handle : Nat := 0
  unit : Nat := 0
  units : Nat := 0
  early : List Nat := []
deriving DecidableEq, Repr

structure SecS where
  aliasGen : Nat := 0
  content : Tab ContentKey := []
  running : FwImage := {}
  staged : Option FwImage := none
  roll : Option Roll := none
  /-- Minimum SVN of the fuse counter (R500). -/
  minSvn : Nat := 0
  /-- Device resets and losses of power so far: it numbers the device memory key and the first keys of compositions (R479). -/
  era : Nat := 0
  /-- Memory key of a composition: the era of its first key and its rotations since; a composition not listed has the first key of this
  era (R479, R497, R499). -/
  memKeys : Tab (Nat × Nat) := []
  rotations : List MemRotation := []
deriving DecidableEq, Repr

/-! ### Ledger -/

/-- A ledger record (Table 20.1); SEQ, CHECK and MARK follow from the ring and the count. -/
structure Rec where
  code : Nat := 0
  /-- Quarter, kind (Table 20.3), instance number in the quarter and kind. -/
  quarter : Nat := 0
  kind : Nat := 0
  inst : Nat := 0
  sev : Nat := 0
  stall : Nat := 0
  principal : Nat := 0
  time : Word := 0
  p0 : Word := 0
  p1 : Word := 0
  p2 : Word := 0
  p3 : Word := 0
  count : Nat := 0
deriving DecidableEq, Repr

/-- A ring (Table 20.4): next count; records held in SRAM, newest first; records lost since the last RING_OVERRUN. -/
structure Ring where
  next : Nat := 0
  recs : List Rec := []
  lost : Nat := 0
  lastOverrun : Option Word := none
deriving DecidableEq, Repr

structure LedgerS where
  rings : Tab Ring := []
  /-- The flash journal by area (Table 20.6): ring and record, newest first. -/
  journal : Tab (List (Nat × Rec)) := []
  /-- Records pending for the journal, oldest first: ring, bell written, record. -/
  pend : List (Nat × Word × Rec) := []
  /-- C of the audit chain and C at the last journalled record (R522). -/
  chain : List Byte := []
  chainJournalled : List Byte := []
  /-- Segments written and not collected; counts of audit records whose MARK the PF has read (R524). -/
  uncollected : List Nat := []
  marksRead : List Nat := []
  full : Bool := false
  fullSince : Word := 0
deriving DecidableEq, Repr

/-! ### Power, thermal, lifetime -/

/-- Counters of one stack (Table 21.3). -/
structure StackLife where
  repaired : Nat := 0
  retired : Nat := 0
  correctable : Nat := 0
  uncorrectable : Nat := 0
  above85 : Nat := 0
  above90 : Nat := 0
deriving DecidableEq, Repr

/-- Counters of one die (Table 21.3); `low` and `high` follow R538, `rising` between them. -/
structure DieLife where
  cycles : Nat := 0
  above95 : Nat := 0
  alarms : Nat := 0
  hottest : Nat := 0
  low : Nat := 0
  high : Nat := 0
  rising : Bool := false
deriving DecidableEq, Repr

/-- Counters of one lane (Table 21.3). -/
structure LaneLife where
  current : Nat := 0
  lowest : Nat := 0
  sparings : Nat := 0
  badTicks : Nat := 0
  noted : Bool := false
deriving DecidableEq, Repr

/-- The lifetime block (Table 21.3). -/
structure LifeS where
  ticks : Nat := 0
  powerCycles : Nat := 0
  deviceResets : Nat := 0
  quarterResets : Nat := 0
  trips : Nat := 0
  stackLife : Tab StackLife := []
  dies : Tab DieLife := []
  lanes : Tab LaneLife := []
  rails : Tab (List Nat) := []
deriving DecidableEq, Repr

structure PowerS where
  /-- MFR_PCAP as written, and the effective cap (R530, R531). -/
  pcap : Nat := 3300
  cap : Nat := 3300
  thermalCap : Nat := 3300
  level : Nat := 0
  floor : Nat := 0
  /-- Highest level and bells throttled in the running period and in the last one (MFR_THROTTLE). -/
  throttled : Nat × Nat := (0, 0)
  lastThrottled : Nat × Nat := (0, 0)
  overBells : Nat := 0
  underBells : Nat := 0
  /-- Since the last THROTTLED record: highest level, bells throttled, the first of them; and the bell of that record. -/
  run : Nat × Nat × Word := (0, 0, 0)
  lastThrottleRec : Option Word := none
  /-- Input voltage now, mV. -/
  vin : Nat := 48000
  /-- Powered-on count at the last lifetime tick taken. -/
  lastTick : Word := 0
  statusInput : BitVec 8 := 0
  statusTemp : BitVec 8 := 0
  vinOut : Bool := false
  last : Telemetry := {}
  lifeSel : Nat := 0
  /-- Places at warning, alarm or trip now. -/
  warning : List ThermalPlace := []
  alarm : List ThermalPlace := []
  trip : List ThermalPlace := []
  life : LifeS := {}
  alertN : Bool := true
deriving DecidableEq, Repr

/-! ### Package, start-up and flash -/

/-- The state area, image, archive and dump store of the boot flash (Table 22.5). -/
structure FlashS where
  fresh : Bool := true
  image : FwImage := {}
  bell : Word := 0
  life : LifeS := {}
  powered : Word := 0
  cseq : Word := 0
  devid : Nat := 0
  dvalid : Bool := false
  domain : Nat := 0
  members : List (Nat × List Byte) := []
  epoch : Nat := 0
  aliasGen : Nat := 0
  archive : List Nat := []
  /-- Per port: enabled, ganged, window (R429). -/
  ports : Tab (Bool × Bool × Nat) := []
  pcyc : Nat := 0
  /-- Catalogues on the trays: regions of an orderly reset, with their memory key numbers (R472, R499) and the keys issued to them (R103). -/
  catalogue : List Region := []
  issued : Tab (List Word) := []
  keysWrapped : Tab (Nat × Nat) := []
  /-- A program or erase is in progress (R555). -/
  busy : Bool := false
deriving DecidableEq, Repr

structure PackageS where
  powered : Bool := false
  /-- Power has come and the state area is not restored yet (R37). -/
  cold : Bool := false
  /-- Start-up phase in progress, 1 to 10; 0 before power, 15 ready (Table 22.4). -/
  phase : Nat := 0
  ready : Bool := false
  addr : Nat := 0
  testMode : Bool := false
  resetLow : Bool := false
  /-- RESET_N holds a start-up at the end of phase 2 (R559). -/
  hold : Bool := false
  /-- PWRCYC_REQ_N is asserted since this bell (R560, R561). -/
  pwrcycReq : Option Word := none
  halted : Bool := false
  recovery : Bool := false
  failChk : Nat := 0
  rcvAddr : Word := 0
  rcvLen : Nat := 0
  rcvState : Nat := 0
  rcvFail : Nat := 0
  rcvProgress : Nat := 0
  /-- The image being written in recovery. -/
  rcvImage : FwImage := {}
  i3cDynamic : Option Nat := none
  /-- The TAP's active test: 0 BYPASS, 1 EXTEST, 2 EXTEST_PULSE, 3 EXTEST_TRAIN, 4 IDCODE. -/
  tap : Nat := 4
  flash : FlashS := {}
deriving DecidableEq, Repr

/-! ### The whole device -/

/-- The device. -/
structure State where
  time : TimeS := {}
  funcs : Tab FuncS := []
  ports : Tab PortS := []
  fab : FabS := {}
  regs : RegionS := {}
  maps : MapS := {}
  stalls : Tab StallS := []
  home : HomeS := {}
  tier : TierS := {}
  ecx : EcxS := {}
  eng : EngineS := {}
  idx : SearchS := {}
  sw : SwitchS := {}
  qps : Tab Qp := []
  mb : MboxS := {}
  dom : DomainS := {}
  rst : ResetS := {}
  sec : SecS := {}
  led : LedgerS := {}
  pwr : PowerS := {}
  pkg : PackageS := {}
  /-- Counter that selects free values; the model's own. -/
  free : Nat := 0
  /-- The commands that wait, first in, first out. -/
  pending : List Instr := []
deriving DecidableEq, Repr

/-- The device as it stands before its first cold start: every register at its Reset column, memory reading zero,
nothing waiting. -/
def State.reset : State := {}

/-- Why the device stops. No rule stops it: every bad command gets a status, so no meaning raises a fault. -/
inductive Fault where
  /-- Raised by no command: a place for the host's interface. Safe: it is never answered. -/
  | none
deriving DecidableEq, Repr

/-- Why a command has no answer. -/
inductive Refusal where
  /-- The command has no meaning in the model. Safe: the model stops where the device would go on. -/
  | notModelled (mnemonic : String)
deriving DecidableEq, Repr

end Sys2Proof.Machine
end

