-- ==== Sys2Proof/Machine/Memory.lean ====
section
/-! DEFINITION. Byte memory: a list of cells in one canonical form, addresses rising and no cell holding the byte that an
unlisted address reads as. -/

namespace Sys2Proof.Machine

/-- What an unlisted address reads as: zero (R191 for near memory; DESIGN CHOICE for the rest, log 4). -/
def Memory.blank : Byte := 0

/-- Read one byte. -/
def Memory.get : List Host.Cell → Nat → Byte
  | [], _ => Memory.blank
  | c :: m, a => if c.1 = a then c.2 else Memory.get m a

/-- Write one byte, keeping the canonical form. -/
def Memory.set : List Host.Cell → Nat → Byte → List Host.Cell
  | [], a, b => if b = Memory.blank then [] else [(a, b)]
  | c :: m, a, b =>
    if c.1 < a then c :: Memory.set m a b
    else if c.1 = a then (if b = Memory.blank then m else (a, b) :: m)
    else if b = Memory.blank then c :: m else (a, b) :: c :: m

/-- The canonical form: every address of a tail above the bound, no blank byte. -/
def Memory.above (bound : Option Nat) : List Host.Cell → Bool
  | [] => true
  | c :: m => (match bound with | none => true | some b => b < c.1) && c.2 != Memory.blank && Memory.above (some c.1) m

/-- The canonical form holds. -/
def Memory.wf (m : List Host.Cell) : Bool := Memory.above none m

/-- Read n bytes from an address. -/
def Memory.read (m : List Host.Cell) (a : Nat) : Nat → List Byte
  | 0 => []
  | n + 1 => Memory.get m a :: Memory.read m (a + 1) n

/-- Write bytes from an address. -/
def Memory.write (m : List Host.Cell) (a : Nat) : List Byte → List Host.Cell
  | [] => m
  | b :: bs => Memory.write (Memory.set m a b) (a + 1) bs

/-- Make n bytes from an address blank. -/
def Memory.clear (m : List Host.Cell) (a n : Nat) : List Host.Cell :=
  m.filter (fun c => c.1 < a || a + n ≤ c.1)

/-! ### Places: one flat space of bytes for what the device holds in HBM (log 4) -/

/-- First byte of near-memory page p of a quarter (R192). -/
def nearBase (q p : Nat) : Nat := 2 ^ 38 * q + 2 ^ 21 * p

/-- Key of DPA byte 0 of a CXL port: bytes that HBM cache frames hold of the port's tray. -/
def trayBase (c : Nat) : Nat := 2 ^ 52 + 2 ^ 46 * c

/-- Is an address a tray place. -/
def isTray (a : Nat) : Bool := 2 ^ 52 ≤ a && a < 2 ^ 53

/-- CXL port of a tray place. -/
def trayPort (a : Nat) : Nat := a / 2 ^ 46 - 64

/-- DPA of a tray place. -/
def trayDpa (a : Nat) : Nat := a % 2 ^ 46

/-- Place of a byte of a proxy region's block copies. -/
def proxyPlace (h off : Nat) : Nat := 2 ^ 76 + 2 ^ 48 * h + off

/-- Is an address a place of a block copy. -/
def isProxy (a : Nat) : Bool := 2 ^ 76 ≤ a && a < 2 ^ 77

/-- Proxy region and offset of such a place. -/
def proxyHandle (a : Nat) : Nat := a % 2 ^ 76 / 2 ^ 48
def proxyOff (a : Nat) : Nat := a % 2 ^ 48

/-- Does a place lie in frames of the HBM cache. -/
def framed (a : Nat) : Bool := isTray a || isProxy a

/-- Place of a byte of the copy that a shadow keeps of a region (R453). -/
def shadowPlace (h off : Nat) : Nat := 2 ^ 77 + 2 ^ 48 * h + off

end Sys2Proof.Machine
end

