-- ==== Sys2Proof/Machine/Ops.lean ====
section
/-! DEFINITION. Operations every family shares: the outcome of a command, time, the ledger, the scheduling tree, messages leaving a port. -/

namespace Sys2Proof.Machine

/-- The outcome of a command: the new device state with the queue as it was handed over. -/
def done (s s' : State) : Host.Outcome State Fault Refusal := .next { s' with pending := s.pending }

/-! ### Time -/

/-- BELL as a number. -/
def bellN (s : State) : Nat := s.time.bell.toNat

/-- SCLK since BELL 0 (R384). -/
def now (s : State) : Nat := bellN s * 1400 + s.time.phase

/-- Bells since one (never negative). -/
def since (s : State) (b : Word) : Nat := bellN s - b.toNat

/-- TAI now: at the strike plus the part of the bell gone, 1,400 SCLK being 1,000 ns. -/
def taiNow (t : TimeS) : Word := t.tai + word (t.phase * 5 / 7)

/-- The time stamp: TAI, or BELL with bit 63 set while TAI is invalid (R50). -/
def stampAt (t : TimeS) : Word := if t.valid then taiNow t else word (2 ^ 63 + t.bell.toNat % 2 ^ 63)

/-! ### Free values -/

/-- Draw a free word; the counter moves on. -/
def freeWord (s : State) : Word × State := (Config.freeWord s.free, { s with free := s.free + 1 })

/-- Draw from the trust cores' generator (R480). -/
def drawWord (s : State) : Word × State := (Config.drbg s.free, { s with free := s.free + 1 })

/-! ### The ledger -/

/-- The ring of a record (Table 20.4): its SOURCE. -/
def ringOf (code quarter : Nat) : Nat :=
  let h := code / 256
  if 0x10 ≤ h ∧ h ≤ 0x13 then 0x10
  else if h = 0x14 then 0x11
  else if h = 0x15 then 0x12
  else if h = 1 ∨ h = 2 ∨ h = 0x16 ∨ h = 0x17 then 0x13
  else quarter

/-- Slots of a ring in retention SRAM (Table 20.4). -/
def ringSlots (ring : Nat) : Nat := if ring = 0x11 then 4096 else if ring = 0x12 ∨ ring = 0x13 then 8192 else 16384

/-- Does Table 20.4 journal every record of the ring. -/
def ringJournalsAll (ring : Nat) : Bool := ring = 0x10 || ring = 0x11 || ring = 0x12

/-- The journal area of a ring (Table 20.6): 0 audit, 1 reset and trust, 2 general. -/
def ringArea (ring : Nat) : Nat := if ring = 0x10 then 0 else if ring = 0x11 ∨ ring = 0x12 then 1 else 2

/-- The journalled records of a ring, newest first. -/
def LedgerS.journalOf (l : LedgerS) (ring : Nat) : List Rec := ((Tab.getD l.journal (ringArea ring) []).filter (·.1 == ring)).map (·.2)

/-- Codes whose SEQ a DETAIL, a completion or another record names (R513). -/
def namedCodes : List Nat :=
  [0x0307, 0x0503, 0x0602, 0x0702, 0x0801, 0x0802, 0x0803, 0x0804, 0x0805, 0x0806, 0x0807, 0x0808, 0x0809,
   0x0A05, 0x0B03, 0x0B04, 0x0C06]

/-- SEV of a record: 3 for CXL_PORT_DOWN, 2 or 3 for the codes R513 names, else the device's own (log 8). -/
def sevOf (code : Nat) : Nat :=
  if code = 0x0707 then 3
  else if namedCodes.contains code then 2 + Config.severity code % 2
  else Config.severity code % 4

/-- SEQ (Table 20.1): ring number and count. -/
def seqWord (ring count : Nat) : Word := pack [(56, ring % 256), (0, count)]

/-- Bytes 0x00 to 0x37 of a record (Table 20.1). -/
def recHead (ring : Nat) (r : Rec) (hidden : Bool) : List Byte :=
  natLe 2 r.code ++ natLe 1 (r.quarter * 64 + r.kind) ++ natLe 1 (r.inst * 8 + b2n hidden * 4 + r.sev)
    ++ natLe 4 (r.principal * 4096 + r.stall) ++ wordBytes r.time ++ wordBytes r.p0 ++ wordBytes r.p1
    ++ wordBytes r.p2 ++ wordBytes r.p3 ++ wordBytes (seqWord ring r.count)

/-- MARK of a record. -/
def recMark (r : Rec) : Nat := (BitVec.ofNat 32 r.count ^^^ 0xA5A5A5A5#32).toNat

/-- The 64 bytes of a record; CHECK in the audit, reset and trust rings (R512). -/
def recBytes (ring : Nat) (r : Rec) : List Byte :=
  let h := recHead ring r false
  h ++ natLe 4 (if ringJournalsAll ring then (crc32c h).toNat else 0) ++ natLe 4 (recMark r)

/-- The record as a VF whose stall is not its origin reads it (R518). -/
def recHidden (ring : Nat) (r : Rec) : List Byte :=
  recHead ring { r with stall := 0, principal := 0, p0 := 0, p1 := 0, p2 := 0, p3 := 0 } true
    ++ natLe 4 0 ++ natLe 4 (recMark r)

/-- C before the first audit record (R522). -/
def chainStart : List Byte := Config.shake256 (ascii "garern-audit-v1" ++ wordBytes Config.serial) 32

/-- C now. -/
def LedgerS.chainNow (l : LedgerS) : List Byte := if l.chain.isEmpty then chainStart else l.chain

/-- Put a record into a ring's next slot (R514, R515): it takes the next count, the oldest slot is overwritten when
the ring is full and a record lost to the journal is counted (R516), and it pends for the journal where Table 20.4
has it journalled. The audit ring extends the chain (R522). -/
def LedgerS.put (l : LedgerS) (bell : Word) (ring : Nat) (r : Rec) : LedgerS :=
  let g := Tab.getD l.rings ring {}
  let r := { r with count := g.next }
  let recs := r :: g.recs
  let exceeds := recs.drop (ringSlots ring)
  let gone := fun (e : Nat × Word × Rec) => e.1 == ring && exceeds.any (fun o => o.count == e.2.2.count)
  let pend := if exceeds.isEmpty then l.pend else l.pend.filter (fun e => !gone e)
  let lost := if exceeds.isEmpty then 0 else (l.pend.filter gone).length
  let keep := ringJournalsAll ring || decide (2 ≤ r.sev)
  { l with
    rings := Tab.set l.rings ring { g with next := g.next + 1, recs := recs.take (ringSlots ring), lost := g.lost + lost }
    pend := if keep then pend ++ [(ring, bell, r)] else pend
    chain := if ring = 0x10 then Config.shake256 (l.chainNow ++ recBytes ring r) 32 else l.chain }

/-- SEG_CLOSE, SEG_CHAIN and the 104 SEG_SIG records of the segment that ends at an audit count (R523). -/
def LedgerS.sign (l : LedgerS) (bell time : Word) (cgen count : Nat) (interim : Bool) : LedgerS :=
  let base : Rec := { kind := 0x0D, time := time }
  let close : Rec := { base with
    code := 0x1509, sev := sevOf 0x1509, p0 := pack [(63, b2n interim), (0, count / 4096)]
    p1 := seqWord 0x10 count, p2 := bell, p3 := word cgen }
  let c := l.chainNow
  let four := fun (code : Nat) (d : List Byte) => { base with
    code := code, sev := sevOf code, p0 := wordAt d 0, p1 := wordAt d 8, p2 := wordAt d 16, p3 := wordAt d 24 }
  let chain : Rec := four 0x150A c
  let message := ascii "garern-audit-seg-v1" ++ wordBytes Config.serial
    ++ wordsBytes [close.p0, close.p1, close.p2, close.p3] ++ padTo 32 c
  let sig := Config.mldsaSign cgen message
  let sigs := (List.range 104).map (fun i => four 0x150B (slice sig (32 * i) 32))
  (close :: chain :: sigs).foldl (fun l r => l.put bell 0x12 r) l

/-- Segment slots of the audit area that hold uncollected segments from which LEDGER_FULL stands (R524). -/
def segmentsFull : Nat := 56

/-- Write a record, and sign the audit segment it completes. -/
def LedgerS.write (l : LedgerS) (bell time : Word) (cgen : Nat) (r : Rec) : LedgerS :=
  let ring := ringOf r.code r.quarter
  let count := (Tab.getD l.rings ring {}).next
  let l := l.put bell ring r
  if ring = 0x10 ∧ count % 4096 = 4095 then l.sign bell time cgen count false else l

/-- Write a ledger record now: time and severity are filled in. -/
def record (s : State) (r : Rec) : State :=
  let t := stampAt s.time
  { s with led := s.led.write s.time.bell t s.sec.aliasGen { r with time := t, sev := sevOf r.code } }

/-- SEQ that the next record of a code and quarter gets. -/
def nextSeq (s : State) (code quarter : Nat) : Word :=
  let ring := ringOf code quarter
  seqWord ring (Tab.getD s.led.rings ring {}).next

/-- Write a record of a code with a rate rule (R525): at most one for a key in 1,000 bells, PARAM3 counting those
suppressed since. -/
def recordRate (s : State) (key : Nat) (r : Rec) : State :=
  match s.fab.rate.find? (fun e => e.1 == (r.code, key)) with
  | some (_, b, n) =>
    if since s b < 1000 then
      { s with fab := { s.fab with rate := adjustWhere s.fab.rate (fun e => e.1 == (r.code, key)) (fun e => (e.1, b, n + 1)) } }
    else
      let s := record s { r with p3 := word n }
      { s with fab := { s.fab with
        rate := adjustWhere s.fab.rate (fun e => e.1 == (r.code, key)) (fun e => (e.1, s.time.bell, 0)) } }
  | none =>
    let s := record s r
    { s with fab := { s.fab with rate := ((r.code, key), s.time.bell, 0) :: s.fab.rate } }

/-! ### Scheduling: the tree of Table 14.4 -/

/-- later(x, y) of R381, on 48-bit tags. -/
def later (x y : Nat) : Nat := if (x + 2 ^ 48 - y % 2 ^ 48) % 2 ^ 48 < 2 ^ 47 then x else y

/-- Is tag x strictly before y by the same rule. -/
def tagBefore (x y : Nat) : Bool := x != y && later x y == y

/-- Cost of a grant of g granules through a child of weight w (R381). -/
def grantCost (g w : Nat) : Nat := ceilDiv (g * 65536) (max w 1)

/-- on_wake of R381: a child that goes from empty to backlogged. -/
def SchedNode.wake (n : SchedNode) (c : Nat) : SchedNode :=
  if Tab.has n.start c then n else { n with start := Tab.set n.start c (later (Tab.getD n.finish c 0) n.v) }

/-- The eligible child with the least start tag; ties to the lower number. -/
def SchedNode.least (n : SchedNode) (cs : List Nat) : Option Nat :=
  cs.foldl (fun best c => match best with
    | none => some c
    | some b =>
      let x := Tab.getD n.start c n.v
      let y := Tab.getD n.start b n.v
      if tagBefore x y || (x == y && decide (c < b)) then some c else some b) none

/-- A grant through a child (R381): virtual time, finish tag, and the next start tag while it stays backlogged. -/
def SchedNode.grant (n : SchedNode) (c cost : Nat) (still : Bool) : SchedNode :=
  let st := Tab.getD n.start c n.v
  let f := (st + cost) % 2 ^ 48
  { v := later n.v st
    finish := Tab.set n.finish c f
    start := if still then Tab.set n.start c f else Tab.erase n.start c }

/-- A candidate of a scheduling point: the head of a stream. `first` marks the priority group of R379. -/
structure Cand where
  idx : Nat := 0
  tc : Nat := 0
  svc : Nat := 0
  stall : Nat := 0
  qp : Nat := 0
  size : Nat := 0
  first : Bool := false
  ready : Bool := true
deriving DecidableEq, Repr

/-- Weights of the three lower levels and of the classes at a point. -/
structure Weights where
  tcw : List Nat := [8, 4, 4]
  vw : List Nat := [1, 1, 1, 1, 1, 1, 1, 1]
  sw : Tab Nat := []
  qw : Tab Nat := []
  /-- Stall of each queue pair. -/
  owner : Tab Nat := []

/-- Number of a service node below its class, a stall node below its service, a queue-pair node below its stall. -/
def svcKey (c : Cand) : Nat := c.tc
def stallKey (c : Cand) : Nat := c.tc * 8 + c.svc
def qpKey (c : Cand) : Nat := (c.tc * 8 + c.svc) * 4096 + c.stall

/-- A candidate's nodes wake (R381). -/
def SchedTree.wake (t : SchedTree) (c : Cand) : SchedTree :=
  { cls := t.cls.wake c.tc
    svc := if c.first then t.svc else Tab.upd t.svc (svcKey c) {} (·.wake c.svc)
    stall := if c.first then t.stall else Tab.upd t.stall (stallKey c) {} (·.wake c.stall)
    qp := if c.first then t.qp else Tab.upd t.qp (qpKey c) {} (·.wake c.qp) }

/-- Weight of a stall and service: 16 unless set (Table 14.4). -/
def Weights.stallW (w : Weights) (svc stall : Nat) : Nat := Tab.getD w.sw (svc * 4096 + stall) 16

/-- Weight of a queue pair: QW where QP names a queue pair of the stall, else 1 (R407). -/
def Weights.qpW (w : Weights) (qp stall : Nat) : Nat := if Tab.get? w.owner qp = some stall then Tab.getD w.qw qp 1 else 1

/-- Choose among the candidates through the tree (R378 to R381): class 0 first, then the other classes by weight;
in a class the priority group, oldest first (R379); then service, stall and queue pair; then the oldest. -/
def SchedTree.choose (t : SchedTree) (cs : List Cand) : Option Cand :=
  let ready := cs.filter (·.ready)
  let tcs := (ready.map (·.tc)).eraseDups
  let tc? := if tcs.contains 0 then some 0 else t.cls.least tcs
  match tc? with
  | none => none
  | some tc =>
    let inTc := ready.filter (·.tc == tc)
    match inTc.find? (·.first) with
    | some c => some c
    | none =>
      match (Tab.getD t.svc tc {}).least ((inTc.map (·.svc)).eraseDups) with
      | none => none
      | some sv =>
        let inSv := inTc.filter (·.svc == sv)
        match (Tab.getD t.stall (tc * 8 + sv) {}).least ((inSv.map (·.stall)).eraseDups) with
        | none => none
        | some st =>
          let inSt := inSv.filter (·.stall == st)
          match (Tab.getD t.qp ((tc * 8 + sv) * 4096 + st) {}).least ((inSt.map (·.qp)).eraseDups) with
          | none => none
          | some qp => inSt.find? (·.qp == qp)

/-- The tree after a grant of the chosen candidate, the others being still backlogged. -/
def SchedTree.granted (t : SchedTree) (w : Weights) (c : Cand) (rest : List Cand) : SchedTree :=
  let tcw := if c.tc = 0 then 1 else nth w.tcw (c.tc - 1)
  let same := rest.filter (fun o => o.tc == c.tc)
  let cls := t.cls.grant c.tc (grantCost c.size tcw) (!same.isEmpty)
  if c.first then { t with cls := cls }
  else
    let low := same.filter (fun o => !o.first && o.svc == c.svc)
    let st := low.filter (fun o => o.stall == c.stall)
    { cls := cls
      svc := Tab.upd t.svc (svcKey c) {} (·.grant c.svc (grantCost c.size (nth w.vw c.svc)) (!low.isEmpty))
      stall := Tab.upd t.stall (stallKey c) {}
        (·.grant c.stall (grantCost c.size (w.stallW c.svc c.stall)) (!st.isEmpty))
      qp := Tab.upd t.qp (qpKey c) {}
        (·.grant c.qp (grantCost c.size (w.qpW c.qp c.stall)) (st.any (fun o => o.qp == c.qp))) }

/-- The weights in force at a port. -/
def weightsOf (s : State) (tcw : List Nat) : Weights := { tcw := tcw, vw := s.sw.vw, sw := s.sw.sw, qw := s.sw.qw, owner := s.qps.map (fun e => (e.1, e.2.stall)) }

/-! ### Switch buffer: the shared pool (R355, R361) -/

/-- Shared granules of a quarter (Table 13.1). -/
def poolSize : Nat := 450560

/-- Quarter of a port (R57). -/
def portQuarter (p : Nat) : Nat := p / 64

/-- Keys of queues in `shared`: the Queue field of Table 20.9. -/
def voqKey (tc inPort dest : Nat) : Nat := 2 ^ 28 * tc + 2 ^ 20 * inPort + 16 * dest
def egressKey (tc p : Nat) : Nat := 2 * 2 ^ 30 + 2 ^ 28 * tc + 2 ^ 20 * p + 16 * p
def destKey (tc dest : Nat) : Nat := 2 ^ 30 + 2 ^ 28 * tc + 16 * dest

/-- Granules in use in a quarter's shared pool. -/
def poolUsed (s : State) (q : Nat) : Nat := ((s.sw.shared[q]?).getD []).foldl (fun a e => a + e.2) 0

/-- Free shared granules of a quarter. -/
def poolFree (s : State) (q : Nat) : Nat := poolSize - poolUsed s q

/-- May a queue take g granules: u + g ≤ α F, with α as a fraction (Table 13.3). -/
def poolAllows (s : State) (q key g num den : Nat) : Bool :=
  (Tab.getD ((s.sw.shared[q]?).getD []) key 0 + g) * den ≤ num * poolFree s q && g ≤ poolFree s q

/-- POOL_LOW and POOL_RECOVERED (Table 13.5) after a change of the pool. -/
def poolWatch (s : State) (q : Nat) : State :=
  let f := poolFree s q
  match (s.sw.lowSince[q]?).getD none with
  | none =>
    if f < poolSize / 8 then
      let top := ((s.sw.shared[q]?).getD []).foldl (fun (b : Nat × Nat) e => if b.2 < e.2 then e else b) (0, 0)
      let s := { s with sw := { s.sw with lowSince := modNth s.sw.lowSince q (fun _ => some s.time.bell) } }
      recordRate s q { code := 0x0D01, quarter := q, kind := 3, p0 := word q, p1 := word f, p2 := pack [(32, top.1), (0, top.2)] }
    else s
  | some b =>
    if poolSize / 4 ≤ f then
      let s' := { s with sw := { s.sw with lowSince := modNth s.sw.lowSince q (fun _ => none) } }
      recordRate s' q { code := 0x0D02, quarter := q, kind := 3, p0 := word q, p1 := word (since s b) }
    else s

/-- Take granules from the shared pool for a queue. -/
def poolTake (s : State) (q key g : Nat) : State :=
  poolWatch { s with sw := { s.sw with shared := modNth s.sw.shared q (fun t => Tab.upd t key 0 (· + g)) } } q

/-- Give them back. -/
def poolGive (s : State) (q key g : Nat) : State :=
  poolWatch { s with sw := { s.sw with
    shared := modNth s.sw.shared q (fun t =>
      if Tab.getD t key 0 ≤ g then Tab.erase t key else Tab.upd t key 0 (· - g)) } } q

/-! ### Ports and messages -/

/-- The state of a port. -/
def portOf (s : State) (p : Nat) : PortS := Tab.getD s.ports p {}

/-- Change the state of a port. -/
def updPort (s : State) (p : Nat) (f : PortS → PortS) : State := { s with ports := Tab.upd s.ports p {} f }

/-- Is the port in UP. -/
def portUp (s : State) (p : Nat) : Bool := (portOf s p).st == .up

/-- INST of a port's records: its number in the quarter where that fits (Table 20.2). -/
def portInst (p : Nat) : Nat := if p % 64 < 32 then p % 64 else 0

/-- Traffic class of a message. -/
def Msg.tc : Msg → Nat
  | .rsp h _ _ => h.tc
  | .req _ h _ => h.tc
  | .eng _ h _ _ => h.tc
  | .mgmt _ _ _ => 0
  | .spare _ _ _ _ => 0
  | .idle _ _ => 0

/-- Bytes of header and payload (R71). -/
def Msg.bytes : Msg → Nat
  | .rsp _ d _ => 24 + d.length
  | .req _ _ d => 32 + d.length
  | .eng _ _ d _ => 32 + d.length
  | .mgmt _ _ d => 16 + d.length
  | .spare _ _ _ _ => 16
  | .idle _ _ => 0

/-- Does a message go without credits: HELLO and HELLO_ACK, which bring the first ones, and frames without a message. -/
def Msg.free : Msg → Bool
  | .mgmt opc _ _ => opc == 1 || opc == 2
  | .idle _ _ => true
  | _ => false

/-- Granules and credits of a message (R70, R353). -/
def Msg.granules (m : Msg) : Nat := ceilDiv m.bytes 64

/-- Is a request a snoop (Table 3.6). -/
def isSnoop (opc : Nat) : Bool := opc == 0x50 || opc == 0x51

/-- Candidate fields of a message at an egress port: responses and snoops form the priority group (R379). -/
def Msg.cand (m : Msg) (i : Nat) : Cand :=
  match m with
  | .rsp h _ _ => { idx := i, tc := h.tc, svc := h.svc, stall := h.stall, size := m.granules, first := true }
  | .req opc h _ => { idx := i, tc := h.tc, svc := h.svc, stall := h.stall, qp := h.qp, size := m.granules, first := isSnoop opc }
  | .eng _ h _ _ => { idx := i, tc := h.tc, svc := h.svc, stall := h.stall, size := m.granules }
  | .mgmt _ _ _ => { idx := i, size := m.granules, first := true }
  | .spare _ _ _ _ => { idx := i, size := m.granules, first := true }
  | .idle _ _ => { idx := i, first := true }

/-- Set the congestion mark (R82); never on TC0. -/
def Msg.mark (m : Msg) : Msg :=
  match m with
  | .rsp h d z => .rsp { h with cm := true } d z
  | .req o h d => .req o { h with cm := true } d
  | .eng o h d z => .eng o { h with cm := true } d z
  | m => m

/-- Number of a shaper: port, stall, service. -/
def shaperKey (p stall svc : Nat) : Nat := p * 32768 + stall * 8 + svc

/-- tg and tau of R384 in SCLK. -/
def shaperGap (sh : Shaper) (g : Nat) : Nat := ceilDiv (g * 16 * 1400) (max sh.shape 1)

/-- May the shaped node of a candidate send now (R383, R384). -/
def shaperReady (s : State) (p : Nat) (c : Cand) : Bool :=
  if c.first || c.tc == 0 then true
  else
    let sh := Tab.getD s.sw.shapers (shaperKey p c.stall c.svc) {}
    sh.shape == 0 || sh.parked == none

/-- The shaper after a grant (R384, R385). -/
def shaperGrant (s : State) (p : Nat) (c : Cand) : State :=
  if c.first || c.tc == 0 then s
  else
    let sh := Tab.getD s.sw.shapers (shaperKey p c.stall c.svc) {}
    if sh.shape == 0 then s
    else
      let tat := max sh.tat (now s) + shaperGap sh c.size
      let tau := shaperGap sh sh.sburst
      let sh := { sh with tat := tat, parked := if now s < tat - tau then some (tat - tau) else none }
      { s with sw := { s.sw with shapers := Tab.set s.sw.shapers (shaperKey p c.stall c.svc) sh } }

/-- Did a message that left its queue meet congestion (R367). -/
def metCongestion (s : State) (q : Nat) (m : Queued) : Bool :=
  let waited := now s - m.entered
  let tc := m.msg.tc
  tc != 0 && ((if tc = 1 then 350 ≤ waited else 700 ≤ waited) || (!m.shared && 0 < waited) || poolFree s q < poolSize / 8)

/-- May messages of a kind leave a port in its state: all in UP, management messages while it is coming up (R64). -/
def maySend (st : PortState) (m : Msg) : Bool :=
  match st with
  | .up => true
  | .hello | .auth => match m with
    | .mgmt _ _ _ | .idle _ _ => true
    | _ => false
  | _ => false

/-- The granules that cross to a destination queue, in cell transfers of up to four: they join the cell of the message before while it
has room (R354). -/
def cellsAfter (c : Nat × Nat) (g : Nat) : Nat × Nat :=
  let room := if c.1 = 0 then 0 else 4 - c.2
  if g ≤ room then (c.1, c.2 + g) else (c.1 + ceilDiv (g - room) 4, (g - room - 1) % 4 + 1)

/-- A message crosses to its destination queue (R354). -/
def crossCells (s : State) (dest g : Nat) : State :=
  { s with sw := { s.sw with cells := Tab.set s.sw.cells dest (cellsAfter (Tab.getD s.sw.cells dest (0, 0)) g) } }

/-- The spare lane of a port's sparing group (R60). -/
def spareLane (p : Nat) : Nat := p / 64 * 8 + p % 64 / 8

/-- A lane's symbols move to the spare lane at the frame agreed on; LANE_SPARED is written (R62, R63). -/
def moveLane (s : State) (p : Nat) : State :=
  let ps := portOf s p
  match ps.sparing with
  | some (lane, frame, partner, cause) =>
    if (if partner then ps.seqIn else ps.seqOut) < frame then s
    else
      let s := updPort s p (fun ps => { ps with sparing := none, sparedLane := some lane })
      let s := { s with pwr := { s.pwr with life := { s.pwr.life with
        lanes := Tab.upd s.pwr.life.lanes (p * 4 + lane) {} (fun x => { x with sparings := x.sparings + 1 }) } } }
      record s { code := 0x0302, quarter := portQuarter p, kind := 2, inst := portInst p, p0 := pack [(8, p), (0, lane)]
                 p1 := word (spareLane p), p2 := word cause }
  | none => s

/-- A SPARE_REQ names the frame 64 after the one that carries it (R62). -/
def Msg.frameNamed (m : Msg) (seq : Nat) : Msg :=
  match m with
  | .spare 0x10 xid lane _ => .spare 0x10 xid lane ((seq + 64) % 65536)
  | m => m

/-- The frame that an unanswered SPARE_REQ names, once it has left. -/
def PortS.frameAsked (ps : PortS) (m : Msg) : Option (Nat × Nat × Nat) :=
  match m with
  | .spare 0x10 _ lane _ => ps.spareAsked.map (fun a => if a.1 = lane then (lane, ps.seqOut + 64, a.2.2) else a)
  | _ => ps.spareAsked

/-- Resend a frame that a NAK asked for, with its sequence number and its bytes (R67, R68). -/
def resendOne (s : State) (p : Nat) : State :=
  updPort s p (fun ps => { ps with replay := ps.replay.drop 1, framesOut := ps.framesOut + 1 })

/-- A quarter's switch slice makes a grant (R458). -/
def granted (s : State) (q : Nat) : State := { s with sw := { s.sw with grants := Tab.upd s.sw.grants q 0 (· + 1) } }

/-- Send one message of a port's egress queues, if one may go: after the frames to be resent, in a frame of its own under the next
sequence number and the session's KEYID (R67, R68, R70, R378 to R384). -/
def pumpOne (s : State) (p : Nat) : Option State :=
  let ps := portOf s p
  if !ps.replay.isEmpty then some (resendOne s p)
  else if 1024 ≤ ps.unacked.length then none
  else
    let numbered := ps.egress.zipIdx
    let cands := numbered.map (fun e => e.1.msg.cand e.2)
    let ok := fun (e : Queued × Nat) =>
      maySend ps.st e.1.msg && (e.1.msg.free || decide (e.1.msg.granules ≤ nth ps.creditsHeld e.1.msg.tc)) && shaperReady s p (e.1.msg.cand e.2)
    let cands := (numbered.zip cands).map (fun e => { e.2 with ready := ok e.1 })
    match ps.tree.choose cands with
    | none => none
    | some c =>
      match ps.egress[c.idx]? with
      | none => none
      | some m =>
        let q := portQuarter p
        let msg := (if metCongestion s q m then m.msg.mark else m.msg).frameNamed ps.seqOut
        let g := m.msg.granules
        let tree := ps.tree.granted (weightsOf s ps.tcw) c (cands.filter (fun o => o.idx != c.idx))
        let s := updPort s p (fun ps => { ps with
          egress := ps.egress.eraseIdx c.idx
          creditsHeld := if m.msg.free then ps.creditsHeld else modNth ps.creditsHeld m.msg.tc (· - g)
          spareAsked := ps.frameAsked m.msg
          unacked := ps.unacked ++ [{ seq := ps.seqOut, keyId := ps.keyId, msg := msg }]
          seqOut := ps.seqOut + 1
          framesOut := ps.framesOut + 1
          tree := tree })
        let s := if m.shared then poolGive s q (egressKey m.msg.tc p) g else s
        some (granted (moveLane (shaperGrant s p c) p) q)

/-- Send while messages may go. -/
def pumpN : Nat → State → Nat → State
  | 0, s, _ => s
  | n + 1, s, p => match pumpOne s p with
    | none => s
    | some s' => pumpN n s' p

/-- Send everything that may go from a port. -/
def pump (s : State) (p : Nat) : State := pumpN ((portOf s p).replay.length + (portOf s p).egress.length) s p

/-- Factor α of a message's queue (Table 13.3), as a fraction. -/
def Msg.alpha (m : Msg) : Nat × Nat :=
  match m with
  | .eng _ _ _ _ => (1, 4)
  | m => if m.tc = 0 then (2, 1) else if m.tc = 3 then (1, 2) else (1, 1)

/-- Put a message into a port's egress queue, charged to the shared pool when R361 allows. -/
def enqueue (s : State) (p : Nat) (m : Msg) : State :=
  let q := portQuarter p
  let key := egressKey m.tc p
  let sh := poolAllows s q key m.granules m.alpha.1 m.alpha.2
  let s := updPort s p (fun ps => { ps with
    egress := ps.egress ++ [{ entered := now s, shared := sh, msg := m }]
    tree := ps.tree.wake (m.cand ps.egress.length) })
  let s := crossCells s key m.granules
  if sh then poolTake s q key m.granules else s

/-- Send a message on a port: it joins the egress queue and leaves when it may. -/
def send (s : State) (p : Nat) (m : Msg) : State := pump (enqueue s p m) p

/-- The UP ports whose partner has an endpoint ID, lowest first. -/
def portsTo (s : State) (epid : Nat) : List Nat :=
  (s.ports.filter (fun e => e.2.st == .up && e.2.epid == epid)).map (·.1)

/-- The UP ports to a device: partners of PTYPE 1 (R430). -/
def portsToDevice (s : State) (dev : Nat) : List Nat :=
  (s.ports.filter (fun e => e.2.st == .up && e.2.epid == dev && e.2.ptype == 1)).map (·.1)

/-- The port to a device for a stream: a hash among those that are up (R359). -/
def pickPort (ports : List Nat) (src stall svc qp : Nat) : Option Nat :=
  match ports with
  | [] => none
  | p :: ps => some (((p :: ps)[Config.portHash src stall svc qp % (ps.length + 1)]?).getD p)

/-- Does a port's session satisfy the policy of a content key (R491). -/
def satisfies (ps : PortS) (k : ContentKey) : Bool :=
  !ps.partner.device && k.rules.any (fun r =>
    r.2.1 == ps.partner.issuer && (List.range 4).all (fun i =>
      !(r.1 / 2 ^ i % 2 == 1) || (r.2.2[i]?).getD [] == (ps.partner.measures[i]?).getD []))

/-- Does the session of a port satisfy the policy for a SEALED region. -/
def policyOk (s : State) (p handle : Nat) : Bool :=
  match Tab.get? s.sec.content handle with
  | none => false
  | some k => portUp s p && satisfies (portOf s p) k

/-- The port of a response towards an endpoint (R59): that of its request while the endpoint is its partner, else another UP port to it.
Expanded sealed data goes only where the policy holds (R234). -/
def responsePort (s : State) (p dst sealOf : Nat) : Option Nat :=
  if portUp s p && (portOf s p).epid == dst then some p else (portsTo s dst).find? (fun o => sealOf == 0 || policyOk s o sealOf)

/-- The port of the answer to a management message (R59, R415): that of the message while its sender, or the device that passed it on, is
the partner, else another UP port to the sender. -/
def mgmtPort (s : State) (p src : Nat) : Option Nat :=
  if portUp s p && ((portOf s p).epid == src || (portOf s p).ptype == 1) then some p else (portsTo s src).head?

/-- Send a response towards an endpoint; with no port to it, it is discarded and recorded (R59). -/
def sendResponse (s : State) (p dst : Nat) (h : RspHdr) (d : List Byte) (sealOf : Nat) : State :=
  match responsePort s p dst sealOf with
  | some o => send s o (.rsp h d sealOf)
  | none => recordRate s p { code := 0x0305, quarter := portQuarter p, kind := 2, inst := portInst p, p0 := pack [(16, dst), (0, h.tag)], p1 := word p }

/-- Discard an engine or management message and record it (R72, R78): cause 1 malformed, 2 SRCID. -/
def discardMessage (s : State) (p src kind cause : Nat) : State :=
  recordRate s p { code := 0x0306, quarter := portQuarter p, kind := 2, inst := portInst p, p0 := word p, p1 := pack [(16, src), (0, kind)], p2 := word cause }

/-- An interrupt at a function's MSI-X vectors: a message on the UCIe module that presents BAR0, or the pending bit while the vector is
masked (R18, R405). -/
def FuncS.signal (f : FuncS) (module rid vec : Nat) : FuncS :=
  if (Tab.getD f.msix vec {}).masked then { f with msixPending := addOnce f.msixPending vec } else { f with irqs := (vec, module, rid) :: f.irqs }

/-- Routing ID of a function, counted from that of the PF: 0 for the PF, and by the SR-IOV capability for VF 1 to VF 4,096 (R389). -/
def SriovCap.routingId (c : SriovCap) (fn : Nat) : Nat := if fn = 0 then 0 else c.firstVfOffset + (fn - 1) * c.vfStride

/-- Bus numbers that the functions' routing IDs span, at 256 to a bus (R389). -/
def SriovCap.buses (c : SriovCap) : Nat := c.routingId c.totalVfs / 256 + 1

/-- Raise an interrupt of a function. -/
def interrupt (s : State) (fn vec : Nat) : State :=
  { s with funcs := Tab.upd s.funcs fn {} (fun f => f.signal s.fab.front (s.fab.sriov.routingId fn) vec) }

end Sys2Proof.Machine
end

