-- ==== Sys2Proof/Machine/Lines.lean ====
section
/-! DEFINITION. Lines of memory: placement, the line cache, the HBM cache, tray reads and writes, poison. -/

namespace Sys2Proof.Machine

/-! ### Placement (R192) -/

/-- Place of a byte of a region: its key in the flat space. -/
def placeOf (reg : Region) (off : Nat) : Option Nat :=
  let u := off / 2 ^ 21
  (reg.place.find? (fun r => decide (r.vpage ≤ u) && decide (u < r.vpage + r.count))).map (fun r =>
    (if r.tray then trayBase r.loc + 2 ^ 21 * (r.base + (u - r.vpage)) else nearBase r.loc (r.base + (u - r.vpage)))
      + off % 2 ^ 21)

/-- Size of a region in bytes (R96). -/
def Region.bytes (reg : Region) : Nat := (reg.size4k + 1) * 4096

/-- 2 MiB units of a region (R192). -/
def Region.units (reg : Region) : Nat := ceilDiv reg.bytes (2 ^ 21)

/-- The region record of a handle, if the device has one. -/
def regionOf (s : State) (h : Nat) : Option Region := Tab.get? s.regs.recs h

/-- Region records that a quarter's record cache holds: 4 MiB of records of 64 bytes (R172). -/
def recLines : Nat := 65536

/-- A region record passes through its quarter's record cache (R172): a full cache gives up its least recently used record, written to
the table copy in the system reserve if it has changed (Table 7.3). -/
def touchRec (s : State) (h : Nat) (changed : Bool) : State :=
  match regionOf s h with
  | none => s
  | some g =>
    let was := s.tier.recCache.any (fun e => e.handle == h && e.changed)
    let rest := s.tier.recCache.filter (fun e => e.handle != h)
    let mine := rest.filter (fun e => e.q == g.homeq)
    let out := if mine.length < recLines then none else mine.getLast?
    let table := match out with
      | some e => if e.changed then (match regionOf s e.handle with | some r => Tab.set s.tier.recTable e.handle r | none => s.tier.recTable) else s.tier.recTable
      | none => s.tier.recTable
    let rest := match out with | some e => rest.filter (fun x => x.handle != e.handle) | none => rest
    { s with tier := { s.tier with recCache := { q := g.homeq, handle := h, changed := changed || was } :: rest, recTable := table } }

/-- Change a region record, in the record cache. -/
def updRegion (s : State) (h : Nat) (f : Region → Region) : State :=
  touchRec { s with regs := { s.regs with recs := Tab.adjust s.regs.recs h f } } h true

/-- The home device of a region: the one the current map names (Table 4.1). -/
def homeDevice (s : State) (g : Region) : Nat := (Tab.get? s.maps.cur.handles g.handle).elim g.homedev (·.homedev)

/-! ### Placement descriptors (R192, Table 7.2) -/

/-- Entries of a chain: runs of at most 256 units. -/
def chainEntries (place : List Run) : List Run :=
  place.flatMap (fun r => (List.range (ceilDiv r.count 256)).map (fun i =>
    { r with vpage := r.vpage + 256 * i, base := r.base + 256 * i, count := min 256 (r.count - 256 * i) }))

/-- Entries by descriptor: up to seven of one kind. -/
def chainGroups : List Run → List (List Run)
  | [] => []
  | r :: l => match chainGroups l with
    | (x :: xs) :: gs => if x.tray == r.tray && xs.length < 6 then (r :: x :: xs) :: gs else [r] :: (x :: xs) :: gs
    | gs => [r] :: gs

/-- Word Pn of an entry. -/
def entryWord (r : Run) : Word :=
  if r.tray then pack [(37, r.vpage), (33, r.loc), (8, r.base), (0, r.count - 1)] else pack [(37, r.vpage), (20, r.base), (12, r.count - 1)]

/-- Words P0 to P7 of a descriptor with the place of the next one, 0 for the last. -/
def descriptorWords (g : List Run) (next : Nat) : List Word :=
  pack [(24, next), (20, g.length), (18, b2n (g.any (·.tray)))] :: (List.range 7).map (fun i => (g[i]?).elim 0 entryWord)

/-- Lay out a chain in free places of a quarter's descriptor area, the lowest first: the places, in order. Place 0 stays free, as NEXT 0
marks the last. -/
def layChain (s : State) (q : Nat) (place : List Run) : List Nat × State :=
  let gs := chainGroups (chainEntries place)
  let used := (s.regs.descriptors.filter (fun e => e.1 / 2 ^ 40 == q)).map (fun e => e.1 % 2 ^ 40)
  let at_ := (((List.range (used.length + gs.length)).map (· + 1)).filter (fun n => !used.contains n)).take gs.length
  (at_, each (gs.zipIdx) (fun g s =>
    { s with regs := { s.regs with descriptors := Tab.set s.regs.descriptors (2 ^ 40 * q + nth at_ g.2) (descriptorWords g.1 (nth at_ (g.2 + 1))) } }) s)

/-- Free the descriptors of a region's chain. -/
def dropChain (s : State) (g : Region) : State :=
  { s with regs := { s.regs with descriptors := g.desc.foldl (fun t n => Tab.erase t (2 ^ 40 * g.homeq + n)) s.regs.descriptors } }

/-- Put a region record in place, with a chain laid out for its placement. -/
def putRegion (s : State) (g : Region) : State :=
  let s := match regionOf s g.handle with | some old => dropChain s old | none => s
  let c := layChain s g.homeq g.place
  touchRec { c.2 with regs := { c.2.regs with recs := Tab.set c.2.regs.recs g.handle { g with desc := c.1 } } } g.handle true

/-- Take a region record out, with its chain, from the record cache and the table copy too. -/
def removeRegion (s : State) (h : Nat) : State :=
  match regionOf s h with
  | none => s
  | some g =>
    let s := dropChain s g
    { s with
      regs := { s.regs with recs := Tab.erase s.regs.recs h }
      tier := { s.tier with recCache := s.tier.recCache.filter (fun e => e.handle != h), recTable := Tab.erase s.tier.recTable h } }

/-- Key of a line of a region in tables by line: handle and line number in the region. -/
def lineKey (handle off : Nat) : Nat := 2 ^ 42 * handle + off / 64

/-- 4 KiB pages of an extent already in use at a place. -/
def runUses (r : Run) (tray : Bool) (loc page : Nat) : Bool :=
  r.tray == tray && r.loc == loc && decide (r.base ≤ page) && decide (page < r.base + r.count)

/-! ### The line cache (R576) -/

/-- The line cache's copy of a physical line. -/
def cacheLine (s : State) (line : Nat) : Option CacheLine := s.tier.lineCache.find? (fun e => e.line == line)

/-- The 64 bytes at a place: the line cache's, else those of its page or frame. -/
def lineBytes (s : State) (a : Nat) : List Byte :=
  match cacheLine s (a / 64) with
  | some e => e.data
  | none => Memory.read s.tier.mem a 64

/-- Set of a line in its quarter's line cache: 131,072 lines in 16 ways (R172). -/
def lineSet (q line : Nat) : Nat := Config.lineCacheSet q line % 8192

/-- The line that a new line of a set displaces: none while the set has a free way, else the least recently used line that is not in
use (R576); `some none` where every line is in use. -/
def displaced (s : State) (q line : Nat) (inUse : Nat → Bool) : Option (Option CacheLine) :=
  if (cacheLine s line).isSome then none
  else
    let inSet := s.tier.lineCache.filter (fun e => e.q == q && lineSet q e.line == lineSet q line)
    if inSet.length < 16 then none else some (inSet.reverse.find? (fun e => !inUse e.line))

/-- Is there a way of its set for a line (log 156). -/
def lineRoom (s : State) (q a : Nat) (inUse : Nat → Bool) : Bool := displaced s q (a / 64) inUse != some none

/-- The HBM controller of the page or frame of a physical line completes an operation on it (R458). -/
def hbmDone (s : State) (a : Nat) : State :=
  let set := (s.tier.frames.find? (fun f => framed a && f.port == trayPort a && f.block == trayDpa a / 4096)).map (fun f => (f.q, f.set % 5))
  let at_ := set.getD (a / 2 ^ 38, a % 2 ^ 38 / 2 ^ 21 % 5)
  { s with tier := { s.tier with hbmOps := Tab.upd s.tier.hbmOps (at_.1 * 5 + at_.2) 0 (· + 1) } }

/-- Write a dirty line of the line cache to its page or frame: it stays, clean (Table 7.3). -/
def flushLine (s : State) (a : Nat) : State :=
  match cacheLine s (a / 64) with
  | some e =>
    if e.dirty then
      let s := hbmDone s a
      { s with tier := { s.tier with
        mem := Memory.write s.tier.mem (e.line * 64) e.data
        lineCache := adjustWhere s.tier.lineCache (fun x => x.line == e.line) (fun x => { x with dirty := false }) } }
    else s
  | none => s

/-- Evict a line: written to its page or frame if it is dirty, else dropped (R576). -/
def dropLine (s : State) (a : Nat) : State :=
  let s := flushLine s a
  { s with tier := { s.tier with lineCache := s.tier.lineCache.filter (fun e => e.line != a / 64) } }

/-- A request performed on a line takes it through the line cache with the bytes it leaves: it becomes the most recently used of its
set, and a full set gives up a line. A line that finds no way is written past the cache. -/
def touchLine (s : State) (q a : Nat) (dirty : Bool) (d : List Byte) (inUse : Nat → Bool) : State :=
  let line := a / 64
  let was := (cacheLine s line).elim false (·.dirty)
  let s := if (cacheLine s line).isSome then s else hbmDone s a
  match displaced s q line inUse with
  | some none => if dirty then { s with tier := { s.tier with mem := Memory.write s.tier.mem (line * 64) d } } else s
  | out =>
    let s := match out with | some (some o) => dropLine s (o.line * 64) | _ => s
    { s with tier := { s.tier with
      lineCache := { q := q, line := line, dirty := dirty || was, data := d } :: s.tier.lineCache.filter (fun e => e.line != line) } }

/-- A write of the device's own to a line: to the line cache where it holds the line, else to the page or frame. -/
def placeLine (s : State) (a : Nat) (d : List Byte) : State :=
  if (cacheLine s (a / 64)).isSome then
    { s with tier := { s.tier with
      lineCache := adjustWhere s.tier.lineCache (fun e => e.line == a / 64) (fun e => { e with dirty := true, data := d }) } }
  else { s with tier := { s.tier with mem := Memory.write s.tier.mem (a / 64 * 64) d } }

/-! ### Gateways: what they send (R146, R147) -/

/-- The binding of a proxy region. -/
def gwOf (s : State) (h : Nat) : Option GwBinding := Tab.get? s.regs.gw h

/-- Bytes of a block (Table 5.8). -/
def gwBlockBytes (g : GwBinding) : Nat := 4096 * 2 ^ g.block

/-- The copy of a block. -/
def gwBlockOf (s : State) (h b : Nat) : Option GwBlock := s.regs.gwBlocks.find? (fun x => x.handle == h && x.block == b)

/-- Change the copy of a block. -/
def updBlock (s : State) (h b : Nat) (f : GwBlock → GwBlock) : State :=
  { s with regs := { s.regs with gwBlocks := adjustWhere s.regs.gwBlocks (fun x => x.handle == h && x.block == b) f } }

/-- Tags of the requests outstanding here under a source ID, this device's own transfers and deltas among them (R75). -/
def tagsOf (s : State) (src : Nat) : List Nat :=
  (s.home.reqs.filter (fun r => r.h.src == src)).map (·.h.tag) ++ (s.fab.relays.filter (fun r => r.h.src == src)).map (·.h.tag)
    ++ (if src = s.dom.devid then (s.dom.deltas.filter (!·.acked)).map (·.tag) ++ s.regs.gwXfers.map (·.tag) else [])

/-- The first number from n up, modulo 65,536, that a list does not hold. -/
def freeTag (used : List Nat) (n : Nat) : Nat :=
  (((List.range (used.length + 1)).map (fun i => (n + i) % 65536)).find? (fun t => !used.contains t)).getD (n % 65536)

/-- A tag for a request that this device issues under a source ID (R75). -/
def ownTag (s : State) (src : Nat) : Nat := freeTag (tagsOf s src) s.regs.gwTag

/-- Ports that are UP to a peer gateway, lowest first; the first carries its transfers (DESIGN CHOICE, log 157). -/
def peerPort (s : State) (g : GwBinding) : Option Nat :=
  (s.ports.find? (fun e => e.2.st == .up && e.2.ptype == 3 && e.2.epid == g.peergw)).map (·.1)

/-- Put a transfer on its way on a port that is UP to the peer gateway; with none it waits for one. -/
def issueXfer (s : State) (g : GwBinding) (x : GwXfer) : State :=
  let port := peerPort s g
  let s := { s with regs := { s.regs with
    gwXfers := adjustWhere s.regs.gwXfers (fun y => y.tag == x.tag) (fun y => { y with port := port, retryAt := none }) } }
  let h : ReqHdr := { src := s.dom.devid, tag := x.tag, stall := g.rstall, tc := 3, handle := g.rhandle, mepoch := g.rmepoch
                      len := x.count, offset := g.roffset + x.line * 64, key := g.rkey }
  let d := if x.write then (List.range x.count).flatMap (fun i => lineBytes s (proxyPlace g.proxy ((x.line + i) * 64))) else []
  match port with
  | some p => send s p (.req (if x.write then 0x61 else 0x60) h d)
  | none => s

/-- Send one XFER to the peer gateway on an inter-domain port (R146, R147). -/
def sendXfer (s : State) (g : GwBinding) (line count : Nat) (write : Bool) : State :=
  let x : GwXfer := { tag := ownTag s s.dom.devid, handle := g.proxy, line := line, count := count, write := write }
  issueXfer { s with regs := { s.regs with gwTag := x.tag + 1, gwXfers := s.regs.gwXfers ++ [x] } } g x

/-- Runs of consecutive numbers within 64-line pages, as first and count. -/
def runsOf : List Nat → List (Nat × Nat)
  | [] => []
  | n :: l => match runsOf l with
    | (m, c) :: rest => if m = n + 1 ∧ m / 64 = n / 64 then (n, c + 1) :: rest else (n, 1) :: (m, c) :: rest
    | [] => [(n, 1)]

/-- Flush a block: an XFER_WRITE for each run of dirty lines (R147). -/
def gwFlushBlock (s : State) (g : GwBinding) (b : Nat) : State :=
  match gwBlockOf s g.proxy b with
  | none => s
  | some x =>
    let runs := runsOf (sortBy (fun a b => decide (a < b)) x.dirty)
    let s := updBlock s g.proxy b (fun x => { x with dirty := [] })
    each runs (fun r s => sendXfer s g r.1 r.2 true) s

/-! ### Tray ports -/

/-- The state of a CXL port. -/
def cxlOf (s : State) (c : Nat) : CxlS := Tab.getD s.tier.cxl c {}

/-- Change the state of a CXL port. -/
def updCxl (s : State) (c : Nat) (f : CxlS → CxlS) : State :=
  { s with tier := { s.tier with cxl := Tab.upd s.tier.cxl c {} f } }

/-- Operations outstanding at a tray (R204). -/
def trayBusy (s : State) (c : Nat) : Nat := ((cxlOf s c).ops.filter (·.issued.isSome)).length

/-- The limit of R204 and R210. -/
def trayLimit : Nat := 49152

/-- Issue operations that wait for a table entry, oldest first, while entries are free (R204, R575). -/
def issueOps (b : Nat) : Nat → List TrayOp → List TrayOp
  | _, [] => []
  | 0, l => l
  | n + 1, o :: l =>
    if o.issued.isNone && o.retryAt.isNone then { o with issued := some b } :: issueOps b n l
    else o :: issueOps b (n + 1) l

/-- Let waiting operations of a port take its free entries. -/
def traySettle (s : State) (c : Nat) : State :=
  if (cxlOf s c).up then
    updCxl s c (fun x => { x with ops := issueOps (now s) (trayLimit - trayBusy s c) x.ops })
  else s

/-- Add an operation for a tray line, unless one of its kind is already there (R203). -/
def trayAdd (s : State) (c line : Nat) (write : Bool) : State :=
  if (cxlOf s c).ops.any (fun o => o.line == line && o.write == write) then s
  else traySettle (updCxl s c (fun x => { x with ops := x.ops ++ [{ line := line, write := write }] })) c

/-! ### The HBM cache (R194 to R198) -/

/-- The frame that holds a tray place of a quarter's regions. -/
def frameOf (s : State) (q a : Nat) : Option Frame :=
  if framed a then s.tier.frames.find? (fun f => f.q == q && f.port == trayPort a && f.block == trayDpa a / 4096) else none

/-- Is a frame the one of a place. -/
def isFrame (q a : Nat) (f : Frame) : Bool := framed a && f.q == q && f.port == trayPort a && f.block == trayDpa a / 4096

/-- Index of a line in its frame. -/
def lineIdx (a : Nat) : Nat := a / 64 % 64

/-- Pseudo-channel of a set of the HBM cache: stack in the quarter and channel (R194). -/
def setChannel (set : Nat) : Nat × Nat := (set % 5, set / 5 % 64)

/-- Is a line valid in the HBM cache. -/
def inHbm (s : State) (q a : Nat) : Bool :=
  match frameOf s q a with
  | some f => f.valid.contains (lineIdx a)
  | none => false

/-- Is a line in a tally. -/
def isTallied (s : State) (a : Nat) : Bool :=
  s.home.tallies.any (fun t => match regionOf s t.handle with
    | some r => (if (gwOf s t.handle).isSome then some (proxyPlace t.handle (t.line * 64)) else placeOf r (t.line * 64)).map (· / 64) == some (a / 64)
    | none => false)

/-- Place of the first byte of a frame. -/
def frameBase (f : Frame) : Nat := trayBase f.port + 4096 * f.block

/-- The block of a proxy region that a frame holds a part of: binding and number. -/
def frameBlock (s : State) (f : Frame) : Option (GwBinding × Nat) :=
  if isProxy (frameBase f) then (gwOf s (proxyHandle (frameBase f))).map (fun g => (g, proxyOff (frameBase f) / gwBlockBytes g)) else none

/-- Is a frame in use itself: a fill or a write-back outstanding, a line of it in the line cache or a tally, or dirty lines of a port
that is down (R196, R207). -/
def frameUsed (s : State) (f : Frame) : Bool :=
  let first := f.block * 64
  (!isProxy (frameBase f) && !(cxlOf s f.port).up && !f.dirty.isEmpty)
    || (cxlOf s f.port).ops.any (fun o => decide (first ≤ o.line) && decide (o.line < first + 64))
    || s.tier.lineCache.any (fun e => e.q == f.q && e.line / 64 == frameBase f / 4096)
    || (List.range 64).any (fun i => isTallied s (frameBase f + 64 * i))

/-- Is a frame busy (R196): one of a block copy with every other frame of the block, and while the block is fetched. -/
def frameBusy (s : State) (f : Frame) : Bool :=
  match frameBlock s f with
  | some (g, b) =>
    (gwBlockOf s g.proxy b).any (fun x => x.fetched.isNone) || s.home.reqs.any (fun r => r.h.handle == g.proxy && r.begun && r.h.offset / gwBlockBytes g == b)
      || s.tier.frames.any (fun o => (frameBlock s o).map (fun e => (e.1.proxy, e.2)) == some (g.proxy, b) && frameUsed s o)
  | none => frameUsed s f

/-- Start the write-back of a dirty line (R197): what the line cache holds of it is written to the frame first. -/
def writeBack (s : State) (f : Frame) (i : Nat) : State := trayAdd (flushLine s (frameBase f + 64 * i)) f.port (f.block * 64 + i) true

/-- Drop a frame with no dirty line; its bytes leave HBM. -/
def dropFrame (s : State) (f : Frame) : State :=
  { s with tier := { s.tier with
    frames := s.tier.frames.filter (fun g => !(g.q == f.q && g.port == f.port && g.block == f.block))
    mem := Memory.clear s.tier.mem (frameBase f) 4096 } }

/-- Drop the frames that hold a block copy. -/
def dropBlockFrames (s : State) (g : GwBinding) (b : Nat) : State :=
  each (s.tier.frames.filter (fun o => (frameBlock s o).map (fun e => (e.1.proxy, e.2)) == some (g.proxy, b))) (fun o s => dropFrame s o) s

/-- A block copy is there no more. -/
def forgetBlock (s : State) (g : GwBinding) (b : Nat) : State :=
  { s with regs := { s.regs with gwBlocks := s.regs.gwBlocks.filter (fun x => !(x.handle == g.proxy && x.block == b)) } }

/-- Evict a frame that is not busy and has no dirty line for a tray: a block copy goes whole, flushed first (R147). -/
def evictFrame (s : State) (f : Frame) : State :=
  match frameBlock s f with
  | some (g, b) =>
    forgetBlock (dropBlockFrames (gwFlushBlock s g b) g b) g b
  | none => dropFrame s f

/-- Raise the re-reference values of a set until some frame that is not busy has 3 (R196). -/
def ageFrames (fs : List Frame) : Nat → List Frame
  | 0 => fs
  | n + 1 => if fs.any (fun f => f.rrpv == 3) then fs else ageFrames (fs.map (fun f => { f with rrpv := f.rrpv + 1 })) n

/-- Is a near-memory page of a quarter mapped by a region, or reserved for one that moves. -/
def pageUsed (s : State) (q p : Nat) : Bool :=
  s.regs.recs.any (fun e => e.2.place.any (fun r => runUses r false q p)) || s.regs.moves.any (fun m => m.place.any (fun r => runUses r false q p))
    || s.tier.drains.any (fun d => d.q == q && d.page.any (fun x => x.2 == p))

/-- The HBM page that a set of the cache lies in: sets rotate over the pseudo-channels in page order (R194), the first at the top of the
quarter's HBM, so that near memory, which grows from page 0, takes the highest numbers (DESIGN CHOICE, log 158). -/
def setPage (set : Nat) : Nat :=
  let ch := set % 320
  ((239 * 512 - 1 - ch) / 320 - set / 320 / 32) * 320 + ch

/-- Near-memory share of a quarter for the cache's purposes: while HBM_SPLIT takes a larger one, that one (R190). -/
def cacheFloor (s : State) (q : Nat) : Nat :=
  s.mb.cmds.foldl (fun n c => if c.drain = some (.split q) then max n (fld ((c.params[0]?).getD 0) 15 8) else n) (nth s.tier.split q)

/-- Sets of a pseudo-channel in the cache share of a quarter, less the tag store's 1/128 (Table 7.1). -/
def channelSets (s : State) (q ch : Nat) : Nat :=
  ((239 * 512 - 1 - ch) / 320 + 1 - ceilDiv (cacheFloor s q * 512 - ch) 320) * 32 * 127 / 128

/-- Pseudo-channels of a quarter that take cache blocks: neither retired nor under drain (R213, R214). -/
def openChannels (s : State) (q : Nat) : List Nat :=
  (List.range 320).filter (fun c => !s.tier.retired.contains (q, c % 5, c / 5) && !s.tier.drains.any (fun d => d.q == q && d.stack == c % 5 && d.pc == c / 5))

/-- From a set of a pseudo-channel up, the first whose page no region has taken (R214). -/
def setFrom (s : State) (q ch : Nat) : Nat → Nat → Nat
  | 0, k => k * 320 + ch
  | n + 1, k => if pageUsed s q (setPage (k * 320 + ch)) then setFrom s q ch n ((k + 1) % max 1 (channelSets s q ch)) else k * 320 + ch

/-- The set of a 4 KiB block in the sets that are open (R194; which of them is the implementation's, log 7). -/
def hbmSet (s : State) (q a : Nat) : Nat :=
  let l := openChannels s q
  let i := Config.hbmCacheSet q ((a - 2 ^ 52) / 4096)
  let ch := nth l (i % max 1 l.length)
  setFrom s q ch (channelSets s q ch) (i / max 1 l.length % max 1 (channelSets s q ch))

/-- A frame for the block of a place, in a way of its set: nothing valid, RRPV 2 (R195). -/
def addFrame (s : State) (q set a way : Nat) : State :=
  { s with tier := { s.tier with
    frames := s.tier.frames ++ [{ q := q, set := set, way := way, port := trayPort a, block := trayDpa a / 4096, rrpv := 2 }] } }

/-- Allocate a frame for a place of the HBM cache by the search of R196: a way without a valid line, else one whose re-reference value
reaches 3. None: every frame is busy, or the victim's dirty lines are being written back, and the miss waits for it. -/
def allocFrame (s : State) (q a : Nat) : Bool × State :=
  let set := hbmSet s q a
  let inSet := s.tier.frames.filter (fun f => f.q == q && f.set == set)
  let way := fun (w : Nat) => inSet.find? (fun f => f.way == w)
  match (List.range 16).find? (fun w => (way w).all (fun f => f.valid.isEmpty && !frameBusy s f)) with
  | some w => (true, addFrame ((way w).elim s (dropFrame s)) q set a w)
  | none =>
    let going := inSet.filter (fun f => f.evicting && !(cxlOf s f.port).ops.any (fun o => o.retryAt.isSome && o.line / 64 == f.block))
    match going.find? (fun f => f.dirty.isEmpty && !frameBusy s f) with
    | some f => (true, addFrame (evictFrame s f) q set a f.way)
    | none =>
      if !going.isEmpty then (false, each going (fun f s => each f.dirty (fun d s => writeBack s f d.1) s) s)
      else
        let aged := ageFrames (sortBy (fun x y => decide (x.way < y.way)) (inSet.filter (fun f => !frameBusy s f))) 3
        match aged.find? (fun f => f.rrpv == 3) with
        | none => (false, s)
        | some v =>
          let s := { s with tier := { s.tier with
            frames := s.tier.frames.map (fun f => (aged.find? (fun g => g.q == f.q && g.set == f.set && g.way == f.way)).getD f) } }
          if v.dirty.isEmpty then (true, addFrame (evictFrame s v) q set a v.way)
          else
            let s := { s with tier := { s.tier with
              frames := adjustWhere s.tier.frames (fun f => f.q == q && f.set == set && f.way == v.way) (fun f => { f with evicting := true }) } }
            (false, each v.dirty (fun d s => writeBack s v d.1) s)

/-- Cache lines of a quarter: the cache share less its tag store (Table 7.1). -/
def cacheLines (s : State) (q : Nat) : Nat :=
  let n := nth s.tier.split q
  let gone := (s.tier.retired.filter (fun r => r.1 == q)).length
  (2 ^ 30 * (239 - n) - 768 * 2 ^ 20 * gone) * 127 / 128 / 64

/-- Dirty lines of a quarter, oldest first: frame, index. -/
def dirtyLines (s : State) (q : Nat) : List (Frame × Nat × Word) :=
  sortBy (fun x y => decide (x.2.2.toNat < y.2.2.toNat))
    ((s.tier.frames.filter (·.q == q)).flatMap (fun f => f.dirty.map (fun d => (f, d))))

/-- Keep a quarter's dirty lines at 25 % of its cache lines (R197). -/
def limitDirty (s : State) (q : Nat) : State :=
  let d := dirtyLines s q
  let exceeds := d.length - cacheLines s q / 4
  each (d.take exceeds) (fun e s => writeBack s e.1 e.2.1) s

/-- Change the frame of a place. -/
def updFrame (s : State) (q a : Nat) (f : Frame → Frame) : State :=
  { s with tier := { s.tier with frames := adjustWhere s.tier.frames (isFrame q a) f } }

/-! ### Reading and writing lines -/

/-- What a line needs before it can be read. -/
inductive LineNeed where
  | ready
  /-- A fill from the tray. -/
  | fill
  /-- Its port is down: MEDIA_ERROR with the SEQ of the record (R207). -/
  | down (seq : Word)
deriving DecidableEq, Repr

/-- What a place needs. Lines of a sheaf stay readable in HBM while their port is down (R207). -/
def lineNeed (s : State) (sheaf : Bool) (q a : Nat) : LineNeed :=
  if isTray a then
    if !(cxlOf s (trayPort a)).up && !(sheaf && inHbm s q a) then .down (cxlOf s (trayPort a)).downSeq
    else if inHbm s q a then .ready else .fill
  else .ready

/-- Start what a line needs: a frame and a tray read; a full-line write needs only the frame (R129, R195). False: no
frame can be chosen (R196). -/
def startFill (s : State) (q a : Nat) (full : Bool) : Bool × State :=
  let ask := fun (s : State) => if full then s else trayAdd s (trayPort a) (trayDpa a / 64) false
  match frameOf s q a with
  | some _ => (true, ask s)
  | none =>
    let r := allocFrame s q a
    if r.1 then (true, ask r.2) else r

/-- Is a line poisoned (R577). -/
def poisonOf (s : State) (a : Nat) : Option Word := Tab.get? s.home.poison (a / 64)

/-- Poison a line, naming a record. -/
def setPoison (s : State) (a : Nat) (seq : Word) : State :=
  { s with home := { s.home with poison := Tab.set s.home.poison (a / 64) seq } }

/-- Clear a line's poison. -/
def clearPoison (s : State) (a : Nat) : State :=
  { s with home := { s.home with poison := Tab.erase s.home.poison (a / 64) } }

/-- A write to a line of the HBM cache: its frame's valid and dirty bits, and the re-reference value, 0 on a hit (R195, R197). -/
def markFrame (s : State) (q a : Nat) (hit : Bool) : State :=
  if isTray a then
    let out := (cxlOf s (trayPort a)).ops.any (fun o => o.write && o.line == trayDpa a / 64 && o.issued.isSome && !o.again)
    let s := if out then updCxl s (trayPort a) (fun x => { x with
        ops := adjustWhere x.ops (fun o => o.write && o.line == trayDpa a / 64) (fun o => { o with again := true }) }) else s
    limitDirty (updFrame s q a (fun f => { f with
      valid := addOnce f.valid (lineIdx a)
      dirty := if Tab.has f.dirty (lineIdx a) && !out then f.dirty else Tab.set f.dirty (lineIdx a) s.time.bell
      rrpv := if hit then 0 else f.rrpv })) q
  else updFrame s q a (fun f => { f with valid := addOnce f.valid (lineIdx a), rrpv := if hit then 0 else f.rrpv })

/-- Write one line at a place on the device's own account: its bytes, and its frame's bits (R195). -/
def putLine (s : State) (q a : Nat) (d : List Byte) : State := markFrame (placeLine s a d) q a true

/-! ### Expanders: blocks held (R228) -/

/-- Drop held blocks whose stored lines touch a line of a region's stored view. -/
def dropHeld (s : State) (handle off : Nat) : State :=
  { s with ecx := { s.ecx with
    held := s.ecx.held.filter (fun b => !(b.handle == handle && decide (b.first ≤ off / 64) && decide (off / 64 < b.first + b.lines))) } }

/-- Drop every held block of a region. -/
def dropHeldOf (s : State) (handle : Nat) : State :=
  { s with ecx := { s.ecx with held := s.ecx.held.filter (fun b => b.handle != handle) } }

end Sys2Proof.Machine
end

