-- ==== Sys2Proof/Machine/Expander.lean ====
section
/-! DEFINITION. Expanders: code tables, ECX blocks and their checks (Exponent-coded weights). -/

namespace Sys2Proof.Machine

/-! ### Code tables -/

/-- Exponent and mantissa bits, weights per block, segments, raw bytes and symbols of an EFMT (Table 8.5). -/
structure Efmt where
  e : Nat
  m : Nat
  weights : Nat
  nseg : Nat
  rlen : Nat
  nsym : Nat

/-- Table 8.5. -/
def efmtOf : Nat → Option Efmt
  | 0 => some ⟨8, 7, 2048, 8, 2048, 257⟩
  | 1 => some ⟨5, 10, 2048, 8, 2816, 33⟩
  | 2 => some ⟨4, 3, 4096, 16, 2048, 17⟩
  | 3 => some ⟨5, 2, 4096, 16, 1536, 33⟩
  | _ => none

/-- Code length of a symbol in a table image (Table 8.6). -/
def codeLen (image : List Byte) (sym : Nat) : Nat := natAt image (0x10 + sym / 2) 1 / 16 ^ (sym % 2) % 16

/-- Code lengths of all symbols. -/
def codeLens (image : List Byte) (nsym : Nat) : List Nat := (List.range nsym).map (codeLen image)

/-- The conditions of R225 on an image. -/
def tableImageOk (image : List Byte) : Bool :=
  match efmtOf (natAt image 2 1) with
  | none => false
  | some f =>
    let lens := codeLens image f.nsym
    let endOfLens := 0x10 + ceilDiv f.nsym 2
    image.length == 256 && natAt image 0 2 == 0xEC7B && allZero (slice image 3 13) && allZero (slice image endOfLens (256 - endOfLens))
      && (f.nsym % 2 == 0 || codeLen image f.nsym == 0)
      && lens.all (· ≤ 12) && (lens[f.nsym - 1]?).getD 0 != 0
      && (lens.foldl (fun a l => if l = 0 then a else a + 2 ^ (12 - l)) 0) == 2 ^ 12

/-- TDIG (R225). -/
def tableDigest (image : List Byte) : Nat := leNat (Config.shake256 image 4)

/-- Codes in canonical order (R224): for each length from 1, the symbols of that length, rising. -/
def codeOrder (lens : List Nat) : List (List Nat) :=
  (List.range 12).map (fun l => (lens.zipIdx.filter (fun e => e.1 == l + 1)).map (·.2))

/-- Decode one symbol from a bit stream, most significant bit of the code first: by length, the code value less the
first code of that length is the place among its symbols. Gives the symbol and the bits left. -/
def decodeSym : List (List Nat) → (code first : Nat) → List Bool → Option (Nat × List Bool)
  | [], _, _, _ => none
  | _, _, _, [] => none
  | syms :: more, code, first, b :: bs =>
    let code := 2 * code + b2n b
    let first := 2 * first
    match syms[code - first]? with
    | some y => if first ≤ code then some (y, bs) else decodeSym more code (first + syms.length) bs
    | none => decodeSym more code (first + syms.length) bs

/-- Bits of a byte string, bit 7 of each byte first (R223). -/
def bitsOf (d : List Byte) : List Bool := d.flatMap (fun b => (List.range 8).map (fun i => b.getLsbD (7 - i)))

/-- How a segment decodes (Table 8.8, sub-cases 3 and 4). -/
inductive SegEnd where
  | good
  | exceeds (sub : Nat)
  | under (sub : Nat)
deriving DecidableEq, Repr

/-- Decode a segment: up to 256 symbols, then EOB. Gives the symbols, the bits left over and how it ended. -/
def decodeSegment (order : List (List Nat)) (eob : Nat) : Nat → List Bool → List Nat → List Nat × List Bool × SegEnd
  | 0, bs, acc =>
    match decodeSym order 0 0 bs with
    | none => (acc.reverse, bs, .exceeds 3)
    | some (y, bs') =>
      if y ≠ eob then (acc.reverse, bs', .exceeds 4)
      else if 8 ≤ bs'.length then (acc.reverse, bs', .under 4) else (acc.reverse, bs', .good)
  | n + 1, bs, acc =>
    match decodeSym order 0 0 bs with
    | none => (acc.reverse, bs, .exceeds 3)
    | some (y, bs') => if y = eob then (acc.reverse, bs', .under 3) else decodeSegment order eob n bs' (y :: acc)

/-! ### Blocks -/

/-- What the expander makes of a block: lines it still needs, a failure with its record, or the 4,096 bytes. -/
inductive Expansion where
  | need (offsets : List Nat)
  | fail (code : Nat) (p1 p2 p3 : Word)
  | good (bytes : List Byte) (slot : Nat) (literal : Bool) (first lines : Nat)

/-- Number of bits lo up of a byte string. -/
def bitField (n lo width : Nat) : Nat := n / 2 ^ lo % 2 ^ width

/-- The expanded bytes from the raw plane and the exponents (R222). -/
def assemble (f : Efmt) (raw : List Byte) (exps : List Nat) : List Byte :=
  let plane := leNat raw
  let w := f.e + f.m + 1
  exps.zipIdx.flatMap (fun (x, j) =>
    let r := bitField plane (j * (f.m + 1)) (f.m + 1)
    natLe (w / 8) (r / 2 ^ f.m * 2 ^ (f.e + f.m) + x * 2 ^ f.m + r % 2 ^ f.m))

/-- Decode every segment; the first that fails decides: segment, symbols, bits consumed, end. -/
def decodeSegments (order : List (List Nat)) (eob : Nat) : Nat → List (List Byte) → List Nat → List Nat × Option (Nat × Nat × Nat × SegEnd)
  | _, [], acc => (acc, none)
  | k, d :: ds, acc =>
    let bs := bitsOf d
    let (ys, left, e) := decodeSegment order eob 256 bs []
    if e = .good then decodeSegments order eob (k + 1) ds (acc ++ ys)
    else (acc, some (k, ys.length, bs.length - left.length, e))

/-- Cut a byte string into pieces of given lengths. -/
def cutInto : List Nat → List Byte → List (List Byte)
  | [], _ => []
  | n :: ns, d => d.take n :: cutInto ns (d.drop n)

/-- Checks 2 to 9 of Table 8.7 on a block read from the stored view, and its expansion, for a request admitted in a bell (check 6). A
literal block smaller than 4,160 bytes and its tag is an underrun of sub-case 2: Table 8.8 gives the sums of a coded block only (DESIGN
CHOICE, log 170). -/
def expandBlock (s : State) (reg : Region) (block cpos clen : Nat) (admitted : Word) (d : List Byte) : Expansion :=
  let h0 := wordAt d 0
  let h1 := wordAt d 8
  let h2 := wordAt d 16
  let h7 := wordAt d 56
  let slot := fld h0 45 36
  let gen := fld h1 63 32
  let p1 := word (cpos * 64)
  let p3 := pack [(32, gen), (0, slot)]
  let bad := Expansion.fail 0x0805 p1 2 p3
  let sealed := bit h0 49
  let mode := fld h0 51 50
  let cbytes := fld h0 12 0
  let segs := (List.range 16).map (fun k => natAt d (24 + 2 * k) 2)
  match efmtOf (fld h0 55 52) with
  | none => bad
  | some f =>
    let literal := mode == 1
    if fld h0 63 56 ≠ 0xEC ∨ 1 < mode ∨ sealed ≠ reg.sealed ∨ fld h0 48 46 ≠ 0 ∨ fld h0 35 13 ≠ 0 ∨ fld h2 31 0 ≠ 0
        ∨ fld h7 63 36 ≠ 0 ∨ (segs.drop (if literal then 0 else f.nseg)).any (· != 0)
        ∨ (literal ∧ (slot ≠ 0 ∨ gen ≠ 0 ∨ fld h1 31 0 ≠ 0)) then bad
    else
      let sum := if literal then 4160 + 16 * b2n sealed else 64 + f.rlen + segs.foldl (· + ·) 0 + 16 * b2n sealed
      if cbytes > clen * 64 then .fail 0x0801 p1 1 p3
      else if cbytes ≤ (clen - 1) * 64 then .fail 0x0802 p1 1 p3
      else if (if literal then cbytes > sum else sum > cbytes) then .fail 0x0801 p1 2 p3
      else if (if literal then cbytes < sum else sum < cbytes) then .fail 0x0802 p1 2 p3
      else
        let xblk := fld h7 35 0
        let body := slice d 64 (cbytes - 64 - 16 * b2n sealed)
        let plain : Option (List Byte) :=
          if !sealed then some body
          else match Tab.get? s.sec.content reg.handle with
            | none => none
            | some k =>
              let h0' := word (h0.toNat - 2 ^ 36 * slot)
              let aad := wordBytes h0' ++ natLe 4 (fld h1 31 0) ++ natLe 4 0 ++ slice d 16 48
              Config.gcmOpen k.key (k.nsalt ++ natLe 5 xblk) aad body (slice d (cbytes - 16) 16)
        match plain with
        | none => .fail 0x0808 p1 0 p3
        | some body =>
          if xblk ≠ block then .fail 0x0806 p1 (word xblk) p3
          else if literal then .good (padTo 4096 body) 0 true cpos clen
          else
            let t := Tab.getD s.ecx.tables slot {}
            let usable := t.state == 1 || (t.state == 2 && decide (admitted.toNat < t.fence.toNat))
            if !(usable && t.gen == gen) then .fail 0x0803 p1 (pack [(32, t.state), (0, t.gen)]) p3
            else if t.tdig ≠ fld h1 31 0 ∨ natAt t.image 2 1 ≠ fld h0 55 52 then .fail 0x0804 p1 (word t.tdig) p3
            else
              let order := codeOrder (codeLens t.image f.nsym)
              let parts := cutInto (segs.take f.nseg) (body.drop f.rlen)
              match decodeSegments order (f.nsym - 1) 0 parts [] with
              | (_, some (k, n, bits, e)) =>
                let p2 := fun (sub : Nat) => pack [(32, bits), (16, n), (8, k), (0, sub)]
                match e with
                | .exceeds sub => .fail 0x0801 p1 (p2 sub) p3
                | .under sub => .fail 0x0802 p1 (p2 sub) p3
                | .good => bad
              | (exps, none) =>
                let out := assemble f (body.take f.rlen) exps
                let crc := (crc32c out).toNat
                if crc ≠ fld h2 63 32 then .fail 0x0807 p1 (word crc) p3 else .good out slot false cpos clen

/-- NBLK of a region's header (Table 8.2), where its first line can be read. -/
def storedLine (s : State) (reg : Region) (off : Nat) : List Byte :=
  match placeOf reg (off / 64 * 64) with
  | some a => lineBytes s a
  | none => List.replicate 64 0

/-- Lines of the stored view, by offset, that are not readable yet. -/
def missingLines (s : State) (reg : Region) (offs : List Nat) : List Nat :=
  offs.filter (fun o => match placeOf reg o with
    | some a => lineNeed s reg.sheaf reg.homeq a != .ready
    | none => false)

/-- Expand block i of a region for a request admitted in a bell: held, or read from the region header, the block map and
the block's lines, each once it is readable (R219, R228 to R230). -/
def expand (s : State) (reg : Region) (block : Nat) (admitted : Word) : Expansion :=
  match s.ecx.held.find? (fun b => b.handle == reg.handle && b.block == block) with
  | some b => .good b.bytes b.slot b.literal b.first b.lines
  | none =>
    let mapOff := 64 + 8 * block
    let need1 := missingLines s reg [0, mapOff / 64 * 64]
    if !need1.isEmpty then .need need1
    else
      let hdr := storedLine s reg 0
      let entry := wordAt (storedLine s reg mapOff) (mapOff % 64)
      let clen := fld entry 63 56
      let cpos := fld entry 41 0
      if natAt hdr 0 2 ≠ 0xEC01 ∨ natAt hdr 8 8 ≤ block ∨ reg.bytes ≤ mapOff ∨ clen < 1 ∨ 66 < clen
          ∨ reg.bytes < (cpos + clen) * 64 then
        .fail 0x0805 (word (cpos * 64)) 1 0
      else
        let offs := (List.range clen).map (fun i => (cpos + i) * 64)
        let need2 := missingLines s reg offs
        if !need2.isEmpty then .need need2
        else expandBlock s reg block cpos clen admitted (offs.flatMap (storedLine s reg))

/-- Is an expander of a quarter in reset, or out of service after a failed self-test (R463)? -/
def expanderOut (s : State) (q i : Nat) : Bool :=
  s.rst.running.any (fun r => decide (r.scope = .engine q .expander i)) || s.eng.failed.contains (q, .expander, i)

/-- The expander that takes the blocks of HBM controller `i`: its own, or while that is in reset the expander of the
lowest-numbered HBM controller of the quarter that is not (R463). -/
def hbmExpander (s : State) (q i : Nat) : Nat :=
  if expanderOut s q i then q * 9 + ((List.range 5).find? (fun j => !expanderOut s q j)).getD i else q * 9 + i

/-- The expander of a block whose first stored unit lies at a place (R226): that of its HBM controller, or of the CXL
port where a tray fill was needed; while that port's expander is in reset, that of the controller holding the frame (R463). -/
def expanderOf (s : State) (q a : Nat) (filled : Bool) : Nat :=
  if isTray a then
    if filled && !expanderOut s q (5 + trayPort a % 4) then q * 9 + 5 + trayPort a % 4
    else hbmExpander s q (((frameOf s q a).elim (hbmSet s q a) (·.set)) % 5)
  else hbmExpander s q (a % 2 ^ 38 / 2 ^ 21 % 5)

/-- Offset in the stored view of a block's first unit, as its map entry names it (Table 8.3). -/
def firstOffset (s : State) (reg : Region) (block : Nat) : Nat :=
  let mapOff := 64 + 8 * block
  64 * fld (wordAt (storedLine s reg (mapOff / 64 * 64)) (mapOff % 64)) 41 0

/-- The place of a block's first stored unit. -/
def firstUnit (s : State) (reg : Region) (block : Nat) : Nat := (placeOf reg (firstOffset s reg block)).getD 0

/-- The header of a block, where its map line and its first unit can be read. -/
def blockHeader (s : State) (reg : Region) (block : Nat) : Option (List Byte) :=
  let off := firstOffset s reg block
  if (missingLines s reg [(64 + 8 * block) / 64 * 64, off]).isEmpty then some (storedLine s reg off) else none

/-- P1 and P3 of a record of a block that is not expanded: its stored offset, and SLOT and GEN of its header; 0 for what cannot be read yet
(DESIGN CHOICE, log 171). -/
def blockParams (s : State) (reg : Region) (block : Nat) : Word × Word :=
  match blockHeader s reg block with
  | some h => (word (firstOffset s reg block), pack [(32, fld (wordAt h 8) 63 32), (0, fld (wordAt h 0) 45 36)])
  | none => (if (missingLines s reg [(64 + 8 * block) / 64 * 64]).isEmpty then word (firstOffset s reg block) else 0, 0)

/-- An expander has finished or failed a block (R458). -/
def blockEnded (s : State) (exp : Nat) : State := { s with ecx := { s.ecx with ended := Tab.upd s.ecx.ended exp 0 (· + 1) } }

/-- Hold a block just expanded: the 16 latest of an expander, none of a RETIRING slot (R228). -/
def holdBlock (s : State) (exp : Nat) (reg : Region) (block : Nat) (bytes : List Byte) (slot : Nat) (literal : Bool)
    (first lines : Nat) : State :=
  if !literal && (Tab.getD s.ecx.tables slot {}).state != 1 then s
  else
    let others := s.ecx.held.filter (fun b => !(b.handle == reg.handle && b.block == block))
    let mine := (others.filter (·.exp == exp)).take 15
    { s with ecx := { s.ecx with
      held := { exp := exp, handle := reg.handle, block := block, slot := slot, literal := literal, bytes := bytes
                first := first, lines := lines } :: (mine ++ others.filter (·.exp != exp)) } }

/-- Record an expander failure: once for a block and code in 1,000 bells; gives the SEQ for DETAIL (R232). -/
def ecxFail (s : State) (exp handle block stall principal code : Nat) (p1 p2 p3 : Word) : State × Word :=
  match s.ecx.recent.find? (fun e => e.1 == (handle, block, code) && decide (since s e.2.1 < 1000)) with
  | some e => (s, e.2.2)
  | none =>
    let q := exp / 9
    let seq := nextSeq s code q
    let s := record s { code := code, quarter := q, kind := 8, inst := exp % 9, stall := stall, principal := principal
                        p0 := pack [(40, handle), (0, block)], p1 := p1, p2 := p2, p3 := p3 }
    ({ s with ecx := { s.ecx with
      recent := ((handle, block, code), s.time.bell, seq) :: s.ecx.recent.filter (fun e => e.1 != (handle, block, code)) } }, seq)

/-! ### The field of R288, for parity (R445, R449) -/

/-- Multiply by 0x02 in GF(2^8) modulo 0x11D. -/
def gfDouble (b : Byte) : Byte := if b.getLsbD 7 then (b <<< 1) ^^^ 0x1D#8 else b <<< 1

/-- Product in GF(2^8). -/
def gfMul (a b : Byte) : Byte :=
  ((List.range 8).foldl (fun (acc : Byte × Byte) i => (if b.getLsbD i then acc.1 ^^^ acc.2 else acc.1, gfDouble acc.2)) (0, a)).1

/-- g to the power n. -/
def gfPow (n : Nat) : Byte := iter gfDouble n 1

/-- The inverse of a non-zero element: its 254th power, by square and multiply. -/
def gfInv (a : Byte) : Byte :=
  ((List.range 7).foldl (fun (acc : Byte × Byte) _ => let sq := gfMul acc.2 acc.2; (gfMul acc.1 sq, sq)) (1, a)).1

/-- Scale every byte. -/
def gfScale (c : Byte) (d : List Byte) : List Byte := d.map (gfMul c)

end Sys2Proof.Machine
end

