-- ==== Sys2Proof/Machine/Flags.lean ====
section
/-! DEFINITION. Status fields computed from the state: the load byte, TIME_STAT, DEV_STAT, the retry-after times. -/

namespace Sys2Proof.Machine

/-! ### The load byte (R81, R209, R210) -/

/-- Operations outstanding in a quarter's HBM controllers: requests in service there (DEDUCED, log 12). -/
def hbmBusy (s : State) (q : Nat) : Nat := (s.home.reqs.filter (fun r => r.q == q && r.begun && !r.usedTray)).length

/-- Admission limit of the HBM tier (R210). -/
def hbmLimit : Nat := 40960

/-- A fraction in sixteenths, at most 15. -/
def nibble (used limit : Nat) : Nat := if limit = 0 then 0 else min 15 (16 * used / limit)

/-- LOAD[3:0]: share of the stall's quota used in the window, up to and including the request where it has been charged (R209). -/
def quotaNibble (s : State) (q stall : Nat) (tray : Bool) (used : Option Nat) : Nat :=
  let t := Tab.getD s.stalls stall {}
  if tray then nibble (used.getD (nth t.trayUsed q)) t.trayQuota else nibble (used.getD (nth t.hbmUsed q)) t.hbmQuota

/-- LOAD of a response from a home (R81): occupancy of the serving tier and the stall's quota. -/
def loadByte (s : State) (q stall : Nat) (tray : Option Nat) (used : Option Nat) : Nat :=
  match tray with
  | none => nibble (hbmBusy s q) hbmLimit * 16 + quotaNibble s q stall false used
  | some c =>
    nibble ((Tab.getD s.tier.cxl c {}).ops.filter (·.issued.isSome)).length 49152 * 16 + quotaNibble s q stall true used

/-- LOAD of a response issued before a home is reached: occupancy 0 (R81); the quota of the ingress quarter. -/
def earlyLoad (s : State) (q stall : Nat) : Nat := quotaNibble s q stall false none

/-! ### Retry-after (R90) -/

/-- RETRY of a full tally queue of a depth. -/
def retryTally (depth : Nat) : Nat := min 255 (ceilDiv (depth * 10) 1400)

/-- RETRY of POLICED: tenths of a bell to the next strike, at least 1. -/
def retryPoliced (s : State) : Nat := max 1 (ceilDiv ((1400 - s.time.phase) * 10) 1400)

/-! ### TIME_STAT (Table 2.4) -/

/-- TIME_STAT of a function with its snapshot phase. -/
def timeStat (s : State) (phase : Nat) : Nat :=
  phase * 1024 + b2n s.time.stepped * 32 + b2n (s.time.slewLeft != 0) * 16 + b2n s.time.holdover * 8
    + b2n s.time.ptpOk * 4 + b2n s.time.ppsOk * 2 + b2n s.time.valid

/-! ### Floats of binary32, where a field is compared (TMO, THR) -/

/-- Order of two binary32 bit patterns that are not NaN, −0 equal to +0. -/
def f32Key (x : BitVec 32) : Int := if x.getLsbD 31 then -((x.toNat : Int) - 2 ^ 31) else (x.toNat : Int)

/-- Is a binary32 a NaN. -/
def f32Nan (x : BitVec 32) : Bool := (x.toNat / 2 ^ 23 % 256 == 255) && x.toNat % 2 ^ 23 != 0

end Sys2Proof.Machine
end

