-- ==== Sys2Proof/Machine/Requests.lean ====
section
/-! DEFINITION. Requests: status codes, responses, the end of a request, what it must be checked against. -/

namespace Sys2Proof.Machine

/-! ### Status codes (Table 3.11) and mailbox statuses -/

def OK : Nat := 0x00
def DEFERRED : Nat := 0x01
def OK_COMBINED : Nat := 0x02
def BUSY_RETRY : Nat := 0x08
def POLICED : Nat := 0x09
def AGED : Nat := 0x0A
def KEY_MISMATCH : Nat := 0x10
def KEY_REVOKED : Nat := 0x11
def NO_REGION : Nat := 0x12
def OUT_OF_BOUNDS : Nat := 0x13
def NOT_OWNER : Nat := 0x14
def NOT_COHERENT : Nat := 0x15
def EPOCH_STALE : Nat := 0x16
def PUBLISH_CONFLICT : Nat := 0x17
def READ_ONLY : Nat := 0x18
def NO_HOME : Nat := 0x19
def POISONED : Nat := 0x20
def MEDIA_ERROR : Nat := 0x21
def UNSUPPORTED : Nat := 0x22
def ABORTED_RESET : Nat := 0x30
def RESOURCE_HELD : Nat := 0x40
def QUORUM_REQUIRED : Nat := 0x41
def BAD_SIGNATURE : Nat := 0x42

/-! ### Maps (R112) -/

/-- W_max: the largest completion window of the ports (R114). -/
def wMax (s : State) : Nat := s.ports.foldl (fun a e => max a e.2.window) 4

/-- The map an MEPOCH selects, and whether it is the previous one (R112). -/
def selectMap (s : State) (mepoch : Nat) : Option (CompMap × Bool) :=
  if mepoch = s.maps.cur.epoch % 256 then some (s.maps.cur, false)
  else match s.maps.prev with
    | some m => if mepoch = m.epoch % 256 ∧ bellN s < s.maps.switchBell.toNat + wMax s then some (m, true) else none
    | none => none

/-- Does the role set of this device for a composition hold a role: 0 HOME, 1 ENGINE, 2 GATEWAY, 3 SHADOW. -/
def hasRole (s : State) (m : CompMap) (comp role : Nat) : Bool :=
  Tab.getD m.roles (2 ^ 20 * s.dom.devid + comp) 0 / 2 ^ role % 2 == 1

/-- The composition a stall works in (R109). -/
def stallComp (s : State) (stall : Nat) : Option Nat := (Tab.getD s.stalls stall {}).comp

/-- The principal of a stall (STALL_SET). -/
def stallPrincipal (s : State) (stall : Nat) : Nat := (Tab.getD s.stalls stall {}).principal

/-! ### Meters (Table 4.5) -/

/-- Add to the meter of a composition. -/
def meter (s : State) (comp : Nat) (f : Meter → Meter) : State :=
  { s with maps := { s.maps with meters := Tab.upd s.maps.meters comp {} f } }

/-- A refusal charged to a composition, where there is one (R110). -/
def meterRefused (s : State) (comp : Option Nat) : State :=
  match comp with
  | some c => meter s c (fun m => { m with refused := m.refused + 1 })
  | none => s

/-! ### Responses -/

/-- The header of a response to a request (Table 3.7); the class and identity are echoed. -/
def responseTo (s : State) (opc : Nat) (h : ReqHdr) (status detail load retry len : Nat) : RspHdr :=
  { src := s.dom.devid, tag := h.tag, stall := h.stall, svc := h.svc, cm := h.cm, tc := h.tc, opc := opc
    status := status, load := load, len := len, retry := retry, detail := word detail }

/-- Answer a request that its port's device refuses before it reaches a home; one that a device forwarded goes back to that device with
ORIGID (R581). -/
def refuse (s : State) (p opc : Nat) (h : ReqHdr) (status detail retry : Nat) : State :=
  let q := portQuarter p
  let out := responseTo s opc h status detail (earlyLoad s q h.stall) retry 0
  if (portOf s p).ptype = 1 then sendResponse s p (portOf s p).epid { out with origid := h.src } [] 0
  else sendResponse s p h.src out [] 0

/-! ### The lines of a request -/

/-- Is a request a load of an ECX region's expanded view (R217). -/
def isExpanded (reg : Region) (opc : Nat) (raw : Bool) : Bool := reg.ecx && opc == 1 && !raw

/-- Offsets of the lines of the stored view a request touches, rising; an expanded LOAD touches the region header, its block map line and
its block's lines (R219, R229). -/
def reqLines (s : State) (r : Req) : List Nat :=
  if r.opc == 0x20 || isOwnOp r.opc then []
  else match regionOf s r.h.handle with
    | none => []
    | some g =>
      if isExpanded g r.opc r.h.raw then
        let mapOff := 64 + 8 * (r.h.offset / 4096)
        let e := wordAt (storedLine s g mapOff) (mapOff % 64)
        let heads := [0, mapOff / 64 * 64].eraseDups
        if (missingLines s g heads).isEmpty then heads ++ (List.range (min 66 (fld e 63 56))).map (fun i => (fld e 41 0 + i) * 64) else heads
      else (List.range (max r.h.len 1)).map (fun i => r.h.offset / 64 * 64 + 64 * i)

/-- Place of a line of a region: in a proxy region that of its block copy (R145). -/
def linePlace (s : State) (g : Region) (off : Nat) : Option Nat :=
  if (gwOf s g.handle).isSome then (if off < g.bytes then some (proxyPlace g.handle off) else none) else placeOf g off

/-- Entries of a tally's line: requests that reached the home with the line unperformed. -/
def lineDepth (s : State) (h off : Nat) : Nat :=
  (s.home.reqs.filter (fun e => e.lineNo != 0 && e.h.handle == h && !e.done.contains off && (reqLines s e).contains off)).length

/-- The CXL port whose tray a request reads, where it reads one: that of the stored lines it needs (R210). -/
def requestTray (s : State) (r : Req) : Option Nat :=
  if r.usedTray then
    match regionOf s r.h.handle with
    | some g =>
      let offs := if r.filled.isEmpty then reqLines s r else r.filled
      (offs.findSome? (fun o => (placeOf g o).bind (fun a => if isTray a then some a else none))).map trayPort
    | none => none
  else none

/-- Where responses of a request go (R581, R97, R154). `final` marks the last. -/
def respond (s : State) (r : Req) (status : Nat) (detail : Word) (retry : Nat) (d : List Byte) (final : Bool) : State :=
  let load := if r.lineNo = 0 ∧ r.id = 0 then earlyLoad s (if r.port < 256 then portQuarter r.port else r.q) r.h.stall
    else loadByte s r.q r.h.stall (requestTray s r) (if r.charged then some r.usedAt else none)
  let h := responseTo s r.opc r.h status detail.toNat load retry (ceilDiv d.length 64)
  match r.org with
  | .port => sendResponse s r.port r.h.src h d r.sealOf
  | .forwarded dev => sendResponse s r.port dev { h with origid := r.h.src } d 0
  | .delta dev => sendResponse s r.port dev { h with origid := r.h.src } d 0
  | .copy dev => sendResponse s r.port dev { h with origid := r.h.src } d 0
  | .cxl fn =>
    if final then { s with fab := { s.fab with cxlOut := (r.q, fn, status != OK && status != OK_COMBINED, d) :: s.fab.cxlOut } } else s
  | .engine acc =>
    if final then { s with eng := { s.eng with
      access := adjustWhere s.eng.access (fun a => a.acc == acc) (fun a => { a with answer := some (status, detail, d) }) } }
    else s
  | .mirror _ _ => s

/-- Charge a request that ended well to the composition of its region (R110, Table 4.5). -/
def meterDone (s : State) (r : Req) (d : List Byte) : State :=
  meter s r.comp (fun m =>
    if r.opc == 1 || r.opc == 0x60 || r.opc == 4 || r.opc == 5 then { m with rdBytes := m.rdBytes + word d.length }
    else if isAtomic r.opc then { m with atomics := m.atomics + 1 }
    else if writesLines r.opc then { m with wrBytes := m.wrBytes + word (64 * r.h.len) }
    else m)

/-- RHASH of a mirror unit (Table 17.10). -/
def respHash (status : Nat) (d : List Byte) : Word := wordAt (Config.shake256 (BitVec.ofNat 8 status :: d) 8) 0

/-- Send the mirror of a request to the shadow of its composition (R453), as one CONTRIB or two. -/
def sendMirror (s : State) (r : Req) (status : Nat) (d : List Byte) (dev : Nat) : State :=
  match pickPort (portsToDevice s dev) r.h.src r.h.stall r.h.svc r.h.qp with
  | none => s
  | some p =>
    let unit := wordBytes (word r.mirror) ++ wordBytes (pack [(56, r.opc), (48, status), (40, r.h.len)])
      ++ wordBytes (pack [(40, r.h.handle)]) ++ wordBytes (pack [(16, r.h.offset)]) ++ wordBytes (respHash status d)
      ++ List.replicate 24 0
    let h : EngHdr := { src := s.dom.devid, tc := 2, comp := r.comp, block := r.mirror % 2 ^ 32 }
    let units := ceilDiv r.data.length 64
    if units ≤ 63 then send s p (.eng 1 { h with len := units + 1 } (unit ++ r.data) 0)
    else
      let s := send s p (.eng 1 { h with len := 64 } (unit ++ r.data.take (63 * 64)) 0)
      send s p (.eng 1 { h with rank := 1, len := units - 63 } (r.data.drop (63 * 64)) 0)

/-- Devices that shadow a composition (R453). -/
def shadowsOf (s : State) (comp : Nat) : List Nat :=
  (s.maps.cur.roles.filter (fun e => e.1 % 2 ^ 20 == comp && e.2 / 8 % 2 == 1)).map (fun e => e.1 / 2 ^ 20)

/-- Free the granules of a request that leaves the buffer unbegun. -/
def leaveBuffer (s : State) (r : Req) : State :=
  if r.begun then s
  else
    let g := ceilDiv (32 + r.data.length) 64
    if r.shared then poolGive s (portQuarter r.port) (voqKey r.h.tc r.port (0x100 + r.q)) g
    else if r.org.fabric then updPort s r.port (fun ps => { ps with inUse := modNth ps.inUse r.h.tc (· - g) }) else s

/-- Does a request that leaves its VOQ meet congestion there (R367). -/
def voqCongested (s : State) (r : Req) : Bool :=
  let waited := now s - r.entered
  (match r.org with | .port => true | .forwarded _ => true | _ => false) && !r.begun && r.h.tc != 0
    && ((if r.h.tc = 1 then 350 ≤ waited else 700 ≤ waited) || (!r.shared && 0 < waited) || poolFree s (portQuarter r.port) < poolSize / 8)

/-- A request's header as it leaves its VOQ: marked where it met congestion (R82). -/
def markedHdr (s : State) (r : Req) : ReqHdr := if voqCongested s r then { r.h with cm := true } else r.h

/-- Free tallies that were closing once their queue is empty (R141). -/
def freeTallies (s : State) : State :=
  { s with home := { s.home with
    tallies := s.home.tallies.filter (fun t => !t.closing || lineDepth s t.handle (t.line * 64) != 0) } }

/-- A member of a closed group that ends on its own leaves the others the next of them as the one that is performed for all (R135). -/
def passLead (s : State) (r : Req) : State :=
  if r.leader = r.id ∧ r.leader ≠ 0 then
    match minBy (·.lineNo) (s.home.reqs.filter (fun e => e.leader == r.id && e.id != r.id)) with
    | some n => { s with home := { s.home with
        reqs := s.home.reqs.map (fun e => if e.leader == r.id then
          { e with leader := n.id, wait := if e.id == n.id && e.wait == .group && !s.home.groups.any (·.first == r.id) then .order else e.wait } else e)
        groups := adjustWhere s.home.groups (·.first == r.id) (fun g => { g with first := n.id }) } }
    | none => { s with home := { s.home with groups := s.home.groups.filter (·.first != r.id) } }
  else s

/-- An entry whose WAIT state has no request left: sharers stay sharers, else the line is in I (R174, R176). -/
def dirSettled (e : DirEntry) : Option DirEntry :=
  if e.ptrs.isEmpty && !(e.coarse && e.state == 4) then none
  else if e.state == 6 then none else some { e with state := 1, waiter := 0, pend := 0 }

/-- Complete the transitions of WAIT entries that no snoop and no request hold any more (R176). -/
def settleDir (s : State) : State :=
  let idle := fun (e : DirEntry) => 4 ≤ e.state && e.pend == 0 && !s.home.reqs.any (fun r => e.waiter != 0 && r.id + 1 == e.waiter)
  if s.home.dir.any idle then
    { s with home := { s.home with dir := s.home.dir.filterMap (fun e => if idle e then dirSettled e else some e) } }
  else s

/-- End a request: it leaves the home, is charged, mirrored and answered (R79). -/
def finish (s : State) (r : Req) (status : Nat) (detail : Word) (d : List Byte) : State :=
  let r := { r with h := markedHdr s r }
  let s := passLead (leaveBuffer s r) r
  let s := { s with home := { s.home with reqs := s.home.reqs.filter (fun o => o.id != r.id), served := Tab.upd s.home.served r.q 0 (· + 1) } }
  let s := settleDir (if s.home.tallies.any (·.closing) then freeTallies s else s)
  let s := if status == OK || status == OK_COMBINED then meterDone s r d
    else if status == BUSY_RETRY || status == AGED || status == OUT_OF_BOUNDS then meterRefused s (some r.comp) else s
  let s := if r.mirror == 0 then s else each (shadowsOf s r.comp) (fun dev s => sendMirror s r status d dev) s
  respond s r status detail (if status == BUSY_RETRY && detail == 1 then retryTally 4096 else 0) d true

/-- Change an admitted request. -/
def updReq (s : State) (id : Nat) (f : Req → Req) : State :=
  { s with home := { s.home with reqs := adjustWhere s.home.reqs (fun r => r.id == id) f } }

/-- Estimated remaining time of a deferred request in tenths of a bell (R206): mean latency of the port's reads in the
last 1,000 bells less the time since the latest issue of the read it waits on, at least 1; unknown without a read. -/
def deferEstimate (s : State) (r : Req) : Nat :=
  match regionOf s r.h.handle with
  | none => 0xFFFF
  | some g =>
    let places := (reqLines s r).filterMap (fun o => (placeOf g o).bind (fun a => if isTray a then some a else none))
    let read := places.findSome? (fun a => (cxlOf s (trayPort a)).ops.find? (fun o => !o.write && o.line == trayDpa a / 64))
    match places.find? (fun a => (cxlOf s (trayPort a)).ops.any (fun o => !o.write && o.line == trayDpa a / 64)) <|> places.head? with
    | none => 0xFFFF
    | some a =>
      let recent := (cxlOf s (trayPort a)).latencies.filter (fun l => decide (since s l.1 < 1000))
      if recent.isEmpty then 0xFFFF
      else
        let mean := recent.foldl (fun t l => t + l.2) 0 / recent.length
        match read.bind (·.issued) with
        | some b => max 1 (mean - (now s - b) / 140)
        | none => max 1 mean

/-- Issue DEFERRED for a request (R84): the count goes up. -/
def defer (s : State) (r : Req) : State :=
  let n := r.deferrals + 1
  let s := respond s r DEFERRED (pack [(16, min 0xFFFF (deferEstimate s r)), (0, n % 65536)]) 0 [] false
  updReq s r.id (fun r => { r with deferrals := n, lastDefer := s.time.bell })

/-! ### Streams (R127) -/

/-- Are two requests of one stream. -/
def sameStream (a b : Req) : Bool :=
  a.h.src == b.h.src && a.h.stall == b.h.stall && a.h.svc == b.h.svc && a.h.qp == b.h.qp && a.port == b.port && a.q == b.q
    && a.org == b.org

/-- Do two requests touch a line both have yet to perform. -/
def overlap (s : State) (a b : Req) : Bool :=
  a.h.handle == b.h.handle && (reqLines s a).any (fun o => (reqLines s b).contains o && !b.done.contains o)

/-! ### Refusal and reissue (R142 to R144) -/

/-- A stream at a refusal point; 0xFF is the home agent. -/
def isRefusing (q point home p : Nat) (h : ReqHdr) (e : Refusing) : Bool :=
  e.q == q && e.point == point && e.home == home && e.src == h.src && e.stall == h.stall && e.svc == h.svc && e.qp == h.qp
    && e.port == p

/-- Is a point of a quarter in its full state (R144). -/
def pointFull (s : State) (q point : Nat) : Bool := s.sw.full.any (fun f => f.q == q && f.point == point)

/-- Streams a point keeps (R144): 65,536 for each point of a quarter. -/
def refusingCount (s : State) (q point : Nat) : Nat := (s.sw.refusing.filter (fun e => e.q == q && e.point == point)).length

/-- A request meets a refusal point: refused with cause 4, or let through, ending the refusing state with RI = 1. -/
def meetPoint (s : State) (q point home p opc : Nat) (h : ReqHdr) (id : Nat) : Bool × State :=
  let here := fun e => isRefusing q point home p h e && decide (e.after < id)
  if s.sw.refusing.any here then
    if h.ri then (false, { s with sw := { s.sw with refusing := s.sw.refusing.filter (fun e => !here e) } })
    else (true, { s with sw := { s.sw with
      refusing := adjustWhere s.sw.refusing here (fun e => { e with last := s.time.bell }) } })
  else if pointFull s q point && isOrderedWrite opc && !h.ri then
    (true, { s with sw := { s.sw with
      full := adjustWhere s.sw.full (fun f => f.q == q && f.point == point)
        (fun f => { f with last := s.time.bell, count := f.count + 1 }) } })
  else (false, s)

/-- A point refuses a request with BUSY_RETRY or POLICED: the stream of an ordered write enters the refusing state, and
a table that fills enters its full state (R142, R144). -/
def enterRefusing (s : State) (q point home p opc : Nat) (h : ReqHdr) (after : Nat) : State :=
  if !isOrderedWrite opc || s.sw.refusing.any (isRefusing q point home p h) || 65536 ≤ refusingCount s q point then s
  else
    let s := { s with sw := { s.sw with
      refusing := { q := q, point := point, home := home, src := h.src, stall := h.stall, svc := h.svc, qp := h.qp, port := p
                    last := s.time.bell, after := after } :: s.sw.refusing } }
    if 65536 ≤ refusingCount s q point ∧ !pointFull s q point then
      let s := { s with sw := { s.sw with full := { q := q, point := point, last := s.time.bell } :: s.sw.full } }
      record s { code := 0x0501, quarter := q, kind := 5, p0 := pack [(8, q), (0, point)] }
    else s

end Sys2Proof.Machine
end

