-- ==== Sys2Proof/Machine/Doorbell.lean ====
section
/-! DEFINITION. Doorbells as the queue sequencer takes them: from the control line of a ring region and from BAR0 (R397, R398, R409, R410). -/

namespace Sys2Proof.Machine

/-- Change a queue pair's context. -/
def updQp (s : State) (n : Nat) (f : Qp → Qp) : State := { s with qps := Tab.adjust s.qps n f }

/-- A record of the queue sequencer of a queue pair (R411). -/
def qpRecord (s : State) (c : Qp) (code : Nat) (p0 p1 p2 p3 : Word) : State :=
  record s { code := code, quarter := c.quarter, kind := 0x0A, stall := c.stall, principal := stallPrincipal s c.stall, p0 := p0, p1 := p1, p2 := p2, p3 := p3 }

/-- An ACTIVE queue pair enters ERROR (R409): cause 1 SQTAIL, 2 CQHEAD, 3 ring access, with the value or status. -/
def qpError (s : State) (n cause value : Nat) : State :=
  match Tab.get? s.qps n with
  | some c => if c.state = 1 then qpRecord (updQp s n (fun c => { c with state := 2 })) c 0x0F02 (word n) (word cause) (word value) (word c.sqhead) else s
  | none => s

/-- Values rung for a queue pair: Q5 and Q7 rise to them; one out of bounds is an error (R398). During a reset of its
quarter they wait (R410). -/
def ring (s : State) (n tail head : Nat) : State :=
  match Tab.get? s.qps n with
  | none => s
  | some c =>
    if c.state = 0 then s
    else if s.rst.running.any (fun r => r.scope == .quarter c.quarter) then
      updQp s n (fun c => { c with rung := (max c.rung.1 tail, max c.rung.2 head) })
    else
      let c := { c with sqtail := max c.sqtail tail, cqhead := max c.cqhead head }
      let s := updQp s n (fun _ => c)
      if c.sqhead + 2 ^ c.log2sq < c.sqtail then qpError s n 1 c.sqtail
      else if c.cqtail < c.cqhead then qpError s n 2 c.cqhead
      else s

/-- The queue pair whose control line is the line of a region at an offset. -/
def ringAt (s : State) (h off : Nat) : Option Nat :=
  (s.qps.find? (fun e => e.2.state != 0 && e.2.ring == h && e.2.ringOff * 4096 == off)).map (·.1)

/-- Does a write touch the eight bytes of word i of a line. -/
def writesWord (r : Req) (off i : Nat) : Bool :=
  if r.opc = 3 then
    let u := slice r.data (off - r.h.offset) 64
    let base := maskBase u
    (List.range 8).any (fun j => decide (base ≤ 8 * i + j) && decide (8 * i + j < base + 56) && bit (wordAt u 56) (8 * i + j - base))
  else if isAtomic r.opc then
    let at_ := r.h.offset % 64
    decide (at_ < 8 * i + 8) && decide (8 * i < at_ + (atomicOperand r.data).bytes)
  else true

/-- The home passes a performed write of W0 or W1 to the sequencer in the same SCLK (R397). -/
def passDoorbell (s : State) (r : Req) (off : Nat) (new : List Byte) : State :=
  match ringAt s r.h.handle off with
  | none => s
  | some n =>
    ring s n (if writesWord r off 0 then (wordAt new 0).toNat else 0) (if writesWord r off 1 then (wordAt new 8).toNat else 0)

end Sys2Proof.Machine
end

