-- ==== Sys2Proof/Machine/Coherence.lean ====
section
/-! DEFINITION. The directory of COHERENT lines: transitions of Table 6.10, snoops, recalls. -/

namespace Sys2Proof.Machine

/-- STATE of a directory entry (Table 6.9). -/
def dirS : Nat := 1
def dirE : Nat := 2
def dirWaitS : Nat := 4
def dirWaitE : Nat := 5
def dirWaitI : Nat := 6

/-- The entry of a line, by region and line number. -/
def dirFind (s : State) (h line : Nat) : Option DirEntry := s.home.dir.find? (fun e => e.handle == h && e.line == line)

/-- Replace the entry of a line; used last. -/
def dirPut (s : State) (e : DirEntry) : State :=
  let rest := s.home.dir.filter (fun o => !(o.handle == e.handle && o.line == e.line))
  { s with home := { s.home with dir := { e with used := s.home.clock } :: rest, clock := s.home.clock + 1 } }

/-- Remove the entry of a line: I. -/
def dirDrop (s : State) (h line : Nat) : State :=
  { s with home := { s.home with dir := s.home.dir.filter (fun o => !(o.handle == h && o.line == line)) } }

/-- CACHING endpoints bound to a stall of a composition whose group bit is set (R174). -/
def coarseAgents (s : State) (comp : Nat) (vec : List Nat) : List Nat :=
  ((s.stalls.filter (fun e => e.2.comp == some comp)).flatMap (fun e => e.2.binds)).eraseDups.filter
    (fun a => s.dom.caching.contains a && vec.contains (a / 512))

/-- The agents a snoop of a line must reach, except one. -/
def holders (s : State) (comp : Nat) (e : DirEntry) : List Nat :=
  if e.coarse then coarseAgents s comp e.vec else e.ptrs

/-- Is an endpoint a holder the entry names. -/
def holds (e : DirEntry) (a : Nat) : Bool := if e.coarse then e.vec.contains (a / 512) else e.ptrs.contains a

/-- The port of a snoop to an agent (R179): that of its latest grant, or of the grant's resend, while it is up; for an agent held in a
coarse vector one that is up towards it. -/
def snoopPort (s : State) (e : DirEntry) (a : Nat) : Option Nat :=
  match (if e.coarse then none else e.ports.find? (fun x => x.1 == a)) with
  | some x => if portUp s x.2 && (portOf s x.2).epid == a then some x.2 else (portsTo s a).head?
  | none => (portsTo s a).head?

/-- Send one snoop (R177) and await its answer. -/
def sendSnoop (s : State) (e : DirEntry) (inv owner : Bool) (a : Nat) : State :=
  let tag := freeTag ((s.home.snoops.filter (fun n => n.agent == a)).map (·.tag)) s.home.snoopTag
  let s := { s with home := { s.home with
    snoopTag := tag + 1
    snoops := s.home.snoops ++ [{ agent := a, tag := tag, q := e.q, handle := e.handle, line := e.line, inv := inv, owner := owner
                                  bell := s.time.bell }] } }
  let h : ReqHdr := { src := s.dom.devid, tag := tag, handle := e.handle, mepoch := s.maps.cur.epoch % 256, len := 1
                      offset := e.line * 64 }
  match snoopPort s e a with
  | some p => send s p (.req (if inv then 0x50 else 0x51) h [])
  | none => s

/-- Snoop agents and hold the entry in a WAIT state until they have answered (R176). -/
def snoopAll (s : State) (e : DirEntry) (waiter wait : Nat) (inv : Bool) (agents : List Nat) : State :=
  let s := dirPut s { e with state := wait, pend := agents.length, waiter := waiter }
  each agents (fun a s => sendSnoop s e inv (e.state == dirE) a) s

/-- Recall a line to I (R141, R175, R183). -/
def recallLine (s : State) (comp : Nat) (e : DirEntry) : State :=
  if 4 ≤ e.state then s
  else
    let agents := holders s comp e
    if agents.isEmpty then dirDrop s e.handle e.line else snoopAll s e 0 dirWaitI true agents

/-- What a request finds at a COHERENT line. -/
inductive DirStep where
  /-- It may be served now. -/
  | ready
  /-- Snoops are out. -/
  | blocked
  /-- Snoops were sent just now. -/
  | sent (s : State)

/-- Take the snoop step of Table 6.10 for a request of an agent, at an entry outside the WAIT states. -/
def dirSnoop (s : State) (comp : Nat) (e : DirEntry) (waiter opc src : Nat) : DirStep :=
    if opc == 6 || opc == 7 then .ready
    else
      let agents := holders s comp e
      if e.state == dirS then
        if opc == 1 || opc == 4 || opc == 0x60 then .ready
        else
          let agents := if opc == 5 then agents.filter (· != src) else agents
          if agents.isEmpty then .ready
          else .sent (snoopAll s e waiter (if opc == 5 then dirWaitE else dirWaitI) true agents)
      else
        let own := agents.contains src
        if opc == 1 || opc == 0x60 then .sent (snoopAll s e waiter dirWaitS false agents)
        else if opc == 4 || opc == 5 then
          if own then .ready
          else .sent (snoopAll s e waiter (if opc == 4 then dirWaitS else dirWaitE) (opc == 5) agents)
        else .sent (snoopAll s e waiter dirWaitI true agents)

/-- Is a line without entry unknown, because its quarter's directory was lost in a reset (R467). -/
def unknownLine (s : State) (h line : Nat) : Bool :=
  match regionOf s h with
  | some g => s.home.unknown.any (fun e => e.1 == g.homeq && !e.2.contains (lineKey h (line * 64)))
  | none => false

/-- The first request to an unknown line recalls it from every CACHING endpoint bound to the composition, and goes on from I
(R467). -/
def recallUnknown (s : State) (comp id opc h line : Nat) : DirStep :=
  if opc == 6 || opc == 7 then .ready
  else match regionOf s h with
    | none => .ready
    | some g =>
      let s := { s with home := { s.home with unknown := adjustWhere s.home.unknown (fun e => e.1 == g.homeq) (fun e => (e.1, lineKey h (line * 64) :: e.2)) } }
      let agents := coarseAgents s comp (List.range 128)
      if agents.isEmpty then .sent s
      else .sent (snoopAll s { q := g.homeq, handle := h, line := line } (id + 1) dirWaitI true agents)

/-- What a request with an id finds at a line's entry (R176). -/
def dirStep (s : State) (comp id opc src h line : Nat) : DirStep :=
  match dirFind s h line with
  | none => if unknownLine s h line then recallUnknown s comp id opc h line else .ready
  | some e =>
    if 4 ≤ e.state then
      if e.pend = 0 ∧ e.waiter = id + 1 then .ready else .blocked
    else dirSnoop s comp e (id + 1) opc src

/-- Add a sharer: up to four pointers, then the coarse vector (R174). -/
def addSharer (e : DirEntry) (a port : Nat) : DirEntry :=
  let e := { e with ports := (a, port) :: e.ports.filter (fun x => x.1 != a) }
  if e.coarse then { e with vec := addOnce e.vec (a / 512) }
  else if e.ptrs.contains a then e
  else if e.ptrs.length < 4 then { e with ptrs := e.ptrs ++ [a] }
  else { e with coarse := true, vec := (e.ptrs ++ [a]).foldl (fun v x => addOnce v (x / 512)) [], ptrs := [] }

/-- Remove a sharer's pointer; a coarse vector is unchanged (R174). -/
def dropSharer (e : DirEntry) (a : Nat) : DirEntry := if e.coarse then e else { e with ptrs := e.ptrs.filter (· != a) }

/-- The entry after a request has been served (Table 6.10, last column). -/
def dirDone (s : State) (q opc src port h line : Nat) : State :=
  let e := (dirFind s h line).getD { q := q, handle := h, line := line }
  let keep := fun (e : DirEntry) => if e.ptrs.isEmpty && !e.coarse then dirDrop s h line else dirPut s { e with pend := 0, waiter := 0 }
  if opc == 1 || opc == 0x60 then
    if e.state == dirWaitS || e.state == dirS then keep { e with state := dirS }
    else if e.state == dirWaitI then dirDrop s h line
    else s
  else if opc == 4 then dirPut s { addSharer (if e.state == dirWaitI then { e with coarse := false, vec := [], ptrs := [] } else e) src port with state := dirS, pend := 0, waiter := 0 }
  else if opc == 5 then
    dirPut s { e with state := dirE, coarse := false, vec := [], ptrs := [src], ports := [(src, port)], pend := 0, waiter := 0 }
  else if opc == 6 || opc == 7 then
    if e.state == dirS && holds e src then keep (dropSharer e src)
    else if e.state == dirE && e.ptrs.contains src then dirDrop s h line
    else s
  else dirDrop s h line

/-- Room in a directory set for a new entry (R172, R175). -/
inductive DirRoom where
  | room
  /-- The least recently used entry of the set is being recalled just now. -/
  | freeing (s : State)
  /-- A recall is under way, or every entry of the set waits. -/
  | full

/-- Directory set of a line: 655,360 entries in 16 ways (R172). -/
def dirSet (q key : Nat) : Nat := Config.directorySet q key % 40960

/-- Room for a new entry in its set: when the set is full, its least recently used line in I, S or E is recalled (R175). -/
def dirRoom (s : State) (q comp h line : Nat) : DirRoom :=
  match dirFind s h line with
  | some _ => .room
  | none =>
    let set := dirSet q (lineKey h (line * 64))
    let inSet := s.home.dir.filter (fun e => e.q == q && dirSet q (lineKey e.handle (e.line * 64)) == set)
    if inSet.length < 16 then .room
    else if inSet.any (fun e => e.state == dirWaitI && e.waiter == 0) then .full
    else match minBy (·.used) (inSet.filter (fun e => e.state < 4)) with
      | some e => .freeing (recallLine s comp e)
      | none => .full

/-- Does the grant of a request make an entry. -/
def grants (opc : Nat) : Bool := opc == 4 || opc == 5

/-- Does a request need an entry of the directory for a line that has none: a grant, a LOAD that waits for a fill (R176), and the first
request to an unknown line (R467). -/
def needsEntry (s : State) (opc h line : Nat) (fill : Bool) : Bool :=
  (dirFind s h line).isNone && (grants opc || (fill && (opc == 1 || opc == 0x60)) || (unknownLine s h line && !(opc == 6 || opc == 7)))

/-- A request that needs a tray fill holds its entry in a WAIT state meanwhile (R176). On a line with no entry a grant waits in the
state it grants, a LOAD in WAIT_I (DEDUCED, log 32). -/
def dirHold (s : State) (q id opc h line : Nat) : State :=
  match dirFind s h line with
  | some e => if 4 ≤ e.state then s else
      dirPut s { e with state := if opc == 5 then dirWaitE else dirWaitS, pend := 0, waiter := id + 1 }
  | none => dirPut s { q := q, handle := h, line := line, state := if opc == 5 then dirWaitE else if opc == 4 then dirWaitS else dirWaitI, waiter := id + 1 }

end Sys2Proof.Machine
end

