-- ==== Sys2Proof/Machine/Gateway.lean ====
section
/-! DEFINITION. Proxy regions of a gateway: block copies, fetches and flushes over XFER (R145 to R151). -/

namespace Sys2Proof.Machine

/-- Send the reads of a block's pages that have a frame of the HBM cache, in page order; a page that finds every frame of its set busy
waits for one (R145, R196). -/
def gwPump (s : State) (g : GwBinding) (reg : Region) (b : Nat) : State :=
  each ((gwBlockOf s g.proxy b).elim [] (·.unsent)) (fun page s =>
    let a := proxyPlace g.proxy (page * 4096)
    let room := if (frameOf s reg.homeq a).isSome then (true, s) else allocFrame s reg.homeq a
    if room.1 then sendXfer (updBlock room.2 g.proxy b (fun x => { x with unsent := x.unsent.filter (· != page) })) g (page * 64) 64 false else room.2) s

/-- Start a fetch of a whole block: one XFER_READ of LEN 64 for each 4 KiB page of it inside the region. -/
def gwFetch (s : State) (g : GwBinding) (reg : Region) (b : Nat) : State :=
  let first := b * 2 ^ g.block
  let pages := ((List.range (2 ^ g.block)).filter (fun i => first + i ≤ reg.size4k)).map (first + ·)
  let old := (gwBlockOf s g.proxy b).getD { handle := g.proxy, block := b }
  let rest := s.regs.gwBlocks.filter (fun x => !(x.handle == g.proxy && x.block == b))
  gwPump { s with regs := { s.regs with gwBlocks := { old with fetched := none, missing := pages, unsent := pages } :: rest } } g reg b

/-- What a request finds at a block: usable, being fetched, or to be fetched (R146, R147). -/
inductive BlockNeed where
  | ready
  | waiting
  | fetch
deriving DecidableEq, Repr

/-- A load needs a copy fetched less than STALE bells ago; a store any complete copy. -/
def blockNeed (s : State) (g : GwBinding) (off : Nat) (load : Bool) : BlockNeed :=
  match gwBlockOf s g.proxy (off / gwBlockBytes g) with
  | none => .fetch
  | some x => match x.fetched with
    | none => .waiting
    | some b => if load && decide (g.stale ≤ since s b) then .fetch else .ready

/-- Flush every dirty block of a proxy region. -/
def gwFlushAll (s : State) (g : GwBinding) : State :=
  each ((s.regs.gwBlocks.filter (fun x => x.handle == g.proxy && !x.dirty.isEmpty)).map (·.block)) (fun b s => gwFlushBlock s g b) s

/-- Mark a line of a block copy dirty. -/
def gwMarkDirty (s : State) (g : GwBinding) (line : Nat) : State :=
  updBlock s g.proxy (line * 64 / gwBlockBytes g) (fun x =>
    { x with dirty := addOnce x.dirty line, dirtySince := if x.dirty.isEmpty then s.time.bell else x.dirtySince })

/-- Write transfers of a proxy region without an answer. -/
def gwWriteTags (s : State) (h : Nat) : List Nat := (s.regs.gwXfers.filter (fun x => x.handle == h && x.write)).map (·.tag)

end Sys2Proof.Machine
end

