-- ==== Sys2Proof/Machine/Home.lean ====
section
/-! DEFINITION. The home agent: which admitted request is served when, line by line, and what its service does. -/

namespace Sys2Proof.Machine

/-! ### Sheaves at the home (R445 to R448) -/

/-- The sheaf a region held here belongs to. -/
def sheafOf (s : State) (h : Nat) : Option Sheaf := s.dom.sheaves.find? (fun x => x.handle == h)

/-- Is a region a parity stalk here. -/
def isParity (s : State) (h : Nat) : Bool :=
  match sheafOf s h with
  | some x => decide (x.k ≤ x.self)
  | none => false

/-- Parity stalks that get a delta for a line: P and Q unless STALE; none for a page not yet pushed (R444). -/
def deltaTargets (x : Sheaf) (off : Nat) : List Nat :=
  if x.self < x.k && !(x.work == 1 && decide (x.cursor < off / 4096)) then
    [x.k, x.k + 1].filter (fun n => !x.stale.contains n)
  else []

/-- Is a delta for a page that a re-encoding has not reached: acknowledged and discarded (R452). -/
def deltaIdle (s : State) (r : Req) (off : Nat) : Bool :=
  match r.org, sheafOf s r.h.handle with
  | .delta _, some x => x.work == 3 && decide (x.cursor < off / 4096) && decide (off / 4096 < (regionOf s r.h.handle).elim 0 (·.size4k))
  | _, _ => false

/-- Is a page held: being pushed, rebuilt or recomputed now (R444, R451, R452). -/
def pageHeld (x : Sheaf) (off : Nat) : Bool :=
  (x.work == 1 && x.cursor == off / 4096) || (x.work == 2 && decide (x.cursor ≤ off / 4096) && !x.ahead.contains (off / 4096)) || ((x.work == 3 || x.work == 4) && x.cursor == off / 4096)
    || ((x.work == 5 || x.work == 6) && decide (x.cursor ≤ off / 4096))

/-- Mark a parity stalk STALE and record it (R448). -/
def markStale (s : State) (h n status : Nat) : State :=
  match sheafOf s h with
  | none => s
  | some x =>
    if x.stale.contains n then s
    else
      let s := { s with dom := { s.dom with
        sheaves := adjustWhere s.dom.sheaves (fun y => y.handle == h) (fun y => { y with stale := addOnce y.stale n }) } }
      record s { code := 0x1304, quarter := (regionOf s h).elim 0 (·.homeq), kind := 0x0B, p0 := word h, p1 := word n, p2 := word status }

/-- Send a store to a stalk of a sheaf with the key of the stalk table (R445, R447). A parity stalk without a link to its
device is STALE at once (Table 17.6). -/
def sendDelta (s : State) (x : Sheaf) (req n off : Nat) (mirror : Bool) (d : List Byte) : State :=
  match x.stalks[n]? with
  | none => s
  | some (dev, handle, key) =>
    let tag := ownTag s s.dom.devid
    let s := { s with regs := { s.regs with gwTag := tag + 1 }, dom := { s.dom with
      deltas := s.dom.deltas ++ [{ tag := tag, req := req, handle := x.handle, stalk := n, dev := dev, line := off / 64, page := mirror, data := if mirror then d else [] }] } }
    let h : ReqHdr := { src := s.dom.devid, tag := tag, handle := handle, mepoch := s.maps.cur.epoch % 256, len := d.length / 64
                        offset := off, key := key }
    match pickPort (portsToDevice s dev) h.src 0 0 0 with
    | some p => send s p (.req 2 h d)
    | none => if mirror then s else markStale s x.handle n NO_HOME

/-- Words E0 to E7 of a region record (Table 4.1), with its home device and the admitted counts given. -/
def regionWords (r : Region) (homedev admitA admitB : Nat) (keys : Bool) : List Word :=
  [ pack [(40, r.handle), (20, r.comp), (14, homedev), (12, r.homeq), (10, r.mode), (8, r.tier), (7, b2n r.sealed), (6, b2n r.ecx)
         , (5, b2n r.sheaf), (4, b2n r.fenced), (3, b2n r.moving), (0, b2n r.valid)]
  , pack [(0, r.size4k)]
  , pack [(24, nth r.desc 0), (12, r.slotA.stall), (0, r.slotB.stall)]
  , pack [(32, r.ownep), (16, r.owner), (14, r.slotA.state), (12, r.slotB.state), (9, r.slotA.rights), (6, r.slotB.rights)
         , (5, b2n r.slotA.any), (4, b2n r.slotB.any)]
  , r.version
  , if keys then r.slotA.key else 0
  , if keys then r.slotB.key else 0
  , pack [(40, admitA), (16, admitB)] ]

/-- Write a data stalk's record to the mirrors of both parity stalks (R447). -/
def mirrorRecord (s : State) (r : Region) (req : Nat) : State :=
  match sheafOf s r.handle with
  | some x =>
    if x.self < x.k then
      each ([x.k, x.k + 1].filter (fun n => !x.stale.contains n))
        (fun n s => sendDelta s x req n (r.bytes + 256 * x.self) true (wordsBytes (regionWords r (homeDevice s r) 0 0 true))) s
    else s
  | none => s

/-- Has a region's record mirror stores without an answer. -/
def mirrorPending (s : State) (h : Nat) : Bool := s.dom.deltas.any (fun d => d.handle == h && d.page && !d.acked)

/-- Coefficient of source stalk n in rebuilding data stalk x from the available stalks (Table 17.8). -/
def rebuildCoef (k x : Nat) (avail : List Nat) (n : Nat) : Byte :=
  if avail.contains k && avail.contains (k + 1) then
    let y := ((List.range k).find? (fun i => i != x && !avail.contains i)).getD x
    let a := gfInv (gfPow x ^^^ gfPow y)
    if n == k then gfMul (gfPow y) a else if n == k + 1 then a else gfMul (gfPow y ^^^ gfPow n) a
  else if avail.contains k then 1
  else if n == k + 1 then gfInv (gfPow x) else gfMul (gfPow n) (gfInv (gfPow x))

/-- Source stalks for a line or page of a data stalk: the other data stalks, with P before Q (R449). -/
def rebuildSources (s : State) (x : Sheaf) : List Nat :=
  let there := fun (n : Nat) => !x.stale.contains n && (match x.stalks[n]? with
    | some e => !s.dom.expelled.contains e.1
    | none => false)
  let data := (List.range x.k).filter (fun n => n != x.self && there n)
  (data ++ [x.k, x.k + 1].filter there).take x.k

/-- A data source reads its words: XOR of the scaled stalks. -/
def combine (len : Nat) (parts : List (Byte × List Byte)) : List Byte :=
  parts.foldl (fun acc e => xorBytes acc (gfScale e.1 (padTo len e.2))) (List.replicate len 0)

/-- Read a piece of another stalk over the fabric, with the key of the stalk table. -/
def readStalk (s : State) (x : Sheaf) (use : AccUse) (n off units : Nat) : State :=
  match x.stalks[n]? with
  | none => s
  | some (dev, handle, key) =>
    let acc := s.eng.nextAcc
    let order := s.home.nextId
    let tag := ownTag s s.dom.devid
    let s := { s with regs := { s.regs with gwTag := tag + 1 } }
    let h : ReqHdr := { src := s.dom.devid, tag := tag, handle := handle, mepoch := s.maps.cur.epoch % 256, len := units
                        offset := off, key := key }
    let s := { s with
      eng := { s.eng with nextAcc := acc + 1, access := s.eng.access ++ [{ acc := acc, use := use }] }
      home := { s.home with nextId := order + 1 } }
    match pickPort (portsToDevice s dev) h.src 0 0 0 with
    | some p =>
      let s := { s with fab := { s.fab with relays := s.fab.relays ++ [{
        order := order, home := dev, port := 256, out := p, opc := 1, h := h, bell := s.time.bell, win := 40, acc := some acc }] } }
      send s p (.req 1 h [])
    | none =>
      { s with eng := { s.eng with
        access := adjustWhere s.eng.access (fun a => a.acc == acc) (fun a => { a with answer := some (NO_HOME, word dev, []) }) } }

/-- Start the rebuild of a line of a data stalk from the other stalks (R449). -/
def startRebuild (s : State) (g : Region) (off : Nat) : State :=
  match sheafOf s g.handle with
  | none => s
  | some x =>
    let mine := fun (a : Access) => match a.use with | .lineRebuild h l _ => h == g.handle && l == off / 64 | _ => false
    if s.eng.access.any mine then s
    else each (rebuildSources s x) (fun n s => readStalk s x (.lineRebuild g.handle (off / 64) n) n off 1) s

/-- Can a line of a data stalk held here be rebuilt: its page is under parity and K other stalks are there (R449). -/
def canRebuild (s : State) (g : Region) (off : Nat) : Bool :=
  match (if g.sheaf then sheafOf s g.handle else none) with
  | some x => decide (x.self < x.k) && !(x.work == 1 && decide (x.cursor ≤ off / 4096)) && decide (x.k ≤ (rebuildSources s x).length)
  | none => false

/-- A request waits while a line it needs is rebuilt (R449). -/
def askRebuild (s : State) (r : Req) (g : Region) (off : Nat) : State :=
  startRebuild (updReq s r.id (fun r => { r with wait := .unit })) g off

/-- Cancel a held store: every parity stalk that acknowledged its delta is STALE (R448). -/
def cancelDeltas (s : State) (req status : Nat) : State :=
  let mine := s.dom.deltas.filter (fun d => d.req == req && d.acked && !d.page)
  let s := each mine (fun d s => markStale s d.handle d.stalk status) s
  { s with dom := { s.dom with deltas := s.dom.deltas.filter (fun d => d.req != req) } }

/-! ### Order (R127 to R132, R158, R184) -/

/-- Does an earlier request of the stream hold this one back (Table 5.5). -/
def streamBlocked (s : State) (r : Req) : Bool :=
  s.home.reqs.any (fun e => decide (e.id < r.id) && sameStream e r && e.wait != .others
    && !mayPass (orderClass r.opc) (orderClass e.opc) (overlap s r e))

/-- Is a request a barrier on its region (R158). -/
def isBarrier (opc : Nat) : Bool := opc == 0x30 || opc == 0x33

/-- Regions a request concerns: its own, and the source of a PUBLISH. -/
def regionsOf (r : Req) : List Nat := if r.opc == 0x30 then [r.h.handle, (ownOperand r.data).src] else [r.h.handle]

/-- Do two requests concern one region. -/
def shareRegion (a b : Req) : Bool := (regionsOf a).any (fun h => (regionsOf b).contains h)

/-- Does a barrier hold a request back, or earlier requests a barrier (R158). -/
def barrierBlocked (s : State) (r : Req) : Bool :=
  s.home.reqs.any (fun e => e.begun && decide (e.begunNo < r.begunNo) && shareRegion e r && e.wait != .others
    && (isBarrier r.opc || (isBarrier e.opc && !(r.opc == 0x32 && e.opc == 0x33 && e.wait == .accept))))

/-- Does a PUBLISH that has committed and is not answered yet hold a store or an atomic to its source back (R169). -/
def sourceHeld (s : State) (r : Req) : Bool :=
  (writesLines r.opc || isOwnOp r.opc)
    && s.home.reqs.any (fun e => e.opc == 0x30 && e.wait == .others && (ownOperand e.data).src == r.h.handle && e.id != r.id)

/-- Only reads a line and leaves the directory alone. -/
def plainRead (opc : Nat) : Bool := opc == 1 || opc == 0x60

/-- Does a request of this line hold another back there: it came first, and one of them does more than read (R132, R184). -/
def precedes (s : State) (coherent : Bool) (e r : Req) (off : Nat) : Bool :=
  e.lineNo != 0 && e.h.handle == r.h.handle && !e.done.contains off && (coherent || !(plainRead e.opc && plainRead r.opc)) && (reqLines s e).contains off

/-- Is an earlier request in service on a line that this one must not pass (R132, R184). -/
def lineBlocked (s : State) (coherent : Bool) (r : Req) (off : Nat) : Bool :=
  s.home.reqs.any (fun e => decide (e.lineNo < r.lineNo) && (r.leader = 0 || e.leader != r.leader) && precedes s coherent e r off)

/-- The tally of a line, unless it has stopped absorbing (R141). -/
def tallyOf (s : State) (h off : Nat) : Option Tally :=
  s.home.tallies.find? (fun t => t.handle == h && t.line == off / 64 && !t.closing)

/-! ### Ownership (R155 to R157) -/

/-- OWNEP after a commit (R156). -/
def nextOwnep (e : Nat) : Nat := let n := (e + 1) % 2 ^ 32; if n % 65536 = 0 then (n + 1) % 2 ^ 32 else n

/-- The check of Table 6.2 for all but ACCEPT and PUBLISH of published regions (R157). -/
def ownerOk (g : Region) (opc src ownep : Nat) : Bool :=
  let low := g.ownep % 65536
  if g.owner = 0 then
    if g.version = 0 then !(opc == 0x31 || opc == 0x32 || opc == 0x33) && ownep == 0
    else if opc == 1 || opc == 0x60 || opc == 0x20 then ownep == 0 || ownep == low
    else opc == 0x30 && ownep == 0
  else opc == 0x32 || (src == g.owner && ownep == low)

/-- Does the device of another stalk read this stalk of its sheaf, as it must for R449 to R452 (DEDUCED, log 16). -/
def stalkRead (s : State) (r : Req) : Bool :=
  match r.org with
  | .forwarded dev => r.opc == 1 && r.h.src == dev && (sheafOf s r.h.handle).any (fun x => x.stalks.any (fun e => e.1 == dev))
  | _ => false

/-- The check of Table 6.2 for a request that is subject to it. -/
def ownerPasses (s : State) (r : Req) (g : Region) : Bool :=
  g.mode != 0 || r.opc == 0x30 || isParity s g.handle || stalkRead s r
    || !r.org.stalls || ownerOk g r.opc r.h.src r.h.ownep

/-- DETAIL of NOT_OWNER (Table 3.12). -/
def ownerDetail (g : Region) : Word := pack [(32, g.ownep), (0, g.owner)]

/-- The result unit of a region (Table 6.4). -/
def regionResult (g : Region) (success : Bool) : List Byte := ownResult g.version g.ownep g.owner success

/-- Record an offer (R160). -/
def recordOffer (s : State) (h toward : Nat) (g : Region) : State :=
  { s with home := { s.home with offers := Tab.set s.home.offers h { toward := toward, ownep := g.ownep, bell := s.time.bell } } }

/-- Remove an offer. -/
def dropOffer (s : State) (h : Nat) : State := { s with home := { s.home with offers := Tab.erase s.home.offers h } }

/-- Offers recorded for regions of a quarter (R160). -/
def offersIn (s : State) (q : Nat) : Nat :=
  (s.home.offers.filter (fun e => match regionOf s e.1 with | some g => g.homeq == q | none => false)).length

/-- Queue pairs whose ring lies in a region, lowest first. -/
def ringsIn (s : State) (h : Nat) : Tab Qp := s.qps.filter (fun e => e.2.state != 0 && e.2.ring == h)

/-- OFFER (R160); one of a region that holds an assigned ring is UNSUPPORTED (R396). -/
def doOffer (s : State) (r : Req) (g : Region) : Option State :=
  let toward := (ownOperand r.data).toward
  if toward = 0 ∨ toward = g.owner ∨ isParity s r.h.handle ∨ (ringsIn s r.h.handle).isEmpty = false then some (finish s r UNSUPPORTED 0 [])
  else if !Tab.has s.home.offers r.h.handle && decide (262144 ≤ offersIn s g.homeq) then
    if r.wait == .offerTable then none else some (updReq s r.id (fun r => { r with wait := .offerTable }))
  else some (finish (recordOffer s r.h.handle toward g) r OK 0 (regionResult g false))

/-- ACCEPT (R161). -/
def doAccept (s : State) (r : Req) (g : Region) : Option State :=
  match Tab.get? s.home.offers r.h.handle with
  | some o =>
    if o.toward == r.h.src && r.h.ownep == g.ownep % 65536 then
      let s := { s with home := { s.home with offers := Tab.set s.home.offers r.h.handle { o with accepted := true } } }
      some (finish s r OK 0 (regionResult g false))
    else some (finish s r NOT_OWNER (ownerDetail g) [])
  | none => some (finish s r NOT_OWNER (ownerDetail g) [])

/-- Do the stalk mirrors of a record change still lack an answer; none asked yet sends them (R447). -/
def mirrorStep (s : State) (r : Req) (g : Region) : Option (Bool × State) :=
  if g.sheaf && (sheafOf s g.handle).isSome then
    if s.dom.deltas.any (fun d => d.req == r.id && d.page) then
      if s.dom.deltas.any (fun d => d.req == r.id && d.page && !d.acked) then none
      else some (true, { s with dom := { s.dom with deltas := s.dom.deltas.filter (fun d => d.req != r.id) } })
    else
      let s' := mirrorRecord s g r.id
      if s'.dom.deltas.length == s.dom.deltas.length then some (true, s)
      else some (false, updReq s' r.id (fun r => { r with wait := .parity }))
  else some (true, s)

/-- CONFIRM (R162). -/
def doConfirm (s : State) (r : Req) (g : Region) : Option State :=
  match Tab.get? s.home.offers r.h.handle with
  | some o =>
    if o.accepted then
      let g' := { g with owner := o.toward, ownep := nextOwnep g.ownep }
      match mirrorStep s r g' with
      | none => none
      | some (false, s) => some s
      | some (true, s) =>
        let s := dropOffer (updRegion s g.handle (fun _ => g')) g.handle
        some (finish s r OK 0 (regionResult g' true))
    else if r.wait == .accept then none
    else some (updReq s r.id (fun r => { r with wait := .accept }))
  | none => some (finish s r OK 0 (regionResult g false))

/-- Conditions of R165 on a PUBLISH, and that neither region holds an assigned ring (R396). -/
def publishForm (s : State) (t g : Region) (o : OwnOperand) : Bool :=
  g.handle != t.handle && t.mode == 0 && g.mode == 0 && homeDevice s t == homeDevice s g && t.homeq == g.homeq
    && t.size4k == g.size4k && t.tier == g.tier && t.ecx == g.ecx && t.sealed == g.sealed && t.sheaf == g.sheaf && t.comp == g.comp
    && g.version == 0 && decide (o.expect.toNat < o.newver.toNat) && (sheafOf s t.handle).isNone && (sheafOf s g.handle).isNone
    && (ringsIn s t.handle).isEmpty && (ringsIn s g.handle).isEmpty

/-- The key test of a source region (R166): 0, KEY_MISMATCH or KEY_REVOKED. -/
def keyTest (s : State) (g : Region) (key : Word) (stall need : Nat) : Nat :=
  let slots := [g.slotA, g.slotB].filter (fun k => key != 0 && k.key == key && k.state != 0)
  match slots.find? (·.state == 1) with
  | some k => if (k.stall == stall || (k.any && stallComp s stall == some g.comp)) && covers k.rights need then OK else KEY_MISMATCH
  | none => if slots.isEmpty then KEY_MISMATCH else KEY_REVOKED

/-- Is a region under the new memory key of a rotation (R509, R510). -/
def rotatedKey (m : MemRotation) (h : Nat) : Bool := decide (h < m.handle) || m.early.contains h

/-- A PUBLISH across the cursor of a memory key rotation: the region not rotated is rotated out of turn (R510). -/
def rotateEarly (s : State) (a b : Region) : State :=
  let across := fun (m : MemRotation) => m.comp == a.comp && rotatedKey m a.handle != rotatedKey m b.handle
  let early := fun (m : MemRotation) => { m with early := addOnce m.early (if rotatedKey m a.handle then b.handle else a.handle) }
  { s with sec := { s.sec with rotations := adjustWhere s.sec.rotations across early } }

/-- Mark the 4 KiB page of a line written at the old home of a move (Table 4.7). -/
def trackWrite (s : State) (h off : Nat) : State :=
  let tracks := fun (m : Move) => m.handle == h && (!m.new || m.other == s.dom.devid)
  if s.regs.moves.any tracks then
    { s with regs := { s.regs with
      moves := adjustWhere s.regs.moves tracks (fun m => { m with pages := addOnce m.pages (off / 4096) }) } }
  else s

/-- Every page of a region is written when a PUBLISH exchanges its placement during a home move (DEDUCED, log 152). -/
def trackAll (s : State) (g : Region) : State :=
  if s.regs.moves.any (fun m => m.handle == g.handle) then each (List.range (g.size4k + 1)) (fun p s => trackWrite s g.handle (4096 * p)) s else s

/-- PUBLISH, its tests in the order of R578 and its commit under R167. -/
def doPublish (s : State) (r : Req) (t : Region) : Option State :=
  let o := ownOperand r.data
  match regionOf s o.src with
  | none => some (finish s r NO_REGION 0 [])
  | some g =>
    let key := keyTest s g o.srckey r.h.stall 2
    if !g.valid then some (finish s r NO_REGION 0 [])
    else if !publishForm s t g o then some (finish s r UNSUPPORTED 0 [])
    else if key != OK then some (finish s r key 0 [])
    else if t.owner != 0 || r.h.ownep != 0 then some (finish s r NOT_OWNER (ownerDetail t) [])
    else if !(if g.owner = 0 then o.srcep == 0 else r.h.src == g.owner && o.srcep == g.ownep % 65536) then
      some (finish s r NOT_OWNER (ownerDetail g) [])
    else if t.version != o.expect then some (finish s r PUBLISH_CONFLICT t.version [])
    else
      let t' := { t with place := g.place, desc := g.desc, version := o.newver, ownep := nextOwnep t.ownep }
      let s := updRegion (rotateEarly s t g) t.handle (fun _ => t')
      let s := updRegion s g.handle (fun x => { x with place := t.place, desc := t.desc })
      let ck := Tab.get? s.sec.content t.handle
      let cg := Tab.get? s.sec.content g.handle
      let put := fun (c : Tab ContentKey) (h : Nat) (k : Option ContentKey) => match k with | some k => Tab.set c h k | none => Tab.erase c h
      let s := { s with sec := { s.sec with content := put (put s.sec.content t.handle cg) g.handle ck } }
      let s := dropHeldOf (dropHeldOf s t.handle) g.handle
      let s := each (s.home.tallies.filter (fun x => x.handle == t.handle || x.handle == g.handle)) (fun x s => match (if x.handle == t.handle then placeOf t (x.line * 64) else placeOf g (x.line * 64)) with
        | some a => flushLine s a
        | none => s) s
      let s := { s with home := { s.home with
        tallies := s.home.tallies.filter (fun x => x.handle != t.handle && x.handle != g.handle) } }
      let s := trackAll (trackAll s t) g
      if s.home.reqs.any (fun e => e.h.handle == t.handle && e.wait == .others && decide (e.begunNo < r.begunNo)) then
        some (updReq s r.id (fun r => { r with wait := .others, result := regionResult t' true }))
      else some (finish s r OK 0 (regionResult t' true))

/-! ### Combining groups as one operation (R135, R136) -/

/-- The members of a closed group for the one that is performed, in their order; a request on its own is its own crew. -/
def crew (s : State) (r : Req) : List Req :=
  if r.leader = r.id ∧ r.leader ≠ 0 then sortBy (fun a b => decide (a.lineNo < b.lineNo)) (s.home.reqs.filter (fun e => e.leader == r.id)) else [r]

/-- Every member of a group ends with one status, without data. -/
def finishCrew (s : State) (r : Req) (status : Nat) (detail : Word) : State := each (crew s r) (fun m s => finish s m status detail []) s

/-- Values of an atomic's operand before each of a list of operations, and after the last (Table 5.6). -/
def atomicScan (opc : Nat) : Nat → List AtomicOp → List Nat × Nat
  | v, [] => ([], v)
  | v, a :: l => let r := atomicScan opc (atomicNew opc a v) l; (v :: r.1, r.2)

/-! ### Lines -/

/-- Fill what a request's lines need, and defer it and its group once (R84, R203): every fill is issued at once. -/
def startFills (s : State) (r : Req) (g : Region) (offs : List Nat) (full : Bool) : State :=
  let ok := offs.foldl (fun (acc : Bool × State) o => match placeOf g o with
    | some a => if lineNeed acc.2 g.sheaf g.homeq a == .fill then (let f := startFill acc.2 g.homeq a full; (acc.1 && f.1, f.2)) else acc
    | none => acc) (true, s)
  let s := updReq ok.2 r.id (fun r => { r with wait := if ok.1 then .fill else .frame })
  each (crew s r) (fun m s =>
    let s := updReq s m.id (fun m => { m with usedTray := m.usedTray || !full, filled := offs ++ m.filled })
    if full ∨ m.deferrals ≠ 0 then s else (s.home.reqs.find? (fun x => x.id == m.id)).elim s (defer s)) s

/-- Will asking again change anything for a request that waits for these lines. -/
def fillStuck (s : State) (r : Req) (g : Region) (offs : List Nat) (full : Bool) : Bool :=
  (r.wait == .fill || r.wait == .frame) && offs.all (fun o => match placeOf g o with
    | some a => (cxlOf s (trayPort a)).ops.any (fun x => !x.write && x.line == trayDpa a / 64) || !(startFill s g.homeq a full).1
    | none => true)

/-- What a request, with its group, makes of a line (Tables 5.2, 5.3, 5.6, 8.1): the new bytes. -/
def newLine (s : State) (r : Req) (off : Nat) (old : List Byte) : List Byte :=
  let i := (off - r.h.offset / 64 * 64)
  match r.org with
  | .delta dev =>
    match sheafOf s r.h.handle with
    | some x =>
      if (regionOf s r.h.handle).elim 0 (·.size4k) * 4096 ≤ off then slice r.data i 64 else
      let n := (x.stalks.take x.k).findIdx (fun e => e.1 == dev)
      let coef := if x.self == x.k then 1 else gfPow n
      xorBytes old (gfScale coef (slice r.data i 64))
    | none => slice r.data i 64
  | _ =>
    if r.opc == 3 then maskedLine (slice r.data i 64) old
    else if isAtomic r.opc then
      let a := atomicOperand r.data
      let at_ := r.h.offset % 64
      patch old at_ (natLe a.bytes (atomicScan r.opc (natAt old at_ a.bytes) ((crew s r).map (fun m => atomicOperand m.data))).2)
    else slice r.data i 64

/-- A write of the whole line. -/
def wholeLine (r : Req) : Bool :=
  (r.opc == 2 || r.opc == 0x61 || r.opc == 6) && (match r.org with | .delta _ => false | _ => true)

/-- A write of the whole line that needs no fill: a data stalk's write does, for its delta (R445). -/
def fullWrite (s : State) (r : Req) (g : Region) : Bool := wholeLine r && (r.org.copies || (sheafOf s g.handle).isNone)

/-- A full-line STORE: it alone clears a line's poison (R577). -/
def fullStore (r : Req) : Bool := r.opc == 2 && wholeLine r

/-- A line of a request has been performed; with the last, it ends, and the members of its group with it (R121, R136). -/
def lineDone (s : State) (r : Req) (off : Nat) : State :=
  let r := { r with done := off :: r.done, wait := .order }
  if (reqLines s r).all (fun o => r.done.contains o) then
    let mates := crew s r
    let n := mates.length
    let data := if readsLines r.opc then (reqLines s r).flatMap (fun o => Tab.getD r.got o []) else []
    let status := if r.status != OK then r.status else if 2 ≤ n then OK_COMBINED else OK
    each mates.zipIdx (fun m s =>
      let detail := if r.status != OK then r.detail else if 2 ≤ n then pack [(16, m.2), (0, n)] else 0
      let e := if m.1.id == r.id then r else m.1
      finish s e status detail (if status == OK || status == OK_COMBINED then (if isAtomic r.opc then e.result else data) else [])) s
  else updReq s r.id (fun _ => r)

/-- Lines that requests in service use, in a group or a queue too. -/
def busyLines (s : State) (line : Nat) : Bool :=
  s.home.reqs.any (fun r => r.begun && (match regionOf s r.h.handle with
    | some g => (reqLines s r).any (fun o => (linePlace s g o).map (· / 64) == some line && !r.done.contains o)
    | none => false))

/-- Lines that stay in the line cache: in use, in a tally, or being recalled (R576). -/
def keptLines (s : State) (line : Nat) : Bool :=
  busyLines s line || isTallied s (line * 64)
    || s.home.dir.any (fun e => 4 ≤ e.state && ((regionOf s e.handle).bind (fun g => linePlace s g (e.line * 64))).map (· / 64) == some line)

/-- Does the HBM cache hold a line that a request did not fill itself: a hit there, unless the line cache has the line (R195). -/
def hbmHit (s : State) (r : Req) (q a off : Nat) : Bool := (cacheLine s (a / 64)).isNone && inHbm s q a && !r.filled.contains off

/-- Perform a write on a line that may be written now. -/
def writeNow (s : State) (r : Req) (g : Region) (a off : Nat) (old new : List Byte) : State :=
  let hit := hbmHit s r g.homeq a off
  let r := if isAtomic r.opc then
      let op := atomicOperand r.data
      { r with result := atomicResult r.opc op (natAt old (r.h.offset % 64) op.bytes) }
    else r
  let mates := crew s r
  let s := if isAtomic r.opc ∧ 2 ≤ mates.length then
      let ops := mates.map (fun m => atomicOperand m.data)
      let vals := (atomicScan r.opc (natAt old (r.h.offset % 64) (atomicOperand r.data).bytes) ops).1
      each mates.zipIdx (fun m s => updReq s m.1.id (fun e => { e with result := atomicResult r.opc (atomicOperand e.data) (nth vals m.2) })) s
    else s
  let s := dropHeld s g.handle off
  let s := touchLine s g.homeq a true new (keptLines s)
  let s := if framed a then markFrame s g.homeq a hit else s
  let s := if fullStore r then clearPoison s a else s
  let s := trackWrite s g.handle off
  let s := match gwOf s g.handle with | some b => gwMarkDirty s b (off / 64) | none => s
  let s := if g.mode == 0 then passDoorbell s r off new else s
  let s := if g.mode == 1 then dirDone s g.homeq r.opc r.h.src r.port g.handle (off / 64) else s
  lineDone s r off

/-- Perform a read of a line that may be read now; a grant is kept with the port that carries it (R179). -/
def readNow (s : State) (r : Req) (g : Region) (a off : Nat) : State :=
  let d := lineBytes s a
  let s := if hbmHit s r g.homeq a off then updFrame s g.homeq a (fun f => { f with rrpv := 0 }) else s
  let s := touchLine s g.homeq a false d (keptLines s)
  let port := match r.org with | .port => (responsePort s r.port r.h.src r.sealOf).getD r.port | _ => r.port
  let s := if g.mode == 1 then dirDone s g.homeq r.opc r.h.src port g.handle (off / 64) else s
  lineDone s { r with got := Tab.set r.got off d } off

/-- The parity step of a write to a data stalk (R445): send the deltas, then wait for them. None: still waiting. -/
def parityStep (s : State) (r : Req) (g : Region) (off : Nat) (old new : List Byte) : Option (Bool × State) :=
  match (if g.sheaf && !r.org.copies then sheafOf s g.handle else none) with
  | none => some (true, s)
  | some x =>
    let mine := fun (d : Delta) => d.req == r.id && d.line == off / 64 && !d.page
    if s.dom.deltas.any mine then
      if s.dom.deltas.any (fun d => mine d && !d.acked) then none
      else some (true, { s with dom := { s.dom with deltas := s.dom.deltas.filter (fun d => !mine d) } })
    else
      let toward := deltaTargets x off
      if toward.isEmpty then some (true, s)
      else
        let s := each toward (fun n s => sendDelta s x r.id n off false (xorBytes old new)) s
        some (false, updReq s r.id (fun r => { r with wait := .parity }))

/-- Is a line in the 4 KiB chunk that a drain is copying (R213). -/
def chunkHeld (s : State) (q a : Nat) : Bool :=
  !framed a && s.tier.drains.any (fun d => d.q == q && d.page.any (fun p => a / 4096 == nearBase q p.1 / 4096 + d.chunk))

/-- A request to a proxy region that lacks its block's copy: the block is fetched, and what waits is deferred (R146). None: nothing more
can be sent for it. -/
def proxyWait (s : State) (r : Req) (g : Region) (b : GwBinding) (fetch : Bool) : Option State :=
  let block := r.h.offset / gwBlockBytes b
  let asked := s.regs.gwXfers.length
  let s' := if fetch then gwFetch s b g block else gwPump s b g block
  if r.wait == .gateway && s'.regs.gwXfers.length == asked then none
  else
    let s := updReq s' r.id (fun r => { r with wait := .gateway })
    some (each (crew s r) (fun m s => if m.deferrals ≠ 0 then s else (s.home.reqs.find? (fun x => x.id == m.id)).elim s (defer s)) s)

/-- What a request needs before a line that nothing holds can be performed, and then its performance (R195, R197, R205, R207, R577). -/
def performLine (s : State) (r : Req) (g : Region) (a off : Nat) : Option State :=
  match poisonOf s a with
  | some seq =>
    if canRebuild s g off then some (askRebuild s r g off)
    else if readsLines r.opc || isAtomic r.opc then some (finishCrew s r POISONED seq)
    else if r.opc == 3 then some (lineDone (if g.mode == 1 then dirDone s g.homeq r.opc r.h.src r.port g.handle (off / 64) else s) { r with status := POISONED, detail := seq } off)
    else
      let old := lineBytes s a
      match parityStep s r g off old (newLine s r off old) with
      | none => none
      | some (false, s) => some s
      | some (true, s) => some (writeNow s r g a off old (newLine s r off old))
  | none =>
    if readsLines r.opc then some (readNow s r g a off)
    else
      let old := lineBytes s a
      let new := newLine s r off old
      match parityStep s r g off old new with
      | none => none
      | some (false, s) => some s
      | some (true, s) => some (writeNow s r g a off old new)

/-- Serve one line that the directory leaves to the request: what it needs of the tiers, then its performance. -/
def tierLine (s : State) (r : Req) (g : Region) (a off : Nat) : Option State :=
  if !lineRoom s g.homeq a (keptLines s) then none
  else match gwOf s g.handle with
    | some b => match blockNeed s b off (r.opc == 1) with
      | .ready => performLine s r g a off
      | .fetch => proxyWait s r g b true
      | .waiting => proxyWait s r g b false
    | none =>
      let full := fullWrite s r g
      match lineNeed s g.sheaf g.homeq a with
      | .down seq => if canRebuild s g off then some (askRebuild s r g off) else some (finishCrew s r MEDIA_ERROR seq)
      | .fill =>
        if full && (frameOf s g.homeq a).isSome then some (writeNow s r g a off [] (newLine s r off []))
        else
          let offs := if full then [off] else (reqLines s r).filter (fun o => !r.done.contains o && (o == off || (tallyOf s g.handle o).isNone))
          if fillStuck s r g offs full then none
          else
            let s := if g.mode == 1 && readsLines r.opc then dirHold s g.homeq r.id r.opc g.handle (off / 64) else s
            some (startFills s r g offs full)
      | .ready => performLine s r g a off

/-- Serve one line of a request that nothing holds back. None: it must wait. -/
def serveLine (s : State) (r : Req) (g : Region) (off : Nat) : Option State :=
  match linePlace s g off with
  | none => some (finishCrew s r OUT_OF_BOUNDS 0)
  | some a =>
    let line := off / 64
    if (sheafOf s g.handle).any (fun x => pageHeld x off) || chunkHeld s g.homeq a || sourceHeld s r then none
    else if deltaIdle s r off then some (lineDone s r off)
    else if r.opc == 3 && maskEmpty (slice r.data (off - r.h.offset) 64) then some (lineDone s r off)
    else if g.mode != 1 then tierLine s r g a off
    else
      let space := if needsEntry s r.opc g.handle line (lineNeed s g.sheaf g.homeq a == .fill) then dirRoom s g.homeq g.comp g.handle line else .room
      match space with
      | .full => none
      | .freeing s => some (updReq s r.id (fun r => { r with wait := .snoop }))
      | .room =>
        match dirStep s g.comp r.id r.opc r.h.src g.handle line with
        | .blocked => none
        | .sent s => some (updReq s r.id (fun r => { r with wait := .snoop }))
        | .ready =>
          let e := dirFind s g.handle line
          if r.opc == 7 || (r.opc == 6 && !(e.any (fun e => e.state == dirE && e.ptrs.contains r.h.src)) && !(e.isNone && unknownLine s g.handle line)) then
            some (lineDone (dirDone s g.homeq r.opc r.h.src r.port g.handle line) r off)
          else tierLine s r g a off

/-- Stored lines that an expanded LOAD reads: none where an expander holds the block (R228). -/
def storedReads (s : State) (r : Req) (g : Region) : List Nat :=
  if s.ecx.held.any (fun b => b.handle == g.handle && b.block == r.h.offset / 4096) then [] else reqLines s r

/-- The stored lines that an expanded LOAD has read pass through the line cache (R576). -/
def readStored (s : State) (g : Region) (offs : List Nat) : State :=
  each offs (fun o s => match placeOf g o with
    | some a => touchLine s g.homeq a false (lineBytes s a) (keptLines s)
    | none => s) s

/-- Serve an expanded LOAD (R217, R228 to R230): from a held block without reading its stored lines. -/
def serveExpanded (s : State) (r : Req) (g : Region) : Option State :=
  let block := r.h.offset / 4096
  let filled := fun (off : Nat) => r.filled.contains off
  let stored := storedReads s r g
  let poisoned := stored.findSome? (fun o => (placeOf g o).bind (poisonOf s))
  let lost := stored.filter (fun o => (match placeOf g o with
    | some a => (poisonOf s a).isSome || (match lineNeed s g.sheaf g.homeq a with | .down _ => true | _ => false)
    | none => false) && canRebuild s g o)
  if !lost.isEmpty then some (each lost (fun o s => askRebuild s r g o) s)
  else if stored.any (fun o => (placeOf g o).any (fun a => !lineRoom s g.homeq a (keptLines s) || chunkHeld s g.homeq a)) then none
  else match expand s g block r.bell with
  | .need offs =>
    match offs.findSome? (fun o => (placeOf g o).bind (fun a => match lineNeed s g.sheaf g.homeq a with | .down q => some q | _ => none)) with
    | some seq => some (finishCrew s r MEDIA_ERROR seq)
    | none => if fillStuck s r g offs false then none else some (startFills s r g offs false)
  | .fail code p1 p2 p3 =>
    let s := readStored s g stored
    match poisoned with
    | some seq => some (finishCrew s r POISONED seq)
    | none =>
      if natAt (storedLine s g 0) 0 2 = 0xEC01 ∧ natAt (storedLine s g 0) 8 8 * 4096 < r.h.offset + r.h.len * 64 then some (finishCrew s r OUT_OF_BOUNDS 0)
      else
        let a := (placeOf g (p1.toNat / 64 * 64)).getD 0
        let exp := expanderOf s g.homeq a (filled (p1.toNat / 64 * 64))
        let (s, seq) := ecxFail (blockEnded s exp) exp g.handle block r.h.stall (stallPrincipal s r.h.stall) code p1 p2 p3
        some (finishCrew s r POISONED seq)
  | .good bytes slot literal first lines =>
    let s := readStored s g stored
    match poisoned with
    | some seq => some (finishCrew s r POISONED seq)
    | none =>
      let a := (placeOf g (first * 64)).getD 0
      let exp := expanderOf s g.homeq a (filled (first * 64))
      let s := if s.ecx.held.any (fun b => b.handle == g.handle && b.block == block) then s
        else blockEnded (holdBlock s exp g block bytes slot literal first lines) exp
      let mates := crew s r
      let n := mates.length
      some (each mates.zipIdx (fun m s =>
        finish s { m.1 with sealOf := if g.sealed then g.handle else 0 } (if 2 ≤ n then OK_COMBINED else OK)
          (if 2 ≤ n then pack [(16, m.2), (0, n)] else 0) (slice bytes (r.h.offset % 4096) (64 * r.h.len))) s)

/-! ### FENCE and the wait for others (R130, R148, R169) -/

/-- Does anything that entered on the FENCE's port before it, from its source and stall, lack a final response (R130); or, before a
PUBLISH, a request to its target that was performed before the exchange (R169). -/
def othersPending (s : State) (r : Req) : Bool :=
  if r.opc == 0x30 then s.home.reqs.any (fun e => e.h.handle == r.h.handle && e.wait == .others && decide (e.begunNo < r.begunNo))
  else r.org == .port && (s.home.reqs.any (fun e => decide (e.id < r.id) && e.port == r.port && e.h.src == r.h.src && e.h.stall == r.h.stall)
    || s.fab.relays.any (fun e => decide (e.order < r.id) && e.port == r.port && e.h.src == r.h.src && e.h.stall == r.h.stall))

/-- Serve a FENCE (R130, R148). -/
def serveFence (s : State) (r : Req) : Option State :=
  match gwOf s r.h.handle with
  | some b =>
    if r.wait == .flush then
      if r.done.any (fun t => (gwWriteTags s r.h.handle).contains t) then none
      else some (updReq s r.id (fun r => { r with wait := .others }))
    else
      let s := gwFlushAll s b
      let failed := (s.regs.gwFailed.find? (fun e => e.1 == r.h.handle)).map (·.2)
      let s := { s with regs := { s.regs with gwFailed := s.regs.gwFailed.filter (fun e => e.1 != r.h.handle) } }
      some (updReq s r.id (fun r => { r with
        wait := .flush, done := gwWriteTags s r.h.handle
        status := if failed.isSome then MEDIA_ERROR else r.status, detail := failed.getD r.detail }))
  | none => if r.wait == .others then none else some (updReq s r.id (fun r => { r with wait := .others }))

/-! ### Service -/

/-- Offsets of a request's lines that are not performed and not in a tally, where nothing earlier holds them. -/
def nextLine (s : State) (r : Req) (g : Region) : Option Nat :=
  let rest := (reqLines s r).filter (fun o => !r.done.contains o && (tallyOf s g.handle o).isNone)
  match rest with
  | [] => none
  | o :: _ => if lineBlocked s (g.mode == 1) r o then none else some o

/-! ### Beginning service (R184, R185, R208, R211, R366) -/

/-- Is a request in a line's queue: behind another request of the line, or behind its WAIT state (R184). A combining group takes one place. -/
def queuedOn (s : State) (coherent : Bool) (e : Req) (off : Nat) : Bool :=
  e.lineNo != 0 && (e.leader == 0 || e.leader == e.id) && !e.done.contains off && (reqLines s e).contains off
    && (lineBlocked s coherent e off || (coherent && (dirFind s e.h.handle (off / 64)).any (fun d => 4 ≤ d.state && d.waiter != e.id + 1)))

/-- Is a region COHERENT. -/
def coherentRegion (s : State) (h : Nat) : Bool := (regionOf s h).elim false (·.mode == 1)

/-- Requests in a line's queue. -/
def lineQueue (s : State) (h off : Nat) : Nat :=
  (s.home.reqs.filter (fun e => e.h.handle == h && queuedOn s (coherentRegion s h) e off)).length

/-- Requests in the line queues of a quarter. -/
def quarterQueue (s : State) (q : Nat) : Nat :=
  (s.home.reqs.filter (fun e => e.q == q && (reqLines s e).any (fun o => (tallyOf s e.h.handle o).isNone && queuedOn s (coherentRegion s e.h.handle) e o))).length

/-- Would a request that reaches a line now join its queue. -/
def wouldQueue (s : State) (r : Req) (off : Nat) : Bool :=
  let coherent := coherentRegion s r.h.handle
  s.home.reqs.any (fun e => e.id != r.id && precedes s coherent e r off)
    || (coherent && (dirFind s r.h.handle (off / 64)).any (fun d => 4 ≤ d.state))

/-- Is a request kept out by a full line queue, or the quarter's, or by aged requests ahead of it (R184, R185). -/
def queueFull (s : State) (r : Req) : Bool :=
  let lines := (reqLines s r).filter (fun o => (tallyOf s r.h.handle o).isNone)
  let aged := s.home.reqs.filter (fun e => !e.begun && e.id != r.id && e.old.isSome
    && (match r.old with | some n => (match e.old with | some m => decide (m < n) | none => false) | none => true)
    && ((e.h.handle == r.h.handle && (reqLines s e).any (fun o => lines.contains o)) || (e.oldQuarter && e.q == r.q && !lines.isEmpty)))
  lines.any (fun o => wouldQueue s r o && (decide (32 ≤ lineQueue s r.h.handle o) || decide (32768 ≤ quarterQueue s r.q))) || !aged.isEmpty

/-- Lines of a request that need a tray read before it can be performed. -/
def trayLines (s : State) (r : Req) : List Nat :=
  match regionOf s r.h.handle with
  | none => []
  | some g =>
    if g.tier = 0 ∨ fullWrite s r g ∨ isOwnOp r.opc ∨ (gwOf s g.handle).isSome then []
    else missingLines s g (if isExpanded g r.opc r.h.raw then storedReads s r g else reqLines s r)

/-- CXL port that serves a request's lines. -/
def firstPort (s : State) (r : Req) : Nat :=
  match regionOf s r.h.handle with
  | none => 0
  | some g => match (trayLines s r).findSome? (fun o => placeOf g o) with
    | some a => trayPort a
    | none => 0

/-- Lines that a request counts against its stall's quota: an expanded LOAD those of the view it asks for, an atomic one, an operation
without lines none (R208, log 160). -/
def chargedLines (r : Req) : Nat := if r.opc == 0x20 || isOwnOp r.opc || r.opc == 7 then 0 else max r.h.len 1

/-- The tier a request is served by, the tray's where it needs a tray read, and the lines it counts there (R208). -/
def quotaNeed (s : State) (r : Req) : Bool × Nat := (!(trayLines s r).isEmpty, chargedLines r)

/-- Is a request within its stall's quota of the tier that serves it (R208, R211). -/
def withinQuota (s : State) (r : Req) : Bool :=
  let t := Tab.getD s.stalls r.h.stall {}
  let n := quotaNeed s r
  !r.org.stalls || (if n.1 then decide (nth t.trayUsed r.q + n.2 ≤ t.trayQuota) else decide (nth t.hbmUsed r.q + n.2 ≤ t.hbmQuota))

/-- Is there spare room in its tier for a request over quota: below 12/16 of the limit (R211). -/
def spareRoom (s : State) (r : Req) : Bool :=
  if (trayLines s r).isEmpty then decide (hbmBusy s r.q * 16 < 12 * hbmLimit)
  else decide (trayBusy s (firstPort s r) * 16 < 12 * trayLimit)

/-- Is a request held for its region's new home to take over (Table 4.7, step 3). A move between quarters of this device
holds only what came after its switch strike. -/
def regionHeld (s : State) (r : Req) : Bool :=
  match regionOf s r.h.handle with
  | some g => g.moving && !g.valid && !r.org.copies && !(s.dom.sheaves.any (fun x => x.handle == g.handle && x.work == 2))
      && !s.regs.moves.any (fun m => m.handle == g.handle && m.other == s.dom.devid && decide (r.bell.toNat < m.struck.toNat))
  | none => false

/-- Granules of the largest response of a request. -/
def responseGranules (r : Req) : Nat := ceilDiv (24 + 64 * responseUnits r.opc r.h.len) 64

/-- Is there room for its response (R366). -/
def responseRoom (s : State) (r : Req) : Bool :=
  let held := (s.home.reqs.filter (fun e => e.q == r.q && e.begun)).foldl (fun n e => n + responseGranules e) 0
  decide (held + responseGranules r ≤ 8192 + poolFree s r.q)

/-- Has the strike come at which a request that has not begun service is answered AGED (R83). -/
def agedNow (s : State) (r : Req) : Bool :=
  (match r.org with | .port => true | .forwarded _ => true | _ => false) && decide (r.bell.toNat + r.win - 2 ≤ bellN s)

/-- May a request that waits begin service. -/
def canBegin (s : State) (r : Req) : Bool :=
  !s.home.reqs.any (fun e => !e.begun && decide (e.id < r.id) && sameStream e r)
    && !regionHeld s r && !queueFull s r && responseRoom s r && !agedNow s r && (withinQuota s r || spareRoom s r)

/-- Combinable requests (R134). -/
def combinable (r : Req) : Bool :=
  !r.h.nocomb && (r.opc == 1 || r.opc == 0x10 || r.opc == 0x11 || r.opc == 0x12
    || (r.opc == 0x13 && (atomicOperand r.data).operand != (atomicOperand r.data).compare))

/-- The identity condition of Table 5.6. -/
def sameIdentity (a b : Req) : Bool :=
  a.opc == b.opc && a.h.handle == b.h.handle && a.h.offset == b.h.offset && a.h.len == b.h.len && a.h.raw == b.h.raw
    && (!isAtomic a.opc || (
      let x := atomicOperand a.data
      let y := atomicOperand b.data
      x.bytes == y.bytes && (a.opc == 0x10 || x.type == y.type) && (a.opc != 0x13 || (x.operand == y.operand && x.compare == y.compare))))

/-- Close a combining group: its first member is performed for all of them, in its place (R135). A group of one is an ordinary request. -/
def closeGroup (s : State) (g : Group) : State :=
  let s := { s with home := { s.home with groups := s.home.groups.filter (fun x => x.first != g.first) } }
  let one := (s.home.reqs.filter (fun r => r.leader == g.first)).length < 2
  updReq s g.first (fun r => { r with wait := .order, leader := if one then 0 else r.leader })

/-- The open group that an arriving request joins (R134). -/
def groupFor (s : State) (r : Req) : Option Group :=
  s.home.groups.find? (fun g => s.home.reqs.any (fun f => f.id == g.first && sameIdentity f r))

/-- Groups on a request's lines that its arrival closes, as it is no member of them (R135). -/
def closedBy (s : State) (r : Req) (joined : Option Group) : List Group :=
  s.home.groups.filter (fun g => g.handle == r.h.handle && (joined.map (·.first)) != some g.first
    && s.home.reqs.any (fun f => f.id == g.first && (reqLines s f).any (fun o => (reqLines s r).contains o))
    && (isAtomic g.opc || r.opc == 2 || r.opc == 3 || isAtomic r.opc || r.opc == 0x61 || r.opc == 5 || r.opc == 6))

/-- Lines at which a request counts: those of the view it addresses (R134, R137). -/
def countKeys (s : State) (r : Req) : List (Nat × Nat) :=
  let view := (regionOf s r.h.handle).elim false (fun g => isExpanded g r.opc r.h.raw)
  if r.opc == 0x20 || isOwnOp r.opc then []
  else (List.range (max r.h.len 1)).map (fun i =>
    let off := r.h.offset / 64 * 64 + 64 * i
    (off, lineKey r.h.handle off + (if view then 2 ^ 70 else 0)))

/-- Requests with an opcode that reached the home for a line since the strike before the last. -/
def reachedCount (s : State) (key opc : Nat) : Nat :=
  let c := Tab.getD s.home.counts key {}
  Tab.getD c.cur opc 0 + Tab.getD c.last opc 0

/-- Is a line of a COHERENT region in a WAIT state, or another request queued for it: a new request then joins the line's
queue and no group (R184). -/
def lineQueued (s : State) (r : Req) : Bool :=
  coherentRegion s r.h.handle && (reqLines s r).any (fun o =>
    (match dirFind s r.h.handle (o / 64) with | some e => decide (dirWaitS ≤ e.state) | none => false)
    || s.home.reqs.any (fun e => e.id != r.id && e.lineNo != 0 && e.wait == .order && e.h.handle == r.h.handle
      && (reqLines s e).contains o && !e.done.contains o))

/-- May a request be in a combining group now: its lines are in no tally and no queue (R134, R138, R184). -/
def mayCombine (s : State) (r : Req) : Bool :=
  combinable r && !(reqLines s r).any (fun o => (tallyOf s r.h.handle o).isSome) && !lineQueued s r

/-- Join a group, which the last member closes, or open one on a line that has received two requests with the OPC (R134, R135). -/
def joinGroup (s : State) (r : Req) (joined : Option Group) : State :=
  match joined with
  | some g =>
    let s := updReq s r.id (fun r => { r with wait := .group, leader := g.first })
    if 64 ≤ (s.home.reqs.filter (fun e => e.leader == g.first)).length then closeGroup s g else s
  | none =>
    match (countKeys s r).head? with
    | some (off, key) =>
      if mayCombine s r && decide (2 ≤ reachedCount s key r.opc) then
        let s := updReq s r.id (fun r => { r with wait := .group, leader := r.id })
        { s with home := { s.home with groups := s.home.groups ++ [{ q := r.q, handle := r.h.handle, line := off / 64, opc := r.opc
                                                                     first := r.id, phase := s.time.phase, bell := s.time.bell }] } }
      else s
    | none => s

/-- Does a request count as a store for promotion at a line: a STORE_MASKED unit with MASK 0 does not (R123, R137). -/
def countsStore (r : Req) (off : Nat) : Bool :=
  r.opc == 2 || (r.opc == 3 && !maskEmpty (slice r.data (off - r.h.offset / 64 * 64) 64)) || r.opc == 0x61 || isAtomic r.opc

/-- Count a request at its lines (R134, R137). -/
def countLines (s : State) (r : Req) : State :=
  each (countKeys s r) (fun o s => { s with home := { s.home with
    counts := Tab.upd s.home.counts o.2 {} (fun c =>
      { c with cur := Tab.upd c.cur r.opc 0 (· + 1), stores := c.stores + b2n (countsStore r o.1) }) } }) s

/-- Entries waiting in a tally. -/
def tallyDepth (s : State) (t : Tally) : Nat := lineDepth s t.handle (t.line * 64)

/-- The slot that a promotion frees: its queue is empty, it absorbed the fewest entries in the bell before, fewer than 64; of equals the
first to have been promoted (R137; DESIGN CHOICE, log 161). -/
def spareTally (s : State) (q : Nat) : Option Tally :=
  minBy (fun t => nth t.history 0) (s.home.tallies.filter (fun t => t.q == q && tallyDepth s t == 0 && decide (nth t.history 0 < 64)))

/-- Write back the line of a tally (R140, R141, Table 7.3). -/
def tallyFlush (s : State) (h line : Nat) : State :=
  match (regionOf s h).bind (fun g => linePlace s g (line * 64)) with
  | some a => flushLine s a
  | none => s

/-- Promote a line to a tally at its 64th store since the last strike, or at a later store where it found no slot (R137, R141): never a
data stalk's line (R445). -/
def promote (s : State) (r : Req) (off : Nat) : State :=
  match regionOf s r.h.handle with
  | none => s
  | some g =>
    let key := lineKey r.h.handle off
    let c := Tab.getD s.home.counts key {}
    if (c.stores < 64 && !c.wanted) || c.promoted || !countsStore r off || s.home.tallies.any (fun t => t.handle == g.handle && t.line == off / 64)
        || (sheafOf s g.handle).isSome then s
    else
      let s? : Option State :=
        if (s.home.tallies.filter (·.q == g.homeq)).length < 64 then some s
        else match spareTally s g.homeq with
          | some t => some (tallyFlush { s with home := { s.home with tallies := s.home.tallies.filter (fun x => !(x.handle == t.handle && x.line == t.line)) } } t.handle t.line)
          | none => none
      match s? with
      | none => { s with home := { s.home with counts := Tab.upd s.home.counts key {} (fun c => { c with wanted := true }) } }
      | some s =>
        let s := match (if g.mode == 1 then dirFind s g.handle (off / 64) else none) with
          | some e => recallLine s g.comp e
          | none => s
        { s with home := { s.home with
          tallies := s.home.tallies ++ [{ q := g.homeq, handle := g.handle, line := off / 64 }]
          counts := Tab.upd s.home.counts key {} (fun c => { c with promoted := true, wanted := false }) } }

/-- Charge a request's lines to its stall, and note what the stall has used with them (R208, R209). -/
def chargeQuota (s : State) (r : Req) : State :=
  if !r.org.stalls then s
  else
    let n := quotaNeed s r
    let s := if Tab.has s.stalls r.h.stall then
        { s with stalls := Tab.adjust s.stalls r.h.stall (fun t =>
          if n.1 then { t with trayUsed := modNth t.trayUsed r.q (· + n.2) } else { t with hbmUsed := modNth t.hbmUsed r.q (· + n.2) }) }
      else s
    let t := Tab.getD s.stalls r.h.stall {}
    updReq s r.id (fun r => { r with charged := true, usedAt := nth (if n.1 then t.trayUsed else t.hbmUsed) r.q })

/-- Is a tally that the request needs full (R139). -/
def tallyFull (s : State) (r : Req) : Bool :=
  (reqLines s r).any (fun o => match tallyOf s r.h.handle o with
    | some t => decide (4096 ≤ tallyDepth s t)
    | none => false)

/-- Does the home's refusal point turn a request away (R142), and the state after it. -/
def homePoint (s : State) (r : Req) : Bool × State :=
  if !r.org.stalls then (false, s)
  else meetPoint s r.q 0xFF (s.dom.devid * 4 + r.q) r.port r.opc r.h r.id

/-- A request reaches the home agent: it meets the refusal point, counts at its lines, and joins their queues, a combining group or a tally,
its lines charged to its stall's quota; one that finds a tally full is refused (R132, R134, R137, R139, R142, R184, R208). -/
def reachHome (s : State) (r : Req) : State :=
  let (held, s) := homePoint s r
  if held then finish s r BUSY_RETRY 4 []
  else if tallyFull s r then
    finish (enterRefusing (countLines s r) r.q 0xFF (s.dom.devid * 4 + r.q) r.port r.opc r.h r.id) r BUSY_RETRY 1 []
  else
    let n := s.home.clock
    let s := { s with home := { s.home with clock := n + 1 } }
    let s := if r.charged then s else chargeQuota s r
    let s := updReq s r.id (fun r => { r with lineNo := n + 1 })
    let joined := if mayCombine s r then groupFor s r else none
    let s := each (closedBy s r joined) (fun g s => closeGroup s g) s
    let s := joinGroup s r joined
    let s := countLines s r
    let s := each (reqLines s r) (fun o s => promote s r o) s
    if (reqLines s r).any (fun o => (tallyOf s r.h.handle o).isSome) then
      updReq s r.id (fun r => if r.wait == .order then { r with wait := .tally } else r)
    else s

/-- The next entry of a tally: the request in service longest with the line unperformed, one for a closed group. -/
def tallyHead (s : State) (t : Tally) : Option Req :=
  minBy (·.lineNo) (s.home.reqs.filter (fun e => e.lineNo != 0 && (e.leader == 0 || e.leader == e.id) && e.h.handle == t.handle
    && (reqLines s e).contains (t.line * 64) && !e.done.contains (t.line * 64)))

/-- Take a request in service one step further. None: it waits. -/
def advance (s : State) (r : Req) : Option State :=
  if r.wait == .group || r.wait == .unit then none
  else if r.wait == .others then
    (if othersPending s r then none
     else if r.opc == 0x30 then some (finish s r OK 0 r.result)
     else some (finish s r r.status r.detail []))
  else if streamBlocked s r then none
  else if r.lineNo = 0 then some (reachHome s r)
  else if barrierBlocked s r then none
  else match regionOf s r.h.handle with
    | none => some (finishCrew s r NO_REGION 0)
    | some g =>
      if !r.checked then
        let bad := (crew s r).filter (fun m => !ownerPasses s m g)
        if bad.isEmpty then some (each (crew s r) (fun m s => updReq s m.id (fun r => { r with checked := true })) s)
        else some (each bad (fun m s => finish s m NOT_OWNER (ownerDetail g) []) s)
      else if sourceHeld s r then none
      else if r.opc == 0x20 then serveFence s r
      else if r.opc == 0x31 then doOffer s r g
      else if r.opc == 0x32 then doAccept s r g
      else if r.opc == 0x33 then doConfirm s r g
      else if r.opc == 0x30 then doPublish s r g
      else if isExpanded g r.opc r.h.raw then
        if (reqLines s r).any (fun o => (tallyOf s g.handle o).isSome || lineBlocked s false r o) then none else serveExpanded s r g
      else match nextLine s r g with
        | some o => serveLine s r g o
        | none => none

/-- Begin service of a request: at once it reaches the home agent, unless its stream holds it (R129). A queue it waited in that was
congested marks it (R82). -/
def beginReq (s : State) (r : Req) : State :=
  let s := leaveBuffer s r
  let n := s.home.clock
  let s := { s with home := { s.home with clock := n + 1 } }
  let tray := !(trayLines s r).isEmpty
  let s := updReq s r.id (fun e => { e with begun := true, begunNo := n, wait := .order, usedTray := tray, old := none, h := markedHdr s r })
  match s.home.reqs.find? (fun e => e.id == r.id) with
  | some r => if streamBlocked s r then s else reachHome s r
  | none => s

/-- Candidate of the home's inbound service port. -/
def homeCand (r : Req) : Cand :=
  { idx := r.id, tc := r.h.tc, svc := r.h.svc, stall := r.h.stall, qp := r.h.qp, size := ceilDiv (32 + r.data.length) 64 }

/-- Begin service of the request the tree chooses among those that may begin in a quarter, within quota first (R380). -/
def beginNext (s : State) (q : Nat) : Option State :=
  let able := s.home.reqs.filter (fun r => !r.begun && r.q == q && canBegin s r)
  if able.isEmpty then none
  else
    let within := able.filter (withinQuota s)
    let from_ := if within.isEmpty then able else within
    let waiting := s.home.reqs.filter (fun r => !r.begun && r.q == q)
    let tree := Tab.getD s.sw.homeTrees q {}
    match tree.choose (from_.map homeCand) with
    | none => none
    | some c =>
      match able.find? (fun r => r.id == c.idx) with
      | none => none
      | some r =>
        let tree := tree.granted (weightsOf s [8, 4, 4]) c ((waiting.filter (fun e => e.id != r.id)).map homeCand)
        let s := { s with sw := { s.sw with homeTrees := Tab.set s.sw.homeTrees q tree } }
        some (beginReq (granted (crossCells s (destKey r.h.tc (0x100 + q)) c.size) q) r)

/-- One step of progress at the home: a request in service, else a request that begins. -/
def progress (s : State) : Option State :=
  match s.home.reqs.findSome? (fun r => if r.begun then advance s r else none) with
  | some s' => some s'
  | none => [0, 1, 2, 3].findSome? (beginNext s)

/-- Serve until everything waits. -/
def settleN : Nat → State → State
  | 0, s => s
  | n + 1, s => match progress s with
    | some s' => settleN n s'
    | none => s

/-- AGEDW of the directory entries: an aged request waits for the line (R185, Table 6.9). -/
def refreshAged (s : State) : State :=
  let waits := fun (e : DirEntry) => s.home.reqs.any (fun r => !r.begun && r.old.isSome && r.h.handle == e.handle && (reqLines s r).contains (e.line * 64))
  if s.home.dir.all (fun e => e.agedw == waits e) then s
  else { s with home := { s.home with dir := s.home.dir.map (fun e => { e with agedw := waits e }) } }

/-- Serve everything that can be served: fuel for every line of every request. -/
def settle (s : State) : State := refreshAged (settleN (400 * (s.home.reqs.length + 1)) s)

/-! ### Tallies (R138 to R141) -/

/-- The part of an entry's request for a tally's line, performed: of an expanded LOAD all of it, once it is the next entry of every tally
of its stored lines (R138). -/
def absorbPart (s : State) (t : Tally) (r : Req) (g : Region) : Option State :=
  if isExpanded g r.opc r.h.raw then
    if (reqLines s r).all (fun o => match tallyOf s g.handle o with
        | some u => (tallyHead s u).map (·.id) == some r.id
        | none => !lineBlocked s false r o) then serveExpanded s r g
    else none
  else serveLine s r g (t.line * 64)

/-- Absorb one entry: the part of the request for the line is performed (R138). False: it must wait. -/
def absorbOne (s : State) (t : Tally) : Option (Nat × State) :=
  match tallyHead s t with
  | none => none
  | some r => match regionOf s r.h.handle with
    | none => none
    | some g =>
      if r.wait == .group || streamBlocked s r || barrierBlocked s r || sourceHeld s r then none
      else if !r.checked && !ownerPasses s r g then
        some (r.opc, finish s r NOT_OWNER (ownerDetail g) [])
      else
        match absorbPart (updReq s r.id (fun r => { r with checked := true })) t { r with checked := true } g with
        | none => none
        | some s' =>
          let moved := match s'.home.reqs.find? (fun e => e.id == r.id) with
            | some e => e.done.contains (t.line * 64)
            | none => true
          if moved then some (r.opc, s') else some (0xFF, s')

/-- Count an absorbed entry; a LOAD_SHARED or LOAD_EXCL stops the absorbing, and the line is written back (R141). -/
def countAbsorbed (s : State) (t : Tally) (opc : Nat) : State :=
  let s := { s with home := { s.home with
    tallies := adjustWhere s.home.tallies (fun x => x.handle == t.handle && x.line == t.line)
      (fun x => { x with absorbed := x.absorbed + 1, closing := x.closing || grants opc }) } }
  if grants opc then freeTallies (tallyFlush s t.handle t.line) else s

/-- A run of consecutive LOAD entries, up to 64, is absorbed at once. -/
def absorbLoads : Nat → State → Tally → State
  | 0, s, _ => s
  | n + 1, s, t => match tallyHead s t with
    | some r => if plainRead r.opc then
        (match absorbOne s t with
         | some (o, s') => if o == 0xFF then s' else absorbLoads n (countAbsorbed s' t o) t
         | none => s)
      else s
    | none => s

/-- What a tally absorbs in one SCLK. -/
def absorb (s : State) (t : Tally) : State :=
  match tallyHead s t with
  | none => s
  | some r =>
    if plainRead r.opc then absorbLoads 64 s t
    else match absorbOne s t with
      | some (o, s') => if o == 0xFF then s' else countAbsorbed s' t o
      | none => s

end Sys2Proof.Machine
end

