-- ==== Sys2Proof/Machine/Arrive.lean ====
section
/-! DEFINITION. A request on its way in: the header check, the policer, the admission checks, forwarding (Table 1.2). -/

namespace Sys2Proof.Machine

/-- Is a quarter in quarter reset. -/
def quarterInReset (s : State) (q : Nat) : Bool := s.rst.running.any (fun r => r.scope == .quarter q)

/-- Is the device being reset, or its power cycled. -/
def deviceInReset (s : State) : Bool := s.rst.running.any (fun r => r.scope == .device || r.scope == .power)

/-- Is a power cycle under way: what reaches the device is not answered any more (Table 18.2, R85). -/
def powerCycling (s : State) : Bool := s.rst.running.any (fun r => r.scope == .power)

/-- Requests outstanding on a port, of every source (R77). -/
def outstanding (s : State) (p : Nat) : Nat :=
  (s.home.reqs.filter (fun r => r.port == p && r.org.fabric)).length + (s.fab.relays.filter (fun r => r.port == p && r.acc == none)).length

/-- Is a request with its SRCID and TAG still outstanding (R76). -/
def isDuplicate (s : State) (src tag : Nat) : Bool :=
  s.home.reqs.any (fun r => r.h.src == src && r.h.tag == tag && r.org.fabric)
    || s.fab.relays.any (fun r => r.h.src == src && r.h.tag == tag && r.acc.isNone && r.cxl.isNone)

/-- Home device of a handle by a map, with the quarter where that is this device, as one number (R15, R127). -/
def homeKey (s : State) (m : CompMap) (h : Nat) : Nat :=
  match Tab.get? m.handles h with
  | some e => e.homedev * 4 + (if e.homedev = s.dom.devid then (regionOf s h).elim e.homeq (·.homeq) else 0)
  | none => 0xFFFF

/-! ### The policer (R371 to R377) -/

/-- Number of a policer: quarter, stall, service. -/
def policerKey (q stall svc : Nat) : Nat := q * 32768 + stall * 8 + svc

/-- A POLICED response is counted, and recorded once in 1,000 bells (R387). -/
def policeDrop (s : State) (q stall svc : Nat) : State :=
  let key := policerKey q stall svc
  let po := Tab.getD s.sw.policers key {}
  let n := po.since + 1
  let first := if po.since = 0 then s.time.bell else po.firstDrop
  let due := (List.range 4).all (fun c => match (Tab.getD s.sw.policers (policerKey c stall svc) {}).recorded with
    | some b => decide (1000 ≤ since s b)
    | none => true)
  let po' := { po with drops := (po.drops + 1) % 2 ^ 40, since := if due then 0 else n, firstDrop := first
                       recorded := if due then some s.time.bell else po.recorded }
  let s := { s with sw := { s.sw with policers := Tab.set s.sw.policers key po' } }
  if due then
    record s { code := 0x0E01, quarter := q, kind := 4, stall := stall, principal := stallPrincipal s stall
               p0 := pack [(12, svc), (0, stall)], p1 := word n, p2 := pack [(32, po.rate), (0, po.burst)], p3 := first }
  else s

/-- Does the policer let a request through, and the policer after it (R375). -/
def policer (s : State) (q : Nat) (h : ReqHdr) (c : Nat) : Bool × State :=
  let key := policerKey q h.stall h.svc
  let po := Tab.getD s.sw.policers key {}
  if po.mode = 0 then (true, s)
  else if po.mode = 1 ∧ c ≤ po.tokens then
    (true, { s with sw := { s.sw with policers := Tab.set s.sw.policers key { po with tokens := po.tokens - c } } })
  else (false, policeDrop s q h.stall h.svc)

/-! ### The checks of Table 4.2 -/

/-- Is a stall bound to an endpoint (R78). -/
def isBound (s : State) (stall src : Nat) : Bool := (Tab.getD s.stalls stall {}).binds.contains src

/-- Size of the view a request addresses: the expanded view of an ECX region for an expanded LOAD (R96, R218). -/
def viewBytes (s : State) (g : Region) (opc : Nat) (raw : Bool) : Nat :=
  if isExpanded g opc raw then
    (if missingLines s g [0] == [] then natAt (storedLine s g 0) 8 8 * 4096 else 2 ^ 48)
  else g.bytes

/-- Is a region's record one that the home serves: VALID, or MOVING at the new home (check 4). -/
def inService (s : State) (h : Nat) : Option Region :=
  if h = 0 ∨ h = 0xFFFFFF then none
  else match regionOf s h with
    | some g => if g.valid || g.moving then some g else none
    | none => none

/-- The slot that a key opens: 0 A, 1 B (check 5); 2 for the key 0 of a move's read, which no slot admits. -/
def keySlotOf (g : Region) (key : Word) : Nat := if key == 0 then 2 else if g.slotA.key == key && g.slotA.state == 1 then 0 else 1

/-- Is this device the new home of a move from another device whose keys have not come yet (Table 4.7, steps 3 and 4). What arrives is
held, and checked when they come (DEDUCED, log 162). -/
def awaitsKeys (s : State) (h : Nat) : Bool :=
  s.regs.moves.any (fun m => m.handle == h && m.new && m.other != s.dom.devid) && !(regionOf s h).elim false (·.valid)

/-- Checks 4 to 9 of Table 4.2: OK, or the status and DETAIL of the first that fails. An access of the device's own makes all but
check 8 (R154). -/
def homeCheckAs (s : State) (opc : Nat) (h : ReqHdr) (own nonCaching : Bool) : Nat × Nat :=
  match inService s h.handle with
  | none => (NO_REGION, 0)
  | some g =>
    let key := keyTest s g h.key h.stall (rightsNeeded opc)
    if awaitsKeys s h.handle then (OK, 0)
    else if key != OK then (key, 0)
    else if viewBytes s g opc h.raw < h.offset + max h.len 1 * 64 then (OUT_OF_BOUNDS, 0)
    else if !own && g.mode == 1 && (nonCaching || !s.dom.caching.contains h.src) then (NOT_COHERENT, 0)
    else if g.fenced && decide (2 ≤ rightsNeeded opc) then (READ_ONLY, s.dom.devid)
    else (OK, 0)

/-- Checks 4 to 9 for a request from outside. -/
def homeCheck (s : State) (opc : Nat) (h : ReqHdr) (nonCaching : Bool) : Nat × Nat := homeCheckAs s opc h false nonCaching

/-- Requests the region does not take after the checks (Tables 6.1 and 8.1, R126, R149, R446): UNSUPPORTED. -/
def modeRefuses (s : State) (g : Region) (opc : Nat) (h : ReqHdr) (delta fromEndpoint : Bool) : Bool :=
  (isParity s g.handle && fromEndpoint) || (g.mode == 0 && (opc == 4 || opc == 5 || opc == 6 || opc == 7))
    || (g.mode == 1 && isOwnOp opc)
    || (isAtomic opc && (g.ecx || g.sealed))
    || (g.ecx && (opc == 2 || opc == 3) && !h.raw)
    || (isAtomic opc && (gwOf s g.handle).isSome)
    || (isParity s g.handle && !delta && opc != 1)

/-- Is a STORE from a device a delta or mirror store to a parity stalk held here (R446). -/
def isDelta (s : State) (dev opc : Nat) (h : ReqHdr) : Bool :=
  opc == 2 && isParity s h.handle && (sheafOf s h.handle).any (fun x => (x.stalks.take x.k).any (fun e => e.1 == dev)) && h.src == dev

/-! ### Admission at the home -/

/-- Is a region's page copied to the shadow of its composition, so that its requests are mirrored (R453). -/
def mirrored (s : State) (g : Region) (off : Nat) : Bool :=
  s.dom.copies.any (fun c => c.handle == g.handle && decide (off / 4096 < c.cursor))

/-- Refuse at the home with a final response that goes where the request's responses go. -/
def homeRefuse (s : State) (r : Req) (status detail retry : Nat) : State :=
  respond s r status (word detail) retry [] true

/-- Admit a request: it enters its VOQ (R357, R362), is counted, and is served as far as it goes. -/
def admitReq (s : State) (r : Req) (g : Region) : State :=
  let n := ceilDiv (32 + r.data.length) 64
  let q := portQuarter r.port
  let onPort := r.org.fabric
  let alpha := if r.h.tc = 3 then (1, 2) else (1, 1)
  let shared := onPort && poolAllows s q (voqKey r.h.tc r.port (0x100 + g.homeq)) n alpha.1 alpha.2
  let s := if !onPort then s
    else if shared then poolTake s q (voqKey r.h.tc r.port (0x100 + g.homeq)) n
    else updPort s r.port (fun ps => { ps with inUse := modNth ps.inUse r.h.tc (· + n) })
  let mirror := if mirrored s g r.h.offset && !r.org.copies then s.dom.mirrorSeq + 1 else 0
  let s := if mirror = 0 then s else { s with dom := { s.dom with mirrorSeq := mirror } }
  let r := { r with id := s.home.nextId, q := g.homeq, comp := g.comp, slot := keySlotOf g r.h.key, bell := s.time.bell
                    entered := now s, shared := shared, mirror := mirror }
  let tree := (Tab.getD s.sw.homeTrees g.homeq {}).wake (homeCand r)
  let s := { s with home := { s.home with nextId := s.home.nextId + 1, reqs := s.home.reqs ++ [r] }
                    sw := { s.sw with homeTrees := Tab.set s.sw.homeTrees g.homeq tree } }
  let s := settle s
  -- a request kept out of a full line queue has made its first presentation (R185)
  match s.home.reqs.find? (fun e => e.id == r.id) with
  | some e => if !e.begun && queueFull s e then updReq s r.id (fun e => { e with retries := 1, firstTry := some s.time.bell }) else s
  | none => s

/-- What the home makes of a request that has passed the checks: the refusals of Tables 6.1 and 8.1, the owner's policy (R492), or
admission. -/
def takeAtHome (s : State) (r : Req) (g : Region) : State :=
  let delta := match r.org with | .delta _ => true | _ => false
  let r := { r with q := g.homeq, comp := g.comp }
  let fromEndpoint := match r.org with | .port => true | .cxl _ => true | _ => false
  if modeRefuses s g r.opc r.h delta fromEndpoint then homeRefuse s r UNSUPPORTED 0 0
  else
    let policy := match r.org with
      | .port => policyOk s r.port g.handle
      | .engine _ => true
      | _ => false
    if g.sealed && isExpanded g r.opc r.h.raw && !policy then
      let block := r.h.offset / 4096
      let e := expanderOf s g.homeq (firstUnit s g block) false
      let at_ := blockParams s g block
      let (s, seq) := ecxFail s e g.handle block r.h.stall (stallPrincipal s r.h.stall) 0x0809 at_.1 (word r.port) at_.2
      homeRefuse s r POISONED seq.toNat 0
    else admitReq s r g

/-! ### The buffer (R363) -/

/-- Granules of a port's minimum in use from which requests that R361 keeps there are refused. -/
def refuseLevel (ps : PortS) : Nat := if ps.gang then 2048 else 1024

/-- Is a request refused for want of buffer (R363). -/
def bufferRefuses (s : State) (p : Nat) (h : ReqHdr) (bytes dest : Nat) : Bool :=
  let alpha := if h.tc = 3 then (1, 2) else (1, 1)
  !poolAllows s (portQuarter p) (voqKey h.tc p dest) (ceilDiv (32 + bytes) 64) alpha.1 alpha.2
    && decide (refuseLevel (portOf s p) ≤ nth (portOf s p).inUse h.tc)

/-- The stall with the most refusals; of equals the lowest (log 154). -/
def mostRefused (t : Tab Nat) : Nat := (t.foldl (fun (a : Nat × Nat) e => if a.2 < e.2 || (a.2 == e.2 && decide (e.1 < a.1)) then e else a) (0, 0)).1

/-- Count a refusal under R363; BUFFER_REFUSE at most once per port in 1,000 bells (Table 13.5). -/
def bufferRecord (s : State) (p stall tc : Nat) : State :=
  let at_ := fun (c : Nat) => Tab.getD s.sw.refusals (p * 4 + c) ([], none)
  let t := Tab.upd (at_ tc).1 stall 0 (· + 1)
  let due := (List.range 4).all (fun c => match (at_ c).2 with | some b => decide (1000 ≤ since s b) | none => true)
  let s := { s with sw := { s.sw with
    refusals := Tab.set s.sw.refusals (p * 4 + tc) (if due then ([], some s.time.bell) else (t, (at_ tc).2)) } }
  if due then record s { code := 0x0D03, quarter := portQuarter p, kind := 3, stall := mostRefused t, p0 := pack [(8, p), (0, tc)]
                         p1 := word (t.foldl (fun n e => n + e.2) 0) }
  else s

/-- The ingress policer point of a port: an x8 port is named by its even port (Table 20.9). -/
def pointOf (s : State) (p : Nat) : Nat := (if (portOf s p).gang then p / 2 * 2 else p) % 64

/-- Step 4 of Table 1.2, for a request on a port that has passed step 3 (R22): refused for want of buffer (R363), or as a transfer
through a device that no longer has the GATEWAY role (R119). None: it enters its VOQ. -/
def stepFour (s : State) (r : Req) (home comp : Nat) : Option State :=
  match r.org with
  | .port | .forwarded _ =>
    if bufferRefuses s r.port r.h r.data.length (0x100 + home % 4) then
      let s := bufferRecord (enterRefusing s (portQuarter r.port) (pointOf s r.port) home r.port r.opc r.h 0) r.port r.h.stall r.h.tc
      some (refuse (meterRefused s (some comp)) r.port r.opc r.h BUSY_RETRY 2 10)
    else if (portOf s r.port).ptype = 3 ∧ isXfer r.opc ∧ !hasRole s s.maps.cur comp 2 then some (refuse s r.port r.opc r.h UNSUPPORTED 0 0)
    else none
  | _ => none

/-- Checks 4 to 9 for a request, by where it comes from. -/
def homeCheckOf (s : State) (r : Req) : Nat × Nat :=
  let nonCaching := isXfer r.opc || (match r.org with | .cxl _ => true | _ => false)
  let own := match r.org with | .engine _ => true | .delta _ => true | _ => false
  homeCheckAs s r.opc r.h own nonCaching

/-- Checks 4 to 9 and what follows (R571, R101), for a request of a composition. -/
def atHome (s : State) (r : Req) (comp : Nat) : State :=
  let c := homeCheckOf s r
  if c.1 != OK then homeRefuse (meterRefused s (some comp)) r c.1 c.2 0
  else match inService s r.h.handle with
    | none => homeRefuse s r NO_REGION 0 0
    | some g =>
      if deviceInReset s then homeRefuse s { r with q := g.homeq } ABORTED_RESET 4 255
      else if quarterInReset s g.homeq then homeRefuse s { r with q := g.homeq } ABORTED_RESET 3 255
      else match stepFour s r (s.dom.devid * 4 + g.homeq) g.comp with
        | some s => s
        | none => takeAtHome s r g

/-! ### Forwarding to another device (R581, R117) -/

/-- Where a request for a region goes when this device is the old home of a move whose switch has struck. -/
def movedTo (s : State) (h : Nat) : Option Nat :=
  (s.regs.moves.find? (fun m => m.handle == h && !m.new && m.switched)).map (·.other)

/-- Forward a request to its home device, or NO_HOME without a direct link to it (R442, Table 17.5). -/
def relay (s : State) (r : Req) (home comp : Nat) (prev : Bool) : State :=
  let refuse := fun (s : State) => homeRefuse s r NO_HOME home 0
  if s.dom.expelled.contains home then refuse s
  else match pickPort (portsToDevice s home) r.h.src r.h.stall r.h.svc r.h.qp with
    | none => refuse s
    | some out =>
      let acc := match r.org with | .engine a => some a | _ => none
      let s := { s with
        home := { s.home with nextId := s.home.nextId + 1 }
        fab := { s.fab with relays := s.fab.relays ++ [{
          order := s.home.nextId, home := home, port := r.port, out := out, opc := r.opc, h := r.h, prev := prev
          bell := s.time.bell, win := r.win, comp := comp, acc := acc, cxl := match r.org with | .cxl fn => some fn | _ => none }] } }
      send s out (.req r.opc r.h r.data)

/-- Checks 2 and 3 by the maps, then home or forwarding (R112, R571). `hop` marks a request another device forwarded. -/
def route (s : State) (r : Req) (hop : Bool) : State :=
  match selectMap s r.h.mepoch with
  | none => homeRefuse (meterRefused s (stallComp s r.h.stall)) r EPOCH_STALE s.maps.cur.epoch 0
  | some (m, prev) =>
    match (if r.h.handle = 0 ∨ r.h.handle = 0xFFFFFF then none else Tab.get? m.handles r.h.handle) with
    | none => homeRefuse (meterRefused s (stallComp s r.h.stall)) r NO_REGION 0 0
    | some e =>
      let r := { r with prev := prev }
      let pass := fun (dev : Nat) => if deviceInReset s then homeRefuse s r ABORTED_RESET 4 255 else (stepFour s r (homeKey s m r.h.handle) e.comp).getD (relay s r dev e.comp prev)
      match movedTo s r.h.handle with
      | some dev => pass dev
      | none =>
        if e.homedev = s.dom.devid then atHome s r e.comp
        else if hop then homeRefuse (meterRefused s (stallComp s r.h.stall)) r EPOCH_STALE s.maps.cur.epoch 0
        else pass e.homedev

/-! ### Arrival (Table 1.2) -/

/-- Step 2 for a request on an endpoint's or peer gateway's port. -/
def pastHeader (s : State) (p opc : Nat) (h : ReqHdr) (d : List Byte) (r : Req) : State :=
  let ps := portOf s p
  let q := portQuarter p
  let point := pointOf s p
  let home := match selectMap s h.mepoch with | some (m, _) => homeKey s m h.handle | none => 0xFFFF
  let (held, s) := meetPoint s q point home p opc h 1
  if held then refuse (meterRefused s (stallComp s h.stall)) p opc h BUSY_RETRY 4 0
  else if (if ps.gang then 16384 else 8192) ≤ outstanding s p then
    refuse (meterRefused (enterRefusing s q point home p opc h 0) (stallComp s h.stall)) p opc h BUSY_RETRY 3 5
  else
    let (pass, s) := if ps.ptype = 1 then (true, s) else policer s q h (policeCharge opc h.len d.length)
    if !pass then
      refuse (meterRefused (enterRefusing s q point home p opc h 0) (stallComp s h.stall)) p opc h POLICED h.svc (retryPoliced s)
    else if ps.ptype ≠ 1 ∧ !isBound s h.stall h.src then
      refuse (meterRefused s (stallComp s h.stall)) p opc h KEY_MISMATCH 1 0
    else route s r (ps.ptype == 1)

/-- Is an XFER_WRITE from a home a page for the copy of a region that this device shadows (R453). -/
def isShadowCopy (s : State) (dev opc : Nat) (h : ReqHdr) : Bool :=
  opc == 0x61 && h.src == dev && (match Tab.get? s.maps.cur.handles h.handle with
    | some e => e.homedev == dev && hasRole s s.maps.cur e.comp 3
    | none => false)

/-- A page of a shadow's copy arrives. -/
def takeShadowPage (s : State) (h : ReqHdr) (d : List Byte) : State :=
  let comp := (Tab.get? s.maps.cur.handles h.handle).elim 0 (·.comp)
  let mine := fun (x : Shadow) => x.comp == comp && x.home == h.src
  { s with
    tier := { s.tier with mem := Memory.write s.tier.mem (shadowPlace h.handle h.offset) d }
    dom := { s.dom with shadows := adjustWhere s.dom.shadows mine (fun x => { x with pages := addOnce x.pages h.handle, fresh := true }) } }

/-- Is an XFER_READ from a device the copy of a region that moves there: it carries no key (Table 4.7, step 1; DESIGN
CHOICE, log 17). -/
def isMoveRead (s : State) (dev opc : Nat) (h : ReqHdr) : Bool :=
  opc == 0x60 && h.src == dev && h.key == 0 && (inService s h.handle).isSome

/-- Is an XFER_WRITE from a device a page written meanwhile, from the old home of a move to here (step 4). -/
def isMoveWrite (s : State) (dev opc : Nat) (h : ReqHdr) : Bool :=
  opc == 0x61 && h.src == dev && s.regs.moves.any (fun m => m.new && m.handle == h.handle && m.other == dev)

/-- Track the pages that an old home writes, from the first read of the copy. -/
def trackMove (s : State) (dev : Nat) (h : ReqHdr) : State :=
  if s.regs.moves.any (fun m => m.handle == h.handle) then s
  else
    let s := { s with regs := { s.regs with moves := s.regs.moves ++ [{ handle := h.handle, other := dev, since := s.time.bell }] } }
    updRegion s h.handle (fun g => { g with moving := true })

/-- A request arrives on a port (steps 1 to 7 of Table 1.2). -/
def arrive (s : State) (p opc : Nat) (h : ReqHdr) (d : List Byte) : State :=
  let ps := portOf s p
  if !portUp s p || powerCycling s then s
  else if ps.ptype ≠ 1 ∧ h.src ≠ ps.epid then discardMessage s p h.src 0 2
  else if !formOk opc h d || isDuplicate s h.src h.tag
      || (ps.ptype == 3 && !(isXfer opc || opc == 0x20)) || (ps.ptype == 2 && isXfer opc) then
    refuse s p opc h UNSUPPORTED 0 0
  else if ps.ptype = 1 then
    if isShadowCopy s ps.epid opc h then
      refuse (takeShadowPage s h d) p opc h OK 0 0
    else if isMoveWrite s ps.epid opc h then
      match regionOf s h.handle with
      | some g => admitReq s { org := .copy ps.epid, port := p, opc := opc, h := h, data := d, win := ps.window } g
      | none => s
    else if isMoveRead s ps.epid opc h then
      match inService s h.handle with
      | some g => admitReq (trackMove s ps.epid h) { org := .copy ps.epid, port := p, opc := opc, h := h, win := ps.window } g
      | none => s
    else if isDelta s ps.epid opc h then
      atHome s { org := .delta ps.epid, port := p, opc := opc, h := h, data := d, win := ps.window } ((regionOf s h.handle).elim 0 (·.comp))
    else pastHeader s p opc h d { org := .forwarded ps.epid, port := p, opc := opc, h := h, data := d, win := ps.window - 1 }
  else pastHeader s p opc h d { org := .port, port := p, opc := opc, h := h, data := d, win := ps.window }

/-! ### Accesses the device makes itself (R154, R416) -/

/-- Submit an access of an engine, a sequencer or a mailbox data area to the home of a region: it is checked with the
key it carries and counts as a request of its stall. -/
def submit (s : State) (use : AccUse) (opc : Nat) (h : ReqHdr) (d : List Byte) : Nat × State :=
  let acc := s.eng.nextAcc
  let h := { h with src := if h.src = 0 then s.dom.devid else h.src, mepoch := s.maps.cur.epoch % 256 }
  let h := { h with tag := ownTag s h.src }
  let s := { s with regs := { s.regs with gwTag := h.tag + 1 }, eng := { s.eng with
    nextAcc := acc + 1, access := s.eng.access ++ [{ acc := acc, use := use, write := opc != 1 }] } }
  let r : Req := { org := .engine acc, port := 256, opc := opc, h := h, data := d, win := 40 }
  (acc, route s r false)

/-- Take the answer of an access, if it has come. -/
def takeAnswer (s : State) (acc : Nat) : Option (Nat × Word × List Byte) × State :=
  match s.eng.access.find? (fun a => a.acc == acc) with
  | some a => match a.answer with
    | some x => (some x, { s with eng := { s.eng with access := s.eng.access.filter (fun a => a.acc != acc) } })
    | none => (none, s)
  | none => (none, s)

end Sys2Proof.Machine
end

