-- ==== Sys2Proof/Machine/Sheaf.lean ====
section
/-! DEFINITION. Sheaves page by page: pushes, rebuilds, re-encoding and scrubbing of stalks, and the rebuild of single lines. -/

namespace Sys2Proof.Machine

/-! ### Pages of a region held here -/

/-- Offsets of the lines of a 4 KiB page. -/
def pageLines (page : Nat) : List Nat := (List.range 64).map (fun i => page * 4096 + 64 * i)

/-- Read a page of a region once every line of it is in HBM; start the fills it lacks. -/
def getPage (s : State) (g : Region) (page : Nat) : Option (List Byte) × State :=
  let missing := missingLines s g (pageLines page)
  if missing.isEmpty then (some ((pageLines page).flatMap (storedLine s g)), s)
  else (none, each missing (fun o s => match placeOf g o with
    | some a => (startFill s g.homeq a false).2
    | none => s) s)

/-- Write a page of a region anew, where its frame can be had: with its lines' old contents their poison goes (DEDUCED, log 126). -/
def putPage (s : State) (g : Region) (page : Nat) (d : List Byte) : Option State :=
  match placeOf g (page * 4096) with
  | none => some s
  | some a =>
    let room := if isTray a && (frameOf s g.homeq a).isNone then allocFrame s g.homeq a else (true, s)
    if room.1 then
      some (each (List.range 64) (fun i s =>
        clearPoison (putLine (dropHeld s g.handle (page * 4096 + 64 * i)) g.homeq (a + 64 * i) (slice d (64 * i) 64)) (a + 64 * i)) room.2)
    else none

/-- Change a sheaf's table entry. -/
def updSheaf (s : State) (h : Nat) (f : Sheaf → Sheaf) : State :=
  { s with dom := { s.dom with sheaves := adjustWhere s.dom.sheaves (fun y => y.handle == h) f } }

/-- Data pages of a stalk: the last 4 KiB of a parity stalk are the record mirror (R443). -/
def stalkPages (x : Sheaf) (g : Region) : Nat := if x.self < x.k then g.size4k + 1 else g.size4k

/-! ### Pushing a data stalk (R444) -/

/-- Is the push of a page without an answer. -/
def pushing (s : State) (x : Sheaf) : Bool :=
  s.dom.deltas.any (fun d => d.handle == x.handle && d.req == 0 && !d.page && !d.acked && d.line == x.cursor * 64)

/-- Push the page the cursor has reached, unless it is on its way. With no parity stalk left to push to, every page is
pushed. -/
def pushPage (s : State) (x : Sheaf) (g : Region) : State :=
  if stalkPages x g ≤ x.cursor || pushing s x then s
  else
    let toward := [x.k, x.k + 1].filter (fun n => !x.stale.contains n)
    if toward.isEmpty then updSheaf s x.handle (fun y => { y with cursor := stalkPages x g })
    else match getPage s g x.cursor with
      | (none, s) => s
      | (some d, s) => each toward (fun n s => sendDelta s x 0 n (x.cursor * 4096) false d) s

/-- The pushed page has its answers: the next one follows (R444). -/
def pushNext (s : State) (h : Nat) : State :=
  match sheafOf s h with
  | some x =>
    if x.work == 1 && !pushing s x then
      let s := updSheaf s h (fun y => { y with cursor := y.cursor + 1 })
      match sheafOf s h, regionOf s h with
      | some x, some g => pushPage s x g
      | _, _ => s
    else s
  | none => s

/-! ### Reading the other stalks of a page (R450 to R452) -/

/-- Stalks a page is computed from: those of AVAIL for a rebuild, else the data stalks. -/
def pageSources (x : Sheaf) : List Nat :=
  if x.work == 2 then (List.range (x.k + 2)).filter (fun n => x.avail / 2 ^ n % 2 == 1) else List.range x.k

/-- Coefficient of a source in a page (Table 17.8, R443). -/
def pageCoef (x : Sheaf) (n : Nat) : Byte :=
  if x.work == 2 then rebuildCoef x.k x.self (pageSources x) n else if x.self == x.k then 1 else gfPow n

/-- Is an access one of the reads of a page. -/
def readsPage (h page : Nat) (a : Access) : Bool :=
  match a.use with
  | .stalkPage k p _ => k == h && p == page
  | _ => false

/-- The stalk an access reads. -/
def accessStalk (a : Access) : Nat :=
  match a.use with
  | .stalkPage _ _ n => n
  | .lineRebuild _ _ n => n
  | _ => 0

/-- Drop accesses whose answers are used or given up. -/
def dropAccess (s : State) (p : Access → Bool) : State :=
  { s with eng := { s.eng with access := s.eng.access.filter (fun a => !p a) } }

/-- What has come of the reads of a page. -/
inductive Gathered where
  | waiting
  | failed
  | good (d : List Byte)

/-- Put the answers of a page's reads together. -/
def gather (s : State) (x : Sheaf) (page : Nat) : Gathered :=
  let mine := s.eng.access.filter (readsPage x.handle page)
  if mine.any (fun a => a.answer.any (fun r => r.1 != OK && r.1 != OK_COMBINED)) then .failed
  else if mine.any (fun a => a.answer.isNone) then .waiting
  else .good (combine 4096 (mine.map (fun a => (pageCoef x (accessStalk a), match a.answer with | some r => r.2.2 | none => []))))

/-- Are the reads of a page out. -/
def pageAsked (s : State) (x : Sheaf) (page : Nat) : Bool := s.eng.access.any (readsPage x.handle page)

/-- Send the reads of a page. -/
def askPage (s : State) (x : Sheaf) (page : Nat) : State :=
  each (pageSources x) (fun n s => readStalk s x (.stalkPage x.handle page n) n (page * 4096) 64) s

/-- Step a cursor past pages rebuilt ahead of it. -/
def pastAhead : Nat → List Nat → Nat → Nat
  | 0, _, c => c
  | n + 1, ahead, c => if ahead.contains c then pastAhead n ahead (c + 1) else c

/-- The page a rebuild takes next: one a request waits for, else the first not rebuilt (R451). -/
def wantedPage (s : State) (x : Sheaf) : Nat :=
  let wants := s.home.reqs.findSome? (fun r =>
    if r.begun && r.h.handle == x.handle then ((reqLines s r).filter (fun o => !r.done.contains o && pageHeld x o)).head? else none)
  match wants with
  | some o => o / 4096
  | none => x.cursor

/-- Work on the page of a rebuild (R451). -/
def rebuildStep (s : State) (x : Sheaf) (g : Region) : State :=
  if stalkPages x g ≤ x.cursor then s
  else
    let page := x.current.getD (wantedPage s x)
    let s := updSheaf s x.handle (fun y => { y with current := some page })
    if !pageAsked s x page then askPage s x page
    else match gather s x page with
      | .waiting => s
      | .failed => dropAccess s (readsPage x.handle page)
      | .good d => match putPage s g page d with
        | none => s
        | some s =>
          let ahead := addOnce x.ahead page
          updSheaf (dropAccess s (readsPage x.handle page)) x.handle (fun y => { y with
            ahead := ahead, current := none, cursor := pastAhead (ahead.length + 1) ahead y.cursor })

/-- Work on the page of a re-encoding (R452). -/
def reencodeStep (s : State) (x : Sheaf) (g : Region) : State :=
  if stalkPages x g ≤ x.cursor then s
  else if !pageAsked s x x.cursor then askPage s x x.cursor
  else match gather s x x.cursor with
    | .waiting => s
    | .failed => dropAccess s (readsPage x.handle x.cursor)
    | .good d => match putPage s g x.cursor d with
      | none => s
      | some s => updSheaf (dropAccess s (readsPage x.handle x.cursor)) x.handle (fun y => { y with cursor := y.cursor + 1 })

/-- End the scrub of a page: the next one is due. -/
def scrubEnd (s : State) (x : Sheaf) (g : Region) : State :=
  updSheaf (dropAccess s (readsPage x.handle x.cursor)) x.handle (fun y =>
    { y with work := 0, scrub := (x.cursor + 1) % max 1 (stalkPages x g) })

/-- Work on the page of a scrub: a mismatch marks the stalk STALE and leaves the page as it was (R450). A page whose
sources cannot be read is passed over. -/
def scrubStep (s : State) (x : Sheaf) (g : Region) : State :=
  match gather s x x.cursor with
  | .waiting => s
  | .failed => scrubEnd s x g
  | .good d => match getPage s g x.cursor with
    | (none, s) => s
    | (some own, s) =>
      let s := if own == d then s
        else record (updSheaf s x.handle (fun y => { y with stale := addOnce y.stale x.self }))
          { code := 0x1307, quarter := g.homeq, kind := 0x0B, p0 := word x.handle, p1 := word x.cursor }
      scrubEnd s x g

/-- Zero a parity stalk in a tray page by page (R444, R452). -/
def zeroStep (s : State) (x : Sheaf) (g : Region) : State :=
  if g.size4k < x.cursor then updSheaf s x.handle (fun y => { y with work := if x.work = 6 then 3 else 0, cursor := 0 })
  else match putPage s g x.cursor (List.replicate 4096 0) with
    | some s => updSheaf s x.handle (fun y => { y with cursor := y.cursor + 1 })
    | none => s

/-- Take the page work of one sheaf further. -/
def sheafWork (s : State) (h : Nat) : State :=
  match sheafOf s h, regionOf s h with
  | some x, some g =>
    if x.work == 1 then pushPage s x g
    else if x.work == 2 then rebuildStep s x g
    else if x.work == 3 then reencodeStep s x g
    else if x.work == 4 then scrubStep s x g
    else if x.work == 5 || x.work == 6 then zeroStep s x g
    else s
  | _, _ => s

/-! ### Lines rebuilt from the other stalks (R449) -/

/-- Is an access one of the reads of a line's rebuild. -/
def readsLine (h line : Nat) (a : Access) : Bool :=
  match a.use with
  | .lineRebuild k l _ => k == h && l == line
  | _ => false

/-- Requests that wait for a line to be rebuilt go on. -/
def wakeRebuilt (s : State) (h line : Nat) : State :=
  { s with home := { s.home with
    reqs := adjustWhere s.home.reqs (fun r => r.wait == .unit && r.h.handle == h && (reqLines s r).contains (line * 64))
      (fun r => { r with wait := .order }) } }

/-- Requests that wait for a line that cannot be rebuilt end with its failure. -/
def failRebuilt (s : State) (h line status : Nat) (detail : Word) : State :=
  each (s.home.reqs.filter (fun r => r.wait == .unit && r.h.handle == h && (reqLines s r).contains (line * 64)))
    (fun r s => finishCrew s r status (if r.detail == 0 then detail else r.detail)) s

/-- Take the rebuild of a line further: with every source there the line is written back and recorded; a source that
fails ends it with the line's own failure. -/
def lineRebuildStep (s : State) (h line : Nat) : State :=
  let mine := s.eng.access.filter (readsLine h line)
  let s' := dropAccess s (readsLine h line)
  match sheafOf s h, regionOf s h with
  | some x, some g =>
    match placeOf g (line * 64) with
    | none => s'
    | some a =>
      if mine.any (fun e => e.answer.any (fun r => r.1 != OK && r.1 != OK_COMBINED)) then
        match poisonOf s a with
        | some seq => failRebuilt s' h line POISONED seq
        | none => failRebuilt s' h line MEDIA_ERROR (if isTray a then (cxlOf s (trayPort a)).downSeq else 0)
      else if mine.any (fun e => e.answer.isNone) then s
      else
        let avail := mine.map accessStalk
        let d := combine 64 (mine.map (fun e => (rebuildCoef x.k x.self avail (accessStalk e), match e.answer with | some r => r.2.2 | none => [])))
        let room := if isTray a && (frameOf s' g.homeq a).isNone then allocFrame s' g.homeq a else (true, s')
        if !room.1 then s
        else
          let s := clearPoison (putLine room.2 g.homeq a d) a
          let s := record s { code := 0x1309, quarter := g.homeq, kind := 0x0B, p0 := word h, p1 := word (line * 64)
                              p2 := word (avail.foldl (fun m n => m + 2 ^ n) 0) }
          wakeRebuilt s h line
  | _, _ => s'

/-- Lines being rebuilt. -/
def rebuildLines (s : State) : List (Nat × Nat) :=
  (s.eng.access.filterMap (fun a => match a.use with | .lineRebuild h l _ => some (h, l) | _ => none)).eraseDups

/-- Take every sheaf's work further. -/
def sheafStep (s : State) : State :=
  let s := each (rebuildLines s) (fun e s => lineRebuildStep s e.1 e.2) s
  each (s.dom.sheaves.map (·.handle)) (fun h s => sheafWork s h) s

end Sys2Proof.Machine
end

