-- ==== Sys2Proof/Machine/Accesses.lean ====
section
/-! DEFINITION. The commands that are memory requests and their responses: loads, stores, atomics, ownership, coherence, XFER, CXL.mem. -/

namespace Sys2Proof.Machine

/-- Pass on the answers to FENCEs that the ingress holds, once nothing before them is outstanding (R130). -/
def releaseFences (s : State) : State :=
  each (s.fab.relays.filter (·.held.isSome)) (fun f s =>
    let before := fun (order port src stall : Nat) => decide (order < f.order) && port == f.port && src == f.h.src && stall == f.h.stall
    if s.home.reqs.any (fun e => before e.id e.port e.h.src e.h.stall)
        || s.fab.relays.any (fun e => before e.order e.port e.h.src e.h.stall) then s
    else match f.held with
      | some (h, d) =>
        let s := { s with fab := { s.fab with relays := s.fab.relays.filter (fun e => e.order != f.order) } }
        sendResponse s f.port f.h.src h d 0
      | none => s) s

/-! ### Transfers that the device issues itself (R89, R146, R147, R453, Table 4.7) -/

/-- Put a page of a region's copy on its way: a read from the old home of a move, or a write to a shadow
or to the new home. -/
def issueCopy (s : State) (x : GwXfer) : State :=
  let port := pickPort (portsToDevice s x.dev) s.dom.devid 0 0 0
  let s := { s with regs := { s.regs with
    gwXfers := adjustWhere s.regs.gwXfers (fun y => y.tag == x.tag) (fun y => { y with port := port, retryAt := none }) } }
  let h : ReqHdr := { src := s.dom.devid, tag := x.tag, tc := 3, handle := x.handle, mepoch := s.maps.cur.epoch % 256, len := x.count
                      offset := x.line * 64 }
  let d := if x.write then (regionOf s x.handle).elim [] (fun g => (pageLines (x.line / 64)).flatMap (storedLine s g)) else []
  match port with
  | some p => send s p (.req (if x.write then 0x61 else 0x60) h d)
  | none => s

/-- Start the transfer of a page of a region's copy. -/
def startCopy (s : State) (h page : Nat) (write : Bool) (dev : Nat) : State :=
  let x : GwXfer := { tag := ownTag s s.dom.devid, handle := h, line := page * 64, count := 64, write := write, dev := dev }
  issueCopy { s with regs := { s.regs with gwTag := x.tag + 1, gwXfers := s.regs.gwXfers ++ [x] } } x

/-- Issue a transfer again under its tag. -/
def reissue (s : State) (x : GwXfer) : State :=
  match gwOf s x.handle with
  | some g => issueXfer s g x
  | none => issueCopy s x

/-- The port that a transfer can take now. -/
def xferPort (s : State) (x : GwXfer) : Option Nat :=
  match gwOf s x.handle with
  | some g => peerPort s g
  | none => (portsToDevice s x.dev).head?

/-- Is a transfer out of reach of its answer: its port is down, and so is every other port to its peer (R59). -/
def xferLost (s : State) (x : GwXfer) : Bool := x.port.any (fun p => !portUp s p) && (xferPort s x).isNone

/-- Transfers that have no port, and those refused whose RETRY is over, are issued again (R89; log 157). -/
def resendXfers (s : State) : State :=
  let s := { s with regs := { s.regs with gwXfers := s.regs.gwXfers.map (fun x => if xferLost s x then { x with port := none } else x) } }
  each (s.regs.gwXfers.filter (fun x => match x.retryAt with
    | some n => decide (n ≤ now s)
    | none => x.port.isNone && (xferPort s x).isSome)) (fun x s => reissue s x) s

/-- Serve what can be served, take the sheaves' page work further, then release FENCEs. -/
def settleAll (s : State) : State := releaseFences (settle (resendXfers (sheafStep (settle s))))

/-! ### Requests (Table 3.6) -/

def execLoad (p : Nat) (h : ReqHdr) (d : List Byte) (s : State) : Host.Outcome State Fault Refusal := done s (releaseFences (arrive s p 0x01 h d))
def execStore (p : Nat) (h : ReqHdr) (d : List Byte) (s : State) : Host.Outcome State Fault Refusal := done s (releaseFences (arrive s p 0x02 h d))
def execLoadShared (p : Nat) (h : ReqHdr) (d : List Byte) (s : State) : Host.Outcome State Fault Refusal := done s (releaseFences (arrive s p 0x04 h d))
def execLoadExcl (p : Nat) (h : ReqHdr) (d : List Byte) (s : State) : Host.Outcome State Fault Refusal := done s (releaseFences (arrive s p 0x05 h d))
def execWriteback (p : Nat) (h : ReqHdr) (d : List Byte) (s : State) : Host.Outcome State Fault Refusal := done s (releaseFences (arrive s p 0x06 h d))
def execEvictClean (p : Nat) (h : ReqHdr) (d : List Byte) (s : State) : Host.Outcome State Fault Refusal := done s (releaseFences (arrive s p 0x07 h d))
def execAtomicAdd (p : Nat) (h : ReqHdr) (d : List Byte) (s : State) : Host.Outcome State Fault Refusal := done s (releaseFences (arrive s p 0x10 h d))
def execAtomicMin (p : Nat) (h : ReqHdr) (d : List Byte) (s : State) : Host.Outcome State Fault Refusal := done s (releaseFences (arrive s p 0x11 h d))
def execAtomicCas (p : Nat) (h : ReqHdr) (d : List Byte) (s : State) : Host.Outcome State Fault Refusal := done s (releaseFences (arrive s p 0x13 h d))
def execAtomicSwap (p : Nat) (h : ReqHdr) (d : List Byte) (s : State) : Host.Outcome State Fault Refusal := done s (releaseFences (arrive s p 0x14 h d))
def execAtomicAnd (p : Nat) (h : ReqHdr) (d : List Byte) (s : State) : Host.Outcome State Fault Refusal := done s (releaseFences (arrive s p 0x15 h d))
def execAtomicOr (p : Nat) (h : ReqHdr) (d : List Byte) (s : State) : Host.Outcome State Fault Refusal := done s (releaseFences (arrive s p 0x16 h d))
def execAtomicXor (p : Nat) (h : ReqHdr) (d : List Byte) (s : State) : Host.Outcome State Fault Refusal := done s (releaseFences (arrive s p 0x17 h d))
def execFence (p : Nat) (h : ReqHdr) (d : List Byte) (s : State) : Host.Outcome State Fault Refusal := done s (releaseFences (arrive s p 0x20 h d))
def execPublish (p : Nat) (h : ReqHdr) (d : List Byte) (s : State) : Host.Outcome State Fault Refusal := done s (releaseFences (arrive s p 0x30 h d))
def execOffer (p : Nat) (h : ReqHdr) (d : List Byte) (s : State) : Host.Outcome State Fault Refusal := done s (releaseFences (arrive s p 0x31 h d))
def execAccept (p : Nat) (h : ReqHdr) (d : List Byte) (s : State) : Host.Outcome State Fault Refusal := done s (releaseFences (arrive s p 0x32 h d))
def execConfirm (p : Nat) (h : ReqHdr) (d : List Byte) (s : State) : Host.Outcome State Fault Refusal := done s (releaseFences (arrive s p 0x33 h d))
def execXferRead (p : Nat) (h : ReqHdr) (d : List Byte) (s : State) : Host.Outcome State Fault Refusal := done s (releaseFences (arrive s p 0x60 h d))
def execXferWrite (p : Nat) (h : ReqHdr) (d : List Byte) (s : State) : Host.Outcome State Fault Refusal := done s (releaseFences (arrive s p 0x61 h d))

/-! ### Snoop responses (R176, R178, R181, R182) -/

/-- The entry of a snoop after one more agent has answered or been dropped: a transition that no request waits for is complete with the
last of them (R176). -/
def snoopEnd (s : State) (n : Snoop) : State :=
  settleDir { s with home := { s.home with
    dir := adjustWhere s.home.dir (fun o => o.handle == n.handle && o.line == n.line) (fun e =>
      { e with pend := e.pend - 1, ptrs := if n.inv then e.ptrs.filter (· != n.agent) else e.ptrs }) } }

/-- Write a line that came back with a snoop response; a data stalk's parity follows with a delta of its own. -/
def snoopWrite (s : State) (n : Snoop) (d : List Byte) : State :=
  match regionOf s n.handle with
  | none => s
  | some g => match placeOf g (n.line * 64) with
    | none => s
    | some a =>
      let off := n.line * 64
      let s := match (if g.sheaf then sheafOf s g.handle else none) with
        | some x => each (deltaTargets x off) (fun k s => sendDelta s x 0 k off false (xorBytes (lineBytes s a) d)) s
        | none => s
      let s := if isTray a && (frameOf s g.homeq a).isNone then (allocFrame s g.homeq a).2 else s
      markFrame (touchLine (trackWrite s g.handle off) g.homeq a true d (keptLines s)) g.homeq a false

/-- An agent's answer to a snoop. One that matches no snoop outstanding is discarded (R79, R182). -/
def snoopAnswer (s : State) (p : Nat) (h : RspHdr) (d : List Byte) : State :=
  if !portUp s p then s
  else match s.home.snoops.find? (fun n => n.agent == h.src && n.tag == h.tag && h.opc == (if n.inv then 0x50 else 0x51)) with
    | none => s
    | some n =>
      let s := { s with home := { s.home with snoops := s.home.snoops.filter (fun m => !(m.agent == n.agent && m.tag == n.tag)) } }
      let s := if h.len = 1 ∧ h.status = OK then snoopWrite s n d else s
      settleAll (snoopEnd s n)

def execSnoopResponse (p : Nat) (h : RspHdr) (d : List Byte) (s : State) : Host.Outcome State Fault Refusal := done s (snoopAnswer s p h d)

/-! ### Responses of other devices -/

/-- A forwarded request ends here with a status: it goes to its requester, or to the access or window of this device that made it. -/
def endRelay (s : State) (f : Relay) (status : Nat) (detail : Word) (retry : Nat) : State :=
  let s := { s with fab := { s.fab with relays := s.fab.relays.filter (fun e => e.order != f.order) } }
  match f.acc, f.cxl with
  | some a, _ => { s with eng := { s.eng with access := adjustWhere s.eng.access (fun e => e.acc == a) (fun e => { e with answer := some (status, detail, []) }) } }
  | none, some fn => { s with fab := { s.fab with cxlOut := (s.fab.front, fn, true, []) :: s.fab.cxlOut } }
  | none, none => refuse s f.port f.opc f.h status detail.toNat retry

/-- A home's response to a request this device forwarded (R581): matched on SRCID, ORIGID and TAG, and passed on. -/
def forwardedAnswer (s : State) (p : Nat) (h : RspHdr) (d : List Byte) : State :=
  if !portUp s p then s
  else match s.fab.relays.find? (fun r => r.home == h.src && r.h.src == h.origid && r.h.tag == h.tag && r.held.isNone) with
    | none => recordRate s p { code := 0x0305, quarter := portQuarter p, kind := 2, inst := portInst p, p0 := pack [(16, h.src), (0, h.tag)], p1 := word p }
    | some r =>
      let out := { h with origid := 0 }
      if h.status = DEFERRED then
        let s := { s with fab := { s.fab with
          relays := adjustWhere s.fab.relays (fun e => e.order == r.order) (fun e => { e with deferrals := e.deferrals + 1, lastDefer := s.time.bell }) } }
        if r.acc.isSome || r.cxl.isSome then s else sendResponse s r.port r.h.src out d 0
      else
        let gone := { s with fab := { s.fab with relays := s.fab.relays.filter (fun e => e.order != r.order) } }
        match r.acc, r.cxl with
        | some acc, _ =>
          settleAll { gone with eng := { gone.eng with
            access := adjustWhere gone.eng.access (fun a => a.acc == acc) (fun a => { a with answer := some (h.status, h.detail, d) }) } }
        | none, some fn =>
          settleAll { gone with fab := { gone.fab with cxlOut := (gone.fab.front, fn, h.status != OK && h.status != OK_COMBINED, d) :: gone.fab.cxlOut } }
        | none, none =>
          if r.opc = 0x20 then
            settleAll { s with fab := { s.fab with
              relays := adjustWhere s.fab.relays (fun e => e.order == r.order) (fun e => { e with held := some (out, d) }) } }
          else settleAll (sendResponse gone r.port r.h.src out d 0)

def execForwardedResponse (p : Nat) (h : RspHdr) (d : List Byte) (s : State) : Host.Outcome State Fault Refusal := done s (forwardedAnswer s p h d)

/-- A parity home's answer to a delta or record-mirror store (R444, R445, R447, R448). -/
def deltaAnswer (s : State) (p : Nat) (h : RspHdr) : State :=
  if !portUp s p || h.status == DEFERRED then s
  else match s.dom.deltas.find? (fun d => d.dev == h.src && d.tag == h.tag && !d.acked) with
    | none => s
    | some d =>
      let this := fun (e : Delta) => e.dev == d.dev && e.tag == d.tag
      if h.status = OK then
        let s := { s with dom := { s.dom with
          deltas := if d.req = 0 || !s.home.reqs.any (fun r => r.id == d.req) then s.dom.deltas.filter (fun e => !this e) else adjustWhere s.dom.deltas this (fun e => { e with acked := true }) } }
        settleAll (if d.req = 0 && !d.page then pushNext s d.handle else s)
      else if d.page then
        match sheafOf s d.handle with
        | some x =>
          let s := { s with dom := { s.dom with deltas := s.dom.deltas.filter (fun e => !this e) } }
          sendDelta s x d.req d.stalk (d.line * 64) true d.data
        | none => s
      else
        let s := markStale s d.handle d.stalk h.status
        if d.req = 0 then
          settleAll (pushNext { s with dom := { s.dom with deltas := s.dom.deltas.filter (fun e => !this e) } } d.handle)
        else s

def execParityDeltaResponse (p : Nat) (h : RspHdr) (_d : List Byte) (s : State) : Host.Outcome State Fault Refusal := done s (deltaAnswer s p h)

/-- Push the next page of a region's copy to its shadow (R453). -/
def copyPush (s : State) (c : ShadowCopy) : State :=
  match regionOf s c.handle with
  | some g => if g.size4k < c.cursor then s else startCopy s c.handle c.cursor true c.dev
  | none => s

/-- Ask the old home for the next page of a region that moves here (Table 4.7, step 1). -/
def movePull (s : State) (m : Move) : State :=
  match regionOf s m.handle with
  | some g => if g.size4k < m.cursor then s else startCopy s m.handle m.cursor false m.other
  | none => s

/-- A page of a region that moves here has come: it is written, and the next one asked for. -/
def movePageIn (s : State) (m : Move) (x : GwXfer) (ok : Bool) (d : List Byte) : State :=
  let written := if ok then (regionOf s m.handle).bind (fun g => putPage s g (x.line / 64) d) else none
  let s := match written with
    | some s => { s with regs := { s.regs with
        moves := adjustWhere s.regs.moves (fun y => y.new && y.handle == m.handle && y.cursor * 64 == x.line) (fun y => { y with cursor := y.cursor + 1 }) } }
    | none => s
  match s.regs.moves.find? (fun y => y.new && y.handle == m.handle) with
  | some m => movePull s m
  | none => s

/-- A block copy goes, its dirty lines flushed first (R147). -/
def dropBlock (s : State) (g : GwBinding) (b : Nat) : State :=
  let s := forgetBlock (dropBlockFrames (gwFlushBlock s g b) g b) g b
  let first := proxyPlace g.proxy (b * gwBlockBytes g) / 64
  { s with tier := { s.tier with
    lineCache := s.tier.lineCache.filter (fun e => !(decide (first ≤ e.line) && decide (e.line < first + gwBlockBytes g / 64))) } }

/-- Requests that wait for a block of a proxy region end with the status of a failed fetch. -/
def failBlock (s : State) (g : GwBinding) (b status : Nat) (detail : Word) : State :=
  each (s.home.reqs.filter (fun r => r.h.handle == g.proxy && r.wait == .gateway && r.h.offset / gwBlockBytes g == b))
    (fun r s => finishCrew s r status detail) (dropBlock s g b)

/-- Data of a fetched page joins its block copy in the page's frame, dirty lines kept; with the last page the block is complete (R146). -/
def fillBlock (s : State) (g : GwBinding) (x : GwXfer) (d : List Byte) : State :=
  let b := x.line * 64 / gwBlockBytes g
  match gwBlockOf s g.proxy b with
  | none => s
  | some k =>
    let first := proxyPlace g.proxy (x.line * 64)
    let fresh := fun (line : Nat) => decide (first / 64 ≤ line) && decide (line < first / 64 + x.count) && !k.dirty.contains (line - first / 64 + x.line)
    let s := { s with tier := { s.tier with lineCache := s.tier.lineCache.filter (fun e => !fresh e.line) } }
    let s := each ((List.range x.count).filter (fun i => !k.dirty.contains (x.line + i))) (fun i s =>
      { s with tier := { s.tier with mem := Memory.write s.tier.mem (proxyPlace g.proxy ((x.line + i) * 64)) (slice d (64 * i) 64) } }) s
    let s := updFrame s ((regionOf s g.proxy).elim 0 (·.homeq)) first (fun f => { f with valid := List.range 64 })
    let left := k.missing.filter (· != x.line / 64)
    updBlock s g.proxy b (fun k => { k with missing := left, fetched := if left.isEmpty then some s.time.bell else none })

/-- A flush that the peer refuses: recorded, and reported to the FENCEs that wait for it or to the next one (R148). -/
def flushFails (s : State) (x : GwXfer) (status : Nat) : State :=
  let q := (regionOf s x.handle).elim 0 (·.homeq)
  let seq := nextSeq s 0x0503 q
  let s := record s { code := 0x0503, quarter := q, kind := 5, p0 := word x.handle, p1 := word (x.line * 64), p2 := word status }
  let waits := fun (r : Req) => r.opc == 0x20 && r.h.handle == x.handle && r.wait == .flush && r.done.contains x.tag
  if s.home.reqs.any waits then
    { s with home := { s.home with reqs := adjustWhere s.home.reqs waits (fun r => { r with status := MEDIA_ERROR, detail := seq }) } }
  else { s with regs := { s.regs with gwFailed := s.regs.gwFailed ++ [(x.handle, seq)] } }

/-- The final response to a transfer of a region's copy: the next page follows, or the page again. A page that the old home of a move
has sent is done. -/
def copyAnswer (s : State) (x : GwXfer) (ok : Bool) (d : List Byte) : State :=
  match s.regs.moves.find? (fun m => m.new && m.handle == x.handle && !x.write) with
  | some m => movePageIn s m x ok d
  | none =>
    let mine := fun (c : ShadowCopy) => c.handle == x.handle && c.dev == x.dev && c.cursor * 64 == x.line
    match s.dom.copies.find? mine with
    | some c =>
      let c' := if ok then { c with cursor := c.cursor + 1 } else c
      copyPush { s with dom := { s.dom with copies := adjustWhere s.dom.copies mine (fun _ => c') } } c'
    | none =>
      let old := fun (m : Move) => !m.new && m.handle == x.handle && m.other == x.dev
      if !s.regs.moves.any old then s
      else if ok then { s with regs := { s.regs with moves := adjustWhere s.regs.moves old (fun m => { m with pages := m.pages.filter (fun n => n * 64 != x.line) }) } }
      else startCopy s x.handle (x.line / 64) true x.dev

/-- A peer's response to an XFER of this device (R146 to R148, R151, R453). One refused with BUSY_RETRY, POLICED or AGED goes out again
under its tag after RETRY tenths of a bell, as a requester's does (R89); AGED, which the rule does not name, with RETRY 0 at once
(DESIGN CHOICE, log 157). -/
def xferAnswer (s : State) (p : Nat) (h : RspHdr) (d : List Byte) : State :=
  if !portUp s p || h.status == DEFERRED then s
  else match s.regs.gwXfers.find? (fun x => x.tag == h.tag) with
    | none => s
    | some x =>
      if h.status = BUSY_RETRY ∨ h.status = POLICED ∨ h.status = AGED then
        settleAll { s with regs := { s.regs with
          gwXfers := adjustWhere s.regs.gwXfers (fun y => y.tag == x.tag) (fun y => { y with retryAt := some (now s + 140 * h.retry) }) } }
      else if h.status = EPOCH_STALE then
        reissue { s with regs := { s.regs with gw := Tab.adjust s.regs.gw x.handle (fun g => { g with rmepoch := fld h.detail 7 0 }) } } x
      else
        let s := { s with regs := { s.regs with gwXfers := s.regs.gwXfers.filter (fun y => y.tag != x.tag) } }
        match gwOf s x.handle with
        | none => settleAll (copyAnswer s x (h.status == OK) d)
        | some g =>
          if x.write then settleAll (if h.status = OK then s else flushFails s x h.status)
          else if h.status = OK then settleAll (fillBlock s g x d)
          else settleAll (failBlock s g (x.line * 64 / gwBlockBytes g) h.status h.detail)

def execGatewayXferResponse (p : Nat) (h : RspHdr) (d : List Byte) (s : State) : Host.Outcome State Fault Refusal := done s (xferAnswer s p h d)

/-! ### CXL.mem from the host die (R97, R19, R152) -/

/-- Complete a CXL.mem access with poison and record the status a Beypen request would have had (R97); it counts as refused for a
composition (R110). -/
def cxlPoison (s : State) (fn handle q status : Nat) (comp : Option Nat) (recorded : Bool) : State :=
  let s := meterRefused { s with fab := { s.fab with cxlOut := (q, fn, true, []) :: s.fab.cxlOut } } (if recorded then comp else none)
  if recorded then
    recordRate s fn { code := 0x0401, quarter := q, kind := 0x14, stall := fn - 1, principal := stallPrincipal s (fn - 1)
                      p0 := word fn, p1 := word handle, p2 := word status }
  else s

/-- The stall of a function: stall 0 for the PF, stall k − 1 for VF k (R388). -/
def fnStall (fn : Nat) : Nat := fn - 1

/-- An access to a window of a function bound to a region and a key slot. -/
def cxlAccess (s : State) (fn handle slot offset len : Nat) (write : Option (List Byte)) : State :=
  let opc := if write.isSome then 2 else 1
  let stall := fnStall fn
  match (if handle = 0 ∨ handle = 0xFFFFFF then none else Tab.get? s.maps.cur.handles handle), inService s handle with
  | some _, some g =>
    let k := if slot = 0 then g.slotA else g.slotB
    let h : ReqHdr := { src := 0xFFFF, stall := stall, handle := handle, len := len / 64, offset := offset, key := k.key, raw := write.isSome }
    let r : Req := { org := .cxl fn, port := 256, opc := opc, h := h, data := write.getD [], win := 40 }
    if quarterInReset s g.homeq || deviceInReset s then cxlPoison s fn handle g.homeq ABORTED_RESET none false
    else
      let status := (homeCheck s opc h true).1
      match movedTo s handle with
      | some dev => relay s { r with h := { h with mepoch := s.maps.cur.epoch % 256, tag := ownTag s 0xFFFF } } dev g.comp false
      | none =>
      if status != OK then cxlPoison s fn handle g.homeq status (some g.comp) true
      else if !formOk opc h (write.getD []) || modeRefuses s g opc h false true then cxlPoison s fn handle g.homeq UNSUPPORTED none true
      else admitReq s r g
  | some e, none => cxlPoison s fn handle 0 NO_REGION (some e.comp) true
  | none, _ => cxlPoison s fn handle 0 NO_REGION (stallComp s stall) true

def execCxlmemAccess (fn handle slot offset len : Nat) (write : Option (List Byte)) (s : State) : Host.Outcome State Fault Refusal :=
  done s (cxlAccess s fn handle slot offset len write)

end Sys2Proof.Machine
end

