-- ==== Sys2Proof/Machine/Narrow.lean ====
section
/-! DEFINITION. Narrow arithmetic: exact fractions, the element formats, sums, quantisation, error bounds and widening (R240 to R263). -/

namespace Sys2Proof.Machine

/-! ### Exact fractions -/

/-- A fraction in lowest terms with a positive denominator. -/
structure Frac where
  num : Int := 0
  den : Nat := 1
deriving DecidableEq, Repr

/-- A fraction from any numerator and positive denominator. -/
def Frac.of (n : Int) (d : Nat) : Frac :=
  let g := max (Nat.gcd n.natAbs d) 1
  { num := n / g, den := d / g }

def Frac.nat (n : Nat) : Frac := { num := n }
def Frac.add (a b : Frac) : Frac := .of (a.num * b.den + b.num * a.den) (a.den * b.den)
def Frac.neg (a : Frac) : Frac := { a with num := -a.num }
def Frac.sub (a b : Frac) : Frac := a.add b.neg
def Frac.mul (a b : Frac) : Frac := .of (a.num * b.num) (a.den * b.den)
def Frac.abs (a : Frac) : Frac := { a with num := a.num.natAbs }
def Frac.le (a b : Frac) : Bool := decide (a.num * b.den ≤ b.num * a.den)
def Frac.lt (a b : Frac) : Bool := decide (a.num * b.den < b.num * a.den)
def Frac.max (a b : Frac) : Frac := if a.le b then b else a

/-- a ÷ b for a positive b. -/
def Frac.div (a b : Frac) : Frac := .of (a.num * b.den) (a.den * b.num.natAbs)

/-- a × 2^k. -/
def Frac.scale (a : Frac) (k : Int) : Frac :=
  if 0 ≤ k then .of (a.num * 2 ^ k.toNat) a.den else .of a.num (a.den * 2 ^ (-k).toNat)

/-- 2^k. -/
def Frac.pow2 (k : Int) : Frac := (Frac.nat 1).scale k

/-- Largest k with 2^k at most a positive fraction. -/
def Frac.log2 (a : Frac) : Int :=
  let e : Int := (Nat.log2 a.num.natAbs : Int) - Nat.log2 a.den
  if (Frac.pow2 e).le a then e else e - 1

/-! ### Element formats (Table 9.1) -/

/-- A value of a format: finite, or special. -/
inductive Fp where
  | num (x : Frac)
  | inf (neg : Bool)
  | nan
deriving DecidableEq, Repr

/-- A floating-point format: exponent and mantissa bits, bias, and its special codes: 0 as in IEEE 754, 1 NaN at all
ones only, 2 none. -/
structure FloatFmt where
  ebits : Nat
  mbits : Nat
  bias : Nat
  special : Nat
deriving DecidableEq, Repr

/-- The floating-point rows of Table 9.1. -/
def floatFmt : Nat → Option FloatFmt
  | 0 => some ⟨8, 23, 127, 0⟩
  | 1 => some ⟨8, 7, 127, 0⟩
  | 2 => some ⟨5, 10, 15, 0⟩
  | 3 => some ⟨4, 3, 7, 1⟩
  | 4 => some ⟨5, 2, 15, 0⟩
  | 5 => some ⟨3, 2, 3, 2⟩
  | 6 => some ⟨2, 3, 1, 2⟩
  | 7 => some ⟨2, 1, 1, 2⟩
  | _ => none

/-- Bits of an element. -/
def fmtBits (f : Nat) : Nat := (([32, 16, 16, 8, 8, 6, 6, 4, 8, 4, 3, 2] : List Nat)[f]?).getD 0

/-- The scale modes that Table 9.1 allows a format: 0 none, 1 MX, 2 FS16. -/
def scaleAllowed (f scale : Nat) : Bool :=
  if f ≤ 2 then scale == 0 else if f ≤ 8 then decide (scale ≤ 2) else if f ≤ 10 then scale == 0 || scale == 2 else f == 11 && scale == 2

/-- The exponent worth of an integer format's code: an MX element of INT8 is worth code × 2^-6 (R241). -/
def intExp (f scale : Nat) : Int := if f = 8 ∧ scale = 1 then -6 else 0

/-- The value of a code of a floating-point format. −0 is zero (R242). -/
def floatValue (k : FloatFmt) (c : Nat) : Fp :=
  let neg := decide (2 ^ (k.ebits + k.mbits) ≤ c)
  let e := c / 2 ^ k.mbits % 2 ^ k.ebits
  let m := c % 2 ^ k.mbits
  let top := e == 2 ^ k.ebits - 1
  if k.special == 0 && top then (if m = 0 then .inf neg else .nan)
  else if k.special == 1 && top && m == 2 ^ k.mbits - 1 then .nan
  else
    let mag := if e = 0 then (Frac.nat m).scale (1 - (k.bias : Int) - k.mbits)
      else (Frac.nat (2 ^ k.mbits + m)).scale ((e : Int) - k.bias - k.mbits)
    .num (if neg then mag.neg else mag)

/-- The value of an element's code, before its scale (R241, R242). -/
def eltValue (f scale c : Nat) : Fp :=
  match floatFmt f with
  | some k => floatValue k c
  | none =>
    if f = 11 then (if c = 0 then .num {} else if c = 1 then .num (.nat 1) else if c = 3 then .num (Frac.nat 1).neg else .nan)
    else
      let w := fmtBits f
      let v : Int := if c < 2 ^ (w - 1) then c else (c : Int) - (2 ^ w : Nat)
      .num ((Frac.mk v 1).scale (intExp f scale))

/-- Elements that share a scale. -/
def groupSize (scale : Nat) : Nat := if scale = 1 then 32 else if scale = 2 then 16 else 1024

/-- Bytes of a packed block (R244). -/
def packedSize (f scale : Nat) : Nat := 128 * fmtBits f + (if scale = 0 then 0 else 64)

/-- The value of a scale code, with the job's exponent offset (R242, R245, R246); none is NaN. -/
def scaleValue (scale c : Nat) (x : Int) : Option Frac :=
  if scale = 0 then some (.nat 1)
  else if scale = 1 then (if c = 255 then none else some (Frac.pow2 ((c : Int) - 127)))
  else match (if c < 128 then floatValue ⟨4, 3, 7, 1⟩ c else .nan) with
    | .num v => some (v.scale x)
    | _ => none

/-- An element times its scale. -/
def Fp.scaled (v : Fp) (s : Option Frac) : Fp :=
  match s, v with
  | none, _ => .nan
  | some s, .num x => .num (x.mul s)
  | some s, .inf n => if s.num = 0 then .nan else .inf n
  | some _, .nan => .nan

/-- The 1,024 values of a packed block (R244). -/
def decodeBlock (f scale : Nat) (x : Int) (d : List Byte) : List Fp :=
  let w := fmtBits f
  let n := leNat (d.take (128 * w))
  (List.range 1024).map (fun k =>
    (eltValue f scale (n / 2 ^ (w * k) % 2 ^ w)).scaled (scaleValue scale (natAt d (128 * w + k / groupSize scale) 1) x))

/-! ### Rounding -/

/-- How a magnitude between two representable values rounds: to nearest even, toward zero, toward +∞, stochastic with a
16-bit draw (R248, R249). -/
inductive Rounding where
  | nearest
  | zero
  | up
  | draw (r : Nat)
deriving DecidableEq, Repr

/-- Round k + rest units, 0 ≤ rest < 1, to whole units. -/
def roundUnits (how : Rounding) (neg : Bool) (k : Nat) (rest : Frac) : Nat :=
  match how with
  | .nearest => if (Frac.of 1 2).lt rest || (rest == Frac.of 1 2 && k % 2 == 1) then k + 1 else k
  | .zero => k
  | .up => if !neg && rest != {} then k + 1 else k
  | .draw r => if r < (rest.num.natAbs * 65536) / rest.den then k + 1 else k

/-- Round a value to units of 2^e: sign and magnitude in units. -/
def toUnits (how : Rounding) (x : Frac) (e : Int) : Bool × Nat :=
  let u := x.abs.scale (-e)
  let k := u.num.natAbs / u.den
  let neg := decide (x.num < 0)
  (neg, roundUnits how neg k (Frac.of (u.num.natAbs % u.den : Nat) u.den))

/-- Exponent of the unit in the last place of a value in a floating-point format. -/
def ulpExp (k : FloatFmt) (x : Frac) : Int :=
  let low := 1 - (k.bias : Int)
  (if x.num = 0 then low else max x.abs.log2 low) - k.mbits

/-- The code of a rounded value, sign apart: a carry out of the mantissa raises the exponent. Overflow gives the code of
infinity, or the largest finite code where the rounding is toward zero. -/
def floatCode (k : FloatFmt) (how : Rounding) (x : Frac) : Bool × Nat :=
  let e := ulpExp k x
  let u := toUnits how x e
  let c := (e + k.mbits + k.bias - 1).toNat * 2 ^ k.mbits + u.2
  let inf := (2 ^ k.ebits - 1) * 2 ^ k.mbits
  (u.1, if k.special = 0 ∧ inf ≤ c then (if how = .zero ∨ (how = .up ∧ u.1) then inf - 1 else inf) else c)

/-- FP32. -/
def fp32 : FloatFmt := ⟨8, 23, 127, 0⟩

/-- Round to FP32. -/
def roundTo (how : Rounding) (x : Frac) : Fp :=
  let c := floatCode fp32 how x
  floatValue fp32 ((if c.1 then 2 ^ 31 else 0) + c.2)

/-- FP32 addition, rounding to nearest even (R248). -/
def fadd (a b : Fp) : Fp :=
  match a, b with
  | .num x, .num y => roundTo .nearest (x.add y)
  | .nan, _ | _, .nan => .nan
  | .inf n, .inf m => if n = m then .inf n else .nan
  | .inf n, _ => .inf n
  | _, .inf n => .inf n

/-- FP32 multiplication, rounding to nearest even. -/
def fmul (a b : Fp) : Fp :=
  let neg := fun (x : Frac) => decide (x.num < 0)
  match a, b with
  | .num x, .num y => roundTo .nearest (x.mul y)
  | .nan, _ | _, .nan => .nan
  | .inf n, .inf m => .inf (n != m)
  | .inf n, .num y => if y.num = 0 then .nan else .inf (n != neg y)
  | .num y, .inf n => if y.num = 0 then .nan else .inf (n != neg y)

/-- A NaN that the device writes: quiet, its other bits not stated (R257 keeps the special value, not its payload). Log 22. -/
def nanBits : BitVec 32 := (Config.nanPayload &&& 0x803FFFFF#32) ||| 0x7FC00000#32

/-- FP32 bits of a value; zero is +0 (R243). -/
def fpBits (v : Fp) : BitVec 32 :=
  match v with
  | .num x => if x.num = 0 then 0 else (let c := floatCode fp32 .nearest x; BitVec.ofNat 32 ((if c.1 then 2 ^ 31 else 0) + c.2))
  | .inf n => if n then 0xFF800000#32 else 0x7F800000#32
  | .nan => nanBits

/-- The value of FP32 bits. -/
def fpOf (b : BitVec 32) : Fp := floatValue fp32 b.toNat

/-- The value of one element of a floating-point format, rounded exactly into FP32. -/
def toFp32 (v : Fp) : Fp := match v with | .num x => roundTo .nearest x | v => v

/-- The order of FP32 values that are not NaN. -/
def fpLt (a b : Fp) : Bool :=
  match a, b with
  | .num x, .num y => x.lt y
  | .inf true, .inf true => false
  | .inf true, .num _ | .inf true, .inf false | .num _, .inf false => true
  | _, _ => false

def Fp.isNan (a : Fp) : Bool := a == .nan
def Fp.finite (a : Fp) : Bool := match a with | .num _ => true | _ => false

/-! ### Quantisation (R243 to R249) -/

/-- Largest finite value of an output format. -/
def fmtMax (f scale : Nat) : Frac :=
  match floatFmt f with
  | some k =>
    let top := (2 ^ k.ebits * 2 ^ k.mbits) - 1 - (if k.special = 0 then 2 ^ k.mbits else if k.special = 1 then 1 else 0)
    match floatValue k top with
    | .num x => x
    | _ => {}
  | none => (Frac.nat (2 ^ (fmtBits f - 1) - 1)).scale (intExp f scale)

/-- The smallest scale with m ÷ s at most the format's largest value (R247): its code; none where there is none. -/
def chooseScale (f scale : Nat) (m : Frac) : Option Nat :=
  let big := fmtMax f scale
  if scale = 0 then (if m.le big then some 0 else none)
  else if m.num = 0 then some 0
  else if scale = 1 then
    let e := (m.div big).log2
    let e := if m.le (big.scale e) then e else e + 1
    if e ≤ -127 then some 0 else if 127 < e then none else some (e + 127).toNat
  else (List.range 127).find? (fun c => match scaleValue 2 c 0 with
    | some s => m.le (s.mul big)
    | none => false)

/-- An element's code from its value over its scale. -/
def eltCode (f scale : Nat) (how : Rounding) (x : Frac) : Nat :=
  match floatFmt f with
  | some k =>
    let c := floatCode k how x
    if c.2 = 0 then 0 else (if c.1 then 2 ^ (k.ebits + k.mbits) else 0) + c.2
  | none =>
    let u := toUnits how x (intExp f scale)
    if u.1 && u.2 != 0 then 2 ^ fmtBits f - u.2 else u.2

/-- A quantised block: its packed bytes, and the values they read back as. -/
structure Quantised where
  bytes : List Byte
  values : List Fp
deriving DecidableEq, Repr

/-- Pack element codes and scale codes (R244). -/
def packCodes (f scale : Nat) (codes scales : List Nat) : List Byte :=
  let w := fmtBits f
  natLe (128 * w) (codes.zipIdx.foldl (fun n (c, i) => n + c * 2 ^ (w * i)) 0)
    ++ (if scale = 0 then [] else padTo 64 (scales.map (BitVec.ofNat 8)))

/-- Quantise finite FP32 values (R247); none where a group is unencodable. -/
def quantise (f scale : Nat) (x : Int) (how : Nat → Rounding) (y : List Frac) : Option Quantised :=
  let g := groupSize scale
  let off := if scale = 2 then x else 0
  let ms := (List.range (1024 / g)).map (fun i => (((y.drop (g * i)).take g).foldl (fun (m : Frac) v => m.max v.abs) ({} : Frac)).scale (-off))
  match ms.mapM (chooseScale f scale) with
  | none => none
  | some scales =>
    let codes := y.zipIdx.map (fun (v, i) => match scaleValue scale (nth scales (i / g)) off with
      | some s => if s.num = 0 then 0 else eltCode f scale (how i) (v.div s)
      | none => 0)
    let bytes := packCodes f scale codes scales
    some { bytes := bytes, values := decodeBlock f scale x bytes }

/-- Write FP32 values with specials in BF16 or FP32 (R257). -/
def specialBlock (f : Nat) (how : Nat → Rounding) (y : List Fp) : Quantised :=
  let k := if f = 0 then fp32 else ⟨8, 7, 127, 0⟩
  let cut := if f = 0 then 0 else 16
  let codes := y.zipIdx.map (fun (v, i) => match v with
    | .num x => if x.num = 0 then 0 else (let c := floatCode k (how i) x; if c.2 = 0 then 0 else (if c.1 then 2 ^ (k.ebits + k.mbits) else 0) + c.2)
    | v => (fpBits v).toNat / 2 ^ cut)
  let bytes := packCodes f 0 codes []
  { bytes := bytes, values := decodeBlock f 0 0 bytes }

/-! ### Bounds and widening (R252 to R257) -/

/-- The ladder of Table 9.3. -/
def nextFmt : Nat → Option Nat
  | 7 => some 6
  | 5 | 6 => some 3
  | 3 | 4 | 8 => some 1
  | 10 => some 9
  | 9 => some 8
  | 1 | 2 => some 0
  | _ => none

/-- The formats of the ladder from one on. -/
def ladder (f : Nat) : List Nat :=
  match nextFmt f with
  | none => [f]
  | some g => f :: match nextFmt g with
    | none => [g]
    | some h => g :: match nextFmt h with
      | none => [h]
      | some i => h :: match nextFmt i with
        | none => [i]
        | some j => [i, j]

/-- The scale mode of a format up the ladder (R255). -/
def ladderScale (f scale : Nat) : Nat := if scaleAllowed f scale then scale else 0

/-- An input of a block as a thresher takes it: its values in FP32, its magnitude (none is +∞, or no number where `magNan` says so)
and its bound (none is +∞). -/
structure Summand where
  values : List Fp
  mag : Option Frac
  magNan : Bool
  bound : Option Frac
deriving DecidableEq, Repr

/-- Magnitude of a contribution: its largest element (R252). -/
def blockMag (vs : List Fp) : Option Frac :=
  vs.foldl (fun m v => match m, v with
    | some m, .num x => some (m.max x.abs)
    | _, _ => none) (some {})

/-- Add rounding toward +∞ in FP32; none is +∞. -/
def addUp (a b : Option Frac) : Option Frac :=
  match a, b with
  | some x, some y => match roundTo .up (x.add y) with
    | .num z => some z
    | _ => none
  | _, _ => none

/-- A value rounded toward +∞ in FP32. -/
def roundUp (x : Frac) : Option Frac := match roundTo .up x with | .num z => some z | _ => none

/-- FP32 bits of a bound; none is +∞. -/
def boundBits (x : Option Frac) : BitVec 32 := match x with | some v => fpBits (.num v) | none => 0x7F800000#32

/-- A bound from FP32 bits. -/
def boundOf (b : BitVec 32) : Option Frac := match fpOf b with | .num v => some v | _ => none

/-- What closing a block needs of its job (Table 9.2): budget as fraction, rounding mode and draws by step and element. -/
structure CloseOpts where
  outfmt : Nat
  outscale : Nat
  txout : Int
  budget : Frac
  depth : Nat
  nowiden : Bool
  how : (step index : Nat) → Rounding

/-- ASUM of a block whose inputs' magnitudes sum to a (R252); no rule gives it where one of them is no number (log 22). -/
def asumBits (ins : List Summand) (a : Option Frac) : BitVec 32 :=
  if ins.any (·.magNan) then Config.nanSum (ins.map (fun i => i.values.map fpBits)) else boundBits a

/-- acc of R252 for n inputs of magnitude sum a. -/
def accError (n : Nat) (a : Frac) : Option Frac :=
  roundUp (((Frac.of (n : Int) (2 ^ 24 - n)).mul a).add ((Frac.nat n).scale (-150)))

/-- own of a quantised block: accumulation and quantisation error (R252). -/
def ownError (acc : Option Frac) (y : List Frac) (q : Quantised) : Option Frac :=
  let err := (List.zipWith (fun v d => match d with
    | .num d => (v.sub d).abs
    | _ => {}) y q.values).foldl Frac.max {}
  let top := y.foldl (fun (m : Frac) v => m.max v.abs) ({} : Frac)
  addUp acc (roundUp (err.add (top.scale (-24))))

/-- A finite sum in one format: the block, its own error, and whether that is over budget. None where another pass follows: the
format cannot encode it, or it is over budget, may widen, and has a format left (R253, R255, R256). -/
def tryFormat (o : CloseOpts) (y : List Frac) (acc share : Option Frac) (f : Nat) (last : Bool) (step : Nat) : Option (Quantised × Option Frac × Bool) :=
  match quantise f (ladderScale f o.outscale) o.txout (o.how step) y with
  | none => none
  | some q =>
    let own := ownError acc y q
    let exceeds := match own, share with
      | some w, some h => !w.le h
      | _, _ => true
    if exceeds && !o.nowiden && !last then none else some (q, own, exceeds)

/-- A pass over a block whose inputs sum to y, with A and E_in (R252 to R257); none where the block is threshed again in the next
format of the ladder. -/
def passEnd (o : CloseOpts) (ins : List Summand) (a ein : Option Frac) (y : List Fp) (step : Nat) : Option Threshed :=
  if y.all (·.finite) then
    let ys := y.map (fun v => match v with | .num x => x | _ => {})
    let acc := a.bind (accError ins.length)
    let share := a.map (fun a => match roundTo .zero ((o.budget.mul a).scale (-((o.depth : Int) + 1))) with
      | .num z => z
      | _ => {})
    let last := decide ((ladder o.outfmt).length ≤ step + 1)
    let f := nth (ladder o.outfmt) step
    match tryFormat o ys acc share f last step with
    | some (q, own, exceeds) =>
      some { bytes := q.bytes, fmt := f, steps := step, exceeds := exceeds, bound := boundBits (addUp ein own), asum := asumBits ins a }
    | none => if last then some { exceeds := true, bound := boundBits none, asum := asumBits ins a } else none
  else
    let f := if o.outfmt = 0 then 0 else 1
    some { bytes := (specialBlock f (o.how 0) y).bytes, fmt := f, nonfinite := true, bound := boundBits none, asum := asumBits ins a }

/-- Do two results agree element by element within the sum of their bounds, and in which elements are no numbers (R260). -/
def agree (a b : Option Frac) (x y : List Fp) : Bool :=
  let limit := addUp a b
  (List.zip x y).all (fun (x, y) => match x, y with
    | .num x, .num y => match limit with
      | some l => (x.sub y).abs.le l
      | none => true
    | .num _, _ | _, .num _ => false
    | _, _ => true)

/-- Largest difference of finite elements. -/
def worstDiff (a b : List Fp) : Frac :=
  (List.zip a b).foldl (fun (m : Frac) (x, y) => match x, y with
    | .num x, .num y => m.max (x.sub y).abs
    | _, _ => m) ({} : Frac)

/-! ### The arithmetic control block (Table 9.2) -/

/-- An 8-bit two's complement field. -/
def signed8 (n : Nat) : Int := if n < 128 then n else (n : Int) - 256

/-- Does a control block pass R251. -/
def controlOk (c0 c1 : Word) : Bool :=
  let ok := fun (f s : Nat) => decide (f ≤ 11) && decide (s ≤ 2) && scaleAllowed f s
  let off := fun (n : Nat) => decide (-100 ≤ signed8 n) && decide (signed8 n ≤ 100)
  let bexp := fld c0 49 44
  ok (fld c0 63 60) (fld c0 59 58) && ok (fld c0 57 54) (fld c0 53 52) && fld c0 57 54 != 11 && fld c0 51 50 != 3
    && decide (1 ≤ bexp) && decide (bexp ≤ 40) && decide (fld c0 39 35 ≤ 16) && fld c0 33 0 == 0 && fld c1 47 0 == 0
    && (fld c0 59 58 != 2 || off (fld c1 63 56)) && (fld c0 53 52 != 2 || off (fld c1 55 48))

/-- The budget B of a job. -/
def budgetOf (bexp bman : Nat) : Frac := (Frac.nat (16 + bman)).scale (-((bexp : Int) + 4))

/-! ### Annex and report (Tables 9.4, 9.5) -/

/-- Words X0 and X1. -/
def annexWords (a : Annex) : List Word :=
  [pack [(32, a.bound.toNat), (0, a.asum.toNat)],
   pack [(60, a.wfmt), (56, a.depth), (48, a.steps), (47, b2n a.nonfinite), (46, b2n a.exceeds), (45, b2n a.sampled), (44, b2n a.mismatch), (43, b2n a.poison)]]

/-- An annex from its words. -/
def annexOf (x0 x1 : Word) : Annex :=
  { bound := BitVec.ofNat 32 (fld x0 63 32), asum := BitVec.ofNat 32 (fld x0 31 0), wfmt := fld x1 63 60, depth := fld x1 59 56, steps := fld x1 55 48
    nonfinite := bit x1 47, exceeds := bit x1 46, sampled := bit x1 45, mismatch := bit x1 44, poison := bit x1 43 }

/-- Words K0 to K3. -/
def reportWords (r : Report) : List Word :=
  [pack [(32, r.worst.toNat), (0, r.blocks)], pack [(32, r.widened), (0, r.exceeds)],
   pack [(32, r.sampled), (16, min r.mismatch 0xFFFF), (0, min r.poisoned 0xFFFF)], pack [(32, r.nonfinite), (28, r.topfmt)]]

/-- WORST after a block: BOUND ÷ ASUM of a finite block, rounded toward +∞; 0 where ASUM is 0 (Table 9.5). -/
def worstAfter (w : BitVec 32) (a : Annex) : BitVec 32 :=
  if a.nonfinite then w
  else match boundOf a.asum, boundOf w with
    | some s, some v =>
      if s.num = 0 then w
      else match boundOf a.bound with
        | some b => let r := roundUp (b.div s); match r with
          | some r => if v.lt r then boundBits (some r) else w
          | none => 0x7F800000#32
        | none => 0x7F800000#32
    | _, _ => w

/-- The report after a final block and the annexes of its partial inputs. -/
def reportAfter (r : Report) (a : Annex) (below : List Annex) : Report :=
  let count := fun (f : Annex → Bool) => (below.filter f).length
  { worst := worstAfter r.worst a
    blocks := r.blocks + 1
    widened := r.widened + b2n (a.steps != 0 || below.any (·.steps != 0))
    exceeds := r.exceeds + b2n a.exceeds
    sampled := r.sampled + b2n a.sampled + count (·.sampled)
    mismatch := r.mismatch + b2n a.mismatch + count (·.mismatch)
    poisoned := r.poisoned + b2n a.poison
    nonfinite := r.nonfinite + b2n a.nonfinite
    topfmt := if r.blocks = 0 ∨ fmtBits r.topfmt < fmtBits a.wfmt then a.wfmt else r.topfmt }

end Sys2Proof.Machine
end

