-- ==== Sys2Proof/Machine/Media.lean ====
section
/-! DEFINITION. Memory encryption: the key and the tweak of a line, and what HBM and the trays hold of it (R497 to R499, R509). -/

namespace Sys2Proof.Machine

/-- Physical place in its quarter's HBM of the frame of a set and way: the page of the set, the set's 64 KiB there, the way's 4 KiB. -/
def framePlace (f : Frame) : Nat := 2 ^ 21 * setPage f.set + 2 ^ 16 * (f.set / 320 % 32) + 2 ^ 12 * f.way

/-- The tweak of the line at a place of HBM or of a tray (R497): a tray line keeps its tray tweak in the HBM cache. -/
def xtsTweak (a : Nat) : BitVec 128 :=
  if isTray a then BitVec.ofNat 128 (2 ^ 127 + 2 ^ 64 * trayPort a + trayDpa a / 64)
  else BitVec.ofNat 128 (2 ^ 64 * (a / 2 ^ 38 % 4) + a % 2 ^ 38 / 64)

/-- The tweak of a line: that of its frame's place in HBM for a copy of a proxy region's block, which lies in no tray. -/
def lineTweak (s : State) (a : Nat) : BitVec 128 :=
  if isProxy a then
    match s.tier.frames.find? (fun f => f.port == trayPort a && f.block == trayDpa a / 4096) with
    | some f => xtsTweak (2 ^ 38 * f.q + framePlace f + a % 4096)
    | none => 0
  else xtsTweak a

/-- Does a run hold a place. -/
def Run.holds (r : Run) (a : Nat) : Bool :=
  if isTray a then r.tray && r.loc == trayPort a && decide (2 ^ 21 * r.base ≤ trayDpa a) && decide (trayDpa a < 2 ^ 21 * (r.base + r.count))
  else !r.tray && r.loc == a / 2 ^ 38 && decide (2 ^ 21 * r.base ≤ a % 2 ^ 38) && decide (a % 2 ^ 38 < 2 ^ 21 * (r.base + r.count))

/-- The region whose placement maps a place, or whose move has reserved it. -/
def regionAt (s : State) (a : Nat) : Option Region :=
  match s.regs.recs.find? (fun e => e.2.place.any (·.holds a)) with
  | some e => some e.2
  | none => (s.regs.moves.find? (fun m => m.place.any (·.holds a))).bind (fun m => (regionOf s m.handle).map (fun g => { g with place := m.place }))

/-- Offset in its region of a place. -/
def offsetAt (g : Region) (a : Nat) : Nat :=
  match g.place.find? (·.holds a) with
  | some r => 2 ^ 21 * r.vpage + (if isTray a then trayDpa a else a % 2 ^ 38) - 2 ^ 21 * r.base
  | none => 0

/-- Is a unit of a region under the new key of its composition's rotation: it lies before the cursor, or was rotated out of turn (R509, R510). -/
def unitRekeyed (s : State) (g : Region) (unit : Nat) : Bool :=
  s.sec.rotations.any (fun m => m.comp == g.comp
    && (decide (g.handle < m.handle) || (g.handle == m.handle && decide (unit < m.unit)) || m.early.contains g.handle))

/-- The memory key of a composition, or with `more` the one that its rotation brings. -/
def compKey (s : State) (comp more : Nat) : BitVec 512 :=
  let k := Tab.getD s.sec.memKeys comp (s.sec.era, 0)
  Config.memoryKey comp k.1 (k.2 + more)

/-- The memory key of a line: that of its region's composition, before or after the cursor of a rotation; the device memory key for
what no region holds (R497, R509). -/
def mediaKey (s : State) (a : Nat) : BitVec 512 :=
  if isProxy a then
    match regionOf s (proxyHandle a) with
    | some g => compKey s g.comp 0
    | none => Config.deviceMemoryKey s.sec.era
  else match regionAt s a with
    | some g => compKey s g.comp (b2n (unitRekeyed s g (offsetAt g a / 2 ^ 21)))
    | none => Config.deviceMemoryKey s.sec.era

/-- Bytes as one data unit. -/
def dataUnit (d : List Byte) : BitVec 512 := BitVec.ofNat 512 (leNat (d.take 64))

/-- What the medium holds of a line whose bytes are d: one AES-256-XTS data unit under the line's key and tweak (R497). A line that
moves is under its new place's (R498). -/
def mediaOf (s : State) (a : Nat) (d : List Byte) : List Byte := natLe 64 (Config.xtsSeal (mediaKey s a) (lineTweak s a) (dataUnit d)).toNat

/-- The 64 bytes that HBM holds at a place. -/
def mediaLine (s : State) (a : Nat) : List Byte := mediaOf s a (Memory.read s.tier.mem (a / 64 * 64) 64)

/-- The bytes of a line from what its medium holds. -/
def mediaOpen (s : State) (a : Nat) (d : List Byte) : List Byte := natLe 64 (Config.xtsOpen (mediaKey s a) (lineTweak s a) (dataUnit d)).toNat

end Sys2Proof.Machine
end

