-- ==== Sys2Proof/Machine/Tiers.lean ====
section
/-! DEFINITION. Commands of the tray ports and of HBM: completions, timeouts, ports up and down, errors, drains, write-backs. -/

namespace Sys2Proof.Machine

/-! ### Tray operations (R203 to R207, R575) -/

/-- The outstanding operation of a tray line. -/
def trayOpOf (s : State) (c line : Nat) (write : Bool) : Option TrayOp :=
  (cxlOf s c).ops.find? (fun o => o.line == line && o.write == write)

/-- Change or remove an operation. -/
def updOps (s : State) (c : Nat) (f : List TrayOp → List TrayOp) : State := updCxl s c (fun x => { x with ops := f x.ops })

/-- Is an operation the one of a line. -/
def isOp (line : Nat) (write : Bool) (o : TrayOp) : Bool := o.line == line && o.write == write

/-- Frames that hold a tray line. -/
def holdsLine (c line : Nat) (f : Frame) : Bool := f.port == c && f.block == line / 64

/-- Place of a tray line. -/
def trayPlace (c line : Nat) : Nat := trayBase c + line * 64

/-- Does a request behind others of a line, in its tally or in a combining group, join the line's fill: it reads the line, and no
full-line STORE ahead of it replaces what the fill brings (R203, R205). -/
def joinsFill (s : State) (r : Req) (off : Nat) : Bool :=
  (r.wait == .order || r.wait == .tally || r.wait == .group) && !wholeLine r && !s.home.reqs.any (fun e => wholeLine e
    && decide (e.id < r.id) && e.h.handle == r.h.handle && (reqLines s e).contains off && !e.done.contains off)

/-- Requests that wait for the fill of a tray line, a closed group by its leader. -/
def fillWaiters (s : State) (a : Nat) : List Req :=
  s.home.reqs.filter (fun r => r.begun && (r.leader == 0 || r.leader == r.id) && (match regionOf s r.h.handle with
    | some g => (reqLines s r).any (fun o => placeOf g o == some a && !r.done.contains o && (r.wait == .fill || joinsFill s r o))
    | none => false))

/-- Requests that wait for a line that cannot be read: MEDIA_ERROR with the record's SEQ, or the rebuild of a data
stalk's line (R205, R207, R449). -/
def failFill (s : State) (a : Nat) (seq : Word) : State :=
  each (fillWaiters s a) (fun r s => match regionOf s r.h.handle with
    | some g =>
      if canRebuild s g (offsetAt g a) then
        askRebuild (updReq s r.id (fun r => { r with detail := seq })) r g (offsetAt g a)
      else finishCrew s r MEDIA_ERROR seq
    | none => finishCrew s r MEDIA_ERROR seq) s

/-- PARAM0 of 0x0702 and 0x0706 (Table 20.9). -/
def portDpa (c line : Nat) : Word := pack [(60, c % 16), (0, line * 64)]

/-- Quarter that writes the records of a CXL port. -/
def cxlQuarter (c : Nat) : Nat := c / 4

/-- Record a failed tray read; gives the SEQ (R205). -/
def readFailed (s : State) (c line cause : Nat) : State × Word :=
  let seq := nextSeq s 0x0702 (cxlQuarter c)
  (record s { code := 0x0702, quarter := cxlQuarter c, kind := 7, inst := c % 4, p0 := portDpa c line, p1 := word cause }, seq)

/-- Data of a fill, as the tray holds it: decrypted under the line's key and tray tweak (R497); discarded for a line written meanwhile
(R198). -/
def fillLine (s : State) (c line : Nat) (d : List Byte) : State :=
  let a := trayPlace c line
  if s.tier.frames.any (fun f => holdsLine c line f && !f.valid.contains (line % 64)) then
    { s with tier := { s.tier with
      mem := Memory.write s.tier.mem a (mediaOpen s a d)
      frames := adjustWhere s.tier.frames (holdsLine c line) (fun f => { f with valid := addOnce f.valid (line % 64) }) } }
  else s

/-- TRAY_READ_COMPLETION (R198, R203, R205). -/
def trayRead (s : State) (c line : Nat) (answer : TrayAnswer) : State :=
  match trayOpOf s c line false with
  | none => s
  | some o => match o.issued with
    | none => s
    | some t =>
      let s := updOps s c (·.filter (fun o => !isOp line false o))
      let s := updCxl s c (fun x => { x with
        latencies := (s.time.bell, (now s - t) / 140) :: x.latencies.filter (fun l => decide (since s l.1 < 1000)) })
      match answer with
      | .data d => settleAll (fillLine s c line d)
      | .poison =>
        let written := s.tier.frames.any (fun f => holdsLine c line f && f.valid.contains (line % 64))
        let (s, seq) := readFailed s c line 2
        if written then settleAll s
        else settleAll (setPoison (fillLine s c line []) (trayPlace c line) seq)
      | .error =>
        let (s, seq) := readFailed s c line 3
        settleAll (failFill s (trayPlace c line) seq)

def execTrayReadCompletion (c line : Nat) (answer : TrayAnswer) (s : State) : Host.Outcome State Fault Refusal := done s (trayRead s c line answer)

/-- Is an operation unanswered for 64 bells. -/
def opLate (s : State) (o : TrayOp) : Bool :=
  match o.issued with
  | some t => decide (t + 64 * 1400 ≤ now s)
  | none => false

/-- TRAY_READ_TIMEOUT: reissued once, then the waiters fail (R205). -/
def trayReadLate (s : State) (c line : Nat) : State :=
  match trayOpOf s c line false with
  | none => s
  | some o =>
    if !opLate s o then s
    else if !o.reissued then
      updOps s c (fun l => adjustWhere l (isOp line false) (fun o => { o with issued := some (now s), reissued := true }))
    else
      let s := updOps s c (·.filter (fun o => !isOp line false o))
      let (s, seq) := readFailed s c line 1
      settleAll (failFill s (trayPlace c line) seq)

def execTrayReadTimeout (c line : Nat) (s : State) : Host.Outcome State Fault Refusal := done s (trayReadLate s c line)

/-- A write failed: its line stays dirty, it is tried again 1,000 bells later, and the first failure is recorded (R575). -/
def writeFailed (s : State) (c line cause : Nat) (o : TrayOp) : State :=
  let s := updOps s c (fun l => adjustWhere l (isOp line true) (fun o =>
    { o with issued := none, reissued := false, again := false, recorded := true, retryAt := some (s.time.bell + 1000) }))
  if o.recorded then s
  else record s { code := 0x0706, quarter := cxlQuarter c, kind := 7, inst := c % 4, p0 := portDpa c line, p1 := word cause
                  p2 := pack [(40, (regionAt s (trayPlace c line)).elim 0 (·.handle))] }

/-- TRAY_WRITE_COMPLETION: the line is clean, unless it has been written again (R197, R575). -/
def trayWritten (s : State) (c line : Nat) (answer : TrayAnswer) : State :=
  match trayOpOf s c line true with
  | none => s
  | some o =>
    if o.issued.isNone then s
    else match answer with
      | .data _ =>
        let s := updOps s c (·.filter (fun o => !isOp line true o))
        settleAll (if o.again then s else
          { s with tier := { s.tier with
            frames := adjustWhere s.tier.frames (holdsLine c line) (fun f => { f with dirty := Tab.erase f.dirty (line % 64) }) } })
      | _ => writeFailed s c line 3 o

def execTrayWriteCompletion (c line : Nat) (answer : TrayAnswer) (s : State) : Host.Outcome State Fault Refusal := done s (trayWritten s c line answer)

/-- TRAY_WRITE_TIMEOUT: reissued once after 64 bells, failed after 64 more, tried again 1,000 bells after a failure (R575). -/
def trayWriteLate (s : State) (c line : Nat) : State :=
  match trayOpOf s c line true with
  | none => s
  | some o => match o.retryAt with
    | some b =>
      if b.toNat ≤ bellN s then
        traySettle (updOps s c (fun l => adjustWhere l (isOp line true) (fun o => { o with retryAt := none }))) c
      else s
    | none =>
      if !opLate s o then s
      else if !o.reissued then
        updOps s c (fun l => adjustWhere l (isOp line true) (fun o => { o with issued := some (now s), reissued := true }))
      else writeFailed s c line 1 o

def execTrayWriteTimeout (c line : Nat) (s : State) : Host.Outcome State Fault Refusal := done s (trayWriteLate s c line)

/-- TRAY_TABLE_ENTRY_FREE: waiting fills and writes take the free entries, oldest first (R204, R575). -/
def execTrayTableEntryFree (c : Nat) (s : State) : Host.Outcome State Fault Refusal := done s (traySettle s c)

/-! ### Ports up and down -/

/-- The first row of Table 7.4 that a tray does not meet, 1 to 9; 0 where it offers what the device supports (R200, R201): a root port's
one Type-3 device, x16 or x8 at 64 or 32 GT/s, 68-byte flits at 32 GT/s only, CXL.io and CXL.mem, one decoder without interleave, capacity
added by events, poison, IDE, and nothing that is not supported. -/
def missingFeature (l : CxlLink) : Nat :=
  let rows := [l.type3, (l.lanes == 16 || l.lanes == 8) && (l.rate == 64 || l.rate == 32), l.flit == 256 || (l.flit == 68 && l.rate == 32)
              , l.io && l.mem, !l.interleave, l.addEvents, l.poison, l.ideOffered, !l.unsupported]
  match rows.findIdx? (!·) with
  | some i => i + 1
  | none => 0

/-- CXL_PORT_UP: the tray's capacity is open to placement once the link is in L0 with IDE active, under keys the device draws and sets over
DOE, and dirty lines held are written back; a tray that lacks a feature of Table 7.4 leaves the port down, recorded (R200, R201, R207). -/
def cxlUp (s : State) (c : Nat) (link : CxlLink) : State :=
  if 16 ≤ c then s
  else if missingFeature link ≠ 0 then
    record s { code := 0x0701, quarter := cxlQuarter c, kind := 7, inst := c % 4, p0 := word c, p1 := word (missingFeature link) }
  else if !link.l0 || !link.ide || link.units = 0 || (cxlOf s c).up then s
  else
    let k := (List.range 8).foldl (fun (e : List Word × State) _ => let d := drawWord e.2; (e.1 ++ [d.1], d.2)) ([], s)
    let s := updCxl k.2 c (fun x => { x with up := true, link := link, ideKeys := k.1, extents := [(0, min link.units (2 ^ 25))], arriving := [] })
    settleAll (each (s.tier.frames.filter (·.port == c)) (fun f s => each f.dirty (fun d s => writeBack s f d.1) s) s)

def execCxlPortUp (c : Nat) (link : CxlLink) (s : State) : Host.Outcome State Fault Refusal := done s (cxlUp s c link)

/-- Places whose fills were outstanding at a port. -/
def fillsOut (s : State) (c : Nat) : List Nat := ((cxlOf s c).ops.filter (fun o => !o.write)).map (fun o => trayPlace c o.line)

/-- CXL_PORT_DOWN: one record; requests waiting on its reads end with MEDIA_ERROR; its dirty lines stay busy (R207). -/
def cxlDown (s : State) (c : Nat) : State :=
  if !(cxlOf s c).up then s
  else
    let fills := fillsOut s c
    let waiting := ((fills.flatMap (fillWaiters s)).map (·.id)).eraseDups.length
    let dirty := (s.tier.frames.filter (·.port == c)).foldl (fun n f => n + f.dirty.length) 0
    let seq := nextSeq s 0x0707 (cxlQuarter c)
    let s := record s { code := 0x0707, quarter := cxlQuarter c, kind := 7, inst := c % 4, p0 := word c, p1 := word waiting, p2 := word dirty }
    let s := updCxl s c (fun x => { x with up := false, ideKeys := [], ops := [], downSeq := seq, arriving := [] })
    settleAll (each fills (fun a s => failFill s a seq) s)

def execCxlPortDown (c : Nat) (s : State) : Host.Outcome State Fault Refusal := done s (cxlDown s c)

/-- DYNAMIC_CAPACITY_ADD: the extent is open to placement at the next strike (R202). -/
def capacityAdd (s : State) (c dpa units : Nat) : State :=
  if (cxlOf s c).up && decide (0 < units) && decide (dpa + units ≤ 2 ^ 25) then
    updCxl s c (fun x => { x with arriving := x.arriving ++ [(dpa, units)] })
  else s

def execDynamicCapacityAdd (c dpa units : Nat) (s : State) : Host.Outcome State Fault Refusal := done s (capacityAdd s c dpa units)

/-! ### HBM errors, repair and retirement (R212 to R215) -/

/-- Lifetime counters of a stack, by its number 0 to 19 (Table 21.3). -/
def lifeStack (s : State) (stack : Nat) (f : StackLife → StackLife) : State :=
  { s with pwr := { s.pwr with life := { s.pwr.life with stackLife := Tab.upd s.pwr.life.stackLife stack {} f } } }

/-- A 32-bit lifetime counter one higher; it saturates (R541). -/
def up32 (n : Nat) : Nat := min (n + 1) (2 ^ 32 - 1)

/-- Cache share of a quarter in bytes, less what retirements take, those under way among them (Table 7.1, R215). -/
def cacheShare (s : State) (q : Nat) : Nat :=
  2 ^ 30 * (239 - nth s.tier.split q)
    - 768 * 2 ^ 20 * ((s.tier.retired.filter (fun r => r.1 == q)).length + (s.tier.drains.filter (fun d => d.q == q && d.retire)).length)

/-- Write back the dirty lines of the frames on a pseudo-channel (R213). -/
def drainFrames (s : State) (q stack pc : Nat) : State :=
  each (s.tier.frames.filter (fun f => f.q == q && setChannel f.set == (stack, pc)))
    (fun f s => each f.dirty (fun d s => writeBack s f d.1) s) s

/-- Start the drain of a pseudo-channel, or make a drain under way a retirement (R213). -/
def startDrain (s : State) (q stack pc : Nat) (retire : Bool) : State :=
  let this := fun (d : Drain) => d.q == q && d.stack == stack && d.pc == pc
  if s.tier.drains.any this then
    { s with tier := { s.tier with drains := adjustWhere s.tier.drains this (fun d => { d with retire := d.retire || retire }) } }
  else drainFrames { s with tier := { s.tier with drains := s.tier.drains ++ [{ q := q, stack := stack, pc := pc, retire := retire }] } } q stack pc

/-- Schedule a retirement; one that would bring the cache share below 4 GiB is held back and recorded (R215). -/
def scheduleRetire (s : State) (q stack pc : Nat) : State :=
  if s.tier.retired.contains (q, stack, pc) || s.tier.held.contains (q, stack, pc)
      || s.tier.drains.any (fun d => d.q == q && d.stack == stack && d.pc == pc && d.retire) then s
  else if cacheShare s q < 4 * 2 ^ 30 + 768 * 2 ^ 20 then
    record { s with tier := { s.tier with held := s.tier.held ++ [(q, stack, pc)] } }
      { code := 0x0705, quarter := q, kind := 6, inst := stack, p0 := word q, p1 := word (cacheShare s q / 2 ^ 30) }
  else startDrain s q stack pc true

/-- HBM_CORRECTABLE_ERROR: the 4th of a row within a lifetime tick remaps the row and schedules its repair; more than 16
repaired rows retire the pseudo-channel, or where that is held back the row is repaired (R212, R215). -/
def correctable (s : State) (q stack pc row : Nat) : State :=
  let key := (q, stack, pc, row)
  let n := ((s.tier.rowErrors.find? (fun e => e.1 == key)).map (·.2)).getD 0 + 1
  let s := { s with tier := { s.tier with rowErrors := (key, n) :: s.tier.rowErrors.filter (fun e => e.1 != key) } }
  let s := lifeStack s (q * 5 + stack) (fun l => { l with correctable := up32 l.correctable })
  if n ≠ 4 || s.tier.repaired.contains key then s
  else
    let s := { s with tier := { s.tier with repaired := s.tier.repaired ++ [key] } }
    let s := lifeStack s (q * 5 + stack) (fun l => { l with repaired := up32 l.repaired })
    let s := record s { code := 0x0703, quarter := q, kind := 6, inst := stack, p0 := pack [(56, q * 5 + stack), (48, pc), (0, row)] }
    if 16 < (s.tier.repaired.filter (fun k => k.1 == q && k.2.1 == stack && k.2.2.1 == pc)).length then
      let s := scheduleRetire s q stack pc
      if s.tier.held.contains (q, stack, pc) then startDrain s q stack pc false else s
    else startDrain s q stack pc false

def execHbmCorrectableError (q stack pc row : Nat) (s : State) : Host.Outcome State Fault Refusal := done s (correctable s q stack pc row)

/-- HBM_UNCORRECTABLE_ERROR: the line is poisoned; errors across more than one bank retire the pseudo-channel (R212). -/
def uncorrectable (s : State) (q stack pc bank line : Nat) : State :=
  let s := setPoison s (line * 64) 0
  let s := lifeStack s (q * 5 + stack) (fun l => { l with uncorrectable := up32 l.uncorrectable })
  let s := { s with tier := { s.tier with badBanks := addOnce s.tier.badBanks (q, stack, pc, bank) } }
  if 2 ≤ (s.tier.badBanks.filter (fun k => k.1 == q && k.2.1 == stack && k.2.2.1 == pc)).length then scheduleRetire s q stack pc else s

def execHbmUncorrectableError (q stack pc bank line : Nat) (s : State) : Host.Outcome State Fault Refusal :=
  done s (uncorrectable s q stack pc bank line)

/-- Does a near-memory page lie on a pseudo-channel (Table 7.2). -/
def pageOn (stack pc p : Nat) : Bool := p % 5 == stack && p / 5 % 64 == pc

/-- Is a page on a pseudo-channel that takes no placement. -/
def pageBarred (s : State) (q p : Nat) : Bool :=
  s.tier.drains.any (fun d => d.q == q && pageOn d.stack d.pc p) || s.tier.retired.any (fun r => r.1 == q && pageOn r.2.1 r.2.2 p)

/-- The first page from p up, below a bound, that is free. -/
def freePage (s : State) (q : Nat) : Nat → Nat → Option Nat
  | 0, _ => none
  | n + 1, p => if !pageUsed s q p && !pageBarred s q p then some p else freePage s q n (p + 1)

/-- Split a run so that one of its pages stands alone at a new page. -/
def movePage (q p new : Nat) (r : Run) : List Run :=
  if runUses r false q p then
    let i := p - r.base
    [{ r with count := i }, { r with vpage := r.vpage + i, base := new, count := 1 }
    , { r with vpage := r.vpage + i + 1, base := p + 1, count := r.count - i - 1 }].filter (fun r => r.count != 0)
  else [r]

/-- The near-memory page copied whole to its new place, poison with it, and the descriptor entry switched to it (R213). What was written
to a chunk already copied has gone to both (DEDUCED, log 58). -/
def migrate (s : State) (q p new : Nat) : State :=
  let from_ := nearBase q p / 64
  let inPage := fun (line : Nat) => decide (from_ ≤ line) && decide (line < from_ + 2 ^ 15)
  let moved := fun (line : Nat) => line - from_ + nearBase q new / 64
  let d := Memory.read s.tier.mem (nearBase q p) (2 ^ 21)
  let bad := s.home.poison.filter (fun e => inPage e.1)
  let s := { s with
    tier := { s.tier with
      mem := Memory.write (Memory.clear (Memory.clear s.tier.mem (nearBase q p) (2 ^ 21)) (nearBase q new) (2 ^ 21)) (nearBase q new) d
      lineCache := s.tier.lineCache.map (fun e => if e.q == q && inPage e.line then { e with line := moved e.line } else e) }
    regs := { s.regs with moves := s.regs.moves.map (fun m => { m with place := m.place.flatMap (movePage q p new) }) }
    home := { s.home with poison := bad.foldl (fun t e => Tab.set t (moved e.1) e.2) (s.home.poison.filter (fun e => !inPage e.1)) } }
  each ((s.regs.recs.map (·.2)).filter (fun g => g.place.any (fun r => runUses r false q p)))
    (fun g s => putRegion s { g with place := g.place.flatMap (movePage q p new) }) s

/-- Near-memory pages of a quarter on a pseudo-channel that regions map or moves have reserved. -/
def pagesOn (s : State) (q stack pc : Nat) : List Nat :=
  (s.regs.recs.flatMap (·.2.place) ++ s.regs.moves.flatMap (·.place)).flatMap (fun r =>
    if !r.tray && r.loc == q then ((List.range r.count).map (r.base + ·)).filter (pageOn stack pc) else [])

/-- Change a drain. -/
def updDrain (s : State) (d : Drain) (f : Drain → Drain) : State :=
  { s with tier := { s.tier with drains := adjustWhere s.tier.drains (fun e => e.q == d.q && e.stack == d.stack && e.pc == d.pc) f } }

/-- Clear frames of the HBM cache that must go: dirty lines are written back, clean frames that are not busy dropped (R190, R213, R214). -/
def clearFrames (s : State) (fs : List Frame) : State :=
  each fs (fun f s => if !f.dirty.isEmpty then each f.dirty (fun d s => writeBack s f d.1) s else if frameBusy s f then s else evictFrame s f) s

/-- What a drain does in a bell (R213, R214): its frames are cleared; a page of the cache share that is to take a near-memory page is
cleared of frames; then eight 4 KiB chunks are copied, at 32 GB/s, and with the last the page has moved. -/
def drainStep (s : State) (d : Drain) : State :=
  let s := clearFrames s (s.tier.frames.filter (fun f => f.q == d.q && setChannel f.set == (d.stack, d.pc)))
  match d.page with
  | none => match (pagesOn s d.q d.stack d.pc).head? with
    | none => s
    | some p =>
      let first := nth s.tier.split d.q * 512
      match freePage s d.q (239 * 512 - first) first with
      | none => s
      | some new => updDrain s d (fun d => { d with page := some (p, new), chunk := 0 })
  | some (p, new) =>
    let there := s.tier.frames.filter (fun f => f.q == d.q && setPage f.set == new)
    if !there.isEmpty then clearFrames s there
    else if d.chunk + 8 < 512 then updDrain s d (fun d => { d with chunk := d.chunk + 8 })
    else migrate (updDrain s d (fun d => { d with page := none, chunk := 0, moved := d.moved + 1 })) d.q p new

/-- The drains' work of a bell. -/
def drainSteps (s : State) : State := each s.tier.drains (fun d s => drainStep s d) s

/-- PC_DRAIN_DONE: once no page and no frame is left on the pseudo-channel, it takes placement again after a repair, after a retirement
never (R213 to R215). -/
def drainDone (s : State) (q stack pc : Nat) : State :=
  let this := fun (d : Drain) => d.q == q && d.stack == stack && d.pc == pc
  match s.tier.drains.find? this with
  | none => s
  | some d =>
    if s.tier.frames.any (fun f => f.q == q && setChannel f.set == (stack, pc)) || d.page.isSome || !(pagesOn s q stack pc).isEmpty then s
    else
      let s := { s with tier := { s.tier with drains := s.tier.drains.filter (fun d => !this d) } }
      let s := if d.retire then
          let s := { s with tier := { s.tier with retired := s.tier.retired ++ [(q, stack, pc)] } }
          let s := lifeStack s (q * 5 + stack) (fun l => { l with retired := up32 l.retired })
          record s { code := 0x0704, quarter := q, kind := 6, inst := stack, p0 := pack [(8, q * 5 + stack), (0, pc)], p1 := word d.moved }
        else s
      settleAll s

def execPcDrainDone (q stack pc : Nat) (s : State) : Host.Outcome State Fault Refusal := done s (drainDone s q stack pc)

/-! ### Write-back (R197) -/

/-- DIRTY_WRITEBACK_DUE: a line dirty for 1,000 bells, or one of a quarter above 25 %, is written back. The line is named
by its place in the flat space, in lines. -/
def writebackDue (s : State) (q line : Nat) : State :=
  let a := line * 64
  if !isTray a then s
  else match frameOf s q a with
    | none => s
    | some f => match Tab.get? f.dirty (lineIdx a) with
      | none => s
      | some b => if 1000 ≤ since s b ∨ cacheLines s q / 4 < (dirtyLines s q).length then writeBack s f (lineIdx a) else s

def execDirtyWritebackDue (q line : Nat) (s : State) : Host.Outcome State Fault Refusal := done s (writebackDue s q line)

end Sys2Proof.Machine
end

