-- ==== Sys2Proof/Machine/Placement.lean ====
section
/-! DEFINITION. Where a new region's pages go: near memory and tray extents (R16, R192). -/

namespace Sys2Proof.Machine

/-- Runs in use at one place: first unit and count. -/
def usedRuns (s : State) (tray : Bool) (loc : Nat) : List (Nat × Nat) :=
  (s.regs.recs.flatMap (·.2.place) ++ s.regs.moves.flatMap (·.place)).filterMap (fun r => if r.tray == tray && r.loc == loc then some (r.base, r.count) else none)

/-- Pseudo-channels of a quarter that take no placement. -/
def barredChannels (s : State) (q : Nat) : List (Nat × Nat) :=
  (s.tier.drains.filter (·.q == q)).map (fun d => (d.stack, d.pc)) ++ (s.tier.retired.filter (·.1 == q)).map (·.2)

/-- The next page from p up on a pseudo-channel: pages repeat every 320 (Table 7.2). -/
def nextOn (ch : Nat × Nat) (p : Nat) : Nat := p + (ch.1 + 5 * ch.2 + 320 - p % 320) % 320

/-- Place runs from unit p up to a limit until all are placed. `used` are runs in use, `next` the first barred unit from
a unit up. -/
def takeUnits (used : List (Nat × Nat)) (next : Nat → Nat) (limit : Nat) (tray : Bool) (loc : Nat) :
    Nat → Nat → Nat → Nat → List Run → List Run × Nat
  | 0, _, need, _, acc => (acc.reverse, need)
  | fuel + 1, p, need, v, acc =>
    if need = 0 ∨ limit ≤ p then (acc.reverse, need)
    else match used.find? (fun r => decide (r.1 ≤ p) && decide (p < r.1 + r.2)) with
      | some r => takeUnits used next limit tray loc fuel (r.1 + r.2) need v acc
      | none =>
        if next p = p then takeUnits used next limit tray loc fuel (p + 1) need v acc
        else
          let stop := used.foldl (fun m r => if p < r.1 then min m r.1 else m) (min limit (next p))
          let n := min (min need 256) (stop - p)
          takeUnits used next limit tray loc fuel (p + n) (need - n) (v + n)
            ({ vpage := v, tray := tray, loc := loc, base := p, count := n } :: acc)

/-- Bound on the pieces of one placement. -/
def takeFuel : Nat := 1048576

/-- Near-memory pages of a quarter for so many units. -/
def allocNear (s : State) (q units : Nat) : Option (List Run) :=
  let chs := barredChannels s q
  let limit := nth s.tier.split q * 512
  let next := fun p => chs.foldl (fun m c => min m (nextOn c p)) limit
  let r := takeUnits (usedRuns s false q) next limit false q takeFuel 0 units 0 []
  if r.2 = 0 then some r.1 else none

/-- Tray extents for so many units: ports that are up, lowest first; the last GiB of a port's capacity is kept for the
catalogue (R472). -/
def allocTray (s : State) (units : Nat) : Option (List Run) :=
  let ports := s.tier.cxl.filter (fun e => e.2.up)
  let exts := ports.flatMap (fun e =>
    let top := e.2.extents.foldl (fun m x => max m (x.1 + x.2)) 0
    e.2.extents.map (fun x => (e.1, x.1, min (x.1 + x.2) (top - 512))))
  let r := exts.foldl (fun (acc : List Run × Nat) x =>
    if acc.2 = 0 then acc
    else
      let r := takeUnits (usedRuns s true x.1) (fun _ => x.2.2) x.2.2 true x.1 takeFuel x.2.1 acc.2 (units - acc.2) []
      (acc.1 ++ r.1, r.2)) ([], units)
  if r.2 = 0 then some r.1 else none

/-- Placement for a region of a tier. -/
def allocate (s : State) (tier q units : Nat) : Option (List Run) := if tier = 0 then allocNear s q units else allocTray s units

/-- Bytes homed in a quarter. -/
def homedBytes (s : State) (q : Nat) : Nat :=
  s.regs.recs.foldl (fun n e => if e.2.homeq = q ∧ homeDevice s e.2 = s.dom.devid then n + e.2.bytes else n) 0

/-- The quarter with the fewest bytes homed, the lower in a tie (R16). -/
def leastQuarter (s : State) : Nat := (minBy (homedBytes s) [0, 1, 2, 3]).getD 0

end Sys2Proof.Machine
end

