-- ==== Sys2Proof/Machine/MboxCore.lean ====
section
/-! DEFINITION. The mailboxes: privilege, responses, audit, data areas, commit and drain ends, and what a committed change does to the state. -/

namespace Sys2Proof

open Machine

/-- The function whose mailbox a command uses: the operator mailbox is the PF's. -/
def Issuer.fn : Issuer → Nat
  | .vf k => k
  | _ => 0

/-- Is a command one of the operator mailbox. -/
def Issuer.operator : Issuer → Bool
  | .vf _ => false
  | _ => true

/-- Parameter word Cn. -/
def CmdEntry.c (e : CmdEntry) (n : Nat) : Word := (e.params[n - 3]?).getD 0

/-- HANDLE in C3[63:40]. -/
def CmdEntry.handle (e : CmdEntry) : Nat := fld (e.c 3) 63 40

end Sys2Proof

namespace Sys2Proof.Machine

/-! ### Mailboxes -/

/-- Privilege classes (Table 16.1). -/
inductive MbClass where
  | stall
  | oper
  | quorum
deriving DecidableEq, Repr

/-- Class of a command (Tables 16.9 to 16.16). MAP_STAGE, MAP_SWITCH and DOMAIN_JOIN are QUORUM only in the cases that
their rows give, which their own checks test. -/
def classOf (opc : Nat) : MbClass :=
  if opc = 0x12 ∨ opc = 0x22 ∨ opc = 0x35 ∨ opc = 0x41 ∨ opc = 0x60 ∨ opc = 0x61 ∨ opc = 0x62 ∨ opc = 0x81 then .stall
  else if opc = 0x82 ∨ opc = 0x83 then .quorum
  else .oper

/-- Commands that write no audit record. -/
def unaudited (opc : Nat) : Bool := [0x12, 0x22, 0x35, 0x41, 0x62, 0x73, 0x74, 0x81, 0x92].contains opc

/-- Commands with a data area to be read. -/
def hasArea (opc : Nat) : Bool := [0x20, 0x21, 0x50, 0x54, 0x60, 0x63, 0x80, 0x82, 0x83, 0x84].contains opc

/-- Commands outstanding at a mailbox: those not ended, and those whose final response waits in the FIFO (R414). -/
def mbOut (s : State) (fn : Nat) : Nat :=
  (s.mb.cmds.filter (fun c => c.iss.fn == fn)).length
    + ((Tab.getD s.funcs fn {}).fifo.filter (fun r => bit ((r[0]?).getD 0) 31)).length

/-- Quarter and physical core that serve a mailbox (R579). -/
def servingCore (s : State) (fn : Nat) : Nat × Nat :=
  let q := if fn = 0 then (if quarterInReset s 0 then 2 else 0) else (fn - 1) % 4
  let pos := if fn = 0 then 0 else (fn - 1) / 4 % 7
  (q, nth ((s.rst.cores[q]?).getD {}).active pos)

/-- Drop trailing zero words. -/
def trimWords (ws : List Word) : List Word := (ws.reverse.dropWhile (· == 0)).reverse

/-! ### Responses (Table 16.6) -/

/-- The words of a response. -/
def responseWords (opc seq status : Nat) (final : Bool) (cause : Nat) (bell lseq : Word) (result : List Word) : List Word :=
  pack [(56, opc % 256), (40, seq % 65536), (32, status % 256), (31, b2n final), (24, cause % 128)] :: bell :: lseq :: result

/-- Send a response to the issuer: into the FIFO with its interrupt, or as MBOX_RSP (R415, Table 16.3). -/
def mbAnswer (s : State) (iss : Issuer) (words : List Word) : State :=
  match iss with
  | .fabric p src xid =>
    let h : MgmtHdr := { src := s.dom.devid, dst := src, len := 2, mstat := OK, xid := xid }
    let d := padTo 128 (wordsBytes (words.take 16))
    match mgmtPort s p src with
    | some o => send s o (.mgmt 0x21 h d)
    | none => s
  | .quorum p src xid =>
    let w := (words[0]?).getD 0
    if !bit w 31 then s
    else
      let h : MgmtHdr := { src := s.dom.devid, dst := src, mstat := fld w 39 32, xid := xid }
      match mgmtPort s p src with
      | some o => send s o (.mgmt 0x38 h [])
      | none => s
  | iss =>
    let f := iss.fn
    let s := { s with funcs := Tab.upd s.funcs f {} (fun x => { x with fifo := x.fifo ++ [trimWords words] }) }
    let v := (Tab.getD s.funcs f {}).ivec
    if v = 0x1FF then s else interrupt s f v

/-- Answer an MBOX_CMD that is not taken. -/
def mbRefuse (s : State) (p src xid mstat retry : Nat) : State :=
  send s p (.mgmt 0x21 { src := s.dom.devid, dst := src, len := 2, mstat := mstat, xid := xid, tag := 0 } (natLe 1 retry ++ List.replicate 127 0))

/-! ### Audit (Table 16.8) -/

/-- The parameter words as the audit shows them: keys are zero. -/
def auditParam (c : Cmd) (i : Nat) : Word := if c.opc = 0x52 ∧ i = 1 then 0 else (c.params[i]?).getD 0

/-- Write an audit record of a command; `base` is 0x1000, 0x1100 or 0x1200. -/
def auditCmd (s : State) (c : Cmd) (base status cause : Nat) (p3 : Word) : State :=
  if unaudited c.opc then s
  else
    let (q, core) := servingCore s c.iss.fn
    record s { code := base + c.opc, quarter := q, kind := 0x0B, inst := core, stall := c.stall, principal := c.principal
               p0 := pack [(56, c.opc), (40, c.seq), (32, status), (24, cause)], p1 := auditParam c 0, p2 := auditParam c 1, p3 := p3 }

/-- SEQ of the next audit record. -/
def nextAudit (s : State) : Word := nextSeq s 0x1000 0

/-- Audit records not yet journalled (R520). -/
def auditPending (s : State) : Nat := (s.led.pend.filter (fun e => e.1 == 0x10)).length

/-! ### Refusals -/

/-- What the check of a command comes to. -/
inductive CmdResult where
  /-- A refusal: status, cause, result words. -/
  | refuse (status cause : Nat) (words : List Word)
  /-- It commits: the state with what takes effect at commit, the changes that the next strike makes visible, the result,
  and what ends a drain. -/
  | commit (s : State) (changes : List Change) (result : List Word) (drain : Option DrainOn)

/-- UNSUPPORTED with a cause. -/
def bad (cause : Nat) : CmdResult := .refuse UNSUPPORTED cause []

/-- One holder (Table 16.7). -/
def holder (feature stall princ : Nat) (bell obj : Word) : List Word := [pack [(48, feature), (36, stall), (16, princ)], bell, obj]

/-- RESOURCE_HELD by one holder. -/
def held (feature stall princ : Nat) (bell obj : Word) : CmdResult := .refuse RESOURCE_HELD 0 (holder feature stall princ bell obj)

/-- RESOURCE_HELD by a capacity limit. -/
def noRoom : CmdResult := held 0 0 0 0 0

/-- A command that changes nothing and answers at once. -/
def reply (s : State) (words : List Word) : CmdResult := .commit s [] words none

/-! ### Parameters -/

/-- No bit outside the fields of a parameter word is set: fields as (high, low). -/
def onlyBits (w : Word) (fields : List (Nat × Nat)) : Bool :=
  (List.range 64).all (fun i => !bit w i || fields.any (fun f => decide (f.2 ≤ i) && decide (i ≤ f.1)))

/-- The fields that a command's parameter words hold, from C3 on, by OPC (Tables 16.9 to 16.16): in a word beyond them every bit is
reserved. SCHED_SET lays out C4 by its SCOPE. -/
def paramFields (opc : Nat) (c3 : Word) : List (List (Nat × Nat)) :=
  let all := [(63, 0)]
  match opc with
  | 0x10 => [[(63, 40), (39, 20), (13, 8), (7, 5), (1, 1)], [(35, 0)]]
  | 0x11 | 0x12 | 0x60 | 0x61 => [[(63, 40)]]
  | 0x13 => [[(63, 40), (35, 24), (4, 4), (2, 0)]]
  | 0x14 => [[(63, 40), (0, 0)]]
  | 0x15 => [[(63, 40), (15, 0)]]
  | 0x16 => [[(63, 4)], all, [(63, 4)], all]
  | 0x17 => [[(15, 8), (1, 0)]]
  | 0x18 => [[(3, 0)]]
  | 0x19 => [[(3, 0)], [(24, 0)], [(24, 0)]]
  | 0x20 => [[(63, 40), (33, 0)]]
  | 0x21 => [[(31, 0)]]
  | 0x23 => [[(63, 40), (13, 8), (5, 4), (1, 0)]]
  | 0x30 => [[(63, 44), (32, 12), (11, 0)]]
  | 0x31 => [[(34, 34), (32, 16), (11, 0)]]
  | 0x32 => [[(63, 16), (11, 0)]]
  | 0x33 => [[(14, 0)], [(63, 62), (55, 12)]]
  | 0x34 => [[(63, 60), (56, 56), (55, 32), (14, 0)], if fld c3 63 60 = 0 then [(23, 0)] else if fld c3 63 60 = 4 then [(63, 40), (19, 0)] else [(7, 0)]]
  | 0x35 => [[(19, 0)]]
  | 0x36 => [[(13, 0)], [(63, 38)]]
  | 0x40 => [[(63, 34), (31, 0)], [(63, 40), (35, 0)], all, [(63, 32)]]
  | 0x41 | 0x42 => [[(15, 0)]]
  | 0x43 => [[(12, 8), (1, 0)]]
  | 0x51 => [[(63, 32), (9, 0)]]
  | 0x52 => [[(63, 40), (35, 0)], all, [(63, 40), (11, 8), (2, 0)], all]
  | 0x53 => [[(63, 48), (1, 0)], [(63, 40)], all, all]
  | 0x54 => [[(63, 48), (31, 0)]]
  | 0x55 | 0x56 => [[(63, 48)], [(31, 0)]]
  | 0x57 => [[(63, 48), (1, 0)], [(31, 0)]]
  | 0x58 => [[(63, 48)]]
  | 0x62 => [all, all, all, all, [(31, 0)]]
  | 0x65 => [[(27, 16), (3, 0)]]
  | 0x70 => [[(31, 16), (2, 0)]]
  | 0x71 | 0x72 => [[(8, 8), (4, 0)]]
  | 0x73 => [[(63, 40)], [(47, 0)]]
  | 0x74 => [[(24, 24), (16, 0)]]
  | 0x75 => [[(24, 24), (16, 0)], all]
  | 0x76 => [[(21, 16), (11, 0)]]
  | 0x80 => [[(35, 16), (5, 0)]]
  | 0x82 => [[(5, 0)]]
  | 0x83 => [[(35, 32)]]
  | 0x84 => [[(63, 40), (3, 0)]]
  | 0x90 | 0x91 => [[(47, 0)]]
  | 0x92 => [[(47, 0)], all]
  | _ => []

/-- The bits of a word that lie in fields. -/
def fieldBits (w : Word) (fields : List (Nat × Nat)) : Word := fields.foldl (fun m f => m ||| pack [(f.2, fld w f.1 f.2)]) 0

/-- A reserved bit of a command's parameters is set (R8). -/
def reservedSet (opc : Nat) (e : CmdEntry) : Bool :=
  let fs := paramFields opc (e.c 3)
  !(fs.zipIdx.all (fun f => onlyBits (e.c (3 + f.2)) f.1) && (e.params.drop fs.length).all (· == 0))

/-- Every parameter word from Cn on is zero. -/
def zeroFrom (e : CmdEntry) (n : Nat) : Bool := (e.params.drop (n - 3)).all (· == 0)

/-! ### Changes (R40) -/

/-- Change a key slot of a region. -/
def updSlot (s : State) (h slot : Nat) (f : KeySlot → KeySlot) : State :=
  updRegion s h (fun g => if slot = 0 then { g with slotA := f g.slotA } else { g with slotB := f g.slotB })

/-- A key slot of a region. -/
def slotOf (g : Region) (slot : Nat) : KeySlot := if slot = 0 then g.slotA else g.slotB

/-- Start the drain of a slot: ACTIVE goes to REVOKING (Table 4.3). -/
def revoking (bell : Word) (k : KeySlot) : KeySlot := if k.state = 1 then { k with state := 2, since := bell } else k

/-- Change an index. -/
def updIndex (s : State) (n : Nat) (f : Index → Index) : State :=
  { s with idx := { s.idx with indexes := adjustWhere s.idx.indexes (fun x => x.number == n) f } }

/-- Change the ports of a list, each with its ganged pair's odd half left alone. -/
def eachPort (s : State) (ports : List Nat) (f : PortS → PortS) : State := each ports (fun p s => updPort s p f) s

/-- Make the near memory of a region all zeros, with no poison left there (R444, R452). -/
def zeroNear (s : State) (g : Region) : State :=
  let runs := g.place.filter (fun r => !r.tray)
  let there := fun (a : Nat) => runs.any (fun r => decide (nearBase r.loc r.base ≤ a) && decide (a < nearBase r.loc r.base + 2 ^ 21 * r.count))
  { s with
    tier := { s.tier with
      mem := runs.foldl (fun m r => Memory.clear m (nearBase r.loc r.base) (2 ^ 21 * r.count)) s.tier.mem
      lineCache := s.tier.lineCache.filter (fun e => !there (e.line * 64)) }
    home := { s.home with poison := s.home.poison.filter (fun e => !there (e.1 * 64)) } }

/-- What a change does to the state's registers and tables when it becomes visible. What else follows, such as messages,
is done by the strike. -/
def applyChange (s : State) : Change → State
  | .regionAdd r => putRegion s r
  | .regionValid h => updRegion s h (fun g => { g with valid := true })
  | .regionDying h b => updRegion s h (fun g => { g with dying := true, slotA := revoking b g.slotA, slotB := revoking b g.slotB })
  | .key h slot k =>
    let s := updSlot s h slot (fun _ => k)
    { s with regs := { s.regs with issued := Tab.upd s.regs.issued h [] (addOnce · k.key) } }
  | .keyBell h slot b => updSlot s h slot (revoking b)
  | .owner h o => updRegion s h (fun g => { g with owner := o, ownep := nextOwnep g.ownep })
  | .gateway g => { s with regs := { s.regs with gw := Tab.set s.regs.gw g.proxy g } }
  | .split q n => { s with tier := { s.tier with split := modNth s.tier.split q (fun _ => n) } }
  | .mapStaged m full => { s with maps := { s.maps with staged := some m, stagedFull := full } }
  | .mapSwitch _ => match s.maps.staged with
    | some m => { s with maps := { s.maps with cur := m, prev := if s.maps.stagedFull then none else some s.maps.cur, staged := none, stagedFull := false
                                               draining := s.maps.stagedFull, switchBell := s.time.bell } }
    | none => s
  | .moveStart m r =>
    let s := { s with regs := { s.regs with moves := s.regs.moves ++ [m] } }
    match r with
    | some g => putRegion s g
    | none => updRegion s m.handle (fun g => { g with moving := true })
  | .stall n p c => { s with stalls := Tab.upd s.stalls n {} (fun t => { t with principal := p, comp := c }) }
  | .bind n e caching add =>
    let s := { s with stalls := Tab.upd s.stalls n {} (fun t => { t with binds := if add then addOnce t.binds e else t.binds.filter (· != e) }) }
    if add && caching then { s with dom := { s.dom with caching := addOnce s.dom.caching e } }
    else if s.stalls.any (fun t => t.2.binds.contains e) then s
    else { s with dom := { s.dom with caching := s.dom.caching.filter (· != e) } }
  | .quota n h t => { s with stalls := Tab.upd s.stalls n {} (fun x => { x with hbmQuota := h, trayQuota := t }) }
  | .police n svc mode burst rate =>
    each [0, 1, 2, 3] (fun q s => { s with sw := { s.sw with
      policers := Tab.upd s.sw.policers (policerKey q n svc) {} (fun p => { p with mode := mode, burst := burst, rate := rate, tokens := if mode = 1 ∧ p.mode ≠ 1 then burst else min p.tokens burst }) } }) s
  | .tcw ports w => eachPort s ports (fun p => { p with tcw := w })
  | .vw svc w => { s with sw := { s.sw with vw := modNth s.sw.vw svc (fun _ => w) } }
  | .sw n svc w => { s with sw := { s.sw with sw := Tab.set s.sw.sw (svc * 4096 + n) w } }
  | .qw qp w => { s with sw := { s.sw with qw := Tab.set s.sw.qw qp w } }
  | .shaper ports n svc shape sburst =>
    each ports (fun p s => { s with sw := { s.sw with
      shapers := Tab.upd s.sw.shapers (shaperKey p n svc) {} (fun x => { x with shape := shape, sburst := sburst }) } }) s
  | .allot n q kinds maxjobs retain arrays =>
    { s with stalls := Tab.upd s.stalls n {} (fun x => { x with allot := Tab.set x.allot q (kinds, maxjobs, retain, arrays) }) }
  | .qpAssign n c => { s with qps := Tab.set s.qps n c }
  | .qpRelease n => { s with qps := Tab.adjust s.qps n (fun c => { c with state := 3 }) }
  | .thresherBack q i =>
    { s with eng := { s.eng with charges := Tab.erase s.eng.charges (q * 32 + i), out := s.eng.out.filter (· != q * 32 + i)
                                 outNext := s.eng.outNext.filter (· != q * 32 + i)
                                 failed := s.eng.failed.filter (· != (q, .thresher, i)) } }
  | .tableLive n t => { s with ecx := { s.ecx with tables := Tab.set s.ecx.tables n t } }
  | .tableFence n => { s with ecx := { s.ecx with
      tables := Tab.adjust s.ecx.tables n (fun t => { t with state := 2, fence := s.time.bell })
      held := s.ecx.held.filter (fun b => b.literal || b.slot != n) } }
  | .indexAdd x => { s with idx := { s.idx with indexes := s.idx.indexes ++ [x] } }
  | .indexPart n p => updIndex s n (fun x =>
      let parts := x.parts ++ [p]
      { x with parts := parts, loaded := parts.length == x.nparts })
  | .indexEpoch n e => updIndex s n (fun x => { x with epoch := e })
  | .indexQepoch n e => updIndex s n (fun x => { x with qepoch := e })
  | .indexDrop n => updIndex s n (fun x => { x with loaded := false, dropped := true })
  | .batch n ins del => updIndex s n (fun x => { x with stagedIns := x.stagedIns ++ ins, stagedDel := x.stagedDel ++ del })
  | .compact n part e => updIndex s n (fun x => { x with parts := adjustWhere x.parts (fun p => p.part == part) (fun p => { p with compacting := some (e, s.time.bell) }) })
  | .contentKey h ckid o key nsalt rules =>
    { s with sec := { s.sec with content := Tab.set s.sec.content h { ckid := ckid, owner := o, key := key, nsalt := nsalt, rules := rules } } }
  | .contentDrop h => dropHeldOf { s with sec := { s.sec with content := Tab.erase s.sec.content h } } h
  | .aliasGen g =>
    let archive := s.pkg.flash.archive ++ [g]
    { s with sec := { s.sec with aliasGen := g }
             pkg := { s.pkg with flash := { s.pkg.flash with aliasGen := g, archive := archive.drop (archive.length - 256) } } }
  | .join devid domain ms =>
    { s with dom := { s.dom with devid := devid, domain := domain, members := ms, dvalid := true, outcast := false, fenced := true, grants := [], renewals := [] } }
  | .members ms => { s with dom := { s.dom with members := ms, grants := [] } }
  | .expel d => if d = s.dom.devid then { s with dom := { s.dom with outcast := true } } else { s with dom := { s.dom with expelled := addOnce s.dom.expelled d } }
  | .readmit => { s with dom := { s.dom with outcast := false } }
  | .sheaf x zero g =>
    let s := match g with
      | some g => putRegion s g
      | none => s
    let s := { s with dom := { s.dom with sheaves := s.dom.sheaves.filter (fun y => y.handle != x.handle) ++ [x] } }
    if zero then (match regionOf s x.handle with | some g => zeroNear s g | none => s) else s
  | .trayDiscard _ => s
  | .trayRelease c dpa units => updCxl s c (fun x => { x with extents := x.extents.flatMap (fun e =>
      if e.1 + e.2 ≤ dpa || dpa + units ≤ e.1 then [e]
      else [(e.1, dpa - e.1), (dpa + units, e.1 + e.2 - (dpa + units))].filter (fun p => p.2 != 0)) })
  | .claim r => { s with mb := { s.mb with claims := s.mb.claims ++ [r] } }
  | .unclaim res obj => { s with mb := { s.mb with claims := s.mb.claims.filter (fun r => !(r.resource == res && r.object == obj)) } }
  | .fwStage img => { s with sec := { s.sec with staged := some img } }
  | .halt _ _ _ => s
  | .loop _ _ => s
  | .register _ _ _ => s
  | .port _ _ _ => s
  | .fwRoll => s
  | .rotate _ _ => s
  | .reset _ => s

/-- The state as the commands committed so far leave it: the view a check is made against (R417). -/
def committed (s : State) : State := s.mb.changes.foldl (fun s c => applyChange s c.2) s

/-! ### Data areas (R416) -/

/-- Ask for the pages of a command's data area. -/
def askArea (s : State) (c : Cmd) (e : CmdEntry) : State :=
  let bytes := e.dlen * 256
  let step := fun (i : Nat) (s : State) =>
    let n := min 64 (ceilDiv (bytes - 4096 * i) 64)
    let h : ReqHdr := { stall := c.stall, handle := e.dhandle, len := n, offset := e.doff * 4096 + 4096 * i, key := e.dkey }
    let (acc, s) := submit s (.mailbox c.number) 1 h []
    { s with mb := { s.mb with cmds := adjustWhere s.mb.cmds (fun x => x.number == c.number) (fun x => { x with reads := x.reads ++ [(acc, i)] }) } }
  let s := { s with mb := { s.mb with cmds := adjustWhere s.mb.cmds (fun x => x.number == c.number) (fun x => { x with asked := true }) } }
  each (List.range (ceilDiv bytes 4096)) step s

/-- The bytes of a data area that has arrived. -/
def areaBytes (c : Cmd) (e : CmdEntry) : List Byte :=
  ((List.range (ceilDiv (e.dlen * 256) 4096)).flatMap (fun i => Tab.getD c.area i [])).take (e.dlen * 256)

/-! ### Commit and end -/

/-- Remove a command. -/
def dropCmd (s : State) (n : Nat) : State := { s with mb := { s.mb with cmds := s.mb.cmds.filter (fun c => c.number != n) } }

/-- Change a command. -/
def updCmd (s : State) (n : Nat) (f : Cmd → Cmd) : State := { s with mb := { s.mb with cmds := adjustWhere s.mb.cmds (fun c => c.number == n) f } }

/-- Refuse a command: a single final response, audited for OPER and QUORUM commands (R418, R420). -/
def refuseCmd (s : State) (c : Cmd) (status cause : Nat) (words : List Word) (audit : Bool) : State :=
  let s := dropCmd s c.number
  let audited := audit && !unaudited c.opc && (classOf c.opc != .stall || (c.opc == 0x61 && c.iss.operator))
  let lseq := if audited then nextAudit s else 0
  let p3 := if status = RESOURCE_HELD then pack [(48, fld ((words[0]?).getD 0) 63 48), (0, fld ((words[1]?).getD 0) 47 0)] else s.time.bell
  let s := if audited then auditCmd s c 0x1200 status cause p3 else s
  mbAnswer s c.iss (responseWords c.opc c.seq status true cause s.time.bell lseq words)

/-- The region whose record a change alters: a data stalk's record goes to the mirrors first (R447). -/
def changedRecord : Change → Option Nat
  | .regionDying h _ => some h
  | .key h _ _ => some h
  | .keyBell h _ _ => some h
  | .owner h _ => some h
  | .moveStart m none => some m.handle
  | _ => none

/-- Write the records that changes of a command alter to the mirrors, as the changes leave them (R447). -/
def mirrorChanges (s : State) (changes : List Change) : State :=
  each ((changes.filterMap changedRecord).eraseDups) (fun h s => match regionOf (committed s) h with
    | some g => if (sheafOf s h).isSome then mirrorRecord s g 0 else s
    | none => s) s

/-- Commit a command: audited, its changes queued for the next strike. One that changes nothing ends at once. -/
def commitCmd (s : State) (c : Cmd) (changes : List Change) (result : List Word) (drain : Option DrainOn) : State :=
  let lseq := if unaudited c.opc then 0 else nextAudit s
  let s := auditCmd s c 0x1000 OK 0 s.time.bell
  if changes.isEmpty && drain.isNone then
    mbAnswer (dropCmd s c.number) c.iss (responseWords c.opc c.seq OK true 0 s.time.bell lseq result)
  else
    let s := updCmd s c.number (fun c => { c with waiting := none, bell := s.time.bell, lseq := lseq, result := result, drain := drain, area := [] })
    mirrorChanges { s with mb := { s.mb with changes := s.mb.changes ++ changes.map (fun x => (c.number, x)) } } changes

/-- Issue the PHASE 0 response of a drain. -/
def phaseZero (s : State) (c : Cmd) : State :=
  if c.phase0 then s
  else mbAnswer (updCmd s c.number (fun c => { c with phase0 := true })) c.iss (responseWords c.opc c.seq OK false 0 c.bell c.lseq [])

/-- End a drain with a status at a bell: its final response and its audit record (R418, R420). -/
def endCmd (s : State) (n status : Nat) (bell : Word) (result : List Word) : State :=
  match s.mb.cmds.find? (fun c => c.number == n) with
  | none => s
  | some c =>
    let s := phaseZero s c
    let lseq := if unaudited c.opc then 0 else nextAudit s
    let s := auditCmd s c 0x1100 status 0 bell
    mbAnswer (dropCmd s n) c.iss (responseWords c.opc c.seq status true 0 bell lseq result)

/-- End every drain of a kind now. -/
def endDrains (s : State) (p : DrainOn → Bool) (status : Nat) (bell : Word) (result : List Word) : State :=
  each ((s.mb.cmds.filter (fun c => c.drain.any p)).map (·.number)) (fun n s => endCmd s n status bell result) s

/-! ### Checks every command passes first -/

/-- A reset of level 3 or above is under way by command (R428): dump cause 2. -/
def resetRefuses (s : State) : Bool :=
  s.rst.due.isSome || s.rst.running.any (fun r => (r.scope == .device || r.scope == .power) && r.cause == 2) || s.mb.cmds.any (fun c => match c.drain with | some (.reset (.quarter _)) => true | _ => false)

/-- Privilege, reserved fields and the audit limit: the refusal, if there is one (R8, R412, R428, R520). -/
def preCheck (s : State) (c : Cmd) (e : CmdEntry) : Option (Nat × Nat × List Word × Bool) :=
  if resetRefuses s then some (ABORTED_RESET, 0, [], true)
  else if !c.iss.operator && classOf c.opc != .stall then some (UNSUPPORTED, 1, [], true)
  else if e.rsv ≠ 0 || (!c.iss.operator && e.principal ≠ 0) || reservedSet c.opc e then some (UNSUPPORTED, 3, [], true)
  else if !unaudited c.opc && 8192 ≤ auditPending s then some (RESOURCE_HELD, 0, holder 0 0 0 0 0, false)
  else none

/-- Is a region of another composition than the issuing stall's (R412). -/
def foreign (s : State) (c : Cmd) (g : Region) : Bool := !c.iss.operator && stallComp s c.stall != some g.comp

end Sys2Proof.Machine
end

