-- ==== Sys2Proof/Machine/Certificate.lean ====
section
/-! DEFINITION. Quorum certificates and member lists (R433, R440, R569). -/

namespace Sys2Proof.Machine

/-- Bytes of a certificate with so many signatures (R569). -/
def certBytes (nsig : Nat) : Nat := 256 + 3328 * nsig

/-- Members needed (R433). -/
def majority (n : Nat) : Nat := n / 2 + 1

/-- Does a data area begin with a certificate (R569). -/
def hasCert (d : List Byte) : Bool := decide (2 ≤ d.length) && natAt d 0 2 == 0x9C01

/-- The data after the certificate, if there is one. -/
def afterCert (d : List Byte) : List Byte := if hasCert d then d.drop (certBytes (natAt d 3 1)) else d

/-- Members that sign a header validly, each once. -/
def signers (members : List (Nat × List Byte)) (d : List Byte) : List Nat :=
  let header := slice d 0 256
  ((List.range (natAt d 3 1)).filterMap (fun i =>
    let slot := slice d (256 + 3328 * i) 3328
    let m := natAt slot 0 1
    match members[m]? with
    | some e => if Config.mldsaVerify e.2 header (slice slot 4 3309) then some m else none
    | none => none)).eraseDups

/-- The reserved bytes of a certificate are zero (R8, Table 17.4), in its header and in its slots. -/
def reservedClear (d : List Byte) : Bool :=
  allZero (slice d 6 2) && allZero (slice d 0x88 120) && (List.range (natAt d 3 1)).all (fun i =>
    let slot := slice d (256 + 3328 * i) 3328
    allZero (slice slot 1 3) && allZero (slice slot 3313 15))

/-- The check of R8 and R440 on a certificate that is there, by the state that the commands before it leave (R417): a refusal, or none. -/
def certRefuses (s : State) (opc : Nat) (e : CmdEntry) (d : List Byte) : Option (Nat × Nat) :=
  let nsig := natAt d 3 1
  if natAt d 2 1 ≠ opc ∨ slice d 0x10 88 ≠ wordsBytes ((List.range 11).map (fun i => e.c (3 + i))) then some (QUORUM_REQUIRED, 0)
  else if nsig < 2 ∨ 5 < nsig ∨ d.length < certBytes nsig ∨ (signers s.dom.members d).length < majority s.dom.members.length then
    some (BAD_SIGNATURE, 0)
  else
    let rest := afterCert d
    let digest := if rest.isEmpty then List.replicate 32 0 else Config.shake256 rest 32
    if slice d 0x68 32 ≠ digest then some (BAD_SIGNATURE, 0)
    else if !reservedClear d then some (UNSUPPORTED, 3)
    else if natAt d 4 2 ≠ s.dom.domain ∨ (wordAt d 8).toNat ≤ s.dom.cseq.toNat then some (UNSUPPORTED, 4)
    else none

/-- Check a data area that may hold a certificate: a refusal, or the command's own data and the state with the accepted
CSEQ in the flash journal (R440, R569). v is the state that the commands before it leave; `needs` says that the command needs one. -/
def checkCert (s v : State) (opc : Nat) (e : CmdEntry) (d : List Byte) (needs : Bool) : Except (Nat × Nat) (List Byte × State) :=
  if hasCert d then
    match certRefuses v opc e d with
    | some r => .error r
    | none =>
      let cseq := wordAt d 8
      .ok (afterCert d, { s with dom := { s.dom with cseq := cseq }, pkg := { s.pkg with flash := { s.pkg.flash with cseq := cseq } } })
  else if needs then .error (QUORUM_REQUIRED, 0)
  else .ok (d, s)

/-- Read a member list of NQ entries; none where R433 refuses it. -/
def memberList (nq : Nat) (d : List Byte) : Option (List (Nat × List Byte)) :=
  let es := (List.range nq).map (fun i => slice d (2048 * i) 2048)
  let ok := d.length ≥ 2048 * nq && es.zipIdx.all (fun (m, i) =>
    decide (natAt m 0 1 < 64) && natAt m 1 1 == i && allZero (slice m 2 30) && slice m 0x20 32 == Config.shake256 (slice m 0x40 1952) 32
      && allZero (slice m 0x7E0 32))
  let devs := es.map (fun m => natAt m 0 1)
  if ok && devs.eraseDups.length == nq then some (es.map (fun m => (natAt m 0 1, slice m 0x40 1952))) else none

end Sys2Proof.Machine
end

