-- ==== Sys2Proof/Machine/CmdRegion.lean ====
section
/-! DEFINITION. Region, key, gateway, tier and map commands (Tables 16.9 to 16.11). -/

namespace Sys2Proof.Machine

/-- A handle as HOBJ shows it (Table 16.17), with a slot. -/
def handleObj (h slot : Nat) : Word := pack [(40, h), (0, slot)]

/-- RESOURCE_HELD by a home move of a region (R118). -/
def heldByMove (s : State) (h : Nat) : CmdResult :=
  match s.regs.moves.find? (fun m => m.handle == h) with
  | some m => held 3 0 m.princ m.since (handleObj h 0)
  | none => held 3 0 0 0 (handleObj h 0)

/-- RESOURCE_HELD by a queue pair. -/
def heldByQp (s : State) (n : Nat) (q : Qp) : CmdResult := held 0x0A q.stall (stallPrincipal s q.stall) q.since (word n)

/-! ### REGION_CREATE (R15, R16, R155, R216, R422, R488) -/

/-- The record of a new region. -/
def newRegion (s : State) (e : CmdEntry) (q : Nat) (place : List Run) : Region :=
  let w := e.c 3
  { handle := e.handle, comp := fld w 39 20, homedev := s.dom.devid, homeq := q, mode := fld w 11 10, tier := fld w 9 8, sealed := bit w 7
    ecx := bit w 6, sheaf := bit w 5, fenced := s.dom.fenced, valid := true, size4k := fld (e.c 4) 35 0, place := place
    created := s.time.bell, princ := e.principal }

def cmdRegionCreate (s v : State) (_c : Cmd) (e : CmdEntry) : CmdResult :=
  let w := e.c 3
  if !onlyBits w [(63, 40), (39, 20), (13, 8), (7, 5), (1, 1)] || !onlyBits (e.c 4) [(35, 0)] || !zeroFrom e 5
      || 2 ≤ fld w 11 10 || 2 ≤ fld w 9 8 || (bit w 6 && fld w 11 10 == 1) || (bit w 7 && !bit w 6) then bad 3
  else match (if e.handle = 0 ∨ e.handle = 0xFFFFFF then none else Tab.get? v.maps.cur.handles e.handle) with
    | none => bad 4
    | some m =>
      if m.homedev ≠ v.dom.devid then bad 4
      else match regionOf v e.handle with
        | some g => held 0x11 0 g.princ g.created (handleObj e.handle 0)
        | none =>
          if !m.qauto && bit w 1 && fld w 13 12 ≠ m.homeq then bad 4
          else
            let q := if !m.qauto then m.homeq else if bit w 1 then fld w 13 12 else leastQuarter v
            let g := newRegion v e q []
            if 2097152 ≤ v.regs.recs.length then noRoom
            else match allocate v g.tier q g.units with
              | none => noRoom
              | some p => .commit s [.regionAdd { g with place := p }] [] none

/-! ### REGION_DESTROY, REGION_READ -/

def cmdRegionDestroy (s v : State) (_c : Cmd) (e : CmdEntry) : CmdResult :=
  if !onlyBits (e.c 3) [(63, 40)] || !zeroFrom e 4 then bad 3
  else match regionOf v e.handle with
    | none => .refuse NO_REGION 0 []
    | some g =>
      if g.moving then heldByMove v e.handle
      else if g.dying then .commit s [] [] (some (.destroy e.handle))
      else match ringsIn v e.handle with
        | (n, q) :: _ => heldByQp v n q
        | [] => .commit s [.regionDying e.handle s.time.bell] [] (some (.destroy e.handle))

/-- Admitted counts of a region as of the latest strike (R100). -/
def strikeAdmit (s : State) (h slot : Nat) : Nat := Tab.getD s.regs.strikeAdmits (h * 2 + slot) 0

def cmdRegionRead (s v : State) (c : Cmd) (e : CmdEntry) : CmdResult :=
  if !onlyBits (e.c 3) [(63, 40)] || !zeroFrom e 4 then bad 3
  else match regionOf v e.handle with
    | none => .refuse NO_REGION 0 []
    | some g =>
      if foreign v c g then bad 2
      else
        let g := (regionOf s e.handle).getD { g with valid := false }
        reply s (regionWords g (homeDevice s g) (strikeAdmit s e.handle 0) (strikeAdmit s e.handle 1) false)

/-! ### Keys (R103 to R107, R570) -/

/-- A key drawn for a region: not 0 and never issued to it before (R103). -/
def drawKey (issued : List Word) : Nat → State → Word × State
  | 0, s => (word (((List.range (issued.length + 1)).find? (fun i => !issued.contains (word (i + 1)))).getD 0 + 1), s)
  | n + 1, s =>
    let (w, s) := drawWord s
    if w == 0 || issued.contains w then drawKey issued n s else (w, s)

/-- The slot that KEY_ISSUE takes (R105). -/
def freeSlot (g : Region) : Option Nat :=
  if g.slotA.state = 0 then some 0 else if g.slotB.state = 0 then some 1
  else if g.slotA.state = 3 then some 0 else if g.slotB.state = 3 then some 1 else none

/-- Holder words of a slot in use. -/
def slotHolder (s : State) (h slot : Nat) (k : KeySlot) : List Word :=
  holder (if k.state = 2 then 2 else 1) k.stall (stallPrincipal s k.stall) k.since (handleObj h slot)

def cmdKeyIssue (s v : State) (_c : Cmd) (e : CmdEntry) : CmdResult :=
  let w := e.c 3
  if !onlyBits w [(63, 40), (35, 24), (4, 4), (2, 0)] || !zeroFrom e 4 then bad 3
  else match regionOf v e.handle with
    | none => .refuse NO_REGION 0 []
    | some g =>
      if g.dying then bad 4
      else if g.moving then heldByMove v e.handle
      else match freeSlot g with
        | none => .refuse RESOURCE_HELD 0 (slotHolder v e.handle 0 g.slotA ++ slotHolder v e.handle 1 g.slotB)
        | some slot =>
          let issued := Tab.getD v.regs.issued e.handle []
          let (key, s) := drawKey issued (issued.length + 2) s
          .commit s [.key e.handle slot { state := 1, stall := fld w 35 24, rights := fld w 2 0, any := bit w 4, key := key, since := s.time.bell }]
            [word slot, key] none

def cmdKeyRevoke (s v : State) (_c : Cmd) (e : CmdEntry) : CmdResult :=
  if !onlyBits (e.c 3) [(63, 40), (0, 0)] || !zeroFrom e 4 then bad 3
  else match regionOf v e.handle with
    | none => .refuse NO_REGION 0 []
    | some g =>
      let slot := fld (e.c 3) 0 0
      let k := slotOf g slot
      if g.dying then bad 4
      else if g.moving then heldByMove v e.handle
      else if k.state = 0 then bad 4
      else .commit s (if k.state = 1 then [.keyBell e.handle slot s.time.bell] else []) [] (some (.revoke e.handle slot))

/-! ### OWNER_SET, GW_BIND -/

def cmdOwnerSet (s v : State) (_c : Cmd) (e : CmdEntry) : CmdResult :=
  if !onlyBits (e.c 3) [(63, 40), (15, 0)] || !zeroFrom e 4 then bad 3
  else match regionOf v e.handle with
    | none => .refuse NO_REGION 0 []
    | some g =>
      if g.dying || g.mode == 1 then bad 4
      else .commit s [.owner e.handle (fld (e.c 3) 15 0)] [pack [(32, nextOwnep g.ownep), (0, fld (e.c 3) 15 0)]] none

/-- The binding that C3 to C6 give (Table 5.8). -/
def bindingOf (e : CmdEntry) : GwBinding :=
  { proxy := e.handle, peergw := fld (e.c 3) 39 24, peerdom := fld (e.c 3) 23 8, block := fld (e.c 3) 7 4, rhandle := fld (e.c 4) 63 40
    rmepoch := fld (e.c 4) 39 32, stale := fld (e.c 4) 31 16, flush := fld (e.c 4) 15 0, roffset := fld (e.c 5) 63 16
    rstall := fld (e.c 5) 15 4, rkey := e.c 6 }

def cmdGwBind (s v : State) (_c : Cmd) (e : CmdEntry) : CmdResult :=
  let b := bindingOf e
  if fld (e.c 3) 3 0 ≠ 0 || fld (e.c 5) 3 0 ≠ 0 || !zeroFrom e 7 || 8 < b.block || b.stale = 0 || b.flush = 0 || 1000 < b.flush then bad 3
  else match regionOf v e.handle with
    | none => .refuse NO_REGION 0 []
    | some g =>
      if g.dying || g.mode == 1 || !hasRole v v.maps.cur g.comp 2 then bad 4
      else
        let s := match gwOf s e.handle with
          | some old => gwFlushAll s old
          | none => s
        .commit s [.gateway b] [] (some (.gwBind e.handle (gwWriteTags s e.handle)))

/-! ### HBM_SPLIT, TRAY_DISCARD, TRAY_RELEASE -/

/-- Regions with near-memory pages, reserved ones among them, in a range of page numbers of a quarter, lowest handle first. -/
def pagesIn (s : State) (q lo hi : Nat) : List Region :=
  let there := fun (r : Run) => !r.tray && r.loc == q && decide (r.base < hi) && decide (lo < r.base + r.count)
  (s.regs.recs.filter (fun e => e.2.place.any there || s.regs.moves.any (fun m => m.handle == e.1 && m.place.any there))).map (·.2)

/-- Frames in the range that a larger near-memory share takes. -/
def cededFrames (s : State) (q n : Nat) : List Frame := s.tier.frames.filter (fun f => f.q == q && decide (setPage f.set < n * 512))

def cmdHbmSplit (s v : State) (_c : Cmd) (e : CmdEntry) : CmdResult :=
  let q := fld (e.c 3) 1 0
  let n := fld (e.c 3) 15 8
  let old := nth v.tier.split q
  if !onlyBits (e.c 3) [(15, 8), (1, 0)] || !zeroFrom e 4 || 235 < n then bad 3
  else if n < old then
    match pagesIn v q (n * 512) (old * 512) with
    | g :: _ => held 5 0 g.princ g.created (handleObj g.handle 0)
    | [] => .commit s [.split q n] [] (some (.split q))
  else if cacheShare v q < (n - old) * 2 ^ 30 + 4 * 2 ^ 30 then noRoom
  else
.commit (clearFrames s (cededFrames s q n)) [] [] (some (.split q))

def cmdTrayDiscard (s _v : State) (_c : Cmd) (e : CmdEntry) : CmdResult :=
  let p := fld (e.c 3) 3 0
  if !onlyBits (e.c 3) [(3, 0)] || !zeroFrom e 4 then bad 3
  else
    let n := (s.tier.frames.filter (fun f => f.port == p)).foldl (fun n f => n + f.dirty.length) 0
    .commit s [.trayDiscard p] [word n] none

/-- TRAY_RELEASE (R202, R425). Capacity that no one extent of the port holds whole is refused with CAUSE 4 (DESIGN CHOICE, log 163). -/
def cmdTrayRelease (s v : State) (_c : Cmd) (e : CmdEntry) : CmdResult :=
  let p := fld (e.c 3) 3 0
  let dpa := fld (e.c 4) 24 0
  let units := fld (e.c 5) 24 0
  if !onlyBits (e.c 3) [(3, 0)] || !onlyBits (e.c 4) [(24, 0)] || !onlyBits (e.c 5) [(24, 0)] || !zeroFrom e 6 || units = 0 then bad 3
  else
    let maps := fun (r : Run) => r.tray && r.loc == p && decide (r.base < dpa + units) && decide (dpa < r.base + r.count)
    match v.regs.recs.find? (fun g => g.2.place.any maps || v.regs.moves.any (fun m => m.handle == g.1 && m.place.any maps)) with
    | some g => held 6 0 g.2.princ g.2.created (handleObj g.1 0)
    | none =>
      if (cxlOf v p).extents.any (fun x => decide (x.1 ≤ dpa) && decide (dpa + units ≤ x.1 + x.2)) then .commit s [.trayRelease p dpa units] [] none
      else bad 4

/-! ### Maps (R112 to R119, R423, R439) -/

/-- Requests in flight under the previous map (R113). -/
def inFlight (s : State) : Nat :=
  (s.home.reqs.filter (fun r => (match r.org with | .mirror _ _ => false | _ => true) && (r.prev || decide (r.bell.toNat < s.maps.switchBell.toNat)))).length
    + (s.fab.relays.filter (fun r => r.prev || decide (r.bell.toNat < s.maps.switchBell.toNat))).length

/-- May a role set stand (R26). -/
def rolesOk (r : Nat) : Bool := decide (r < 8) || r == 8

/-- Is a map change record in form (Table 16.11). -/
def recordOk (m0 m1 : Word) : Bool :=
  let kind := fld m0 63 62
  let h := fld m0 61 38
  fld m0 8 0 == 0 && bit m1 57 == false && fld m1 52 0 == 0 && kind != 3
    && (if kind = 1 then h == 0 && fld m0 37 30 == 0 && !bit m0 9 && rolesOk (fld m1 56 53)
        else h != 0 && h != 0xFFFFFF && fld m1 63 53 == 0 && (kind == 0 || (fld m0 37 9 == 0)))

/-- A map with a record applied. -/
def applyRecord (m : CompMap) (m0 m1 : Word) : CompMap :=
  let kind := fld m0 63 62
  let h := fld m0 61 38
  if kind = 0 then
    { m with handles := Tab.set m.handles h { homedev := fld m0 37 32, homeq := fld m0 31 30, comp := fld m0 29 10, qauto := bit m0 9 } }
  else if kind = 1 then
    let key := 2 ^ 20 * fld m1 63 58 + fld m0 29 10
    { m with roles := if fld m1 56 53 = 0 then Tab.erase m.roles key else Tab.set m.roles key (fld m1 56 53) }
  else { m with handles := Tab.erase m.handles h }

/-- Has this device copied and agreed enough to leave the SHADOW role of a composition (R455). -/
def shadowReady (s : State) (comp : Nat) : Bool :=
  s.dom.shadows.any (·.comp == comp) && (s.dom.shadows.filter (·.comp == comp)).all (fun x => x.copied && decide (100000 ≤ x.agreed))

/-- Object checks on a staged map against the current one (R15, R109, R119, R455): a refusal, or none. -/
def mapRefuses (v : State) (m : CompMap) : Option CmdResult :=
  let mine := fun (c : CompMap) => c.roles.filter (fun e => e.1 / 2 ^ 20 == v.dom.devid)
  if (mine v.maps.cur).any (fun e => e.2 % 2 == 1 && Tab.getD m.roles e.1 0 % 2 == 0
      && v.regs.recs.any (fun g => g.2.comp == e.1 % 2 ^ 20 && homeDevice v g.2 == v.dom.devid)) then some (bad 4)
  else if (mine v.maps.cur).any (fun e => e.2 == 8 && Tab.getD m.roles e.1 0 % 2 == 1 && !shadowReady v (e.1 % 2 ^ 20)) then some (bad 4)
  else if v.regs.moves.any (fun mv => mv.new && (match Tab.get? m.handles mv.handle with
      | some h => h.homedev == v.dom.devid && !h.qauto && h.homeq != mv.homeq
      | none => false)) then some (bad 4)
  else if 16384 < ((mine m).filter (fun e => e.2 != 0)).length then some noRoom
  else none

def cmdMapStage (s v : State) (_c : Cmd) (e : CmdEntry) (d : List Byte) : CmdResult :=
  let w := e.c 3
  let epoch := fld w 31 0
  let full := bit w 32
  let cont := bit w 33
  let n := fld w 63 40
  match checkCert s v 0x20 e d (full || (cont && v.maps.stagedFull)) with
  | .error r => .refuse r.1 r.2 []
  | .ok (own, s) =>
    if fld w 39 34 ≠ 0 || !zeroFrom e 4 || n = 0 || 2 ^ 24 - 16 < n || own.length < 16 * n then bad 3
    else if (!full && epoch ≠ v.maps.cur.epoch + 1) || (full && epoch ≤ v.maps.cur.epoch)
        || (cont && !(v.maps.staged.any (fun m => m.epoch == epoch))) then bad 4
    else if v.maps.prev.isSome || v.maps.draining then
      held 4 0 0 v.maps.switchBell (word (match v.maps.prev with | some m => m.epoch | none => v.maps.cur.epoch - 1))
    else
      let recs := (List.range n).map (fun i => (wordAt own (16 * i), wordAt own (16 * i + 8)))
      if !recs.all (fun r => recordOk r.1 r.2) then bad 3
      else
        let base : CompMap := if cont then v.maps.staged.getD {} else if full then {} else v.maps.cur
        let m := recs.foldl (fun m r => applyRecord m r.1 r.2) { base with epoch := epoch }
        match mapRefuses v m with
        | some r => r
        | none => .commit s [.mapStaged m (full || (cont && v.maps.stagedFull))] [s.maps.retireBell] none

def cmdMapSwitch (s v : State) (_c : Cmd) (e : CmdEntry) (d : List Byte) : CmdResult :=
  match checkCert s v 0x21 e d v.dom.fenced with
  | .error r => .refuse r.1 r.2 []
  | .ok (_, s) =>
    if !onlyBits (e.c 3) [(31, 0)] || !zeroFrom e 4 then bad 3
    else if v.maps.staged.any (fun m => m.epoch == fld (e.c 3) 31 0) then .commit s [.mapSwitch (fld (e.c 3) 31 0)] [] none
    else bad 4

def cmdMapStatus (s v : State) (_c : Cmd) (e : CmdEntry) : CmdResult :=
  if !zeroFrom e 3 then bad 3
  else
    let prev := match s.maps.prev with | some m => m.epoch | none => 0xFFFFFFFF
    reply s [pack [(32, s.maps.cur.epoch), (0, prev)], word (inFlight s), s.maps.switchBell, word (b2n v.maps.staged.isSome)]

/-! ### MOVE_PREPARE (R117, R118, R193, R437; what the old home sends is a free value, log 17) -/

def cmdMovePrepare (s v : State) (_c : Cmd) (e : CmdEntry) : CmdResult :=
  let w := e.c 3
  let from_ := fld w 13 8
  let q := fld w 5 4
  let tier := fld w 1 0
  if !onlyBits w [(63, 40), (13, 8), (5, 4), (1, 0)] || !zeroFrom e 4 || 2 ≤ tier then bad 3
  else if v.dom.fenced then noRoom
  else if v.regs.moves.any (fun m => m.handle == e.handle) then heldByMove v e.handle
  else if from_ = v.dom.devid then
    match regionOf v e.handle with
    | none => bad 4
    | some g => match allocate v tier q g.units with
      | none => noRoom
      | some p =>
        .commit s [.moveStart { handle := e.handle, new := true, other := from_, homeq := q, tier := tier, princ := e.principal, since := s.time.bell, place := p } none] []
          (some (.move e.handle))
  else match regionOf v e.handle, Tab.get? v.maps.cur.handles e.handle with
    | some g, _ => held 0x11 0 g.princ g.created (handleObj e.handle 0)
    | none, none => bad 4
    | none, some m =>
      if m.homedev ≠ from_ then bad 4
      else
        let e0 := Config.movedWord from_ e.handle 0
        let g : Region := { handle := e.handle, comp := m.comp, homedev := v.dom.devid, homeq := q, mode := if bit e0 6 then 0 else fld e0 10 10, tier := tier
                            sealed := bit e0 7, ecx := bit e0 6, sheaf := bit e0 5, fenced := v.dom.fenced, moving := true
                            size4k := fld (Config.movedWord from_ e.handle 1) 35 0, created := s.time.bell, princ := e.principal }
        match allocate v tier q g.units with
        | none => noRoom
        | some p =>
          .commit s [.moveStart { handle := e.handle, new := true, other := from_, homeq := q, tier := tier, princ := e.principal, since := s.time.bell }
            (some { g with place := p })] [] (some (.move e.handle))

end Sys2Proof.Machine
end

