-- ==== Sys2Proof/Machine/CmdStall.lean ====
section
/-! DEFINITION. Stall, traffic and queue-pair commands (Tables 16.12 and 16.13). -/

namespace Sys2Proof.Machine

/-- Jobs in progress of a queue pair: INFLIGHT. Jobs of a quarter in reset count until their FINAL (R410). -/
def inflight (s : State) (qp : Nat) : Nat := ((s.eng.jobs ++ s.rst.running.flatMap (·.jobs)).filter (fun j => j.qp == qp)).length

/-! ### STALL_SET, STALL_BIND, QUOTA_SET (R424) -/

/-- The lowest queue pair of a stall that is ACTIVE or has a job in progress. -/
def busyQp (s : State) (stall : Nat) : Option (Nat × Qp) :=
  s.qps.find? (fun e => e.2.stall == stall && (e.2.state == 1 || (e.2.state != 0 && inflight s e.1 != 0)))

def cmdStallSet (s v : State) (_c : Cmd) (e : CmdEntry) : CmdResult :=
  let w := e.c 3
  let n := fld w 11 0
  let comp := if bit w 32 then some (fld w 31 12) else none
  if !onlyBits w [(63, 44), (32, 12), (11, 0)] || !zeroFrom e 4 then bad 3
  else match (if stallComp v n = comp then none else busyQp v n) with
    | some (p, q) => heldByQp v p q
    | none => .commit s [.stall n (fld w 63 44) comp] [] none

/-- Bindings of stalls to endpoints. -/
def bindings (s : State) : Nat := s.stalls.foldl (fun n e => n + e.2.binds.length) 0

def cmdStallBind (s v : State) (_c : Cmd) (e : CmdEntry) : CmdResult :=
  let w := e.c 3
  let n := fld w 11 0
  let ep := fld w 31 16
  let add := !bit w 32
  if !onlyBits w [(34, 34), (32, 16), (11, 0)] || !zeroFrom e 4 then bad 3
  else if add && v.stalls.any (fun t => t.2.binds.contains ep) && v.dom.caching.contains ep != bit w 34 then bad 4
  else if add && !(Tab.getD v.stalls n {}).binds.contains ep && decide (65536 ≤ bindings v) then noRoom
  else .commit s [.bind n ep (bit w 34) add] [] none

def cmdQuotaSet (s _v : State) (_c : Cmd) (e : CmdEntry) : CmdResult :=
  let w := e.c 3
  if !onlyBits w [(63, 16), (11, 0)] || !zeroFrom e 4 then bad 3
  else .commit s [.quota (fld w 11 0) (fld w 63 40) (fld w 39 16)] [] none

/-! ### POLICE_SET, SCHED_SET (R377, R382, R386, R425) -/

def cmdPoliceSet (s _v : State) (_c : Cmd) (e : CmdEntry) : CmdResult :=
  let p := e.c 4
  let mode := fld p 63 62
  let burst := fld p 55 32
  let rate := fld p 31 12
  if !onlyBits (e.c 3) [(14, 0)] || !onlyBits p [(63, 62), (55, 12)] || !zeroFrom e 5 || mode = 3 || (mode = 1 && (burst < 66 || rate = 0)) then bad 3
  else .commit s [.police (fld (e.c 3) 11 0) (fld (e.c 3) 14 12) mode burst rate] [] none

/-- Ports that a SCHED_SET names; none for the odd half of an x8 port. -/
def schedPorts (s : State) (w : Word) : Option (List Nat) :=
  let p := fld w 55 48
  if bit w 56 then some (List.range 256)
  else if p % 2 = 1 ∧ (portOf s (p - 1)).gang then none
  else some [p]

def cmdSchedSet (s v : State) (_c : Cmd) (e : CmdEntry) : CmdResult :=
  let w := e.c 3
  let p := e.c 4
  let scope := fld w 63 60
  let n := fld w 11 0
  let svc := fld w 14 12
  let one := onlyBits p [(7, 0)] && fld p 7 0 != 0
  let go := fun (c : Change) => CmdResult.commit s [c] [] none
  if !onlyBits w [(63, 60), (56, 56), (55, 32), (14, 0)] || !zeroFrom e 5 then bad 3
  else match scope, schedPorts v w with
    | 0, some ports =>
      let ws := [fld p 7 0, fld p 15 8, fld p 23 16]
      if !onlyBits p [(23, 0)] || ws.contains 0 then bad 3 else go (.tcw ports ws)
    | 1, _ => if one then go (.vw svc (fld p 7 0)) else bad 3
    | 2, _ => if one then go (.sw n svc (fld p 7 0)) else bad 3
    | 3, _ => if one then go (.qw (fld w 47 32) (fld p 7 0)) else bad 3
    | 4, some ports =>
      let shape := fld p 63 40
      let burst := fld p 19 0
      if !onlyBits p [(63, 40), (19, 0)] || (shape ≠ 0 && burst < 66) then bad 3 else go (.shaper ports n svc shape burst)
    | _, _ => bad 3

/-! ### METER_READ, ENGINE_SET (R111, R406) -/

/-- The counters of Table 4.5. -/
def Meter.words (m : Meter) : List Word :=
  [m.rdBytes, m.wrBytes, m.atomics, m.trayBytes, m.capGibBells, m.engineAclk, word (m.macs / 2 ^ 20), m.searchCodes, m.refused]

def cmdMeterRead (s _v : State) (c : Cmd) (e : CmdEntry) : CmdResult :=
  let comp := fld (e.c 3) 19 0
  if !onlyBits (e.c 3) [(19, 0)] || !zeroFrom e 4 then bad 3
  else if !c.iss.operator && stallComp s c.stall != some comp then bad 2
  else reply s ((Tab.getD s.maps.closed comp {}).words ++ [s.time.bellStrike, s.time.taiStrike])

def cmdEngineSet (s _v : State) (_c : Cmd) (e : CmdEntry) : CmdResult :=
  let w := e.c 3
  let a := e.c 4
  if !onlyBits w [(13, 0)] || !onlyBits a [(63, 38)] || !zeroFrom e 5 || 44 < fld a 47 42 || 12 < fld a 41 38 then bad 3
  else .commit s [.allot (fld w 11 0) (fld w 13 12) (fld a 63 60) (fld a 59 48) (fld a 47 42) (fld a 41 38)] [] none

/-! ### Queue pairs (R393, R394, R408) -/

/-- The context that Q0 to Q3 give (Table 15.4). -/
def qpOf (s : State) (e : CmdEntry) : Qp :=
  let q0 := e.c 3
  { stall := fld q0 47 36, quarter := fld q0 35 34, state := 1, lq := fld q0 31 20, log2sq := fld q0 19 15, log2cq := fld q0 14 10
    pfv := bit q0 9, ivec := fld q0 8 0, ring := fld (e.c 4) 63 40, ringOff := fld (e.c 4) 35 0, rkey := e.c 5
    icnt := fld (e.c 6) 63 48, ibells := fld (e.c 6) 47 32, since := s.time.bell }

/-- Words Q0 to Q7 of a context, with RKEY zero. -/
def qpWords (s : State) (n : Nat) (c : Qp) : List Word :=
  [pack [(48, n), (36, c.stall), (34, c.quarter), (32, c.state), (20, c.lq), (15, c.log2sq), (10, c.log2cq), (9, b2n c.pfv), (0, c.ivec)],
   pack [(40, c.ring), (0, c.ringOff)], 0, pack [(48, c.icnt), (32, c.ibells), (24, inflight s n), (16, c.held.length)],
   word c.sqhead, word c.sqtail, word c.cqtail, word c.cqhead]

/-- Bytes from RINGOFF that the rings of a queue pair fill (R393). -/
def ringBytes (c : Qp) : Nat := 4096 + 2 ^ c.log2sq * 128 + 2 ^ c.log2cq * 128

/-- Is a key of a region ACTIVE and bound to a stall, with the read, write and atomic rights (R393). -/
def ringKey (g : Region) (stall : Nat) (key : Word) : Bool :=
  [g.slotA, g.slotB].any (fun k => k.state == 1 && k.key == key && k.stall == stall && k.rights == 7)

/-- Is the context that a QP_ASSIGN asks for in form. -/
def qpForm (c : Qp) : Bool :=
  decide (4 ≤ c.log2sq) && decide (c.log2sq ≤ 16) && decide (7 ≤ c.log2cq) && decide (c.log2cq ≤ 17) && (!c.pfv || c.stall == 0)
    && (c.ivec == 0x1FF || decide (c.ivec < (if c.pfv then 256 else 16)))

/-- Does a region take the ring of a context (R393). -/
def ringRegion (s : State) (c : Qp) (g : Region) : Bool :=
  g.valid && !g.dying && g.tier == 0 && g.mode == 0 && g.owner == 0 && g.version == 0 && !g.ecx && !g.sealed && homeDevice s g == s.dom.devid
    && g.homeq == c.quarter && ringKey g c.stall c.rkey && decide (c.ringOff * 4096 + ringBytes c ≤ g.bytes)

def cmdQpAssign (s v : State) (_c : Cmd) (e : CmdEntry) : CmdResult :=
  let n := fld (e.c 3) 63 48
  let c := qpOf s e
  if fld (e.c 3) 33 32 ≠ 0 || fld (e.c 4) 39 36 ≠ 0 || fld (e.c 6) 31 0 ≠ 0 || !zeroFrom e 7 || !qpForm c then bad 3
  else match v.qps.find? (fun x => x.2.state != 0 && (x.1 == n || (x.2.stall == c.stall && x.2.lq == c.lq))) with
    | some (m, q) => heldByQp v m q
    | none => match regionOf v c.ring with
      | some g => if ringRegion v c g then .commit s [.qpAssign n c] [] none else bad 4
      | none => bad 4

def cmdQpRead (s v : State) (c : Cmd) (e : CmdEntry) : CmdResult :=
  let n := fld (e.c 3) 15 0
  if !onlyBits (e.c 3) [(15, 0)] || !zeroFrom e 4 then bad 3
  else
    let q := Tab.getD v.qps n {}
    if !c.iss.operator && (q.state == 0 || q.stall != c.stall) then bad 2
    else reply s (qpWords s n (Tab.getD s.qps n {}))

/-- RELEASING is set at commit; an assignment not yet visible is followed by its release. -/
def cmdQpRelease (s v : State) (_c : Cmd) (e : CmdEntry) : CmdResult :=
  let n := fld (e.c 3) 15 0
  if !onlyBits (e.c 3) [(15, 0)] || !zeroFrom e 4 then bad 3
  else
    let st := (Tab.getD v.qps n {}).state
    if st = 0 ∨ st = 3 then bad 4
    else .commit { s with qps := Tab.adjust s.qps n (fun q => { q with state := 3 }) } [.qpRelease n] [] (some (.qp n))

def cmdThresherReturn (s _v : State) (_c : Cmd) (e : CmdEntry) : CmdResult :=
  if !onlyBits (e.c 3) [(12, 8), (1, 0)] || !zeroFrom e 4 then bad 3
  else .commit s [.thresherBack (fld (e.c 3) 1 0) (fld (e.c 3) 12 8)] [] none

end Sys2Proof.Machine
end

