-- ==== Sys2Proof/Machine/LocalAccess.lean ====
section
/-! DEFINITION. Reads and writes that an engine or a sequencer of this device makes at a home of this device within one command (R154; log 18). -/

namespace Sys2Proof.Machine

/-- The status that a home gives an access of the device itself under a key: its slot, not its stall, is looked at. -/
def localCheck (s : State) (h : Nat) (key : Word) (off n need : Nat) : Except (Nat × Word) Region :=
  match inService s h with
  | none => .error (NO_REGION, 0)
  | some g =>
    let slots := [g.slotA, g.slotB].filter (fun k => key != 0 && k.key == key && k.state != 0)
    match slots.find? (·.state == 1) with
    | none => .error (if slots.isEmpty then KEY_MISMATCH else KEY_REVOKED, 0)
    | some k =>
      if !covers k.rights need then .error (KEY_MISMATCH, 0)
      else if g.bytes < off + n then .error (OUT_OF_BOUNDS, 0)
      else if g.mode == 0 && !isParity s h && !ownerOk g need s.dom.devid 0 then .error (NOT_OWNER, ownerDetail g)
      else if g.fenced && decide (2 ≤ need) then .error (READ_ONLY, word s.dom.devid)
      else if deviceInReset s then .error (ABORTED_RESET, 4)
      else if quarterInReset s g.homeq then .error (ABORTED_RESET, 3)
      else .ok g

/-- Offsets of the lines that n bytes from an offset touch. -/
def touched (off n : Nat) : List Nat := (List.range ((off + n + 63) / 64 - off / 64)).map (fun i => (off / 64 + i) * 64)

/-- Why a line cannot be read, with the record: poison, or a port that is down. -/
def lineLost (s : State) (g : Region) (a : Nat) : Option (Nat × Word) :=
  match poisonOf s a with
  | some seq => some (POISONED, seq)
  | none => match lineNeed s g.sheaf g.homeq a with
    | .down seq => some (MEDIA_ERROR, seq)
    | _ => none

/-- The first line that cannot be read, with its status and record. -/
def badLine (s : State) (g : Region) (offs : List Nat) : Option (Nat × Word) :=
  offs.findSome? (fun o => match placeOf g o with
    | some a => lineLost s g a
    | none => some (OUT_OF_BOUNDS, 0))

/-- Does a request at the home that does more than read hold a line: what the device does there itself comes after it (R132, R154). -/
def lineHeld (s : State) (h off : Nat) : Bool :=
  s.home.reqs.any (fun r => r.lineNo != 0 && r.h.handle == h && !plainRead r.opc && !r.done.contains off && (reqLines s r).contains off)

/-- Lines of a region that an access of the device's own waits for: to be filled or rebuilt, copied by a drain, or let go by the requests
ahead of it (R154, R195, R213, R449). -/
def waitLines (s : State) (g : Region) (offs : List Nat) : List Nat :=
  offs.filter (fun o => lineHeld s g.handle o || (match placeOf g o with
    | some a => lineNeed s g.sheaf g.homeq a == .fill || ((lineLost s g a).isSome && canRebuild s g o) || chunkHeld s g.homeq a
    | none => false))

/-- Ask for what such lines lack. -/
def askLines (s : State) (g : Region) (offs : List Nat) : State :=
  each offs (fun o s => match placeOf g o with
    | some a =>
      if (lineLost s g a).isSome then (if canRebuild s g o then startRebuild s g o else s)
      else if lineNeed s g.sheaf g.homeq a == .fill then (startFill s g.homeq a false).2 else s
    | none => s) s

/-- Places that an access of the device's own needs: handle and offset of each line. -/
abbrev Needs := List (Nat × Nat)

/-- Of needs in stages, where what a stage names can be told once the one before is there: the lines of the first stage that lacks some. -/
def missingNeeds (s : State) (stages : List Needs) : Needs :=
  (stages.findSome? (fun l =>
    let m := l.filter (fun e => (regionOf s e.1).any (fun g => !(waitLines s g [e.2]).isEmpty))
    if m.isEmpty then none else some m)).getD []

/-- Ask for the lines that needs name. -/
def askNeeds (s : State) (l : Needs) : State := each l (fun e s => (regionOf s e.1).elim s (fun g => askLines s g [e.2])) s

/-- Lines read by the device itself pass through the line cache (R576). -/
def readThrough (s : State) (l : Needs) : State :=
  each l (fun e s => match regionOf s e.1 with
    | some g => (placeOf g e.2).elim s (fun a => touchLine s g.homeq a false (lineBytes s a) (keptLines s))
    | none => s) s

/-- Bytes of a region held here, whatever their state. -/
def regionBytes (s : State) (g : Region) (off n : Nat) : List Byte :=
  slice ((touched off n).flatMap (fun o => storedLine s g o)) (off % 64) n

/-- Read n bytes of a region under a key. -/
def peek (s : State) (h : Nat) (key : Word) (off n : Nat) : Except (Nat × Word) (List Byte) :=
  match localCheck s h key off n 1 with
  | .error e => .error e
  | .ok g => match badLine s g (touched off n) with
    | some e => .error e
    | none => .ok (regionBytes s g off n)

/-- Write one line of a region held here; the parity stalks of a data stalk get its delta (R445). -/
def pokeLine (s : State) (g : Region) (off : Nat) (new : List Byte) (whole : Bool) : State :=
  match placeOf g off with
  | none => s
  | some a =>
    let old := lineBytes s a
    let s := match sheafOf s g.handle with
      | some x =>
        let id := s.home.nextId
        let s := { s with home := { s.home with nextId := id + 1 } }
        each (deltaTargets x off) (fun n s => sendDelta s x id n off false (xorBytes old new)) s
      | none => s
    let s := if isTray a && (frameOf s g.homeq a).isNone then (allocFrame s g.homeq a).2 else s
    let s := markFrame (touchLine (dropHeld s g.handle off) g.homeq a true new (keptLines s)) g.homeq a true
    trackWrite (if whole then clearPoison s a else s) g.handle off

/-- Write bytes of a region held here. -/
def poke (s : State) (g : Region) (off : Nat) (d : List Byte) : State :=
  each (touched off d.length) (fun o s =>
    let lo := max o off
    let hi := min (o + 64) (off + d.length)
    pokeLine s g o (patch (storedLine s g o) (lo - o) (slice d (lo - off) (hi - lo))) (hi - lo == 64)) s

end Sys2Proof.Machine
end

