-- ==== Sys2Proof/Machine/IndexStore.lean ====
section
/-! DEFINITION. Where an index keeps what: its regions' areas, code pages, metadata, and changes to them (R322 to R326, R340, R341). -/

namespace Sys2Proof.Machine

/-! ### Sizes (Tables 12.1 to 12.5) -/

/-- Bytes of an element of a format: FP8 takes one, BF16 and FP16 two. -/
def eltBytes (fmt : Nat) : Nat := if fmt = 3 ∨ fmt = 4 then 1 else 2

def up64 (n : Nat) : Nat := ceilDiv n 64 * 64
def up4k (n : Nat) : Nat := ceilDiv n 4096 * 4096

def Index.cstride (x : Index) : Nat := up64 (x.dim * eltBytes x.cfmt)
def Index.sstride (x : Index) : Nat := up64 (x.dim / x.m * eltBytes x.cfmt)
def Index.vstride (x : Index) : Nat := up64 (x.dim * eltBytes x.qfmt)
def Index.gstride (x : Index) : Nat := x.gdeg * 4
def Index.isz (x : Index) : Nat := x.m + 4 + 2 * b2n x.term
def Index.ipp (x : Index) : Nat := 4032 / x.isz

/-- Offsets of the codebooks and of the list directory in the common region (R323). -/
def Index.bookOff (x : Index) : Nat := up4k (x.nlist * x.cstride)
def Index.dirOff (x : Index) : Nat := x.bookOff + up4k (256 * x.m * x.sstride)

/-- Offsets of the areas of a part region (R325). -/
def metaOff (p : IndexPart) : Nat := p.npage * 4096
def vecOff (p : IndexPart) : Nat := metaOff p + up4k (p.nslot * 32)
def edgeOff (x : Index) (p : IndexPart) : Nat := vecOff p + up4k (p.nslot * x.vstride)

/-- An index by number, and a part of it. -/
def indexAt (s : State) (n : Nat) : Option Index := s.idx.indexes.find? (fun x => x.number == n)
def partAt (x : Index) (p : Nat) : Option IndexPart := x.parts.find? (fun y => y.part == p)

/-- No page, no slot. -/
def noPage : Nat := 0xFFFFFFFF

/-! ### The index table (Tables 12.1 and 12.2) -/

/-- Is a query or centroid format one of the four. -/
def vectorFmt (f : Nat) : Bool := decide (1 ≤ f) && decide (f ≤ 4)

/-- The index that a header and shard entries describe at a device; none where they break their tables. -/
def indexOf (hdr shards : List Byte) (dev : Nat) : Option Index :=
  let i0 := wordAt hdr 0
  let i1 := wordAt hdr 8
  let i2 := wordAt hdr 16
  let n := fld i0 31 24
  let es := (List.range n).map (fun r => wordAt shards (8 * r))
  let devs := es.map (fun v => fld v 63 58)
  let m := fld i0 23 16
  let dim := fld i1 43 32
  let gdeg := fld i1 31 24
  let ok := fld i0 63 48 == 0x5E01 && decide (1 ≤ n) && decide (n ≤ 64) && decide (8 ≤ m) && decide (m ≤ 64) && m % 8 == 0
    && vectorFmt (fld i0 15 12) && vectorFmt (fld i0 11 8) && fld i0 5 0 == 0 && decide (8 ≤ dim) && dim % max m 1 == 0
    && (if bit i0 6 then [16, 32, 48, 64].contains gdeg else gdeg == 0) && fld i1 23 0 == 0 && fld i2 43 0 == 0
    && allZero (slice hdr 24 40) && es.zipIdx.all (fun (v, r) => bit v 51 && decide (fld v 57 52 ≤ r) && fld v 50 0 == 0)
    && devs.eraseDups.length == n
  match (if ok then devs.findIdx? (· == dev) else none) with
  | none => none
  | some rank =>
    some { number := fld i0 47 32, rank := rank, nshard := n, m := m, qfmt := fld i0 15 12, cfmt := fld i0 11 8, term := bit i0 7, graph := bit i0 6
           nlist := fld i1 63 44 + 1, dim := dim, gdeg := gdeg, comp := fld i2 63 44, shards := es.map (fun v => (fld v 63 58, fld v 57 52)) }

/-- May a region serve an index (R322). -/
def indexRegion (x : Index) (g : Region) : Bool := g.mode == 0 && !g.ecx && !g.sealed && g.comp == x.comp

/-! ### Reading pages, entries and metadata -/

/-- Read bytes of a region of the index as they stand; zero where they cannot be read. -/
def indexBytes (s : State) (h : Nat) (key : Word) (off n : Nat) : List Byte :=
  match peek s h key off n with
  | .ok d => d
  | .error _ => List.replicate n 0

/-- A list's directory words L0 and L1 (Table 12.3). -/
def dirWords (s : State) (x : Index) (list : Nat) : Word × Word :=
  let d := indexBytes s x.common x.commonKey (x.dirOff + 16 * list) 16
  (wordAt d 0, wordAt d 8)

/-- Header words H0 and H1 of a code page (Table 12.4). -/
def pageHead (s : State) (p : IndexPart) (page : Nat) : Word × Word :=
  let d := indexBytes s p.handle p.key (page * 4096) 16
  (wordAt d 0, wordAt d 8)

/-- Metadata words E0, E1 and E2 of a slot (Table 12.5). -/
def slotMeta (s : State) (p : IndexPart) (slot : Nat) : Word × Word × Word :=
  let d := indexBytes s p.handle p.key (metaOff p + 32 * slot) 24
  (wordAt d 0, wordAt d 8, wordAt d 16)

/-- Metadata of a slot number with its part. -/
def itemMeta (s : State) (x : Index) (slot : Nat) : Word × Word × Word :=
  match partAt x (slot / 2 ^ 30) with
  | some p => slotMeta s p (slot % 2 ^ 30)
  | none => (0, 0, 0)

def insep (w : Word) : Nat := fld w 63 32
def delep (w : Word) : Nat := fld w 31 0

/-- Is an item visible at an epoch (R339): its word E1. -/
def visibleAt (w : Word) (e : Nat) : Bool := decide (1 ≤ insep w) && decide (insep w ≤ e) && (delep w == 0 || decide (e < delep w))

/-- Pages of a slice from its first page on. A page whose header cannot be read is the last one found (log 155). -/
def chain (s : State) (p : IndexPart) : Nat → Nat → List Nat
  | 0, _ => []
  | n + 1, page =>
    if p.npage ≤ page then []
    else if !(missingNeeds s [[(p.handle, page * 4096)]]).isEmpty then [page]
    else match peek s p.handle p.key (page * 4096) 8 with
      | .ok d => page :: chain s p n (fld (wordAt d 0) 63 32)
      | .error _ => [page]

/-- Pages of a list's slice, from its directory word L0. -/
def slicePages (s : State) (p : IndexPart) (l0 : Word) : List Nat := chain s p p.npage (fld l0 63 32)

/-- Bytes of item i of a page: its codes, slot and term. -/
def itemAt (s : State) (x : Index) (p : IndexPart) (page i : Nat) : List Byte :=
  indexBytes s p.handle p.key (page * 4096 + 64 + i * x.isz) x.isz

/-- Slot of an item. -/
def itemSlot (x : Index) (d : List Byte) : Nat := natAt d x.m 4

/-- Lists whose slice lies in a part. -/
def listsOf (s : State) (x : Index) (part : Nat) : List Nat := (List.range x.nlist).filter (fun l => fld (dirWords s x l).2 1 0 == part)

/-- Pages of a part in no slice and held for no query. -/
def freePages (s : State) (x : Index) (p : IndexPart) : List Nat :=
  let used := (listsOf s x p.part).flatMap (fun l => slicePages s p (dirWords s x l).1)
  (List.range p.npage).filter (fun n => !used.contains n && !p.oldPages.contains n)

/-! ### What an operation on an index needs in HBM (R154, R195; log 18) -/

/-- Lines of a byte range of a region. -/
def bytesNeeds (h off n : Nat) : Needs := (touched off n).map (fun o => (h, o))

/-- Directory entries of lists. -/
def dirNeeds (x : Index) (lists : List Nat) : Needs := lists.flatMap (fun l => bytesNeeds x.common (x.dirOff + 16 * l) 16)

/-- Header lines of pages, and whole pages. -/
def headNeeds (p : IndexPart) (pages : List Nat) : Needs := pages.map (fun n => (p.handle, n * 4096))
def pageNeeds (p : IndexPart) (pages : List Nat) : Needs := pages.flatMap (fun n => bytesNeeds p.handle (n * 4096) 4096)

/-- Metadata, full vectors and edges of slots. -/
def slotNeeds (x : Index) (f : IndexPart → Nat → Needs) (slots : List Nat) : Needs :=
  slots.flatMap (fun n => (partAt x (n / 2 ^ 30)).elim [] (fun p => f p (n % 2 ^ 30)))
def metaNeeds (x : Index) (slots : List Nat) : Needs := slotNeeds x (fun p n => bytesNeeds p.handle (metaOff p + 32 * n) 32) slots
def vecNeeds (x : Index) (slots : List Nat) : Needs := slotNeeds x (fun p n => bytesNeeds p.handle (vecOff p + n * x.vstride) x.vstride) slots
def edgeNeeds (x : Index) (slots : List Nat) : Needs := slotNeeds x (fun p n => bytesNeeds p.handle (edgeOff x p + n * x.gstride) x.gstride) slots

/-! ### Writing -/

/-- Write bytes of a region by handle. -/
def pokeAt (s : State) (h off : Nat) (d : List Byte) : State :=
  match regionOf s h with
  | some g => poke s g off d
  | none => s

/-- Write a slot's metadata. -/
def putMeta (s : State) (p : IndexPart) (slot : Nat) (e0 e1 e2 : Word) : State :=
  pokeAt s p.handle (metaOff p + 32 * slot) (wordsBytes [e0, e1, e2, 0])

/-- Write a page's header words. -/
def putHead (s : State) (p : IndexPart) (page : Nat) (h0 h1 : Word) : State := pokeAt s p.handle (page * 4096) (wordsBytes [h0, h1])

/-- Write a list's directory entry. -/
def putDir (s : State) (x : Index) (list : Nat) (l0 l1 : Word) : State :=
  pokeAt s x.common (x.dirOff + 16 * list) (wordsBytes [l0, l1])

/-- INSMAX and DELMIN of a page from its items (Table 12.4). -/
def pageEpochs (s : State) (x : Index) (p : IndexPart) (page : Nat) : Word :=
  let n := fld (pageHead s p page).1 8 0
  let es := (List.range n).map (fun i => (itemMeta s x (itemSlot x (itemAt s x p page i))).2.1)
  let ins := es.foldl (fun m w => max m (insep w)) 0
  let del := es.foldl (fun m w => if delep w = 0 then m else min m (delep w)) noPage
  pack [(32, ins), (0, del)]

/-- Bring a page's INSMAX and DELMIN up to date. -/
def refreshPage (s : State) (x : Index) (p : IndexPart) (page : Nat) : State :=
  putHead s p page (pageHead s p page).1 (pageEpochs s x p page)

/-- Append an item's bytes to a list's slice in a part: into its last page, or into a new one linked behind it. The body is
written before the header (R336). Answers the page and position taken. -/
def appendItem (s : State) (x : Index) (p : IndexPart) (list : Nat) (item : List Byte) : Option ((Nat × Nat) × State) :=
  let (l0, l1) := dirWords s x list
  let last := fld l0 31 0
  let items := fld l1 63 32 + 1
  let count := if last = noPage then x.ipp else fld (pageHead s p last).1 8 0
  if count < x.ipp then
    let (h0, h1) := pageHead s p last
    let s := pokeAt s p.handle (last * 4096 + 64 + count * x.isz) item
    let s := putHead s p last (pack [(32, fld h0 63 32), (12, list), (0, count + 1)]) h1
    some ((last, count), putDir s x list l0 (pack [(32, items), (0, p.part)]))
  else match freePages s x p with
    | [] => none
    | page :: _ =>
      let s := pokeAt s p.handle (page * 4096 + 64) item
      let s := putHead s p page (pack [(32, noPage), (12, list), (0, 1)]) (word noPage)
      let s := if last = noPage then s
        else (let (h0, h1) := pageHead s p last; putHead s p last (pack [(32, page), (0, fld h0 31 0)]) h1)
      let first := if last = noPage then page else fld l0 63 32
      some ((page, 0), putDir s x list (pack [(32, first), (0, page)]) (pack [(32, items), (0, p.part)]))

/-! ### Batches (R340, Table 12.10) -/

/-- A batch record. -/
structure BatchRec where
  op : Nat := 0
  list : Nat := 0
  slot : Nat := 0
  ident : Word := 0
  term : Nat := 0
  codes : List Byte := []
  vec : List Byte := []
  edges : List Byte := []
  clean : Bool := true
deriving DecidableEq, Repr

/-- Read records one after the other; none where the data ends too soon or OP is reserved. -/
def readBatch (x : Index) : Nat → List Byte → Option (List BatchRec)
  | 0, _ => some []
  | n + 1, d =>
    let b0 := wordAt d 0
    let op := fld b0 63 62
    let body := if op = 0 then up64 x.m + x.vstride + x.gstride else if op = 2 then x.gstride else 0
    if op = 3 ∨ d.length < 64 + body then none
    else
      let vec := 64 + up64 x.m
      let edge := if op = 0 then vec + x.vstride else 64
      let r : BatchRec := {
        op := op, list := fld b0 61 42, slot := fld b0 31 0, ident := wordAt d 8, term := fld (wordAt d 16) 63 48
        codes := if op = 0 then slice d 64 x.m else [], vec := if op = 0 then slice d vec x.vstride else []
        edges := if op = 1 then [] else slice d edge x.gstride
        clean := fld b0 41 32 == 0 && fld (wordAt d 16) 47 0 == 0 && allZero (slice d 24 40) && (op == 0 || fld b0 61 42 == 0)
          && (op == 0 && x.term || fld (wordAt d 16) 63 48 == 0) && (op != 0 || allZero (slice d (64 + x.m) (up64 x.m - x.m))) && (op != 2 || x.graph) }
      (readBatch x n (d.drop (64 + body))).map (r :: ·)

/-- Is a record in range. -/
def recordInRange (x : Index) (r : BatchRec) : Bool :=
  r.clean && decide (r.list < x.nlist) && (match partAt x (r.slot / 2 ^ 30) with
    | some p => decide (r.slot % 2 ^ 30 < p.nslot)
    | none => false)

/-- Does the state of its slot reject a record (R340). -/
def recordRejected (s : State) (x : Index) (r : BatchRec) : Bool :=
  let (e0, e1, _) := itemMeta s x r.slot
  if r.op = 0 then insep e1 != 0
  else if r.op = 1 then e0 != r.ident || insep e1 == 0 || insep e1 == noPage || delep e1 != 0
  else insep e1 == 0

/-- The part that a record's page or slot lies in. -/
def recordPart (s : State) (x : Index) (r : BatchRec) : Nat := if r.op = 0 then fld (dirWords s x r.list).2 1 0 else r.slot / 2 ^ 30

/-- Write a record; none where its part has no free page. -/
def writeRecord (s : State) (x : Index) (r : BatchRec) : Option State :=
  match partAt x (r.slot / 2 ^ 30) with
  | none => some s
  | some p =>
    let slot := r.slot % 2 ^ 30
    let edges := fun (s : State) => if r.edges.isEmpty then s else pokeAt s p.handle (edgeOff x p + slot * x.gstride) r.edges
    if r.op = 1 then some s
    else if r.op = 2 then some (edges s)
    else match partAt x (recordPart s x r) with
      | none => some s
      | some lp =>
        let item := r.codes ++ natLe 4 r.slot ++ (if x.term then natLe 2 r.term else [])
        match appendItem s x lp r.list item with
        | none => none
        | some ((page, i), s) =>
          let s := putMeta s p slot r.ident (pack [(32, noPage)]) (pack [(32, page), (0, i)])
          let s := edges (pokeAt s p.handle (vecOff p + slot * x.vstride) r.vec)
          some (putHead s lp page (pageHead s lp page).1 (pack [(32, noPage), (0, delep (pageHead s lp page).2)]))

/-- Write every record of a batch. -/
def writeBatch (s : State) (x : Index) (rs : List BatchRec) : Option State :=
  rs.foldl (fun s r => s.bind (fun s => writeRecord s x r)) (some s)

/-! ### Commits (R341) -/

/-- Write an epoch into the metadata of a slot and refresh its page. -/
def stampSlot (s : State) (x : Index) (slot : Nat) (f : Word → Word) : State :=
  match partAt x (slot / 2 ^ 30) with
  | none => s
  | some p =>
    let (e0, e1, e2) := slotMeta s p (slot % 2 ^ 30)
    putMeta s p (slot % 2 ^ 30) e0 (f e1) e2

/-- The code page of a slot, with its part. -/
def pageOf (s : State) (x : Index) (slot : Nat) : Option (IndexPart × Nat) :=
  let page := fld (itemMeta s x slot).2.2 63 32
  x.parts.findSome? (fun p =>
    if p.part == slot / 2 ^ 30 || (List.range (fld (pageHead s p page).1 8 0)).any (fun i => itemSlot x (itemAt s x p page i) == slot) then
      (if (List.range (fld (pageHead s p page).1 8 0)).any (fun i => itemSlot x (itemAt s x p page i) == slot) then some (p, page) else none)
    else none)

/-- Slots of the items of pages. -/
def slotsIn (s : State) (x : Index) (p : IndexPart) (pages : List Nat) : List Nat :=
  pages.flatMap (fun n => (List.range (fld (pageHead s p n).1 8 0)).map (fun i => itemSlot x (itemAt s x p n i)))

/-- What a batch needs: the directory, the header of every page, the last page of each list it appends to with the pages it may take, and
what its records write. -/
def batchNeeds (s : State) (x : Index) (rs : List BatchRec) : List Needs :=
  let slots := rs.map (·.slot)
  let lasts := rs.flatMap (fun r => (x.parts.filter (fun p => p.part == recordPart s x r)).flatMap (fun p =>
    pageNeeds p ((if fld (dirWords s x r.list).1 31 0 = noPage then [] else [fld (dirWords s x r.list).1 31 0]) ++ (freePages s x p).take rs.length)))
  [dirNeeds x (List.range x.nlist), x.parts.flatMap (fun p => headNeeds p (List.range p.npage)), lasts ++ metaNeeds x slots ++ vecNeeds x slots ++ edgeNeeds x slots]

/-- What a commit needs: the metadata of its slots, their pages, and the metadata of those pages' items. -/
def commitNeeds (s : State) (x : Index) : List Needs :=
  let slots := x.stagedIns ++ x.stagedDel
  let pages := slots.flatMap (fun n => x.parts.map (fun p => (p, fld (itemMeta s x n).2.2 63 32)))
  [metaNeeds x slots, pages.flatMap (fun e => pageNeeds e.1 [e.2]), metaNeeds x (pages.flatMap (fun e => slotsIn s x e.1 [e.2]))]

/-- What a compaction needs: the directory, the pages of every slice of its part, the metadata of their items, and every edge. -/
def compactNeeds (s : State) (x : Index) (p : IndexPart) : List Needs :=
  let pages := (listsOf s x p.part).flatMap (fun l => slicePages s p (dirWords s x l).1)
  [ dirNeeds x (List.range x.nlist), headNeeds p (List.range p.npage), pageNeeds p (pages ++ freePages s x p), metaNeeds x (slotsIn s x p pages)
  , x.parts.flatMap (fun o => edgeNeeds x ((List.range o.nslot).map (fun t => 2 ^ 30 * o.part + t))) ]

/-- Write epoch E on the staged inserts and the recorded deletes. -/
def commitEpoch (s : State) (x : Index) (e : Nat) : State :=
  let s := each x.stagedIns (fun n s => stampSlot s x n (fun w => pack [(32, e), (0, delep w)])) s
  let s := each x.stagedDel (fun n s => stampSlot s x n (fun w => pack [(32, insep w), (0, e)])) s
  each (((x.stagedIns ++ x.stagedDel).filterMap (fun n => (pageOf s x n).map (fun q => (q.1.part, q.2)))).eraseDups) (fun q s =>
    match partAt x q.1 with
    | some p => refreshPage s x p q.2
    | none => s) s

/-! ### Compaction (R345) -/

/-- Can an item go: DELEP is not 0 and at most CEPOCH. -/
def removable (s : State) (x : Index) (cepoch slot : Nat) : Bool :=
  let d := delep (itemMeta s x slot).2.1
  d != 0 && decide (d ≤ cepoch)

/-- Slots of the items of a slice, in order, with their bytes. -/
def sliceItems (s : State) (x : Index) (p : IndexPart) (pages : List Nat) : List (List Byte) :=
  pages.flatMap (fun page => (List.range (fld (pageHead s p page).1 8 0)).map (fun i => itemAt s x p page i))

/-- The edges of a slot. -/
def edgesOf (s : State) (x : Index) (slot : Nat) : List Nat :=
  match partAt x (slot / 2 ^ 30) with
  | some p =>
    let d := indexBytes s p.handle p.key (edgeOff x p + slot % 2 ^ 30 * x.gstride) x.gstride
    (List.range x.gdeg).map (fun i => natAt d (4 * i) 4)
  | none => []

/-- An edge list with the edges to removable nodes replaced. -/
def mendEdges (s : State) (x : Index) (gone : Nat → Bool) (owner : Nat) (es : List Nat) : List Nat :=
  (List.range es.length).foldl (fun acc i =>
    let t := nth acc i
    if t = noPage || !gone t then acc
    else
      let new := ((edgesOf s x t).find? (fun r => r != noPage && !gone r && r != owner && !acc.contains r)).getD noPage
      modNth acc i (fun _ => new)) es

/-- Write the remaining items of a list into a new slice; the old pages stay for the queries that read them. -/
def rewriteList (s : State) (x : Index) (p : IndexPart) (gone : Nat → Bool) (list : Nat) : State :=
  let (l0, _) := dirWords s x list
  let keep := (sliceItems s x p (slicePages s p l0)).filter (fun d => !gone (itemSlot x d))
  let s := putDir s x list (pack [(32, noPage), (0, noPage)]) (word p.part)
  each keep (fun d s => match appendItem s x p list d with
    | some ((page, i), s) => match partAt x (itemSlot x d / 2 ^ 30) with
      | some q =>
        let (e0, e1, _) := slotMeta s q (itemSlot x d % 2 ^ 30)
        refreshPage (putMeta s q (itemSlot x d % 2 ^ 30) e0 e1 (pack [(32, page), (0, i)])) x p page
      | none => s
    | none => s) s

end Sys2Proof.Machine
end

