-- ==== Sys2Proof/Machine/CmdEngine.lean ====
section
/-! DEFINITION. Code table and index commands (Table 16.14). -/

namespace Sys2Proof.Machine

/-! ### Code tables (R225, R235 to R238) -/

def cmdTableLoad (s v : State) (_c : Cmd) (e : CmdEntry) (d : List Byte) : CmdResult :=
  let image := d.take 256
  if !zeroFrom e 3 || e.dlen ≠ 1 || !tableImageOk image then bad 3
  else
    let slots := (List.range 1024).map (fun n => (n, Tab.getD v.ecx.tables n {}))
    match slots.find? (fun x => x.2.state == 0 && decide (x.2.gen < 0xFFFFFFFF)) with
    | some (n, t) =>
      let gen := t.gen + 1
      let tdig := tableDigest image
      .commit s [.tableLive n { state := 1, gen := gen, image := image, tdig := tdig }] [pack [(32, gen), (0, n)], word tdig] none
    | none => match minBy (fun x => x.2.fence.toNat) (slots.filter (fun x => x.2.state == 2)) with
      | some (n, t) => held 7 0 0 t.fence (pack [(32, t.gen), (0, n)])
      | none => noRoom

def cmdTableRetire (s v : State) (_c : Cmd) (e : CmdEntry) : CmdResult :=
  let gen := fld (e.c 3) 63 32
  let n := fld (e.c 3) 9 0
  let t := Tab.getD v.ecx.tables n {}
  if !onlyBits (e.c 3) [(63, 32), (9, 0)] || !zeroFrom e 4 then bad 3
  else if t.gen ≠ gen ∨ t.state = 0 then bad 4
  else .commit s (if t.state = 1 then [.tableFence n] else []) [] (some (.table n gen))

/-! ### INDEX_LOAD and INDEX_PART (R322, R324, R325, R426) -/

/-- INDEX as HOBJ shows it. -/
def indexObj (n part : Nat) : Word := pack [(48, n), (0, part)]

/-- RESOURCE_HELD by a loaded index. -/
def heldByIndex (x : Index) : CmdResult := held 8 0 0 x.since (indexObj x.number 0)

def cmdIndexLoad (s v : State) (_c : Cmd) (e : CmdEntry) : CmdResult :=
  let w := e.c 3
  let c := e.c 5
  let sarrays := fld c 11 8
  let nparts := fld c 2 0
  if !onlyBits w [(63, 40), (35, 0)] || !onlyBits c [(63, 40), (11, 8), (2, 0)] || !zeroFrom e 7 || sarrays = 0 || 12 < sarrays || nparts = 0
      || 4 < nparts then bad 3
  else
    let off := fld w 35 0 * 4096
    match peek v e.handle (e.c 4) off 64 with
    | .error r => .refuse r.1 0 []
    | .ok hdr => match peek v e.handle (e.c 4) (off + 64) (8 * fld (wordAt hdr 0) 31 24) with
      | .error r => .refuse r.1 0 []
      | .ok shards => match indexOf hdr shards v.dom.devid, regionOf v e.handle, regionOf v (fld c 63 40) with
        | some x, some t, some g =>
          let x := { x with common := fld c 63 40, commonKey := e.c 6, sarrays := sarrays, nparts := nparts, since := s.time.bell }
          if !indexRegion x t || !indexRegion x g || 2 ^ 21 < 256 * x.m * x.sstride then bad 4
          else match indexAt v x.number with
            | some y => heldByIndex y
            | none => match (if 6 ≤ v.idx.indexes.length then v.idx.indexes.head? else none) with
              | some y => heldByIndex y
              | none => .commit s [.indexAdd x] [pack [(16, x.rank), (0, x.number)]] none
        | _, _, _ => bad 4

def cmdIndexPart (s v : State) (_c : Cmd) (e : CmdEntry) : CmdResult :=
  let n := fld (e.c 3) 63 48
  let part := fld (e.c 3) 1 0
  if !onlyBits (e.c 3) [(63, 48), (1, 0)] || !onlyBits (e.c 4) [(63, 40)] || !zeroFrom e 7 then bad 3
  else match indexAt v n, regionOf v (fld (e.c 4) 63 40) with
    | some x, some g =>
      if x.nparts ≤ part || (partAt x part).isSome || !indexRegion x g || x.parts.any (fun p => p.quarter == g.homeq) then bad 4
      else .commit s [.indexPart n { part := part, handle := g.handle, key := e.c 5, npage := fld (e.c 6) 63 32, nslot := fld (e.c 6) 31 0, quarter := g.homeq }] [] none
    | _, _ => bad 4

/-! ### Batches, commits, epochs, compaction, unloading (R340 to R346, R426) -/

/-- What an index command needs in HBM before it is decided: INDEX_LOAD the index table, INDEX_BATCH and INDEX_COMMIT what they read and
write (R154). -/
def indexCmdNeeds (s v : State) (opc : Nat) (e : CmdEntry) (d : List Byte) : List Needs :=
  let off := fld (e.c 3) 35 0 * 4096
  if opc = 0x52 then
    [bytesNeeds e.handle off 64, match peek v e.handle (e.c 4) off 64 with
      | .ok hdr => bytesNeeds e.handle (off + 64) (8 * fld (wordAt hdr 0) 31 24)
      | .error _ => []]
  else match (if opc = 0x54 ∨ opc = 0x55 then indexAt v (fld (e.c 3) 63 48) else none) with
    | some x =>
      if !x.loaded then []
      else if opc = 0x55 then commitNeeds s x
      else (readBatch x (fld (e.c 3) 31 0) d).elim [] (batchNeeds s x)
    | none => []

/-- RESOURCE_HELD by the compaction of a part. -/
def heldByCompact (x : Index) (p : IndexPart) : CmdResult :=
  held 9 0 0 (match p.compacting with | some c => c.2 | none => 0) (indexObj x.number p.part)

def cmdIndexBatch (s v : State) (_c : Cmd) (e : CmdEntry) (d : List Byte) : CmdResult :=
  let n := fld (e.c 3) 63 48
  if !onlyBits (e.c 3) [(63, 48), (31, 0)] || !zeroFrom e 4 then bad 3
  else match indexAt v n with
    | none => bad 4
    | some x =>
      let nrec := fld (e.c 3) 31 0
      match (if !x.loaded then none else if d.length < 64 * nrec then some none else some (readBatch x nrec d)) with
      | none => bad 4
      | some none => bad 3
      | some (some rs) =>
        let slots := rs.map (·.slot)
        if !rs.all (recordInRange x) then bad 3
        else match x.parts.find? (fun p => p.compacting.isSome && rs.any (fun r => recordPart s x r == p.part || r.slot / 2 ^ 30 == p.part)) with
          | some p => heldByCompact x p
          | none =>
            if slots.eraseDups.length ≠ slots.length || rs.any (recordRejected s x) then bad 4
            else match writeBatch s x rs with
              | none => noRoom
              | some s =>
                .commit s [.batch n ((rs.filter (fun r => r.op == 0)).map (·.slot)) ((rs.filter (fun r => r.op == 1)).map (·.slot))] []
                  (some (.batch n))

def cmdIndexCommit (s v : State) (_c : Cmd) (e : CmdEntry) : CmdResult :=
  let n := fld (e.c 3) 63 48
  let epoch := fld (e.c 4) 31 0
  if !onlyBits (e.c 3) [(63, 48)] || !onlyBits (e.c 4) [(31, 0)] || !zeroFrom e 5 then bad 3
  else match indexAt v n with
    | some x => if x.loaded && epoch == x.epoch + 1 then .commit (commitEpoch s x epoch) [.indexEpoch n epoch] [] (some (.commit n epoch)) else bad 4
    | none => bad 4

def cmdIndexQepoch (s v : State) (_c : Cmd) (e : CmdEntry) : CmdResult :=
  let n := fld (e.c 3) 63 48
  let epoch := fld (e.c 4) 31 0
  if !onlyBits (e.c 3) [(63, 48)] || !onlyBits (e.c 4) [(31, 0)] || !zeroFrom e 5 then bad 3
  else match indexAt v n with
    | some x => if x.loaded && decide (x.qepoch ≤ epoch) && decide (epoch ≤ x.epoch) then .commit s [.indexQepoch n epoch] [] none else bad 4
    | none => bad 4

def cmdIndexCompact (s v : State) (_c : Cmd) (e : CmdEntry) : CmdResult :=
  let n := fld (e.c 3) 63 48
  let part := fld (e.c 3) 1 0
  let cepoch := fld (e.c 4) 31 0
  if !onlyBits (e.c 3) [(63, 48), (1, 0)] || !onlyBits (e.c 4) [(31, 0)] || !zeroFrom e 5 then bad 3
  else match (indexAt v n).bind (fun x => (partAt x part).map (fun p => (x, p))) with
    | some (x, p) =>
      if !x.loaded || cepoch < x.floor then bad 4
      else if p.compacting.isSome then heldByCompact x p
      else .commit s [.compact n part cepoch] [] (some (.compact n part))
    | none => bad 4

def cmdIndexUnload (s v : State) (_c : Cmd) (e : CmdEntry) : CmdResult :=
  let n := fld (e.c 3) 63 48
  if !onlyBits (e.c 3) [(63, 48)] || !zeroFrom e 4 then bad 3
  else match indexAt v n with
    | some x =>
      if x.dropped then bad 4
      else match x.parts.find? (fun p => p.compacting.isSome) with
      | some p => heldByCompact x p
      | none => .commit s [.indexDrop n] [] (some (.unload n []))
    | none => bad 4

end Sys2Proof.Machine
end

