-- ==== Sys2Proof/Machine/Registers.lean ====
section
/-! DEFINITION. BAR0 of a function: what its registers read, what writes do, the ledger window (Tables 2.2 to 2.4, 15.1 to 15.3, 16.2 to 16.4, 20.5). -/

namespace Sys2Proof.Machine

/-- Registers of a function. -/
def funcOf (s : State) (fn : Nat) : FuncS := Tab.getD s.funcs fn {}

/-- Change the registers of a function. -/
def updFunc (s : State) (fn : Nat) (f : FuncS → FuncS) : State := { s with funcs := Tab.upd s.funcs fn {} f }

/-! ### ALERT_N and DEV_STAT -/

/-- ALERT_N, active low: asserted by a thermal alarm and by the ledger-full alarm (Table 1.7). -/
def alert (s : State) : State := { s with pwr := { s.pwr with alertN := s.pwr.alarm.isEmpty && !s.led.full } }

/-- Quarters as a mask. -/
def quarterMask (p : Nat → Bool) : Nat := [0, 1, 2, 3].foldl (fun m q => if p q then m + 2 ^ q else m) 0

/-- Is a thresher of a quarter out of service (R262, R463). -/
def thresherOut (s : State) (q : Nat) : Bool :=
  s.eng.out.any (fun n => n / 32 == q) || s.eng.failed.any (fun f => f.1 == q && f.2.1 == .thresher)

/-- DEV_STAT (Table 15.3). -/
def devStat (s : State) : Nat :=
  2 ^ 16 * quarterMask (quarterInReset s) + quarterMask (thresherOut s) * 2 ^ 12 + quarterMask (fun q => s.tier.held.any (·.1 == q)) * 2 ^ 8
    + b2n (!s.pwr.alarm.isEmpty) * 2 ^ 7 + b2n s.led.full * 2 ^ 6 + b2n s.dom.fenced * 2 ^ 5 + b2n s.dom.leaseOk * 2 ^ 4 + b2n s.pkg.ready

/-! ### The ledger window (R517, R518, R471) -/

/-- Is a SOURCE one of the rings of Table 20.4. -/
def isRing (source : Nat) : Bool := decide (source < 4) || (decide (0x10 ≤ source) && decide (source < 0x14))

/-- A record of a ring by its count, in SRAM or in the journal. -/
def ringRec (s : State) (source count : Nat) : Option Rec :=
  ((Tab.getD s.led.rings source {}).recs.find? (·.count == count)).orElse (fun _ => (s.led.journalOf source).find? (·.count == count))

/-- Is a ring's oldest record anywhere. -/
def ringOldest (s : State) (source : Nat) : Nat :=
  let g := Tab.getD s.led.rings source {}
  (g.recs ++ s.led.journalOf source).foldl (fun m r => min m r.count) g.next

/-- The newest dump that a SOURCE of 0x100 to 0x104 shows. -/
def dumpOf (s : State) (source : Nat) : Option Dump :=
  if source = 0x104 then s.rst.flashDumps.head? else (s.rst.dumps.find? (fun e => e.1 == source - 0x100)).map (·.2)

/-- Words D0 to D7 of a dump header (Table 18.4). -/
def dumpWords (d : Dump) : List Word :=
  let ws := [word d.dseq, d.bell, d.tai, pack [(56, d.level), (48, d.cause), (40, d.ukind), (24, d.unit), (20, d.qmask)],
    pack [(32, d.len), (4, b2n d.discard), (3, b2n d.orderly), (2, b2n d.trunc), (1, b2n d.inflash), (0, b2n d.dirsaved)], pack [(32, d.fwver)], 0]
  ws ++ [word (crc32c (wordsBytes ws)).toNat]

/-- Is a SOURCE shown to a function: dumps only to the PF. -/
def sourceShown (fn source : Nat) : Bool := isRing source || (fn == 0 && decide (0x100 ≤ source) && decide (source ≤ 0x104))

/-- The 64 bytes of a window slot. -/
def windowSlot (s : State) (fn slot : Nat) : List Byte :=
  let sel := (funcOf s fn).lwSel
  let source := fld sel 8 0
  let count := 512 * fld sel 59 13 + slot
  let blank := List.replicate 64 0
  if !sourceShown fn source then blank
  else if isRing source then
    match ringRec s source count with
    | some r => if fn = 0 || r.stall == fnStall fn then recBytes source r else recHidden source r
    | none => blank
  else match dumpOf s source with
    | some d => if count = 0 then wordsBytes (dumpWords d)
      else if count < d.len then wordsBytes ((List.range 8).map (fun i => Config.dumpWord d.dseq count i)) else blank
    | none => blank

/-- LW_HEAD and LW_TAIL. -/
def windowEnds (s : State) (fn : Nat) : Word × Word :=
  let source := fld (funcOf s fn).lwSel 8 0
  if !sourceShown fn source then (0, 0)
  else if isRing source then
    (seqWord source (ringOldest s source), seqWord source (Tab.getD s.led.rings source {}).next)
  else match dumpOf s source with
    | some d => (0, word d.len)
    | none => (0, 0)

/-! ### Reading -/

/-- Word Ci of MB_CMD as it is read: its reserved bits read zero (R7), and of the parameters those that no field of its command holds. -/
def commandWord (cmd : List Word) (i : Nat) : Word :=
  let w := fun (i : Nat) => (cmd[i]?).getD 0
  if i = 0 ∨ i = 2 then w i
  else if i = 1 then fieldBits (w 1) [(63, 40), (35, 0)]
  else fieldBits (w i) (((paramFields (fld (w 0) 63 56) (w 3))[i - 3]?).getD [])

/-- The mailbox block's word at an offset in it (Tables 16.2 to 16.4). -/
def mailboxWord (s : State) (fn off : Nat) : Word :=
  let f := funcOf s fn
  if off = 0 then pack [(9, f.ivec)]
  else if off = 8 then pack [(40, f.fifo.length), (32, mbOut s fn), (1, b2n f.overrun), (0, b2n (!f.fifo.isEmpty))]
  else if off < 0x80 then commandWord f.cmd ((off - 0x10) / 8)
  else ((f.fifo.head?.getD [])[(off - 0x80) / 8]?).getD 0

/-- RCV_STAT (Table 22.9). -/
def rcvStat (s : State) : Nat := 2 ^ 16 * s.pkg.rcvProgress + s.pkg.rcvFail * 16 + s.pkg.rcvState

/-- The recovery block that stands in place of the mailbox block while the boot ROM recovers (R566, Table 22.8). -/
def recoveryWord (s : State) (off : Nat) : Word :=
  if off = 8 then s.pkg.rcvAddr else if off = 0x10 then pack [(32, rcvStat s), (0, s.pkg.rcvLen)] else 0

/-- BOOT_STAT (Table 22.4). -/
def bootStat (s : State) : Nat :=
  s.pkg.flash.pcyc * 2 ^ 12 + b2n s.pkg.halted * 2 ^ 11 + b2n s.pkg.recovery * 2 ^ 10 + b2n s.pkg.resetLow * 2 ^ 9 + s.pkg.failChk * 16 + s.pkg.phase

/-- The eight bytes of BAR0 at a multiple of 8 (Table 15.1). In recovery the PF alone is presented, with ID_CODE, ID_SERIAL,
DEV_STAT and the recovery block (R566). -/
def barWord (s : State) (fn off : Nat) : Word :=
  let f := funcOf s fn
  if s.pkg.recovery then
    if fn ≠ 0 then 0
    else if 0x400 ≤ off ∧ off < 0x500 then recoveryWord s (off - 0x400)
    else if off = 0 then word (leNat (ascii "GU40-1A"))
    else if off = 0x10 then Config.serial
    else if off = 0x200 then word (devStat s)
    else 0
  else if 0x400 ≤ off ∧ off < 0x500 then mailboxWord s fn (off - 0x400)
  else if 0x8000 ≤ off ∧ off < 0x10000 then wordAt (windowSlot s fn ((off - 0x8000) / 64)) (off % 64)
  else match off with
    | 0x000 => word (leNat (ascii "GU40-1A"))
    | 0x008 => pack [(32, s.sec.running.version), (0, Config.stepping.toNat)]
    | 0x010 => Config.serial
    | 0x018 => pack [(19, b2n s.dom.dvalid), (13, s.dom.devid), (12, b2n (fn == 0)), (0, fnStall fn)]
    | 0x100 => pack [(32, timeStat s f.phaseSnap)]
    | 0x108 => f.bellSnap
    | 0x110 => f.taiSnap
    | 0x118 => s.time.bellStrike
    | 0x120 => s.time.taiStrike
    | 0x200 => word (devStat s)
    | 0x300 => f.lwSel
    | 0x308 => (windowEnds s fn).1
    | 0x310 => (windowEnds s fn).2
    | _ => 0

/-- A read of 4 or 8 bytes. -/
def barRead (s : State) (fn off size : Nat) : Word :=
  let w := barWord s fn (off / 8 * 8)
  if size = 8 then w else word (if off % 8 = 0 then fld w 31 0 else fld w 63 32)

/-! ### Writing (Table 0.4) -/

/-- What a write puts where: the bits of the eight bytes written, zero elsewhere, and which bits are written. -/
def writeBits (off size : Nat) (value : Word) : Word × Word :=
  if size = 8 then (value, ~~~ 0) else if off % 8 = 0 then (word (fld value 31 0), word 0xFFFFFFFF) else (value <<< 32, word 0xFFFFFFFF <<< 32)

/-- The new value of a word where only some bits are written. -/
def merged (old : Word) (w : Word × Word) : Word := (old &&& ~~~ w.2) ||| (w.1 &&& w.2)

/-- SNAP (R51). -/
def snapNow (s : State) (fn : Nat) : State :=
  updFunc s fn (fun f => { f with bellSnap := s.time.bell, taiSnap := stampAt s.time, phaseSnap := s.time.phase })

/-- A write to LW_SEL: PAGE and SOURCE (Table 20.5). -/
def writeLwSel (s : State) (fn off size : Nat) (value : Word) : State :=
  updFunc s fn (fun f =>
    let w := merged f.lwSel (writeBits off size value)
    { f with lwSel := pack [(13, fld w 59 13), (0, fld w 8 0)] })

/-- MSI-X vectors of a function (R391). -/
def msixVectors (fn : Nat) : Nat := if fn = 0 then 256 else 16

/-- Eight bytes of BAR2: the MSI-X table from 0, 16 bytes a vector, and the pending bits from 0x1000 (R391; the places are PRESUMED,
log 151). -/
def bar2Word (s : State) (fn off : Nat) : Word :=
  let f := funcOf s fn
  let e := Tab.getD f.msix (off / 16) {}
  if off < 16 * msixVectors fn then (if off % 16 = 0 then e.addr else pack [(32, b2n e.masked), (0, e.data)])
  else if 0x1000 ≤ off ∧ off < 0x1000 + msixVectors fn / 8 then
    pack ((f.msixPending.filter (fun v => v / 64 == (off - 0x1000) / 8)).map (fun v => (v % 64, 1)))
  else 0

/-- A write to an entry of the MSI-X table. A vector unmasked with its pending bit set sends its message (R405). -/
def FuncS.msixWrite (f : FuncS) (module rid off : Nat) (w : Word × Word) : FuncS :=
  let v := off / 16
  let e := Tab.getD f.msix v {}
  let e := if off % 16 / 8 = 0 then { e with addr := merged e.addr w &&& 0xFFFFFFFFFFFFFFFC#64 }
    else let d := merged (pack [(32, b2n e.masked), (0, e.data)]) w
         { e with data := fld d 31 0, masked := bit d 32 }
  let f := { f with msix := Tab.set f.msix v e }
  if !e.masked && f.msixPending.contains v then { f with msixPending := f.msixPending.filter (· != v), irqs := (v, module, rid) :: f.irqs } else f

/-- A write to a register without behaviour of its own: IVEC, OVERRUN, MB_CMD and STEPPED (R9, R53). A W1C bit that the device sets in
the SCLK of the write stays set (R10). An offset from 0x20000 on
is BAR2's (log 151). -/
def plainWrite (s : State) (fn off size : Nat) (value : Word) : State :=
  let at8 := off / 8 * 8
  let w := writeBits off size value
  if s.pkg.recovery then
    if fn ≠ 0 then s
    else if at8 = 0x408 then { s with pkg := { s.pkg with rcvAddr := merged s.pkg.rcvAddr w } }
    else if at8 = 0x410 then { s with pkg := { s.pkg with rcvLen := fld (merged (word s.pkg.rcvLen) w) 31 0 } }
    else s
  else if at8 = 0x400 then updFunc s fn (fun f => { f with ivec := fld (merged (pack [(9, f.ivec)]) w) 17 9 })
  else if at8 = 0x408 then (if bit w.1 1 then updFunc s fn (fun f => { f with overrun := f.overrun && f.overrunAt == now s }) else s)
  else if 0x410 ≤ at8 ∧ at8 < 0x480 then
    let i := (at8 - 0x410) / 8
    updFunc s fn (fun f => { f with cmd := modNth (f.cmd ++ List.replicate (14 - f.cmd.length) 0) i (fun old => merged old w) })
  else if at8 = 0x100 then (if fn = 0 && bit w.1 37 then { s with time := { s.time with stepped := s.time.stepped && s.time.steppedAt == now s } } else s)
  else if 0x20000 ≤ at8 ∧ at8 < 0x20000 + 16 * msixVectors fn then updFunc s fn (fun f => f.msixWrite s.fab.front (s.fab.sriov.routingId fn) (at8 - 0x20000) w)
  else s

/-- A write of any kind through the PF's BAR0 (R428). -/
def barWrite (s : State) (off size : Nat) (value : Word) : State :=
  let at8 := off / 8 * 8
  if at8 = 0x300 then writeLwSel s 0 off size value
  else
    let s := plainWrite s 0 off size value
    if at8 = 0x100 && bit (writeBits off size value).1 0 then snapNow s 0 else s

/-! ### The commands -/

def execSnap (fn : Nat) (s : State) : Host.Outcome State Fault Refusal := done s (snapNow s fn)

def execLwSel (fn offset size : Nat) (value : Word) (s : State) : Host.Outcome State Fault Refusal := done s (writeLwSel s fn offset size value)

def execRegisterWrite (fn offset size : Nat) (value : Word) (s : State) : Host.Outcome State Fault Refusal := done s (plainWrite s fn offset size value)

/-- Has the PF read every record of an audit segment. -/
def segmentRead (marks : List Nat) (n : Nat) : Bool := (List.range 4096).all (fun i => marks.contains (4096 * n + i))

/-- MARK words of audit records that the PF reads through the window (R524). -/
def readMarks (s : State) (fn : Nat) (slots : List Nat) : State :=
  let sel := (funcOf s fn).lwSel
  if fn ≠ 0 ∨ fld sel 8 0 ≠ 0x10 then s
  else
    let counts := (slots.map (fun i => 512 * fld sel 59 13 + i)).filter (fun n => decide (n < (Tab.getD s.led.rings 0x10 {}).next))
    let marks := counts.foldl addOnce s.led.marksRead
    let left := s.led.uncollected.filter (fun n => !segmentRead marks n)
    let gone := s.led.uncollected.filter (segmentRead marks)
    let s := { s with led := { s.led with uncollected := left, marksRead := marks.filter (fun n => !gone.contains (n / 4096)) } }
    if s.led.full && decide (left.length ≤ 48) then
      let s := { s with led := { s.led with full := false } }
      alert (record s { code := 0x1703, kind := 0x0F, p0 := word (since s s.led.fullSince) })
    else s

def execLedgerWindowRead (fn : Nat) (slots : List Nat) (s : State) : Host.Outcome State Fault Refusal := done s (readMarks s fn slots)

/-- POP removes the response shown (Table 16.3). -/
def popResponse (s : State) (fn : Nat) : State := updFunc s fn (fun f => { f with fifo := f.fifo.drop 1 })

def execPop (fn : Nat) (s : State) : Host.Outcome State Fault Refusal := done s (popResponse s fn)

end Sys2Proof.Machine
end

