-- ==== Sys2Proof/Machine/CmdSecurity.lean ====
section
/-! DEFINITION. Evidence, and the sealing, attestation, firmware and key commands (Table 16.15). -/

namespace Sys2Proof.Machine

/-! ### Evidence and chains (R484, R485, Tables 19.2 and 19.3) -/

/-- The device's measurements M0 to M3 (R484). -/
def measurements (s : State) : List (List Byte) :=
  let zero := List.replicate 32 0
  [Config.bootRomDigest, s.pkg.flash.image.digest,
   match s.sec.staged with | some i => i.digest | none => zero,
   Config.shake256 (natLe 4 s.sec.running.version ++ natLe 4 s.sec.running.svn ++ natLe 4 s.sec.aliasGen ++ natLe 2 s.dom.devid ++ natLe 2 s.dom.domain) 32]

/-- The device's evidence over a nonce. -/
def evidence (s : State) (nonce : List Byte) : List Byte :=
  let head := natLe 2 0xFE01 ++ [1] ++ List.replicate 5 0 ++ wordBytes Config.serial ++ padTo 32 nonce ++ wordBytes s.time.bell
    ++ wordBytes (stampAt s.time) ++ (measurements s).flatMap (padTo 32)
    ++ wordBytes (pack [(1, b2n s.time.valid), (0, b2n s.sec.roll.isSome)]) ++ List.replicate 56 0
  head ++ padTo 3328 ((Config.mldsaSign s.sec.aliasGen head).take 3309)

/-- A certificate as sent. -/
def cert (d : List Byte) : List Byte := (padTo 6912 d).take 6912

/-- The device's certificate chain. -/
def deviceChain (s : State) : List Byte := cert (Config.deviceCert 0) ++ cert (Config.deviceCert 1) ++ cert (Config.aliasCert s.sec.aliasGen)

/-- Which trust core serves (R21). -/
def trustQuarter (s : State) : Nat := if s.rst.standby then 2 else 0

/-- A record of the trust cores. -/
def trustRecord (s : State) (code stall principal : Nat) (p0 p1 p2 p3 : Word) : State :=
  record s { code := code, quarter := trustQuarter s, kind := 0x0D, stall := stall, principal := principal, p0 := p0, p1 := p1, p2 := p2, p3 := p3 }

/-! ### SEAL_INSTALL and SEAL_REMOVE (R427, R487, R488) -/

/-- Bytes of a bundle before its signature. -/
def bundleBody (d : List Byte) : Nat := 0x800 + 1792 * natAt d 2 1 + 256 * natAt d 3 1

/-- Is a bundle in form (Table 19.4). -/
def bundleForm (d : List Byte) : Bool :=
  let n := natAt d 2 1
  let r := natAt d 3 1
  natAt d 0 2 == 0xB501 && decide (1 ≤ n) && decide (n ≤ 64) && decide (1 ≤ r) && decide (r ≤ 32) && allZero (slice d 15 49)
    && allZero (slice d 0x7E0 32) && decide (bundleBody d + 3328 ≤ d.length)
    && (List.range n).all (fun i => allZero (slice d (0x800 + 1792 * i + 0x670) 144))
    && (List.range r).all (fun j =>
      let o := 0x800 + 1792 * n + 256 * j
      decide (natAt d o 1 < 16) && allZero (slice d (o + 1) 7) && allZero (slice d (o + 0x28) 24) && allZero (slice d (o + 0xC0) 64))

/-- Rules of a bundle: RFLAGS, ISSUER, M0 to M3. -/
def bundleRules (d : List Byte) : List (Nat × List Byte × List (List Byte)) :=
  (List.range (natAt d 3 1)).map (fun j =>
    let o := 0x800 + 1792 * natAt d 2 1 + 256 * j
    (natAt d o 1, slice d (o + 8) 32, (List.range 4).map (fun i => slice d (o + 0x40 + 32 * i) 32)))

/-- Digest of an owner's key. -/
def ownerDigest (d : List Byte) : List Byte := Config.shake256 (slice d 0x40 1952) 32

/-- Unwrap a bundle's content key with entry i (R487). -/
def unwrapKey (d : List Byte) (i : Nat) : Option (List Byte) :=
  let o := 0x800 + 1792 * i
  let ss := Config.kemDecaps 0 (slice d (o + 0x20) 1568)
  let kek := (Config.shake256 (ss ++ slice d 4 4 ++ slice d o 32 ++ ascii "garern-seal-v1") 32)
  Config.gcmOpen kek (List.replicate 12 0) (slice d 0 64) (slice d (o + 0x640) 32) (slice d (o + 0x660) 16)

def cmdSealInstall (s v : State) (c : Cmd) (e : CmdEntry) (d : List Byte) : CmdResult :=
  if !onlyBits (e.c 3) [(63, 40)] || !zeroFrom e 4 || !bundleForm d then bad 3
  else match regionOf v e.handle with
    | none => bad 4
    | some g =>
      if stallComp v c.stall != some g.comp then bad 2
      else if !g.sealed then bad 4
      else if !Config.mldsaVerify (slice d 0x40 1952) (d.take (bundleBody d)) (slice d (bundleBody d) 3309) then .refuse BAD_SIGNATURE 0 []
      else match (List.range (natAt d 2 1)).find? (fun i => slice d (0x800 + 1792 * i) 32 == Config.shake256 Config.sealingPublic 32) with
        | none => bad 4
        | some i =>
          let old := Tab.get? v.sec.content e.handle
          if old.isNone && decide (1024 ≤ v.sec.content.length) then noRoom
          else if old.any (fun k => k.owner != ownerDigest d) then bad 4
          else match unwrapKey d i with
            | none => .refuse BAD_SIGNATURE 0 []
            | some key =>
              let ckid := natAt d 4 4
              let s := trustRecord s 0x1501 c.stall c.principal (word e.handle) (word ckid) (wordAt (ownerDigest d) 0) (pack [(8, natAt d 2 1), (0, natAt d 3 1)])
              .commit s [.contentKey e.handle ckid (ownerDigest d) key (slice d 8 7) (bundleRules d)] [word ckid] none

def cmdSealRemove (s v : State) (c : Cmd) (e : CmdEntry) : CmdResult :=
  if !onlyBits (e.c 3) [(63, 40)] || !zeroFrom e 4 then bad 3
  else match regionOf v e.handle, Tab.get? v.sec.content e.handle with
    | some g, some k =>
      if foreign v c g then bad 2
      else .commit (trustRecord s 0x1502 c.stall c.principal (word e.handle) (word k.ckid) 0 0) [.contentDrop e.handle] [] none
    | some g, none => if foreign v c g then bad 2 else bad 4
    | none, _ => bad 4

/-! ### ATTEST (R485) -/

/-- What ATTEST comes to before it writes: a refusal, or the bytes. -/
def attestBytes (s : State) (e : CmdEntry) : Except (Nat × Nat) (List Byte) :=
  let gen := fld (e.c 7) 31 0
  if !onlyBits (e.c 7) [(31, 0)] || !zeroFrom e 8 then .error (UNSUPPORTED, 3)
  else
    let old := gen != 0 && gen != s.sec.aliasGen
    if old && !s.pkg.flash.archive.contains gen then .error (UNSUPPORTED, 4)
    else
      let d := evidence s (wordsBytes [e.c 3, e.c 4, e.c 5, e.c 6]) ++ deviceChain s ++ (if old then cert (Config.aliasCert gen) else [])
      if e.dlen * 256 < d.length then .error (OUT_OF_BOUNDS, 0) else .ok d

/-! ### Firmware (R427, R500, R502, R503) -/

/-- An image by its header (Table 19.6); `fails` is the failing check of R500 by the device minimum. -/
def imageOf (minSvn : Nat) (d : List Byte) : FwImage :=
  let len := natAt d 12 4
  let fails :=
    if natAt d 0 2 ≠ 0xF301 ∨ len < 0x1500 ∨ 2 ^ 26 < len ∨ d.length < len then 1
    else if Config.shake256 (slice d 0x40 1952) 32 ≠ Config.firmwareKeyDigest then 2
    else if !Config.mldsaVerify (slice d 0x40 1952) (slice d 0 0x7E0) (slice d 0x7E0 3309) then 3
    else if slice d 0x20 32 ≠ Config.shake256 (slice d 0x1500 (len - 0x1500)) 32 then 4
    else if natAt d 2 1 < minSvn then 5 else 0
  { version := natAt d 4 4, svn := natAt d 2 1, minsvn := natAt d 3 1, peermin := natAt d 8 4, len := len, bdig := slice d 0x20 32
    digest := Config.shake256 (d.take len) 32, fails := fails }

/-- Quarters in the order of a roll (R503). -/
def rollQuarter (r : Roll) : Nat := nth [1, 3, 2, 0] r.quarters

/-- The core a roll is updating: the one that carries duties for its check, else the quarter's spare. -/
def rollCore (s : State) (r : Roll) : Nat :=
  match r.carrying with
  | some c => c.1
  | none => ((s.rst.cores[rollQuarter r]?).getD {}).spare.getD 7

/-- RESOURCE_HELD by a firmware update. -/
def heldByRoll (s : State) (r : Roll) : CmdResult :=
  let c := s.mb.cmds.find? (fun c => c.number == r.cmd)
  held 0x0F (c.elim 0 (·.stall)) (c.elim 0 (·.principal)) (c.elim 0 (·.bell)) (pack [(3, rollQuarter r), (0, rollCore s r)])

def cmdFwStage (s v : State) (c : Cmd) (e : CmdEntry) (d : List Byte) : CmdResult :=
  if !zeroFrom e 3 then bad 3
  else match v.sec.roll with
    | some r => heldByRoll v r
    | none =>
      let i := imageOf v.sec.minSvn d
      if i.fails = 1 || !allZero (slice d 0x10 16) then bad 3
      else if i.fails = 5 then bad 4
      else if i.fails ≠ 0 then .refuse BAD_SIGNATURE 0 []
      else if i.svn < i.minsvn then bad 3
      else if v.sec.running.version < i.peermin then bad 4
      else .commit (trustRecord s 0x1504 c.stall c.principal (word i.version) (word i.svn) (wordAt i.bdig 0) 0) [.fwStage i] [pack [(32, i.version)]] (some .fwStage)

def cmdFwRoll (s v : State) (c : Cmd) (e : CmdEntry) : CmdResult :=
  if !zeroFrom e 3 then bad 3
  else match v.sec.roll, v.sec.staged with
    | some r, _ => heldByRoll v r
    | none, none => bad 4
    | none, some _ => .commit { s with sec := { s.sec with roll := some { cmd := c.number } } } [.fwRoll] [] (some .fwRoll)

/-! ### KEY_ROTATE (R508, R509) -/

/-- Ports that are UP, with their KEYID. -/
def upPorts (s : State) : List (Nat × Nat) := (s.ports.filter (fun e => e.2.st == .up)).map (fun e => (e.1, e.2.keyId))

/-- Has a generation signed an audit segment that is not collected: SEG_CLOSE names segment and CGEN. -/
def signedUncollected (s : State) (gen : Nat) : Bool :=
  ((Tab.getD s.led.rings 0x12 {}).recs ++ s.led.journalOf 0x12).any (fun r => r.code == 0x1509 && fld r.p3 31 0 == gen && s.led.uncollected.contains (fld r.p0 62 0))

/-- Is a rotation of the same kind and target draining. -/
def rotating (s : State) (kind target : Nat) : Bool :=
  s.mb.cmds.any (fun c => match c.drain with | some (.rotate k t _) => k == kind && t == target | _ => false)

def cmdKeyRotate (s v : State) (_c : Cmd) (e : CmdEntry) : CmdResult :=
  let kind := fld (e.c 3) 3 0
  let stall := fld (e.c 3) 27 16
  if !onlyBits (e.c 3) [(27, 16), (3, 0)] || !zeroFrom e 4 || 2 < kind then bad 3
  else match (if kind = 2 then stallComp v stall else some 0) with
    | none => bad 4
    | some comp =>
      let drain := some (DrainOn.rotate kind comp (upPorts s))
      if rotating v kind comp then .commit s [] [] drain
      else if kind = 1 then
        let archive := v.pkg.flash.archive
        if 256 ≤ archive.length && (archive.head?.any (signedUncollected v)) then noRoom
        else .commit s [.aliasGen (v.sec.aliasGen + 1), .rotate 1 0] [] drain
      else .commit s [.rotate kind comp] [] drain

end Sys2Proof.Machine
end

