-- ==== Sys2Proof/WellFormed.lean ====
section
/-! DEFINITION. The range checks on the operands of a command: each number fits the field the manual gives it. -/

namespace Sys2Proof

/-- Does a number fit in a field of that many bits. -/
def fits (bits n : Nat) : Bool := n < 2 ^ bits

/-- A payload is whole 64-byte units, as many as LEN says (R71). -/
def payloadWf (len : Nat) (d : List Byte) : Bool := d.length == 64 * len

/-- The fields of word 0 fit Table 3.4. -/
def word0Wf (src tag stall svc tc ver : Nat) : Bool :=
  fits 16 src && fits 16 tag && fits 12 stall && fits 3 svc && fits 2 tc && fits 4 ver

/-- The fields of a request header fit Tables 3.4 and 3.5. -/
def ReqHdr.wf (h : ReqHdr) : Bool :=
  word0Wf h.src h.tag h.stall h.svc h.tc h.ver && fits 24 h.handle && fits 8 h.mepoch && fits 16 h.qp
    && fits 8 h.len && fits 5 h.rsv && fits 16 h.ownep && fits 48 h.offset

/-- The fields of a response header fit Tables 3.4 and 3.7. -/
def RspHdr.wf (h : RspHdr) : Bool :=
  word0Wf h.src h.tag h.stall h.svc h.tc h.ver && fits 8 h.opc && fits 8 h.status && fits 8 h.load
    && fits 8 h.len && fits 8 h.retry && fits 16 h.rsv && fits 16 h.origid

/-- The fields of an engine header fit Tables 3.4 and 3.8. -/
def EngHdr.wf (h : EngHdr) : Bool :=
  word0Wf h.src h.tag h.stall h.svc h.tc h.ver && fits 32 h.jobid && fits 20 h.comp && fits 4 h.fmt
    && fits 8 h.len && fits 36 h.block && fits 16 h.rank && fits 12 h.rsv

/-- The fields of a management header fit Tables 3.4 and 3.9. -/
def MgmtHdr.wf (h : MgmtHdr) : Bool :=
  word0Wf h.src h.tag h.stall h.svc h.tc h.ver && fits 16 h.dst && fits 8 h.len && fits 8 h.mstat
    && fits 4 h.part && fits 4 h.npart && fits 24 h.xid

/-- The fields of a link header fit Table 3.3. -/
def FrameHdr.wf (f : FrameHdr) : Bool :=
  fits 16 f.seq && fits 16 f.ackseq && fits 2 f.ctc && fits 14 f.credit && fits 12 f.flen && fits 2 f.keyid

/-- The fields of a message as the link sees it fit Table 3.4. -/
def FrameMsg.wf (m : FrameMsg) : Bool :=
  fits 2 m.kind && fits 8 m.opc && fits 4 m.ver && fits 2 m.tc && fits 16 m.src && fits 16 m.tag && fits 8 m.len

/-- A command entry fits Table 16.5: eleven parameter words at most. -/
def CmdEntry.wf (e : CmdEntry) : Bool :=
  fits 16 e.seq && fits 20 e.principal && fits 20 e.dlen && fits 24 e.dhandle && fits 36 e.doff && fits 4 e.rsv
    && e.params.length ≤ 11

/-- A port number (R57). -/
def portWf (p : Nat) : Bool := p < 256

/-- A CXL port number (Table 1.1). -/
def cxlWf (c : Nat) : Bool := c < 16

/-- A quarter number (R12). -/
def quarterWf (q : Nat) : Bool := q < 4

/-- A function: 0 the PF, k the function VF k (R388). -/
def fnWf (f : Nat) : Bool := f < 4097

/-- The issuer of a mailbox command. -/
def Issuer.wf : Issuer → Bool
  | .pf => true
  | .vf k => 1 ≤ k && k ≤ 4096
  | .fabric p src xid | .quorum p src xid => portWf p && fits 16 src && fits 24 xid

/-- Engines of a kind in one quarter (Table 1.1). -/
def EngineKind.count : EngineKind → Nat
  | .thresher => 32
  | .gleaner => 16
  | .winnow => 16
  | .searchEngine => 8
  | .macArray => 12
  | .expander => 9

/-- A hang unit names something that exists (Table 18.1). -/
def HangUnit.wf : HangUnit → Bool
  | .engine q k i => quarterWf q && i < k.count
  | .job j => fits 32 j
  | .sequencer q qp => quarterWf q && fits 16 qp
  | .homeAgent q => quarterWf q
  | .switchSlice q => quarterWf q
  | .hbmController q i => quarterWf q && i < 5
  | .controlCore q c => quarterWf q && c < 8
  | .trustCore _ => true

/-- A reset scope names something that exists (Table 18.2). -/
def ResetScope.wf : ResetScope → Bool
  | .context qp => fits 16 qp
  | .engine q k i => quarterWf q && i < k.count
  | .quarter q => quarterWf q
  | .device => true
  | .power => true

/-- A thermal place exists (Table 21.2). -/
def ThermalPlace.wf : ThermalPlace → Bool
  | .die i => i < 8
  | .stack i => i < 20

/-- A register write is 4 or 8 bytes, aligned, inside BAR0, or inside BAR2 behind it (log 151). -/
def accessWf (offset size : Nat) : Bool := (size == 4 || size == 8) && offset % size == 0 && offset < 0x22000

/-- A tray's answer carries one line. -/
def TrayAnswer.wf : TrayAnswer → Bool
  | .data d => d.length == 64
  | _ => true

/-- Every operand of a command is in its range. -/
def Instr.wf : Instr → Bool
  | .load p h d | .store p h d | .storeMasked p h d | .loadShared p h d | .loadExcl p h d | .writeback p h d
  | .evictClean p h d | .atomicAdd p h d | .atomicMin p h d | .atomicMax p h d | .atomicCas p h d
  | .atomicSwap p h d | .atomicAnd p h d | .atomicOr p h d | .atomicXor p h d | .fence p h d | .publish p h d
  | .offer p h d | .accept p h d | .confirm p h d | .xferRead p h d | .xferWrite p h d =>
    portWf p && h.wf && (d.length % 64 == 0)
  | .snoopResponse p h d | .forwardedResponse p h d | .parityDeltaResponse p h d | .gatewayXferResponse p h d =>
    portWf p && h.wf && payloadWf h.len d
  | .linkFrame p f _ m => portWf p && f.wf && m.wf
  | .hello p h d | .helloAck p h d | .sessInit p h d | .sessResp p h d | .sessFin p h d | .sessAck p h d
  | .window p h d | .windowAck p h d | .mboxCmd p h d | .mboxRsp p h d | .leaseRenew p h d | .leaseGrant p h d
  | .quorum p h d => portWf p && h.wf && (d.length % 64 == 0)
  | .spareReq p h lane frame | .spareAck p h lane frame => portWf p && h.wf && lane < 8 && fits 16 frame
  | .contrib p h d | .partialList p h d | .result p h d | .query p h d => portWf p && h.wf && payloadWf h.len d
  | .cxlmemAccess fn handle slot offset len w =>
    fnWf fn && fits 24 handle && slot < 2 && fits 48 offset && (len == 64) &&
      (match w with | none => true | some d => d.length == len)
  | .regionCreate i e | .regionDestroy i e | .regionRead i e | .keyIssue i e | .keyRevoke i e | .ownerSet i e
  | .gwBind i e | .hbmSplit i e | .trayDiscard i e | .trayRelease i e | .mapStage i e | .mapSwitch i e
  | .mapStatus i e | .movePrepare i e | .stallSet i e | .stallBind i e | .quotaSet i e | .policeSet i e
  | .schedSet i e | .meterRead i e | .engineSet i e | .qpAssign i e | .qpRead i e | .qpRelease i e
  | .thresherReturn i e | .tableLoad i e | .tableRetire i e | .indexLoad i e | .indexPart i e | .indexBatch i e
  | .indexCommit i e | .indexQepoch i e | .indexCompact i e | .indexUnload i e | .sealInstall i e
  | .sealRemove i e | .attest i e | .fwStage i e | .fwRoll i e | .keyRotate i e | .reset i e | .debugHalt i e
  | .loopback i e | .dirRead i e | .regRead i e | .regWrite i e | .portSet i e | .domainJoin i e
  | .leaseStatus i e | .deviceExpel i e | .quorumSet i e | .sheafSet i e | .claim i e | .release i e
  | .claimList i e => i.wf && e.wf
  | .snap fn | .go fn | .pop fn => fnWf fn
  | .sqtailDoorbell fn lq _ | .cqheadDoorbell fn lq _ => fnWf fn && fits 12 lq
  | .lwSel fn offset size _ => fnWf fn && (size == 4 || size == 8) && (offset == 0 || (offset == 4 && size == 4))
  | .rcvGo _ _ => true
  | .registerWrite fn offset size _ => fnWf fn && accessWf offset size
  | .clearFaults | .extest | .extestPulse | .extestTrain | .trstN => true
  | .mfrPcap v => fits 16 v
  | .setdasa a d => fits 7 a && fits 7 d
  | .entdaa d => fits 7 d
  | .coldStart | .startupPhaseOverrun | .inputOutOfRange _ | .resetN _ | .resetNRelease => true
  | .startupPhaseEnd r => fits 4 r.addr
  | .ppsEdge _ _ | .ptpTime _ | .holdover | .refclkLoss => true
  | .thermalAlarm t _ | .thermalTrip t _ | .thermalClear t _ => t.wf
  | .laneFault p lane cause => portWf p && lane < 8 && 1 ≤ cause && cause ≤ 3
  | .signalDetected p | .trainingDone p | .alignDone p | .portStateTimeout p | .authRetry p | .linkDown p
  | .rekeyDue p | .rekeyRetry p | .sessionKeysExpired p | .sessionStepTimeout p => portWf p
  | .cxlPortUp c _ | .cxlPortDown c | .dynamicCapacityAdd c _ _ | .trayReadTimeout c _ | .trayWriteTimeout c _
  | .trayTableEntryFree c => cxlWf c
  | .trayReadCompletion c _ a | .trayWriteCompletion c _ a => cxlWf c && a.wf
  | .hbmCorrectableError q stack pc row => quarterWf q && stack < 5 && pc < 64 && fits 32 row
  | .hbmUncorrectableError q stack pc _ _ => quarterWf q && stack < 5 && pc < 64
  | .pcDrainDone q stack pc => quarterWf q && stack < 5 && pc < 64
  | .bellStrike => true
  | .portionClose q k i _ => quarterWf q && i < k.count
  | .hangDetected u => u.wf
  | .watchdogExpiry q => quarterWf q
  | .coreHealthFail q c | .fwCoreCheck q c _ | .coreHealthCheckPassed q c => quarterWf q && c < 8
  | .resetEnd sc _ | .escalated sc => sc.wf
  | .orderlyFlushAbandoned | .pwrcycReq | .pwrcycTimeout | .flashOpDone | .leaseRenewalDue | .leaseLost
  | .leaseRegained | .telemetryPeriod _ | .capOverrun | .lifetimeTick _ _ _ | .bellCheckpoint => true
  | .deferredDue p src tag | .aged p src tag | .requestExpired p src tag | .lineQueuePresentation p src tag
  | .lineQueueAgeing p src tag => portWf p && fits 16 src && fits 16 tag
  | .snoopTimeout q a t => quarterWf q && fits 16 a && fits 16 t
  | .offerLapsed h | .moveCopyDone h | .moveComplete h | .gatewayFlush h _ | .scrubPage h | .sheafPushDone h
  | .rebuildDone h | .reencodeDone h => fits 24 h
  | .offerTableEntryFree q | .combiningGroupClose q _ | .tallyAbsorb q _ | .tallyDemote q _
  | .frameAvailable q _ | .dirtyWritebackDue q _ | .refuseTableClear q _ | .tripCleared q
  | .fineWheelSlot q _ => quarterWf q
  | .keyDrained h slot => fits 24 h && slot < 2
  | .mapRetired => true
  | .tableFreed slot => slot < 1024
  | .refusingStateTimeout q _ src stall svc qp =>
    quarterWf q && fits 16 src && fits 12 stall && fits 3 svc && fits 16 qp
  | .jobAdmission qp | .qpReleased qp | .interruptDelayExpiry qp => fits 16 qp
  | .rowReadCompletion j _ => fits 32 j
  | .jobTimeout j | .wjobTimeout j | .shardTimeout j _ _ | .queryEpochHoldExpiry _ j _ => fits 32 j
  | .compactSwitch _ part => part < 4
  | .fwFlashWriteDone | .refclkRestored => true
  | .memoryKeyUnitDone c => fits 20 c
  | .journalWrite a => a < 3
  | .hostDieReply xid mstat _ => fits 24 xid && fits 8 mstat
  | .vinWarning mv => fits 17 mv
  | .ledgerWindowRead fn slots => fnWf fn && slots.all (· < 512)
  | .engineAccessResponse _ => true

end Sys2Proof
end

