-- ==== Sys2Proof/Machine/CmdSystem.lean ====
section
/-! DEFINITION. Reset, debug, register, port and claim commands (Table 16.16), and the claim registry (R28 to R32). -/

namespace Sys2Proof.Machine

/-! ### The claim registry -/

/-- Quarter whose control core keeps the registry (R28), and the device's other shared duties: Q0, or Q2 while it is in reset. -/
def masterQuarter (s : State) : Nat := if quarterInReset s 0 then 2 else 0

/-- A record of the registry (Tables 20.8 and 20.9): made 0x0201, released 0x0202, refused 0x0203, displaced 0x0204. -/
def claimRecord (s : State) (code resource object stall principal displacing : Nat) : State :=
  record s { code := code, quarter := masterQuarter s, kind := 1, stall := stall, principal := principal, p0 := pack [(48, resource), (0, object)]
             p1 := word resource, p2 := pack [(12, principal), (0, stall)], p3 := word displacing }

/-- The claim of a resource and object. -/
def claimOf (s : State) (resource object : Nat) : Option ClaimRec := s.mb.claims.find? (fun r => r.resource == resource && r.object == object)

/-- Is a change of the registry or of an item a claim or a feature's start on it. -/
def isClaimOf (resource object : Nat) : Change → Bool
  | .claim r => r.resource == resource && r.object == object
  | .loop lane on => on && resource == 0x0C && lane == object
  | .halt q core on => on && resource == 0x0D && q * 8 + core == object
  | _ => false

/-- The registry as it stands with what is committed in this bell (R29). -/
def allClaims (s : State) : List ClaimRec :=
  s.mb.changes.foldl (fun cs e => match e.2 with
    | .claim r => cs ++ [r]
    | .unclaim res obj => cs.filter (fun x => !(x.resource == res && x.object == obj))
    | _ => cs) s.mb.claims

/-- The claim of a resource and object, one committed in this bell included (R29). -/
def claimHeld (s : State) (resource object : Nat) : Option ClaimRec := (allClaims s).find? (fun r => r.resource == resource && r.object == object)

/-- Take a claim out of the registry, with the start of its feature where both are still to become visible. -/
def takeClaim (s : State) (resource object : Nat) : State :=
  { s with mb := { s.mb with
    claims := s.mb.claims.filter (fun x => !(x.resource == resource && x.object == object))
    changes := s.mb.changes.filter (fun e => !isClaimOf resource object e.2) } }

/-- Make a claim now, with its record. -/
def makeClaim (s : State) (r : ClaimRec) : State :=
  claimRecord { s with mb := { s.mb with claims := s.mb.claims ++ [r] } } 0x0201 r.resource r.object r.stall r.principal 0

/-- Release a claim now, with its record (R32). -/
def dropClaim (s : State) (resource object : Nat) : State :=
  match claimHeld s resource object with
  | some r => claimRecord (takeClaim s resource object) 0x0202 resource object r.stall r.principal 0
  | none => s

/-- The higher feature takes an item from the lower (R33). -/
def displaceClaim (s : State) (resource object by_ : Nat) : State :=
  match claimHeld s resource object with
  | some r => claimRecord (takeClaim s resource object) 0x0204 resource object r.stall r.principal by_
  | none => s

/-- RESOURCE_HELD by a claim, with its object as HOBJ. -/
def heldByClaim (r : ClaimRec) : CmdResult := held r.resource r.stall r.principal r.bell (word r.object)

def cmdClaim (s v : State) (c : Cmd) (e : CmdEntry) : CmdResult :=
  let res := fld (e.c 3) 15 0
  let obj := fld (e.c 3) 47 16
  if !onlyBits (e.c 3) [(47, 0)] || !zeroFrom e 4 || res < 0x100 || 0x1FF < res then bad 3
  else match claimOf v res obj with
    | some r => if r.stall = c.stall ∧ r.principal = c.principal then .commit s [] [] none else heldByClaim r
    | none =>
      let r : ClaimRec := { resource := res, object := obj, stall := c.stall, principal := c.principal, bell := s.time.bell, quarter := (servingCore s c.iss.fn).1, core := (servingCore s c.iss.fn).2 }
      .commit (claimRecord s 0x0201 res obj c.stall c.principal 0) [.claim r] [] none

def cmdRelease (s v : State) (c : Cmd) (e : CmdEntry) : CmdResult :=
  let res := fld (e.c 3) 15 0
  let obj := fld (e.c 3) 47 16
  if !onlyBits (e.c 3) [(47, 0)] || !zeroFrom e 4 || res < 0x100 || 0x1FF < res then bad 3
  else match claimOf v res obj with
    | some r =>
      if r.stall = c.stall ∧ r.principal = c.principal then .commit (claimRecord s 0x0202 res obj c.stall c.principal 0) [.unclaim res obj] [] none
      else bad 4
    | none => bad 4

/-! ### CLAIM_LIST (R580, Table 16.17) -/

/-- Bits that HOBJ of a feature names. -/
def objectBits (f : Nat) : List (Nat × Nat) :=
  if f = 1 ∨ f = 2 then [(63, 40), (0, 0)]
  else if f = 3 ∨ f = 5 ∨ f = 6 ∨ f = 0x11 then [(63, 40)]
  else if f = 4 then [(31, 0)]
  else if f = 7 then [(63, 32), (9, 0)]
  else if f = 8 then [(63, 48)]
  else if f = 9 then [(63, 48), (1, 0)]
  else if f = 0x0A then [(15, 0)]
  else if f = 0x10 then [(1, 0)]
  else [(4, 0)]

/-- The device's own state as a holder: stall, principal, bell. -/
def stateHolder (s : State) (f : Nat) (o : Word) : Option (Nat × Nat × Word) :=
  let h := fld o 63 40
  let region := fun (p : Region → Bool) => (regionOf s h).bind (fun g => if p g then some (0, g.princ, g.created) else none)
  let slot := fun (st : Nat) => (regionOf s h).bind (fun g =>
    let k := slotOf g (fld o 0 0)
    if k.state = st then some (k.stall, stallPrincipal s k.stall, k.since) else none)
  if f = 1 then slot 1
  else if f = 2 then slot 2
  else if f = 3 then (s.regs.moves.find? (fun m => m.handle == h)).map (fun m => (0, m.princ, m.since))
  else if f = 4 then
    let n := match s.maps.prev with | some m => some m.epoch | none => if s.maps.draining then some (s.maps.cur.epoch - 1) else none
    if n = some (fld o 31 0) then some (0, 0, s.maps.switchBell) else none
  else if f = 5 then region (fun g => g.place.any (fun r => !r.tray))
  else if f = 6 then region (fun g => g.place.any (·.tray))
  else if f = 7 then
    let t := Tab.getD s.ecx.tables (fld o 9 0) {}
    if t.state = 2 ∧ t.gen = fld o 63 32 then some (0, 0, t.fence) else none
  else if f = 8 then (indexAt s (fld o 63 48)).bind (fun x => if x.loaded then some (0, 0, x.since) else none)
  else if f = 9 then ((indexAt s (fld o 63 48)).bind (fun x => partAt x (fld o 1 0))).bind (fun p => p.compacting.map (fun c => (0, 0, c.2)))
  else if f = 0x0A then
    let q := Tab.getD s.qps (fld o 15 0) {}
    if q.state ≠ 0 then some (q.stall, stallPrincipal s q.stall, q.since) else none
  else if f = 0x0F then s.sec.roll.bind (fun r =>
    if fld o 4 0 = rollQuarter r * 8 + rollCore s r then
      (s.mb.cmds.find? (fun c => c.number == r.cmd)).map (fun c => (c.stall, c.principal, c.bell))
    else none)
  else if f = 0x10 then (s.rst.running.find? (fun r => r.scope == .quarter (fld o 1 0))).map (fun r => (0, 0, r.begun))
  else if f = 0x11 then region (fun _ => true)
  else none

def cmdClaimList (s v : State) (_c : Cmd) (e : CmdEntry) : CmdResult :=
  let f := fld (e.c 3) 15 0
  let claim := decide (0x100 ≤ f) && decide (f ≤ 0x1FF)
  let inst := fld (e.c 3) 47 16
  if !onlyBits (e.c 3) [(47, 0)] || !zeroFrom e 5 || f = 0 || !(claim || f ≤ 0x11)
      || (claim && e.c 4 != 0) || (!claim && (inst ≠ 0 || !onlyBits (e.c 4) (objectBits f))) then bad 3
  else
    let obj := if claim then word inst else e.c 4
    let found := if claim || (decide (0x0B ≤ f) && decide (f ≤ 0x0E)) then
        (claimOf v f obj.toNat).map (fun r => (r.stall, r.principal, r.bell))
      else stateHolder v f obj
    match found with
    | some (stall, princ, bell) => reply s (holder f stall princ bell obj)
    | none => reply s [0, 0, 0]

/-! ### RESET (R428, Table 16.16) -/

/-- Engine kinds by their number in RESET. -/
def engineKind (n : Nat) : Option EngineKind :=
  [EngineKind.thresher, .gleaner, .winnow, .searchEngine, .macArray, .expander][n]?

/-- The scope that LEVEL and TARGET name. -/
def resetScopeOf (level target : Nat) : Option ResetScope :=
  if level = 1 then some (.context target)
  else if level = 2 then (engineKind (target / 2 ^ 11 % 8)).bind (fun k =>
    if target % 2 ^ 11 < k.count then some (.engine (target / 2 ^ 14) k (target % 2 ^ 11)) else none)
  else if level = 3 then (if target < 4 then some (.quarter target) else none)
  else if level = 4 then some .device
  else if level = 5 then some .power
  else none

/-- Quarter resets running or committed. -/
def quartersResetting (s : State) : List Nat :=
  (s.rst.running.filterMap (fun r => match r.scope with | .quarter q => some q | _ => none))
    ++ (s.mb.changes.filterMap (fun c => match c.2 with | .reset (.quarter q) => some q | _ => none))

def cmdReset (s v : State) (_c : Cmd) (e : CmdEntry) : CmdResult :=
  let level := fld (e.c 3) 2 0
  if !onlyBits (e.c 3) [(31, 16), (2, 0)] || !zeroFrom e 4 then bad 3
  else match resetScopeOf level (fld (e.c 3) 31 16) with
    | none => bad 3
    | some scope =>
      if level = 1 && (Tab.getD v.qps (fld (e.c 3) 31 16) {}).state == 0 then bad 4
      else match (if level = 3 then (quartersResetting v).head? else none) with
        | some q => held 0x10 0 0 ((s.rst.running.find? (fun r => r.scope == .quarter q)).elim s.time.bell (·.begun)) (word q)
        | none =>
          if level < 4 then .commit s [.reset scope] [] (some (.reset scope))
          else .commit { s with rst := { s.rst with due := some (scope, s.time.bell + 2) } } [.reset scope] [] none

/-! ### DEBUG_HALT and LOOPBACK (R29 to R31, Table 1.7) -/

/-- Control cores of a quarter. -/
def coresOf (s : State) (q : Nat) : CoreS := (s.rst.cores[q]?).getD {}

/-- Change the control cores of a quarter. -/
def updCores (s : State) (q : Nat) (f : CoreS → CoreS) : State := { s with rst := { s.rst with cores := modNth s.rst.cores q f } }

/-- What has the spare core of a quarter in use, so that no duties can move to it: a claim on it, a debug halt of it, or a roll (R29,
R30, Table 1.7). -/
def spareTaken (v : State) (q : Nat) : Option CmdResult :=
  match (allClaims v).find? (fun r => r.object / 8 == q && (r.resource == 0x0E || (r.resource == 0x0D && !(coresOf v q).active.contains (r.object % 8)))) with
  | some r => some (heldByClaim r)
  | none => match v.sec.roll with
    | some r => if !r.writing && rollQuarter r == q then some (heldByRoll v r) else none
    | none => none

def cmdDebugHalt (s v : State) (c : Cmd) (e : CmdEntry) : CmdResult :=
  let q := fld (e.c 3) 1 0
  let core := fld (e.c 3) 4 2
  let obj := q * 8 + core
  let mine := claimOf v 0x0D obj
  let k := coresOf s q
  if !onlyBits (e.c 3) [(8, 8), (4, 0)] || !zeroFrom e 4 then bad 3
  else if bit (e.c 3) 8 then
    if mine.isSome then .commit s [] [] none
    else match (if k.spare = some core ∨ k.active.contains core then spareTaken v q else none) with
    | some r => r
    | none =>
      let r : ClaimRec := { resource := 0x0D, object := obj, stall := c.stall, principal := c.principal, bell := s.time.bell, quarter := q }
      let s := claimRecord s 0x0201 0x0D obj c.stall c.principal 0
      match (if k.active.contains core then k.spare else none) with
      | some sp =>
        .commit (claimRecord s 0x0201 0x0E (q * 8 + sp) c.stall c.principal 0)
          [.claim r, .claim { r with resource := 0x0E, object := q * 8 + sp }, .halt q core true] [] none
      | none => .commit s [.claim r, .halt q core true] [] none
  else if mine.isSome then .commit (claimRecord s 0x0202 0x0D obj c.stall c.principal 0) [.unclaim 0x0D obj, .halt q core false] [] none
  else bad 4

def cmdLoopback (s v : State) (c : Cmd) (e : CmdEntry) : CmdResult :=
  let lane := fld (e.c 3) 4 0
  let mine := claimOf v 0x0C lane
  if !onlyBits (e.c 3) [(8, 8), (4, 0)] || !zeroFrom e 4 then bad 3
  else if bit (e.c 3) 8 then
    match claimOf v 0x0B lane with
    | some r => heldByClaim r
    | none =>
      if mine.isSome then .commit s [] [] none
      else
        let r : ClaimRec := { resource := 0x0C, object := lane, stall := c.stall, principal := c.principal, bell := s.time.bell, quarter := lane / 8 }
        .commit (claimRecord s 0x0201 0x0C lane c.stall c.principal 0) [.claim r, .loop lane true] [] none
  else if mine.isSome then
    let (n, s) := freeWord s
    .commit (claimRecord s 0x0202 0x0C lane c.stall c.principal 0) [.unclaim 0x0C lane, .loop lane false] [n] none
  else bad 4

/-! ### DIR_READ, REG_READ, REG_WRITE, PORT_SET -/

/-- Words D0 to D3 of a directory entry (Table 6.9). -/
def dirEntryWords (d : DirEntry) : List Word :=
  let ptr := fun (i : Nat) => nth d.ptrs i
  let vec := fun (lo : Nat) => word ((List.range 64).foldl (fun m i => if d.vec.contains (lo + i) then m + 2 ^ i else m) 0)
  [pack [(22, d.line % 2 ^ 42), (19, d.state), (18, b2n d.coarse), (0, d.pend)],
   pack [(40, d.handle), (37, if d.coarse then 0 else d.ptrs.length), (36, b2n d.agedw)],
   if d.coarse then vec 0 else pack [(48, ptr 0), (32, ptr 1), (16, ptr 2), (0, ptr 3)],
   if d.coarse then vec 64 else 0]

def cmdDirRead (s _v : State) (_c : Cmd) (e : CmdEntry) : CmdResult :=
  if !onlyBits (e.c 3) [(63, 40)] || !onlyBits (e.c 4) [(47, 0)] || !zeroFrom e 5 then bad 3
  else match dirFind s e.handle (fld (e.c 4) 47 6) with
    | some d => reply s (dirEntryWords d ++ [1])
    | none => reply s [0, 0, 0, 0, 0]

/-- Offset and size of a register access; none where it is not aligned or crosses the end of BAR0. -/
def regAccess (w : Word) : Option (Nat × Nat) :=
  let size := if bit w 24 then 8 else 4
  let off := fld w 16 0
  if onlyBits w [(24, 24), (16, 0)] && off % size == 0 then some (off, size) else none

def cmdRegRead (s _v : State) (_c : Cmd) (e : CmdEntry) : CmdResult :=
  match (if zeroFrom e 4 then regAccess (e.c 3) else none) with
  | some (off, size) => reply s [barRead s 0 off size]
  | none => bad 3

def cmdRegWrite (s _v : State) (_c : Cmd) (e : CmdEntry) : CmdResult :=
  match (if zeroFrom e 5 then regAccess (e.c 3) else none) with
  | some (off, size) =>
    if (0x400 ≤ off ∧ off < 0x500) ∨ 0x10000 ≤ off ∨ (size = 4 ∧ 2 ^ 32 ≤ (e.c 4).toNat) then bad 3
    else .commit s [.register off size (e.c 4)] [] none
  | none => bad 3

def cmdPortSet (s _v : State) (_c : Cmd) (e : CmdEntry) : CmdResult :=
  let p := fld (e.c 3) 7 0
  let action := fld (e.c 3) 11 8
  let window := fld (e.c 3) 21 16
  if !onlyBits (e.c 3) [(21, 16), (11, 0)] || !zeroFrom e 4 || 4 < action || (action = 4 && (window < 4 || 40 < window))
      || ((action = 2 || action = 3) && p % 2 = 1) then bad 3
  else .commit s [.port p action window] [] (some (.port p action))

end Sys2Proof.Machine
end

