-- ==== Sys2Proof/Machine/CmdDomain.lean ====
section
/-! DEFINITION. Domain, quorum and sheaf commands (Table 16.16, R431 to R452). -/

namespace Sys2Proof.Machine

/-! ### DOMAIN_JOIN, QUORUM_SET, DEVICE_EXPEL, LEASE_STATUS -/

/-- NQ of a command: 3 or 5. -/
def quorumSize (e : CmdEntry) : Option Nat := let n := fld (e.c 3) 35 32; if n = 3 ∨ n = 5 then some n else none

def cmdDomainJoin (s v : State) (_c : Cmd) (e : CmdEntry) (d : List Byte) : CmdResult :=
  match checkCert s v 0x80 e d v.dom.dvalid with
  | .error r => .refuse r.1 r.2 []
  | .ok (own, s) =>
    match (if onlyBits (e.c 3) [(35, 16), (5, 0)] && zeroFrom e 4 then quorumSize e else none) with
    | none => bad 3
    | some n => match memberList n own with
      | some ms => .commit s [.join (fld (e.c 3) 5 0) (fld (e.c 3) 31 16) ms] [] none
      | none => bad 3

def cmdQuorumSet (s v : State) (_c : Cmd) (e : CmdEntry) (d : List Byte) : CmdResult :=
  match checkCert s v 0x83 e d true with
  | .error r => .refuse r.1 r.2 []
  | .ok (own, s) =>
    match (if onlyBits (e.c 3) [(35, 32)] && zeroFrom e 4 then quorumSize e else none) with
    | none => bad 3
    | some n => match memberList n own with
      | some ms => .commit s [.members ms] [] none
      | none => bad 3

def cmdDeviceExpel (s v : State) (c : Cmd) (e : CmdEntry) (d : List Byte) : CmdResult :=
  match checkCert s v 0x82 e d true with
  | .error r => .refuse r.1 r.2 []
  | .ok (_, s) =>
    if !onlyBits (e.c 3) [(5, 0)] || !zeroFrom e 4 then bad 3
    else
      let dev := fld (e.c 3) 5 0
      let (q, core) := servingCore s c.iss.fn
      let mask := (signers v.dom.members d).foldl (fun m n => m + 2 ^ n) 0
      let s := record s { code := 0x1303, quarter := q, kind := 0x0B, inst := core, stall := 0, principal := c.principal
                          p0 := word dev, p1 := s.dom.cseq, p2 := word mask }
      .commit s [.expel dev] [] none

/-- RBELL below which a majority of members have counted grants, highest first (R435). -/
def majorityRbell (s : State) : Option Word :=
  let bells := sortBy (fun a b => decide (b < a)) (s.dom.grants.map (fun e => e.2.1.toNat))
  (bells[majority s.dom.members.length - 1]?).map word

/-- Is the lease current at this strike (R435). -/
def leaseCurrent (s : State) : Bool :=
  !s.dom.members.isEmpty && (match majorityRbell s with | some b => decide (bellN s < b.toNat + 2000) | none => false)

/-- The bell at which the lease expires: 0 while there is none. -/
def leaseExpiry (s : State) : Word := match majorityRbell s with | some b => b + 2000 | none => 0

def cmdLeaseStatus (s _v : State) (_c : Cmd) (e : CmdEntry) : CmdResult :=
  if !zeroFrom e 3 then bad 3 else reply s [leaseExpiry s, s.dom.lastRenewal, pack [(1, b2n s.dom.leaseOk), (0, b2n s.dom.fenced)]]

/-! ### SHEAF_SET (R443, R444, R451, R452, Table 17.7) -/

/-- The stalk table in a data area; none where it breaks Table 17.7. -/
def stalkTable (k : Nat) (d : List Byte) : Option (Nat × Sheaf) :=
  let t0 := wordAt d 0
  let action := fld t0 63 60
  let es := (List.range (k + 2)).map (fun n => (wordAt d (64 + 32 * n), wordAt d (64 + 32 * n + 8)))
  let devs := es.map (fun e => fld e.1 63 58)
  let ok := decide (64 + 32 * (k + 2) ≤ d.length) && decide (action < 4) && fld t0 59 56 == k && decide (fld t0 55 52 ≤ k + 1) && fld t0 51 48 == 0
    && (action == 1 || fld t0 47 32 == 0) && allZero (slice d 8 56) && es.all (fun e => fld e.1 33 0 == 0)
    && (List.range (k + 2)).all (fun n => allZero (slice d (64 + 32 * n + 16) 16)) && devs.eraseDups.length == k + 2
  if ok then
    some (action, { handle := 0, k := k, self := fld t0 55 52, sgen := fld t0 31 0, avail := fld t0 47 32
                    stalks := es.map (fun e => (fld e.1 63 58, fld e.1 57 34, e.2)) })
  else none

/-- Stalks of AVAIL. -/
def availStalks (x : Sheaf) : List Nat := (List.range (x.k + 2)).filter (fun n => x.avail / 2 ^ n % 2 == 1)

/-- The parity stalk whose record mirror a rebuild reads: P before Q. -/
def mirrorStalk (x : Sheaf) : Nat := if (availStalks x).contains x.k then x.k else x.k + 1

/-- The record of a rebuilt stalk from its mirror (R447, R451); an ECX region is never COHERENT (R216). -/
def mirrorRegion (s : State) (c : Cmd) (h : Nat) (d : List Byte) : Region :=
  let w := fun (i : Nat) => wordAt d (8 * i)
  let e0 := w 0
  let e3 := w 3
  let slot := fun (state stall rights : Nat) (any : Bool) (key : Word) => ({ state := state, stall := stall, rights := rights, any := any, key := key, since := s.time.bell } : KeySlot)
  { handle := h, comp := fld e0 39 20, homedev := s.dom.devid, homeq := fld e0 13 12, mode := if bit e0 6 then 0 else fld e0 11 10, tier := fld e0 9 8, sealed := bit e0 7
    ecx := bit e0 6, sheaf := bit e0 5, fenced := s.dom.fenced, moving := true, valid := false, size4k := fld (w 1) 35 0
    slotA := slot (fld e3 15 14) (fld (w 2) 23 12) (fld e3 11 9) (bit e3 5) (w 5)
    slotB := slot (fld e3 13 12) (fld (w 2) 11 0) (fld e3 8 6) (bit e3 4) (w 6)
    ownep := fld e3 63 32, owner := fld e3 31 16, version := w 4, created := s.time.bell, princ := c.principal }

/-- Where the mirror of a record lies in a parity stalk: the data stalk's size is the parity region's less 4 KiB, which
this device knows only when it holds one; the read names the end of the stalk (R447). The words read come in the area under
number 2^20. -/
def mirrorPage : Nat := 2 ^ 20

def cmdSheafSet (s v : State) (c : Cmd) (e : CmdEntry) (d : List Byte) : CmdResult :=
  let k := fld (e.c 3) 3 0
  let h := e.handle
  if !onlyBits (e.c 3) [(63, 40), (3, 0)] || !zeroFrom e 4 || k < 4 || 14 < k then bad 3
  else match stalkTable k d with
    | none => bad 3
    | some (action, x) =>
      if v.dom.fenced then noRoom
      else
      let x := { x with handle := h }
      let self := (x.stalks[x.self]?).getD (0, 0, 0)
      let old := v.dom.sheaves.find? (fun y => y.handle == h)
      if old.any (fun y => decide (x.sgen ≤ y.sgen)) || self.2.1 ≠ h then bad 4
      else if action = 1 then
        let stale := old.elim [] (·.stale)
        if x.k ≤ x.self || (availStalks x).length ≠ x.k || (availStalks x).contains x.self || (availStalks x).any (fun n => stale.contains n)
            || !(v.dom.expelled.contains self.1 || self.1 == v.dom.devid) then bad 4
        else
          let g := mirrorRegion s c h (Tab.getD c.area mirrorPage [])
          match allocate (match regionOf v h with | some _ => { v with regs := { v.regs with recs := Tab.erase v.regs.recs h } } | none => v) g.tier g.homeq g.units with
          | none => noRoom
          | some p => .commit s [.sheaf { x with work := 2 } false (some { g with place := p })] [] (some (.sheaf h))
      else match regionOf v h with
        | none => bad 4
        | some g =>
          let parity := x.k ≤ x.self
          let tray := g.place.any (·.tray)
          if !g.sheaf || self.1 ≠ v.dom.devid || (parity && (g.mode ≠ 0 || g.ecx || g.sealed)) || g.dying || g.moving then bad 4
          else if action = 2 then
            match old with
            | some y =>
              if y.k ≠ x.k ∨ y.self ≠ x.self then bad 4
              else .commit s [.sheaf { y with stalks := x.stalks, sgen := x.sgen, stale := [] } false none] [] (some (.sheaf h))
            | none => bad 4
          else if action = 3 then
            if parity then .commit s [.sheaf { x with work := if tray then 6 else 3 } true none] [] (some (.sheaf h)) else bad 4
          else .commit s [.sheaf { x with work := if !parity then 1 else if tray then 5 else 0 } parity none] [] (some (.sheaf h))

end Sys2Proof.Machine
end

