-- ==== Sys2Proof/Machine/Mailbox.lean ====
section
/-! DEFINITION. The mailboxes at work: taking a command, its data area, its check, its refusal or commit (R412 to R421). -/

namespace Sys2Proof.Machine

/-- The check of a command by its OPC, on the state s with v the state as the commands before it leave it; d is its data
area. -/
def checkCmd (s v : State) (c : Cmd) (e : CmdEntry) (d : List Byte) : CmdResult :=
  match c.opc with
  | 0x10 => cmdRegionCreate s v c e
  | 0x11 => cmdRegionDestroy s v c e
  | 0x12 => cmdRegionRead s v c e
  | 0x13 => cmdKeyIssue s v c e
  | 0x14 => cmdKeyRevoke s v c e
  | 0x15 => cmdOwnerSet s v c e
  | 0x16 => cmdGwBind s v c e
  | 0x17 => cmdHbmSplit s v c e
  | 0x18 => cmdTrayDiscard s v c e
  | 0x19 => cmdTrayRelease s v c e
  | 0x20 => cmdMapStage s v c e d
  | 0x21 => cmdMapSwitch s v c e d
  | 0x22 => cmdMapStatus s v c e
  | 0x23 => cmdMovePrepare s v c e
  | 0x30 => cmdStallSet s v c e
  | 0x31 => cmdStallBind s v c e
  | 0x32 => cmdQuotaSet s v c e
  | 0x33 => cmdPoliceSet s v c e
  | 0x34 => cmdSchedSet s v c e
  | 0x35 => cmdMeterRead s v c e
  | 0x36 => cmdEngineSet s v c e
  | 0x40 => cmdQpAssign s v c e
  | 0x41 => cmdQpRead s v c e
  | 0x42 => cmdQpRelease s v c e
  | 0x43 => cmdThresherReturn s v c e
  | 0x50 => cmdTableLoad s v c e d
  | 0x51 => cmdTableRetire s v c e
  | 0x52 => cmdIndexLoad s v c e
  | 0x53 => cmdIndexPart s v c e
  | 0x54 => cmdIndexBatch s v c e d
  | 0x55 => cmdIndexCommit s v c e
  | 0x56 => cmdIndexQepoch s v c e
  | 0x57 => cmdIndexCompact s v c e
  | 0x58 => cmdIndexUnload s v c e
  | 0x60 => cmdSealInstall s v c e d
  | 0x61 => cmdSealRemove s v c e
  | 0x63 => cmdFwStage s v c e d
  | 0x64 => cmdFwRoll s v c e
  | 0x65 => cmdKeyRotate s v c e
  | 0x70 => cmdReset s v c e
  | 0x71 => cmdDebugHalt s v c e
  | 0x72 => cmdLoopback s v c e
  | 0x73 => cmdDirRead s v c e
  | 0x74 => cmdRegRead s v c e
  | 0x75 => cmdRegWrite s v c e
  | 0x76 => cmdPortSet s v c e
  | 0x80 => cmdDomainJoin s v c e d
  | 0x81 => cmdLeaseStatus s v c e
  | 0x82 => cmdDeviceExpel s v c e d
  | 0x83 => cmdQuorumSet s v c e d
  | 0x84 => cmdSheafSet s v c e d
  | 0x90 => cmdClaim s v c e
  | 0x91 => cmdRelease s v c e
  | 0x92 => cmdClaimList s v c e
  | _ => bad 3

/-! ### Data areas -/

/-- Write bytes to a command's data area, page by page (R416). -/
def writeArea (s : State) (c : Cmd) (e : CmdEntry) (d : List Byte) : State :=
  let s := updCmd s c.number (fun c => { c with asked := true })
  each (List.range (ceilDiv d.length 4096)) (fun i s =>
    let part := padUnits (slice d (4096 * i) (min 4096 (d.length - 4096 * i)))
    let h : ReqHdr := { stall := c.stall, handle := e.dhandle, len := part.length / 64, offset := e.doff * 4096 + 4096 * i, key := e.dkey }
    let (acc, s) := submit s (.mailbox c.number) 2 h part
    updCmd s c.number (fun x => { x with reads := x.reads ++ [(acc, i)] })) s

/-- Must a SHEAF_SET still read the record mirror of the stalk it rebuilds (R451): the sheaf to read through. -/
def mirrorNeeded (s : State) (c : Cmd) (e : CmdEntry) : Option Sheaf :=
  if c.opc = 0x84 && !Tab.has c.area mirrorPage && !s.dom.fenced then
    match stalkTable (fld (e.c 3) 3 0) (areaBytes c e) with
    | some (1, x) => some { x with handle := e.handle }
    | _ => none
  else none

/-- Read the record mirror of a stalk to rebuild. -/
def askMirror (s : State) (c : Cmd) (x : Sheaf) : State :=
  let size := match regionOf s x.handle with | some g => g.bytes | none => Config.stalkSize x.handle
  let acc := s.eng.nextAcc
  let s := readStalk s x (.mailbox c.number) (mirrorStalk x) (size + 256 * x.self) 1
  updCmd s c.number (fun y => { y with reads := y.reads ++ [(acc, mirrorPage)] })

/-! ### One command -/

/-- The registry records a refused claim (R31). -/
def claimRefused (s : State) (c : Cmd) (e : CmdEntry) (words : List Word) : State :=
  let w := (words[0]?).getD 0
  let note := fun (res obj : Nat) => claimRecord s 0x0203 res obj (fld w 47 36) (fld w 35 16) 0
  if c.opc = 0x90 then note (fld (e.c 3) 15 0) (fld (e.c 3) 47 16)
  else if c.opc = 0x71 then note 0x0D (fld (e.c 3) 1 0 * 8 + fld (e.c 3) 4 2)
  else if c.opc = 0x72 then note 0x0C (fld (e.c 3) 4 0)
  else s

/-- Check a command whose data area is there, once the lines of an index that it reads or writes itself are. -/
def decide_ (s : State) (c : Cmd) (e : CmdEntry) : State :=
  let missing := missingNeeds s (indexCmdNeeds s (committed s) c.opc e (areaBytes c e))
  if !missing.isEmpty then askNeeds s missing
  else match checkCmd s (committed s) c e (areaBytes c e) with
  | .refuse status cause words =>
    refuseCmd (if status = RESOURCE_HELD then claimRefused s c e words else s) c status cause words true
  | .commit s changes result drain => commitCmd s c changes result drain

/-- ATTEST writes its evidence first and ends when every write is answered (R485). -/
def attestCmd (s : State) (c : Cmd) (e : CmdEntry) : State :=
  if !c.asked then
    match attestBytes s e with
    | .error r => refuseCmd s c r.1 r.2 [] false
    | .ok d => writeArea (updCmd s c.number (fun c => { c with result := [word d.length] })) c e d
  else if !c.reads.isEmpty then s
  else match c.failed with
    | some status => refuseCmd s c status 0 [] false
    | none => commitCmd s c [] c.result none

/-- Take a waiting command as far as it goes. -/
def stepCmd (s : State) (c : Cmd) (e : CmdEntry) : State :=
  match preCheck s c e with
  | some (status, cause, words, audit) => refuseCmd s c status cause words audit
  | none =>
    if c.opc = 0x62 then attestCmd s c e
    else if hasArea c.opc && decide (0 < e.dlen) then
      if !c.asked then askArea s c e
      else if !c.reads.isEmpty then s
      else match c.failed with
        | some status => refuseCmd s c status 0 [] true
        | none => match mirrorNeeded s c e with
          | some x => askMirror s c x
          | none => decide_ s c e
    else decide_ s c e

/-- Is an earlier command of the same mailbox still waiting (R417). -/
def cmdBehind (s : State) (c : Cmd) : Bool :=
  s.mb.cmds.any (fun x => decide (x.number < c.number) && x.iss.fn == c.iss.fn && x.waiting.isSome)

/-- Take every waiting command as far as it goes, in commit order (R417). -/
def runMailboxes (s : State) : State :=
  each (s.mb.cmds.map (·.number)) (fun n s =>
    match s.mb.cmds.find? (fun c => c.number == n) with
    | some c => match c.waiting with
      | some e => if cmdBehind s c then s else stepCmd s c e
      | none => s
    | none => s) s

/-- Can an issuer reach the device: a fabric command comes on a port that is UP. -/
def reaches (s : State) (i : Issuer) : Bool :=
  match i with
  | .fabric p _ _ | .quorum p _ _ => portUp s p
  | _ => true

/-- The command as it is taken: the principal of a VF's command is its stall's (Table 16.5). -/
def newCmd (s : State) (i : Issuer) (opc : Nat) (e : CmdEntry) : Cmd :=
  let stall := fnStall i.fn
  { number := s.mb.nextCmd, iss := i, opc := opc, seq := e.seq, stall := stall
    principal := if i.operator then e.principal else stallPrincipal s stall, params := e.params, waiting := some e }

/-- Put a command into its mailbox's order. -/
def takeCmd (s : State) (i : Issuer) (opc : Nat) (e : CmdEntry) : State :=
  { s with mb := { s.mb with cmds := s.mb.cmds ++ [newCmd s i opc e], nextCmd := s.mb.nextCmd + 1 } }

/-- A command arrives at a mailbox (R414, R415). -/
def mailbox (s : State) (i : Issuer) (opc : Nat) (e : CmdEntry) : State :=
  if !reaches s i then s
  else if 16 ≤ mbOut s i.fn then
    match i with
    | .fabric p src xid => mbRefuse s p src xid BUSY_RETRY 10
    | .quorum p src xid => send s p (.mgmt 0x38 { src := s.dom.devid, dst := src, mstat := BUSY_RETRY, xid := xid } [])
    | i => updFunc s i.fn (fun f => { f with overrun := true, overrunAt := now s })
  else settleAll (runMailboxes (takeCmd s i opc e))

/-- OPC and entry that words C0 to C13 spell (Table 16.5). -/
def entryOf (ws : List Word) : Nat × CmdEntry :=
  let w := fun (i : Nat) => (ws[i]?).getD 0
  (fld (w 0) 63 56, { seq := fld (w 0) 55 40, principal := fld (w 0) 39 20, dlen := fld (w 0) 19 0, dhandle := fld (w 1) 63 40, rsv := fld (w 1) 39 36
                      doff := fld (w 1) 35 0, dkey := w 2, params := (ws.drop 3).take 11 })

/-- The issuer that a function's mailbox is. -/
def issuerOf (fn : Nat) : Issuer := if fn = 0 then .pf else .vf fn

/-- GO copies MB_CMD as a command (R414). -/
def goNow (s : State) (fn : Nat) : State :=
  let (opc, e) := entryOf (funcOf s fn).cmd
  mailbox s (issuerOf fn) opc e

def execGo (fn : Nat) (s : State) : Host.Outcome State Fault Refusal := done s (goNow s fn)

/-! ### The commands -/

def execRegionCreate (i : Issuer) (e : CmdEntry) (s : State) : Host.Outcome State Fault Refusal := done s (mailbox s i 0x10 e)

def execRegionDestroy (i : Issuer) (e : CmdEntry) (s : State) : Host.Outcome State Fault Refusal := done s (mailbox s i 0x11 e)

def execRegionRead (i : Issuer) (e : CmdEntry) (s : State) : Host.Outcome State Fault Refusal := done s (mailbox s i 0x12 e)

def execKeyIssue (i : Issuer) (e : CmdEntry) (s : State) : Host.Outcome State Fault Refusal := done s (mailbox s i 0x13 e)

def execKeyRevoke (i : Issuer) (e : CmdEntry) (s : State) : Host.Outcome State Fault Refusal := done s (mailbox s i 0x14 e)

def execOwnerSet (i : Issuer) (e : CmdEntry) (s : State) : Host.Outcome State Fault Refusal := done s (mailbox s i 0x15 e)

def execGwBind (i : Issuer) (e : CmdEntry) (s : State) : Host.Outcome State Fault Refusal := done s (mailbox s i 0x16 e)

def execHbmSplit (i : Issuer) (e : CmdEntry) (s : State) : Host.Outcome State Fault Refusal := done s (mailbox s i 0x17 e)

def execTrayDiscard (i : Issuer) (e : CmdEntry) (s : State) : Host.Outcome State Fault Refusal := done s (mailbox s i 0x18 e)

def execTrayRelease (i : Issuer) (e : CmdEntry) (s : State) : Host.Outcome State Fault Refusal := done s (mailbox s i 0x19 e)

def execMapStage (i : Issuer) (e : CmdEntry) (s : State) : Host.Outcome State Fault Refusal := done s (mailbox s i 0x20 e)

def execMapSwitch (i : Issuer) (e : CmdEntry) (s : State) : Host.Outcome State Fault Refusal := done s (mailbox s i 0x21 e)

def execMapStatus (i : Issuer) (e : CmdEntry) (s : State) : Host.Outcome State Fault Refusal := done s (mailbox s i 0x22 e)

def execMovePrepare (i : Issuer) (e : CmdEntry) (s : State) : Host.Outcome State Fault Refusal := done s (mailbox s i 0x23 e)

def execStallSet (i : Issuer) (e : CmdEntry) (s : State) : Host.Outcome State Fault Refusal := done s (mailbox s i 0x30 e)

def execStallBind (i : Issuer) (e : CmdEntry) (s : State) : Host.Outcome State Fault Refusal := done s (mailbox s i 0x31 e)

def execQuotaSet (i : Issuer) (e : CmdEntry) (s : State) : Host.Outcome State Fault Refusal := done s (mailbox s i 0x32 e)

def execPoliceSet (i : Issuer) (e : CmdEntry) (s : State) : Host.Outcome State Fault Refusal := done s (mailbox s i 0x33 e)

def execSchedSet (i : Issuer) (e : CmdEntry) (s : State) : Host.Outcome State Fault Refusal := done s (mailbox s i 0x34 e)

def execMeterRead (i : Issuer) (e : CmdEntry) (s : State) : Host.Outcome State Fault Refusal := done s (mailbox s i 0x35 e)

def execEngineSet (i : Issuer) (e : CmdEntry) (s : State) : Host.Outcome State Fault Refusal := done s (mailbox s i 0x36 e)

def execQpAssign (i : Issuer) (e : CmdEntry) (s : State) : Host.Outcome State Fault Refusal := done s (mailbox s i 0x40 e)

def execQpRead (i : Issuer) (e : CmdEntry) (s : State) : Host.Outcome State Fault Refusal := done s (mailbox s i 0x41 e)

def execQpRelease (i : Issuer) (e : CmdEntry) (s : State) : Host.Outcome State Fault Refusal := done s (mailbox s i 0x42 e)

def execThresherReturn (i : Issuer) (e : CmdEntry) (s : State) : Host.Outcome State Fault Refusal := done s (mailbox s i 0x43 e)

def execTableLoad (i : Issuer) (e : CmdEntry) (s : State) : Host.Outcome State Fault Refusal := done s (mailbox s i 0x50 e)

def execTableRetire (i : Issuer) (e : CmdEntry) (s : State) : Host.Outcome State Fault Refusal := done s (mailbox s i 0x51 e)

def execIndexLoad (i : Issuer) (e : CmdEntry) (s : State) : Host.Outcome State Fault Refusal := done s (mailbox s i 0x52 e)

def execIndexPart (i : Issuer) (e : CmdEntry) (s : State) : Host.Outcome State Fault Refusal := done s (mailbox s i 0x53 e)

def execIndexBatch (i : Issuer) (e : CmdEntry) (s : State) : Host.Outcome State Fault Refusal := done s (mailbox s i 0x54 e)

def execIndexCommit (i : Issuer) (e : CmdEntry) (s : State) : Host.Outcome State Fault Refusal := done s (mailbox s i 0x55 e)

def execIndexQepoch (i : Issuer) (e : CmdEntry) (s : State) : Host.Outcome State Fault Refusal := done s (mailbox s i 0x56 e)

def execIndexCompact (i : Issuer) (e : CmdEntry) (s : State) : Host.Outcome State Fault Refusal := done s (mailbox s i 0x57 e)

def execIndexUnload (i : Issuer) (e : CmdEntry) (s : State) : Host.Outcome State Fault Refusal := done s (mailbox s i 0x58 e)

def execSealInstall (i : Issuer) (e : CmdEntry) (s : State) : Host.Outcome State Fault Refusal := done s (mailbox s i 0x60 e)

def execSealRemove (i : Issuer) (e : CmdEntry) (s : State) : Host.Outcome State Fault Refusal := done s (mailbox s i 0x61 e)

def execAttest (i : Issuer) (e : CmdEntry) (s : State) : Host.Outcome State Fault Refusal := done s (mailbox s i 0x62 e)

def execFwStage (i : Issuer) (e : CmdEntry) (s : State) : Host.Outcome State Fault Refusal := done s (mailbox s i 0x63 e)

def execFwRoll (i : Issuer) (e : CmdEntry) (s : State) : Host.Outcome State Fault Refusal := done s (mailbox s i 0x64 e)

def execKeyRotate (i : Issuer) (e : CmdEntry) (s : State) : Host.Outcome State Fault Refusal := done s (mailbox s i 0x65 e)

def execReset (i : Issuer) (e : CmdEntry) (s : State) : Host.Outcome State Fault Refusal := done s (mailbox s i 0x70 e)

def execDebugHalt (i : Issuer) (e : CmdEntry) (s : State) : Host.Outcome State Fault Refusal := done s (mailbox s i 0x71 e)

def execLoopback (i : Issuer) (e : CmdEntry) (s : State) : Host.Outcome State Fault Refusal := done s (mailbox s i 0x72 e)

def execDirRead (i : Issuer) (e : CmdEntry) (s : State) : Host.Outcome State Fault Refusal := done s (mailbox s i 0x73 e)

def execRegRead (i : Issuer) (e : CmdEntry) (s : State) : Host.Outcome State Fault Refusal := done s (mailbox s i 0x74 e)

def execRegWrite (i : Issuer) (e : CmdEntry) (s : State) : Host.Outcome State Fault Refusal := done s (mailbox s i 0x75 e)

def execPortSet (i : Issuer) (e : CmdEntry) (s : State) : Host.Outcome State Fault Refusal := done s (mailbox s i 0x76 e)

def execDomainJoin (i : Issuer) (e : CmdEntry) (s : State) : Host.Outcome State Fault Refusal := done s (mailbox s i 0x80 e)

def execLeaseStatus (i : Issuer) (e : CmdEntry) (s : State) : Host.Outcome State Fault Refusal := done s (mailbox s i 0x81 e)

def execDeviceExpel (i : Issuer) (e : CmdEntry) (s : State) : Host.Outcome State Fault Refusal := done s (mailbox s i 0x82 e)

def execQuorumSet (i : Issuer) (e : CmdEntry) (s : State) : Host.Outcome State Fault Refusal := done s (mailbox s i 0x83 e)

def execSheafSet (i : Issuer) (e : CmdEntry) (s : State) : Host.Outcome State Fault Refusal := done s (mailbox s i 0x84 e)

def execClaim (i : Issuer) (e : CmdEntry) (s : State) : Host.Outcome State Fault Refusal := done s (mailbox s i 0x90 e)

def execRelease (i : Issuer) (e : CmdEntry) (s : State) : Host.Outcome State Fault Refusal := done s (mailbox s i 0x91 e)

def execClaimList (i : Issuer) (e : CmdEntry) (s : State) : Host.Outcome State Fault Refusal := done s (mailbox s i 0x92 e)

end Sys2Proof.Machine
end

