-- ==== Sys2Proof/Machine/QueuePairs.lean ====
section
/-! DEFINITION. Queue pairs: reads at a home within an admission or a portion, completions, interrupts (R395, R403 to R405). -/

namespace Sys2Proof.Machine

/-! ### Engine reads and stores at a home (R154) -/

/-- The header fields an engine's accesses share: stall, service, queue pair. -/
structure Charge where
  stall : Nat := 0
  svc : Nat := 0
  qp : Nat := 0
deriving DecidableEq, Repr

/-- What an engine read has come to. -/
inductive Fetched where
  | waiting
  | failed (status : Nat) (detail : Word)
  | data (d : List Byte)
deriving DecidableEq, Repr

/-- Pieces of n bytes from an offset, whole lines, none across a 4 KiB page: offset and lines. -/
def pieces (off n : Nat) : List (Nat × Nat) :=
  let first := off / 64
  let last := (off + n + 63) / 64
  (List.range ((last + 63) / 64 - first / 64)).map (fun i =>
    let lo := max first ((first / 64 + i) * 64)
    let hi := min last ((first / 64 + i + 1) * 64)
    (lo * 64, hi - lo))

/-- Accesses for a use, in the order of their issue. -/
def accessesOf (s : State) (u : AccUse) : List Access := s.eng.access.filter (fun a => a.use == u)

/-- Issue the loads of a read (R302: one for each page). -/
def issueReads (s : State) (u : AccUse) (c : Charge) (h : Nat) (key : Word) (ownep off n : Nat) : State :=
  each (pieces off n) (fun (o, k) s =>
    (submit s u 1 { stall := c.stall, svc := c.svc, qp := c.qp, handle := h, key := key, ownep := ownep, offset := o, len := k } []).2) s

/-- The bytes of a read once every load has its answer; the loads are then done with. -/
def takeReads (s : State) (u : AccUse) (off n : Nat) : Fetched × State :=
  let mine := accessesOf s u
  if mine.isEmpty || mine.any (·.answer.isNone) then (.waiting, s)
  else
    let s := { s with eng := { s.eng with access := s.eng.access.filter (fun a => a.use != u) } }
    let answers := mine.filterMap (·.answer)
    match answers.find? (fun a => a.1 != OK && a.1 != OK_COMBINED) with
    | some a => (.failed a.1 a.2.1, s)
    | none => (.data (slice (answers.flatMap (·.2.2)) (off % 64) n), s)

/-- Read n bytes of a region as an engine: the loads are issued once, and answer when they may. -/
def fetch (s : State) (u : AccUse) (c : Charge) (h : Nat) (key : Word) (ownep off n : Nat) : Fetched × State :=
  if (accessesOf s u).isEmpty then takeReads (issueReads s u c h key ownep off n) u off n else takeReads s u off n

/-- Drop the accesses of uses given up. -/
def dropUses (s : State) (p : AccUse → Bool) : State :=
  { s with eng := { s.eng with access := s.eng.access.filter (fun a => !p a.use) } }

/-- Issue the stores of whole lines; gives how many (R306: one stream of the stall). -/
def issueStores (s : State) (u : AccUse) (c : Charge) (h : Nat) (key : Word) (off : Nat) (d : List Byte) : Nat × State :=
  let ps := pieces off d.length
  (ps.length, each ps (fun (o, k) s =>
    (submit s u 2 { stall := c.stall, svc := c.svc, qp := c.qp, handle := h, key := key, offset := o, len := k } (slice d (o - off) (64 * k))).2) s)

/-- A STORE_MASKED unit that puts bytes at a place of a line (Table 5.2). -/
def maskUnit (at_ : Nat) (d : List Byte) : List Byte :=
  let base := if at_ + d.length ≤ 56 then 0 else 8
  let mask := (2 ^ d.length - 1) * 2 ^ (at_ - base)
  slice (List.replicate (at_ - base) 0 ++ d) 0 56 ++ wordBytes (pack [(56, base), (0, mask)])

/-- Store a few bytes inside one line. -/
def issueMasked (s : State) (u : AccUse) (c : Charge) (h : Nat) (key : Word) (off : Nat) (d : List Byte) : State :=
  (submit s u 3 { stall := c.stall, svc := c.svc, qp := c.qp, handle := h, key := key, offset := off / 64 * 64, len := 1 } (maskUnit (off % 64) d)).2

/-! ### The rings (R395) -/

/-- Byte offsets of a queue pair's control line, submission slot and completion slot. -/
def Qp.control (c : Qp) : Nat := c.ringOff * 4096
def Qp.sqSlot (c : Qp) (n : Nat) : Nat := c.control + 4096 + n % 2 ^ c.log2sq * 128
def Qp.cqSlot (c : Qp) (n : Nat) : Nat := c.control + 4096 + 2 ^ c.log2sq * 128 + n % 2 ^ c.log2cq * 128

/-- Function that a queue pair's interrupts go to (R388, Table 15.4). -/
def Qp.fn (c : Qp) : Nat := if c.stall = 0 ∧ c.pfv then 0 else c.stall + 1

/-! ### Interrupts (R405) -/

/-- Raise the interrupt of a queue pair; both counts start again. -/
def qpInterrupt (s : State) (n : Nat) (c : Qp) : State :=
  let s := updQp s n (fun c => { c with count := 0, irqAt := none })
  if c.ivec = 0x1FF then s else interrupt s c.fn c.ivec

/-- Count a completion towards the interrupts of its queue pair. -/
def countCompletion (s : State) (n : Nat) : State :=
  match Tab.get? s.qps n with
  | none => s
  | some c =>
    let c := { c with count := c.count + 1, irqAt := if c.irqAt = none ∧ c.ibells ≠ 0 then some (s.time.bell + word c.ibells) else c.irqAt }
    let s := updQp s n (fun _ => c)
    if c.icnt ≠ 0 ∧ c.icnt ≤ c.count then qpInterrupt s n c else s

/-! ### Completions (R403, R404) -/

/-- A completion entry as it waits: JOB, STATUS, FINAL, CID, USER and the record; PHASE and SQHEAD come when it is
written (Table 15.7). -/
def completionWords (job status : Nat) (final : Bool) (cid : Nat) (user : Word) (rec : List Word) : List Word :=
  pack [(56, job % 128), (48, status), (47, b2n final), (16, cid)] :: user :: rec

/-- Write one entry at CQTAIL: bytes 64 to 127 before bytes 0 to 63, then W3 and W2. A ring that cannot be written is an
error, and the entry is discarded (R409). -/
def writeCompletion (s : State) (n : Nat) (c : Qp) (ws : List Word) (noirq : Bool) : State :=
  match localCheck s c.ring c.rkey (c.cqSlot c.cqtail) 128 2 with
  | .error e => qpError s n 3 e.1
  | .ok _ =>
    let phase := b2n (c.cqtail / 2 ^ c.log2cq % 2 == 0)
    let w := (List.range 16).map (fun i =>
      let x := (ws[i]?).getD 0
      if i = 0 then x + pack [(63, phase)] else if i = 10 then word c.sqhead else x)
    let d := wordsBytes w
    let ch : Charge := { stall := c.stall, qp := n }
    let slot := c.cqSlot c.cqtail
    let s := (issueStores s (.ring n) ch c.ring c.rkey (slot + 64) (slice d 64 64)).2
    let s := (issueStores s (.ring n) ch c.ring c.rkey slot (slice d 0 64)).2
    let s := updQp s n (fun c => { c with cqtail := c.cqtail + 1 })
    let s := issueMasked s (.ring n) ch c.ring c.rkey (c.control + 24) (natLe 8 (c.cqtail + 1))
    let s := issueMasked s (.ring n) ch c.ring c.rkey (c.control + 16) (natLe 8 c.sqhead)
    if noirq then s else countCompletion s n

/-- Is there room for another completion. -/
def Qp.room (c : Qp) : Bool := decide (c.cqtail < c.cqhead + 2 ^ c.log2cq)

/-- Complete an entry of a queue pair: written now, or held in order while the ring is full; the first held is recorded. -/
def complete (s : State) (n : Nat) (ws : List Word) (noirq : Bool) : State :=
  match Tab.get? s.qps n with
  | none => s
  | some c =>
    if c.state = 0 then s
    else if c.held.isEmpty && c.room then writeCompletion s n c ws noirq
    else
      let s := if c.held.isEmpty then qpRecord s c 0x0F03 (word n) (word c.cqhead) (word c.cqtail) 0 else s
      updQp s n (fun c => { c with held := c.held ++ [(ws, noirq)] })

/-- Write held completions while there is room. -/
def flushHeld : Nat → State → Nat → State
  | 0, s, _ => s
  | fuel + 1, s, n => match Tab.get? s.qps n with
    | none => s
    | some c => match c.held with
      | [] => s
      | (ws, noirq) :: rest =>
        if c.room then flushHeld fuel (writeCompletion (updQp s n (fun c => { c with held := rest })) n { c with held := rest } ws noirq) n
        else s

/-- Write every held completion that has room. -/
def flushCompletions (s : State) (n : Nat) : State := flushHeld ((Tab.getD s.qps n {}).held.length) s n

/-! ### INTERRUPT_DELAY_EXPIRY and QP_RELEASED -/

/-- The IBELLS-th strike after the first completion not yet signalled has come (R405). -/
def interruptDue (s : State) (n : Nat) : State :=
  match Tab.get? s.qps n with
  | some c => if c.state ≠ 0 && c.irqAt.any (fun b => decide (b.toNat ≤ bellN s)) then qpInterrupt s n c else s
  | none => s

def execInterruptDelayExpiry (qp : Nat) (s : State) : Host.Outcome State Fault Refusal := done s (interruptDue s qp)

/-- At the first strike at which nothing is in flight or held, a RELEASING queue pair is FREE (R408). -/
def releaseQp (s : State) (n : Nat) : State :=
  match Tab.get? s.qps n with
  | some c =>
    if c.state = 3 && s.time.phase == 0 && inflight s n == 0 && c.held.isEmpty then
      let s := qpRecord { s with qps := Tab.erase s.qps n } c 0x0F04 (word n) s.time.bell 0 0
      endDrains s (fun d => d == .qp n) OK s.time.bell []
    else s
  | none => s

def execQpReleased (qp : Nat) (s : State) : Host.Outcome State Fault Refusal := done s (releaseQp s qp)

end Sys2Proof.Machine
end

