-- ==== Sys2Proof/Machine/JobEnd.lean ====
section
/-! DEFINITION. Jobs: their records, messages and completions, and how a job ends (R269, R284, R291, R294, R296, R319 to R321, R351, R352). -/

namespace Sys2Proof

/-- KIND of an engine in RESET (Table 16.16). -/
def EngineKind.number : EngineKind → Nat
  | .thresher => 0
  | .gleaner => 1
  | .winnow => 2
  | .searchEngine => 3
  | .macArray => 4
  | .expander => 5

/-- TARGET of an engine. -/
def engineTarget (q : Nat) (k : EngineKind) (i : Nat) : Nat := 2 ^ 14 * q + 2 ^ 11 * k.number + i

end Sys2Proof

namespace Sys2Proof.Machine

/-! ### Jobs -/

/-- A job in progress by its JOBID. -/
def jobOf (s : State) (jobid : Nat) : Option Job := s.eng.jobs.find? (fun j => j.jobid == jobid)

/-- Change a job. -/
def updJob (s : State) (jobid : Nat) (f : Job → Job) : State :=
  { s with eng := { s.eng with jobs := adjustWhere s.eng.jobs (fun j => j.jobid == jobid) f } }

/-- Change what a job keeps. -/
def updBody (s : State) (jobid : Nat) (b : JobKind) : State := updJob s jobid (fun j => { j with body := b })

/-- Change what a reduction keeps; another kind of job is left alone. -/
def updRed (s : State) (jobid : Nat) (f : RedJob → RedJob) : State :=
  updJob s jobid (fun j => match j.body with | .red r => { j with body := .red (f r) } | _ => j)

def updGather (s : State) (jobid : Nat) (f : GatherJob → GatherJob) : State :=
  updJob s jobid (fun j => match j.body with | .gather r => { j with body := .gather (f r) } | _ => j)

def updWinnow (s : State) (jobid : Nat) (f : WinnowJob → WinnowJob) : State :=
  updJob s jobid (fun j => match j.body with | .winnow r => { j with body := .winnow (f r) } | _ => j)

def updSearch (s : State) (jobid : Nat) (f : SearchJob → SearchJob) : State :=
  updJob s jobid (fun j => match j.body with | .search r => { j with body := .search (f r) } | _ => j)

/-- JOB of a submission (Table 15.6), by the kind of job. -/
def JobKind.code : JobKind → Nat
  | .red _ => 1
  | .gather _ => 2
  | .winnow _ => 3
  | .search _ => 4

/-- The stall, service and queue pair a job's accesses are charged to. -/
def Job.charge (j : Job) : Charge := { stall := j.stall, svc := j.svc, qp := j.qp }

/-- A record of the engine sequencer of a quarter. -/
def engRecord (s : State) (quarter code stall : Nat) (p0 p1 p2 p3 : Word) : State :=
  record s { code := code, quarter := quarter, kind := 9, stall := stall, principal := stallPrincipal s stall, p0 := p0, p1 := p1, p2 := p2, p3 := p3 }

/-! ### Completions (Tables 10.9, 11.7, 12.13) -/

/-- Words Z0 to Z2 that every record begins with: ADMITTED with JKEY, FINAL with the word given. -/
def recordHead (s : State) (j : Job) (status : Nat) (final : Bool) (mkind miss : Nat) (w1 : Word) : List Word :=
  [pack [(32, j.jobid), (24, status), (23, b2n final), (21, mkind), (0, miss)], if final then w1 else j.jkey, s.time.bell]

/-- Queries whose results have been delivered, and totals over them. -/
def SearchJob.done (r : SearchJob) : List Merge := r.merges.filter (·.delivered)
def sumOf (ms : List Merge) (f : Summary → Nat) : Nat := ms.foldl (fun n m => n + f m.sum) 0

/-- The record of a completion. -/
def jobRecord (s : State) (j : Job) (status : Nat) (final : Bool) (mkind miss block : Nat) : List Word :=
  match j.body with
  | .red r => recordHead s j status final mkind miss (word block)
      ++ [if final then pack [(32, r.dups), (0, r.discards)] else 0]
      ++ (if final then reportWords r.report else [])
  | .gather r => recordHead s j status final 0 miss (word r.next)
      ++ (if final then [word r.delivered, pack [(32, r.oor), (0, r.badRows)], word r.firstBad] else [])
  | .winnow r => recordHead s j status final 0 miss (word r.next)
      ++ (if final then [word r.written, 0, 0, word r.dropped, pack [(32, r.discards)]] else [])
  | .search r =>
    let ms := r.done
    recordHead s j status final 0 0 (word ms.length)
      ++ [pack [(32, r.epoch), (0, if final then (ms.filter (fun m => m.sum.status != OK)).length else 0)]]
      ++ (if final then [word (sumOf ms (·.scanned)), pack [(32, sumOf ms (·.fallback)), (0, sumOf ms (·.tombpass))]
                        , pack [(32, sumOf ms (·.evaluated)), (0, sumOf ms (·.badpages))], pack [(32, r.discards)]] else [])

/-- Complete an entry for a job: ADMITTED or FINAL. -/
def completeJob (s : State) (j : Job) (status : Nat) (final : Bool) (mkind miss block : Nat) : State :=
  complete s j.qp (completionWords j.body.code status final j.cid j.user (jobRecord s j status final mkind miss block)) j.noirq

/-- JOB_END of a job's kind: PARAM2 is BLOCKS, OUT or QDONE. -/
def endRecord (s : State) (j : Job) (status : Nat) : State :=
  let (code, n) := match j.body with
    | .red r => (0x0A05, r.report.blocks)
    | .gather r => (0x0B04, r.delivered)
    | .winnow r => (0x0B04, r.written)
    | .search r => (0x0C06, r.done.length)
  engRecord s j.quarter code j.stall (word j.jobid) (pack [(8, status), (0, 1)]) (word n) s.time.bell

/-- Is an access made for a job. -/
def usedBy (jobid : Nat) (u : AccUse) : Bool :=
  match u with
  | .jobStore n _ => n == jobid
  | .jobRead n _ _ => n == jobid
  | .row n _ => n == jobid
  | _ => false

/-- Is an access a store of a job; the block stored. -/
def storedBlock (jobid : Nat) (u : AccUse) : Option Nat :=
  match u with
  | .jobStore n b => if n = jobid then some b else none
  | _ => none

/-- A job leaves the device: record, FINAL, and everything it held is given back (R291). -/
def dropJob (s : State) (j : Job) (status mkind miss block : Nat) : State :=
  let s := endRecord s j status
  let s := dropUses s (usedBy j.jobid)
  let s := { s with eng := { s.eng with
    jobs := s.eng.jobs.filter (fun o => o.jobid != j.jobid), portions := s.eng.portions.filter (fun p => p.jobid != j.jobid) } }
  completeJob s j status true mkind miss block

/-- A gather and the winnow it feeds. -/
def partnerOf (j : Job) : Option Nat :=
  match j.body with
  | .gather r => r.feeds
  | .winnow r => r.fedBy
  | _ => none

/-- A job ends before its work is done, with a status (R291, R319): a gather and the winnow it feeds end together. -/
def endJob (s : State) (jobid status mkind miss block : Nat) : State :=
  match jobOf s jobid with
  | none => s
  | some j =>
    let s := dropJob s j status mkind miss block
    match (partnerOf j).bind (jobOf s) with
    | some o => dropJob s o status 0 0 0
    | none => s

/-- FINAL of a job whose work is done. -/
def finishJob (s : State) (jobid status : Nat) : State :=
  match jobOf s jobid with
  | none => s
  | some j => dropJob s j status 0 0 0

/-! ### Messages of jobs -/

/-- Send an engine message of a job. -/
def sendEng (s : State) (jobid p opc : Nat) (h : EngHdr) (d : List Byte) (sealOf : Nat) : State :=
  match jobOf s jobid with
  | none => s
  | some j =>
    let h := { h with src := s.dom.devid, tag := j.seq % 65536, stall := j.stall, svc := j.svc, len := d.length / 64 }
    send (updJob s jobid (fun j => { j with seq := j.seq + 1 })) p (.eng opc h d sealOf)

/-- Discards of messages of a job (R296, R321, R525): one record for a job and cause in 1,000 bells, PARAM3 counting those
suppressed. -/
def discardEng (s : State) (q code stall : Nat) (h : EngHdr) (cause : Nat) (p1 : Word) : State :=
  let key := (code, h.jobid, cause)
  let put := fun (s : State) (n : Nat) => engRecord s q code stall (pack [(32, h.jobid)]) p1 (word cause) (word n)
  match s.eng.discardLog.find? (fun e => e.1 == key) with
  | some (_, b, n) =>
    let due := decide (1000 ≤ since s b)
    let s' := { s with eng := { s.eng with
      discardLog := adjustWhere s.eng.discardLog (fun e => e.1 == key) (fun e => if due then (e.1, s.time.bell, 0) else (e.1, b, n + 1)) } }
    if due then put s' n else s'
  | none => put { s with eng := { s.eng with discardLog := (key, s.time.bell, 0) :: s.eng.discardLog } } 0

/-- MSG_DISCARD of a message (Table 10.10): its sender's stall is the origin. -/
def discardRed (s : State) (q : Nat) (h : EngHdr) (cause : Nat) : State :=
  discardEng s q 0x0A01 h.stall h cause (pack [(48, h.src), (32, h.rank), (0, h.block % 2 ^ 32)])

/-- A copy of a RESULT that no port leads to: recorded, counted, and the job ends naming the rank, or the device for a
child (R284). -/
def lostCopy (s : State) (h : EngHdr) (epid : Nat) : State :=
  match jobOf s h.jobid with
  | none => s
  | some j => match j.body with
    | .red _ =>
      let s := engRecord s j.quarter 0x0A03 j.stall (word j.jobid) (word epid) (word h.block) 0
      let s := updRed s j.jobid (fun r => { r with discards := r.discards + 1 })
      let child := h.rank = 0xFFFF
      endJob s j.jobid MEDIA_ERROR (if child then 2 else 1) (if child then epid else h.rank) h.block
    | _ => s

end Sys2Proof.Machine
end

