-- ==== Sys2Proof/Machine/Links.lean ====
section
/-! DEFINITION. Ports: their states, HELLO, going down, lane sparing, windows, link frames (R56 to R70, R88, R429 to R432, R574). -/

namespace Sys2Proof.Machine

/-! ### Messages of management (R72, R74, Table 3.9) -/

/-- Is a management message in form: version, length, class. -/
def mgmtOk (h : MgmtHdr) : Bool := h.ver == 1 && decide (h.len ≤ 64) && h.tc == 0

/-- Data of a management message from which parts are cut: 63 units, so that a part with its header fits the 64 credits of
TC0 (R66, R70). -/
def partBytes : Nat := 4032

/-- Send a management message, in parts where it is longer than 4,096 bytes. -/
def sendMgmt (s : State) (p opc : Nat) (h : MgmtHdr) (d : List Byte) : State :=
  let h := { h with src := s.dom.devid, tc := 0 }
  if d.length ≤ 4096 then send s p (.mgmt opc { h with len := d.length / 64 } d)
  else
    let n := ceilDiv d.length partBytes
    each (List.range n) (fun i s =>
      let part := (d.drop (partBytes * i)).take partBytes
      send s p (.mgmt opc { h with len := part.length / 64, part := i, npart := n - 1 } part)) s

/-- A record of a port. -/
def portRecord (s : State) (p code : Nat) (p1 p2 p3 : Word) : State :=
  record s { code := code, quarter := portQuarter p, kind := 2, inst := portInst p, p0 := word p, p1 := p1, p2 := p2, p3 := p3 }

/-! ### States (Table 3.1) -/

/-- Number of a state (Table 20.9). -/
def PortState.code : PortState → Nat
  | .off => 0
  | .detect => 1
  | .train => 2
  | .align => 3
  | .hello => 4
  | .auth => 5
  | .up => 6
  | .authFail => 7

/-- Enter a state; DETECT, AUTH_FAIL and UP are recorded (R65). -/
def enterState (s : State) (p : Nat) (st : PortState) : State :=
  let old := (portOf s p).st
  let s := updPort s p (fun ps => { ps with st := st, since := s.time.bell })
  if st = .detect ∨ st = .authFail ∨ st = .up then portRecord s p 0x0301 (pack [(8, old.code), (0, st.code)]) 0 0 else s

/-- Is a port the odd half of a ganged pair (R58). -/
def oddHalf (s : State) (p : Nat) : Bool := p % 2 == 1 && (portOf s (p - 1)).gang

/-! ### Going down (R59, R179, R284, R359, R448) -/

/-- Move a message of a port that has gone down: a response and an engine message to another port towards the same
endpoint, a request still in its queue likewise. -/
def moveMessage (s : State) (p epid : Nat) (sent : Bool) (m : Msg) : State :=
  match m with
  | .rsp h d z => sendResponse s p epid h d z
  | .req opc h d => if sent then s else match (portsTo s epid).head? with
    | some o => send s o (.req opc h d)
    | none => s
  | .eng opc h d z => if sent then s else match (portsTo s epid).find? (fun o => z == 0 || policyOk s o z) with
    | some o => send s o (.eng opc h d z)
    | none => lostCopy s h epid
  | _ => s

/-- Deltas sent to a device that has no link left: each parity stalk is STALE, as one without a link is at once (Table 17.6). -/
def deltasLost (s : State) (dev : Nat) : State :=
  if !(portsToDevice s dev).isEmpty then s
  else each (s.dom.deltas.filter (fun d => d.dev == dev && !d.page && !d.acked)) (fun d s =>
    let s := markStale s d.handle d.stalk NO_HOME
    if d.req = 0 then { s with dom := { s.dom with deltas := s.dom.deltas.filter (fun e => !(e.dev == d.dev && e.tag == d.tag)) } } else s) s

/-- What a port forgets when its link is lost: its exchange, its session, its frames, its lanes. -/
def forgetLink (ps : PortS) : PortS :=
  { ps with
    helloIn := false, helloAckIn := false, epid := 0, ptype := 0, caps := 0, partnerPort := 0, iddig := [], helloSent := [], helloGot := []
    ackGot := [], partnerWindow := 0, badLanes := [], sparedLane := none, spareAsked := none, sparing := none, width := if ps.gang then 8 else 4
    step := .idle, rekeying := false, retryAt := none, keyId := 0, prevKeyId := none, framesIn := 0, framesOut := 0, nonce := []
    transcript := [], finishKey := [], partner := {}, partnerNext := {}, partnerKey := [], keys := {}, keysNext := {}, keysPrev := {}
    seqOut := 0, seqIn := 0, unacked := [], replay := []
    replays := 0, nakRun := (0, 0), tagFails := [], creditsHeld := [0, 0, 0, 0], noCredit := [0, 0, 0, 0], egress := [], tree := {}
    window := ps.setWindow, windowXid := none }

/-- Give back the shared granules of a port's egress queues. -/
def freeEgress (s : State) (p : Nat) (ms : List Queued) : State :=
  each (ms.filter (·.shared)) (fun m s => poolGive s (portQuarter p) (egressKey m.msg.tc p) m.msg.granules) s

/-- A port leaves for DETECT, OFF or AUTH_FAIL: its link is lost and its messages move (R59). -/
def dropPort (s : State) (p : Nat) (toward : PortState) : State :=
  let ps := portOf s p
  let s := if ps.sparedLane.isSome || ps.spareAsked.isSome || ps.sparing.isSome then dropClaim s 0x0B (spareLane p) else s
  let s := updPort (enterState s p toward) p forgetLink
  let s := freeEgress s p ps.egress
  if ps.st = .up then
    let s := each (ps.unacked.map (·.msg)) (fun m s => moveMessage s p ps.epid true m) s
    let s := each (ps.egress.map (·.msg)) (fun m s => moveMessage s p ps.epid false m) s
    let s := endDrains s (· == .port p 4) OK s.time.bell []
    settleAll (if ps.ptype = 1 then deltasLost s ps.epid else s)
  else s

/-- A link is lost: the port goes to DETECT. -/
def linkLost (s : State) (p : Nat) : State :=
  match (portOf s p).st with
  | .off | .detect | .authFail => s
  | _ => dropPort s p .detect

def execLinkDown (p : Nat) (s : State) : Host.Outcome State Fault Refusal := done s (if oddHalf s p then s else linkLost s p)

/-! ### Bring-up (R64, R66, R430 to R432) -/

/-- Credits that the device advertises (R66). -/
def advertised (ps : PortS) : List Nat := if ps.gang then [128, 4096, 4096, 4096] else [64, 2048, 2048, 2048]

/-- The device's HELLO and HELLO_ACK payload (Table 3.2). -/
def helloBytes (s : State) (p : Nat) : List Byte :=
  let ps := portOf s p
  natLe 2 s.dom.devid ++ [1, 3] ++ natLe 1 ps.setWindow ++ [1, 0, 0] ++ (advertised ps).flatMap (natLe 4) ++ natLe 2 p ++ List.replicate 6 0
    ++ padTo 32 ((Config.shake256 (Config.aliasPublic s.sec.aliasGen) 32).take 32)

/-- A HELLO or HELLO_ACK has its reserved fields zero (R72, Table 3.2): CAPS[7:3] and bytes 0x06, 0x07 and 0x1A to 0x1F. -/
def helloForm (d : List Byte) : Bool := decide (natAt d 3 1 < 8) && allZero (slice d 6 2) && allZero (slice d 0x1A 6)

/-- A partner's HELLO payload is compatible (DESIGN CHOICE, log 21: the manual does not say what compatible means): a version,
a PTYPE of Table 3.2, an endpoint ID of its kind, ganging where the port is ganged. -/
def helloFits (ps : PortS) (d : List Byte) : Bool :=
  let epid := natAt d 0 2
  let ptype := natAt d 2 1
  let caps := natAt d 3 1
  d.length == 64 && decide (1 ≤ natAt d 5 1) && decide (1 ≤ ptype) && decide (ptype ≤ 3)
    && (if ptype = 1 then decide (epid < 0x40) else decide (0x40 ≤ epid) && decide (epid < 0xFFFF)) && (!ps.gang || caps / 2 % 2 == 1)

/-- Does a HELLO claim the device's own ID (R432), or the ID of an expelled device (R442). -/
def helloBarred (s : State) (d : List Byte) : Bool := natAt d 2 1 == 1 && (s.dom.expelled.contains (natAt d 0 2))

def helloClash (s : State) (d : List Byte) : Bool := natAt d 2 1 == 1 && natAt d 0 2 == s.dom.devid

def execSignalDetected (p : Nat) (s : State) : Host.Outcome State Fault Refusal :=
  done s (if (portOf s p).st = .detect ∧ s.dom.dvalid ∧ !oddHalf s p then enterState s p .train else s)

def execTrainingDone (p : Nat) (s : State) : Host.Outcome State Fault Refusal :=
  done s (if (portOf s p).st = .train then enterState s p .align else s)

/-- FEC lock: the port goes to HELLO and sends HELLO. -/
def aligned (s : State) (p : Nat) : State :=
  let d := helloBytes s p
  let s := updPort (enterState s p .hello) p (fun ps => { ps with helloSent := d })
  sendMgmt s p 1 { xid := 0 } d

def execAlignDone (p : Nat) (s : State) : Host.Outcome State Fault Refusal :=
  done s (if (portOf s p).st = .align then aligned s p else s)

/-! ### Lane sparing (R60 to R63) -/

/-- Is the sparing group of a port protected: its eight ports lead to one partner, which declares sparing. -/
def groupProtected (s : State) (p : Nat) : Bool :=
  let ps := portOf s p
  (List.range 8).all (fun i =>
    let o := portOf s (p / 8 * 8 + i)
    let o := if oddHalf s (p / 8 * 8 + i) then portOf s (p / 8 * 8 + i - 1) else o
    o.epid == ps.epid && o.helloIn && o.caps % 2 == 1)

/-- Lanes that a port with failed lanes keeps (R63). -/
def keptLanes (gang : Bool) (bad : List Nat) : List Nat :=
  let whole := fun (ls : List Nat) => ls.all (fun l => !bad.contains l)
  let all := if gang then [[0, 1, 2, 3, 4, 5, 6, 7], [0, 1, 2, 3], [4, 5, 6, 7], [0, 1], [2, 3], [4, 5], [6, 7]] else [[0, 1, 2, 3], [0, 1], [2, 3]]
  (all.find? whole).getD []

/-- A set of lanes as a mask. -/
def laneMask (ls : List Nat) : Nat := ls.foldl (fun m l => m + 2 ^ l) 0

/-- A failed lane without a spare: the port goes on with fewer lanes, or down (R63). -/
def degrade (s : State) (p lane : Nat) : State :=
  let ps := portOf s p
  let bad := addOnce ps.badLanes lane
  let kept := keptLanes ps.gang bad
  let s := updPort s p (fun ps => { ps with badLanes := bad, width := kept.length })
  if kept.isEmpty then linkLost s p
  else if kept = keptLanes ps.gang ps.badLanes then s
  else portRecord s p 0x0303 (word (laneMask kept)) 0 0

/-- Lane sparing takes the spare lane of a port's group, from a loopback test too, one committed in this bell included (R29, Table 1.7). -/
def takeSpare (s : State) (p : Nat) : State :=
  let spare := spareLane p
  let s := displaceClaim s 0x0C spare 0x0B
  makeClaim s { resource := 0x0B, object := spare, bell := s.time.bell, quarter := portQuarter p }

/-- Does a port's lane already stand on the spare, or is on its way there. -/
def onSpare (ps : PortS) (lane : Nat) : Bool :=
  ps.sparedLane == some lane || ps.spareAsked.any (fun a => a.1 == lane) || ps.sparing.any (fun a => a.1 == lane)

/-- A lane fails (R61): it is spared where the group is protected and its spare lane is free of sparing; a loopback test gives
way (Table 1.7). The frame of the move is named by the frame that carries the request (R62). -/
def laneFails (s : State) (p lane cause : Nat) : State :=
  let ps := portOf s p
  let spare := spareLane p
  if ps.badLanes.contains lane || onSpare ps lane || (!ps.gang && decide (4 ≤ lane)) then s
  else if groupProtected s p && (claimHeld s 0x0B spare).isNone then
    let s := updPort (takeSpare s p) p (fun ps => { ps with spareAsked := some (lane, 0, cause) })
    send s p (.spare 0x10 (bellN s % 2 ^ 24) lane 0)
  else degrade s p lane

/-- States in which a port carries frames. -/
def frameCarries (st : PortState) : Bool := st == .hello || st == .auth || st == .up

def execLaneFault (p lane cause : Nat) (s : State) : Host.Outcome State Fault Refusal :=
  done s (if frameCarries (portOf s p).st && !oddHalf s p then laneFails s p lane cause else s)

/-- A 16-bit sequence number extended to 64 bits from an expected one: the nearest with those low bits (R67). -/
def extendSeq (expected seq : Nat) : Nat :=
  let ahead := (seq + 65536 - expected % 65536) % 65536
  if ahead < 32768 then expected + ahead else expected + ahead - 65536

/-- A partner asks to move a lane to the spare: the spare lane is claimed, the request acknowledged, and the lane moves when the frame
comes (R62). With the spare lane in use by sparing already the request is left without an answer, and the cause of the record of the
move is 0 (DESIGN CHOICE, log 165). -/
def spareRequested (s : State) (p : Nat) (h : MgmtHdr) (lane frame : Nat) : State :=
  if !portUp s p then s
  else if !mgmtOk h then discardMessage s p h.src 3 1
  else if (claimHeld s 0x0B (spareLane p)).isSome then s
  else
    let at_ := extendSeq (portOf s p).seqIn frame
    let s := updPort (takeSpare s p) p (fun ps => { ps with sparing := some (lane, at_, true, 0) })
    moveLane (send s p (.spare 0x11 h.xid lane frame)) p

def execSpareReq (p : Nat) (h : MgmtHdr) (lane frame : Nat) (s : State) : Host.Outcome State Fault Refusal := done s (spareRequested s p h lane frame)

/-- The partner acknowledges: the lane moves at the frame named, at once where that has left. -/
def spareAcked (s : State) (p : Nat) (h : MgmtHdr) (lane frame : Nat) : State :=
  if !portUp s p then s
  else if !mgmtOk h then discardMessage s p h.src 3 1
  else match (portOf s p).spareAsked with
    | some (l, f, cause) =>
      if l = lane ∧ f % 65536 = frame then
        moveLane (updPort s p (fun ps => { ps with spareAsked := none, sparing := some (lane, f, false, cause) })) p
      else s
    | none => s

def execSpareAck (p : Nat) (h : MgmtHdr) (lane frame : Nat) (s : State) : Host.Outcome State Fault Refusal := done s (spareAcked s p h lane frame)

/-! ### The completion window (R88, R429, R574) -/

/-- A partner's new window: acknowledged, or refused outside 4 to 40 (R574). -/
def windowCame (s : State) (p : Nat) (h : MgmtHdr) (d : List Byte) : State :=
  if !portUp s p then s
  else if !mgmtOk h then discardMessage s p h.src 3 1
  else
    let w := natAt d 0 1
    let ok := h.len = 1 ∧ d.length = 64 ∧ 4 ≤ w ∧ w ≤ 40 ∧ allZero (d.drop 1)
    let s := if ok then updPort s p (fun ps => { ps with partnerWindow := w }) else s
    sendMgmt s p 0x13 { mstat := if ok then OK else UNSUPPORTED, xid := h.xid } []

def execWindow (p : Nat) (h : MgmtHdr) (d : List Byte) (s : State) : Host.Outcome State Fault Refusal := done s (windowCame s p h d)

/-- The partner acknowledges this device's window: it is in force (R88). -/
def windowAcked (s : State) (p : Nat) (h : MgmtHdr) : State :=
  if !portUp s p then s
  else if !mgmtOk h then discardMessage s p h.src 3 1
  else if (portOf s p).windowXid = some h.xid ∧ h.mstat = OK then
    endDrains (updPort s p (fun ps => { ps with window := ps.setWindow, windowXid := none })) (· == .port p 4) OK s.time.bell []
  else s

def execWindowAck (p : Nat) (h : MgmtHdr) (_d : List Byte) (s : State) : Host.Outcome State Fault Refusal := done s (windowAcked s p h)

/-- Announce a window (R88): until the acknowledgement the smaller of old and new is in force. A port whose HELLO has told the old one
keeps it, and announces the new one when it is UP. -/
def announce (s : State) (p w : Nat) : State :=
  if (portOf s p).st = .hello ∨ (portOf s p).st = .auth then updPort s p (fun ps => { ps with setWindow := w })
  else if !portUp s p then updPort s p (fun ps => { ps with setWindow := w, window := w })
  else
    let xid := bellN s % 2 ^ 24
    let s := updPort s p (fun ps => { ps with setWindow := w, window := min ps.window w, windowXid := some xid })
    sendMgmt s p 0x12 { xid := xid } (natLe 1 w ++ List.replicate 63 0)

/-- What PORT_SET does at its visibility strike (R429): the state area of the flash keeps it. -/
def setPort (s : State) (p action w : Nat) : State :=
  let ps := portOf s p
  let keep := fun (s : State) => { s with pkg := { s.pkg with flash := { s.pkg.flash with
    ports := each [p, p + 1] (fun o t => Tab.set t o ((portOf s o).enabled, (portOf s o).gang, (portOf s o).setWindow)) s.pkg.flash.ports } } }
  let again := fun (s : State) (o : Nat) => match (portOf s o).st with
    | .off | .authFail | .detect => s
    | _ => dropPort s o .detect
  if action = 0 then
    let s := updPort s p (fun ps => { ps with enabled := false })
    keep (if ps.st = .off then s else dropPort s p .off)
  else if action = 1 then
    let s := updPort s p (fun ps => { ps with enabled := true, failures := 0 })
    keep (if ps.st = .off ∨ ps.st = .authFail then enterState s p .detect else s)
  else if action = 2 then
    let odd := (portOf s (p + 1)).st
    let s := if odd = .off then s else dropPort s (p + 1) .off
    let s := again s p
    keep (updPort s p (fun ps => { ps with gang := true, width := 8 }))
  else if action = 3 then
    let s := again s p
    let s := updPort s p (fun ps => { ps with gang := false, width := 4 })
    keep (if ps.gang && ps.enabled then enterState (updPort s (p + 1) (fun o => { o with enabled := true })) (p + 1) .detect else s)
  else keep (announce s p w)

/-! ### Link frames (R67 to R70, R72) -/

/-- The nonce of a frame: the salt of its direction, then its sequence number, 64 bits (R67). A replayed frame has its original's. -/
def frameNonce (salt : List Byte) (seq : Nat) : List Byte := padTo 4 (salt.take 4) ++ natLe 8 seq

/-- Nonces of the frame that a port sends next, and of a frame that arrives at it. -/
def nonceOut (ps : PortS) : List Byte := frameNonce ps.keys.txSalt ps.seqOut
def nonceIn (ps : PortS) (f : FrameHdr) : List Byte :=
  frameNonce (if f.keyid = ps.keyId then ps.keys.rxSalt else ps.keysPrev.rxSalt) (extendSeq ps.seqIn f.seq)

/-- Send a NAK: a frame without a message. -/
def sendNak (s : State) (p : Nat) : State := send s p (.idle true (((portOf s p).seqIn + 65535) % 65536))

/-- The link goes to DETECT with a LINK_RETRAIN record (R69): cause 1 replays, 2 tag failures. -/
def retrain (s : State) (p cause : Nat) : State := linkLost (portRecord s p 0x0304 (word cause) 0 0) p

/-- Discard a frame and send NAK; too many failures retrain the link. -/
def frameFails (s : State) (p seq : Nat) (check : FrameCheck) : State :=
  let ps := portOf s p
  let replays := if extendSeq ps.seqIn seq = ps.seqIn ∧ check ≠ .good then ps.replays + 1 else ps.replays
  let recent := ps.tagFails.filter (fun b => decide (since s b < 1000))
  let tags := if check = .badTag then s.time.bell :: recent else recent
  let s := sendNak (updPort s p (fun ps => { ps with replays := replays, tagFails := tags })) p
  if 8 < replays then retrain s p 1 else if 16 < tags.length then retrain s p 2 else s

/-- The frames that a header leaves unacknowledged (R68). -/
def PortS.unackedAfter (ps : PortS) (f : FrameHdr) : List Sent := ps.unacked.filter (fun e => decide (extendSeq ps.seqOut f.ackseq < e.seq))

/-- Acknowledgements, credits and NAK of an accepted frame: on a NAK every frame after ACKSEQ is resent, in order (R68, R70). -/
def frameHeader (s : State) (p : Nat) (f : FrameHdr) : State :=
  let s := updPort s p (fun ps => { ps with
    seqIn := ps.seqIn + 1, replays := 0, framesIn := ps.framesIn + 1
    unacked := ps.unackedAfter f
    replay := if f.nak then (ps.unackedAfter f).map (·.seq) else ps.replay.filter (fun n => decide (extendSeq ps.seqOut f.ackseq < n))
    creditsHeld := modNth ps.creditsHeld f.ctc (· + f.credit)
    prevKeyId := if f.keyid = ps.keyId then none else ps.prevKeyId
    nakRun := if f.nak then (f.ackseq, if ps.nakRun.1 = f.ackseq then ps.nakRun.2 + 1 else 1) else (0, 0) })
  if 8 < (portOf s p).nakRun.2 then retrain s p 1 else pump (moveLane s p) p

/-- Opcodes that an engine or management message may carry. -/
def engineOpcode (o : Nat) : Bool := decide (1 ≤ o) && decide (o ≤ 4)
def mgmtOpcode (o : Nat) : Bool := [1, 2, 8, 9, 0x0A, 0x0B, 0x10, 0x11, 0x12, 0x13, 0x20, 0x21, 0x30, 0x31, 0x38].contains o

/-- A message that no row of the table takes, because its OPC is unknown (R72): a request is answered UNSUPPORTED, an engine or
management message discarded. -/
def unknownMessage (s : State) (p : Nat) (m : FrameMsg) : State :=
  if !portUp s p then s
  else if m.kind = 0 ∧ !isRequest m.opc then
    if (portOf s p).ptype = 2 ∧ m.src ≠ (portOf s p).epid then discardMessage s p m.src 0 2
    else refuse s p m.opc { src := m.src, tag := m.tag, tc := m.tc, len := m.len, cm := m.cm } UNSUPPORTED 0 0
  else if (m.kind = 2 ∧ !engineOpcode m.opc) ∨ (m.kind = 3 ∧ !mgmtOpcode m.opc) then discardMessage s p m.src m.kind 1
  else s

/-- A frame under a key that is neither the session's nor the one before (R93) fails its tag. -/
def keyCheck (ps : PortS) (f : FrameHdr) (check : FrameCheck) : FrameCheck :=
  if check == .good && f.keyid != ps.keyId && ps.prevKeyId != some f.keyid then .badTag else check

/-- A frame arrives (R69). The message it carries, if its OPC has a row, is that row's command. -/
def frameIn (s : State) (p : Nat) (f : FrameHdr) (check : FrameCheck) (m : FrameMsg) : State :=
  let ps := portOf s p
  let check := keyCheck ps f check
  if !frameCarries ps.st then s
  else if check ≠ .good ∨ extendSeq ps.seqIn f.seq ≠ ps.seqIn then frameFails s p f.seq check
  else if f.idle then frameHeader s p f
  else unknownMessage (frameHeader s p f) p m

def execLinkFrame (p : Nat) (f : FrameHdr) (check : FrameCheck) (m : FrameMsg) (s : State) : Host.Outcome State Fault Refusal :=
  done s (frameIn s p f check m)

end Sys2Proof.Machine
end

