-- ==== Sys2Proof/Machine/Sessions.lean ====
section
/-! DEFINITION. HELLO, link sessions and rekeying (R64, R91 to R94, R432, R482 to R486). -/

namespace Sys2Proof.Machine

/-! ### Chains and evidence (R482, R483, R486) -/

/-- Certificate i of a chain (Table 19.2), and its fields. -/
def certAt (d : List Byte) (i : Nat) : List Byte := slice d (6912 * i) 6912
def certKind (c : List Byte) : Nat := natAt c 2 1
def certKey (c : List Byte) : List Byte := slice c 0x40 1952

/-- Is a certificate signed by a key. -/
def signedBy (key c : List Byte) : Bool := natAt c 0 2 == 0xFC01 && Config.mldsaVerify key (c.take 0xE00) (slice c 0xE00 3309)

/-- Is a chain a device's (R482). -/
def deviceChainOk (d : List Byte) : Bool :=
  let c0 := certAt d 0
  let c1 := certAt d 1
  let c2 := certAt d 2
  certKind c0 == 0 && certKind c1 == 1 && certKind c2 == 2 && signedBy (certKey c0) c0 && Config.shake256 (certKey c0) 32 == Config.caDigest
    && signedBy (certKey c0) c1 && signedBy (certKey c1) c2 && wordAt c1 8 == wordAt c2 8

/-- Is a chain an endpoint's with that ID, bound by a member of the quorum (R483). -/
def endpointChainOk (s : State) (epid : Nat) (d : List Byte) : Bool :=
  let c0 := certAt d 0
  let c1 := certAt d 1
  let c2 := certAt d 2
  certKind c0 == 0 && certKind c1 == 3 && certKind c2 == 4 && signedBy (certKey c0) c0 && signedBy (certKey c0) c1
    && certKey c2 == certKey c1 && natAt c2 8 2 == epid && s.dom.members.any (fun m => signedBy m.2 c2)

/-- Bytes of a chain, of evidence, and of a nonce with key or ciphertext (Table 3.16). -/
def chainBytes : Nat := 20736
def evidenceBytes : Nat := 3584
def openBytes : Nat := 1600

/-- Bytes of SESS_INIT, and of SESS_RESP before its signature. -/
def bodyBytes : Nat := openBytes + chainBytes + evidenceBytes

/-- What a SESS_INIT or SESS_RESP shows of its sender: its key and its evidence; or the cause of a failure, 1 signature,
2 chain (Table 20.8). -/
def judge (s : State) (ps : PortS) (d : List Byte) : Except Nat (List Byte × Evidence) :=
  let chain := slice d openBytes chainBytes
  let ev := slice d (openBytes + chainBytes) evidenceBytes
  let dev := deviceChainOk chain
  if !dev && !endpointChainOk s ps.epid chain then .error 2
  else
    let key := certKey (certAt chain 2)
    if natAt ev 0 2 ≠ 0xFE01 ∨ natAt ev 2 1 ≠ (if dev then 1 else 2) ∨ slice ev 0x10 32 ≠ d.take 32
        ∨ !Config.mldsaVerify key (ev.take 0x100) (slice ev 0x100 3309) then .error 1
    else .ok (key, { device := dev, issuer := if dev then [] else slice (certAt chain 1) 0x10 32, epid := ps.epid
                     measures := (List.range 4).map (fun i => slice ev (0x40 + 32 * i) 32) })

/-! ### Keys (R91) -/

/-- T over what both ends have said, up to the responder's evidence. -/
def transcriptOf (hello ack init body : List Byte) : List Byte := Config.shake256 (hello ++ ack ++ init ++ body) 64

/-- The key material of a shared secret and T, 104 bytes (R91). -/
def keyMaterial (ss t : List Byte) : List Byte := Config.shake256 (ss ++ t ++ ascii "beypen-link-v1") 104

/-- FK of a shared secret and T. -/
def finishKeyOf (ss t : List Byte) : List Byte := slice (keyMaterial ss t) 72 32

/-- The two keys and salts of a shared secret and T, as one end uses them: the initiator's direction comes first (R91). -/
def linkKeysOf (ss t : List Byte) (initiator : Bool) : LinkKeys :=
  let m := keyMaterial ss t
  let i := slice m 0 32
  let r := slice m 32 32
  let si := slice m 64 4
  let sr := slice m 68 4
  if initiator then { txKey := i, txSalt := si, rxKey := r, rxSalt := sr } else { txKey := r, txSalt := sr, rxKey := i, rxSalt := si }

/-- The finish values of SESS_FIN and SESS_ACK. -/
def finishValue (fk t : List Byte) : List Byte := padTo 32 ((Config.shake256 (fk ++ t) 32).take 32)
def ackValue (fk t : List Byte) : List Byte := padTo 32 ((Config.shake256 (fk ++ t ++ [1]) 32).take 32)

/-- The signature of the device's alias key over T. -/
def signT (s : State) (t : List Byte) : List Byte := padTo 3309 ((Config.mldsaSign s.sec.aliasGen t).take 3309)

/-- A fresh nonce of 32 bytes. -/
def drawNonce (s : State) : List Byte × State :=
  let (a, s) := drawWord s
  let (b, s) := drawWord s
  let (c, s) := drawWord s
  let (d, s) := drawWord s
  (wordsBytes [a, b, c, d], s)

/-! ### Steps (Table 3.16) -/

/-- A step has been taken: the next must arrive within 100 bells (R92). -/
def atStep (s : State) (p : Nat) (st : SessStep) (f : PortS → PortS) : State :=
  updPort s p (fun ps => { f ps with step := st, stepBell := s.time.bell })

/-- Start an exchange as initiator: SESS_INIT goes out. -/
def startExchange (s : State) (p : Nat) : State :=
  let (nonce, s) := drawNonce s
  let draw := s.free
  let s := { s with free := s.free + 1 }
  let d := (nonce ++ padTo 1568 ((Config.kemPublic draw).take 1568)) ++ deviceChain s ++ padTo evidenceBytes ((evidence s nonce).take evidenceBytes)
  let s := atStep s p .sentInit (fun ps => { ps with nonce := nonce, kemDraw := draw, transcript := d, retryAt := none })
  sendMgmt s p 8 { xid := bellN s % 2 ^ 24 } d

/-- Does this end initiate (the lower endpoint ID). -/
def initiates (s : State) (ps : PortS) : Bool := decide (s.dom.devid < ps.epid)

/-- Both HELLO and HELLO_ACK are there: AUTH (R64). -/
def helloDone (s : State) (p : Nat) : State :=
  let ps := portOf s p
  if ps.helloIn && ps.helloAckIn then
    let s := enterState s p .auth
    if initiates s ps then startExchange s p else s
  else s

/-- An attempt fails (R92, R94): recorded with its step and cause; in AUTH the port waits 10,000 bells or, after three in a row,
goes to AUTH_FAIL; a rekey keeps its keys and is tried again. -/
def sessionFails (s : State) (p step cause : Nat) : State :=
  let ps := portOf s p
  let s := portRecord s p 0x0308 (word step) (word (if ps.st = .up then 4 else cause)) 0
  let again := some (s.time.bell + 10000)
  if ps.st = .up then updPort s p (fun ps => { ps with step := .idle, rekeying := false, retryAt := again })
  else
    let s := updPort s p (fun ps => { ps with failures := ps.failures + 1, step := .idle, retryAt := again })
    if 3 ≤ ps.failures + 1 then dropPort s p .authFail else s

/-- The exchange is complete: the new keys are in use; a port in AUTH goes UP (R91, R93), and the partner's evidence is recorded. -/
def sessionDone (s : State) (p : Nat) : State :=
  let ps := portOf s p
  let rekey := ps.st == .up
  let s := if rekey then s else enterState s p .up
  let s := updPort s p (fun ps => { ps with
    step := .idle, rekeying := false, retryAt := none, failures := 0, prevKeyId := if rekey then some ps.keyId else none
    keyId := if rekey then (ps.keyId + 1) % 4 else 0, keyBell := s.time.bell, framesIn := 0, framesOut := 0, partner := ps.partnerNext
    keysPrev := if rekey then ps.keys else {}, keys := ps.keysNext, keysNext := {} })
  let ps := portOf s p
  let s := if !rekey && ps.window != ps.setWindow then announce s p ps.setWindow else s
  let count := (s.sec.content.filter (fun e => satisfies ps e.2)).length
  let s := trustRecord s 0x1503 0 0 (word p) (pack [(16, if ps.partner.device then 1 else 2), (0, ps.epid)])
    (if ps.partner.device then 0 else wordAt ps.partner.issuer 0) (word count)
  let lost := s.dom.deltas.filter (fun d => d.page && d.dev == ps.epid && !d.acked)
  let s := if rekey || ps.ptype != 1 || (portsToDevice s ps.epid).length != 1 then s
    else each lost (fun d s => match sheafOf s d.handle with
      | some x => sendDelta { s with dom := { s.dom with deltas := s.dom.deltas.filter (fun e => !(e.dev == d.dev && e.tag == d.tag)) } }
          x d.req d.stalk (d.line * 64) true d.data
      | none => s) s
  settleAll (pump s p)

/-! ### HELLO -/

/-- A HELLO arrives (R64, R432, R442). -/
def helloCame (s : State) (p : Nat) (h : MgmtHdr) (d : List Byte) : State :=
  let ps := portOf s p
  if ps.st ≠ .hello then s
  else if !mgmtOk h then discardMessage s p h.src 3 1
  else if helloClash s d then dropPort (portRecord s p 0x1308 (word (natAt d 0 2)) 0 0) p .detect
  else if !helloForm d then discardMessage s p h.src 3 1
  else if !helloFits ps d || helloBarred s d then dropPort s p .detect
  else
    let s := updPort s p (fun ps => { ps with
      helloIn := true, helloGot := d, epid := natAt d 0 2, ptype := natAt d 2 1, caps := natAt d 3 1, partnerWindow := natAt d 4 1
      creditsHeld := (List.range 4).map (fun i => natAt d (8 + 4 * i) 4), partnerPort := natAt d 0x18 2, iddig := slice d 0x20 32 })
    helloDone (sendMgmt s p 2 { xid := h.xid } (helloBytes s p)) p

def execHello (p : Nat) (h : MgmtHdr) (d : List Byte) (s : State) : Host.Outcome State Fault Refusal := done s (helloCame s p h d)

/-- A HELLO_ACK arrives. -/
def helloAckCame (s : State) (p : Nat) (h : MgmtHdr) (d : List Byte) : State :=
  let ps := portOf s p
  if ps.st ≠ .hello then s
  else if !mgmtOk h then discardMessage s p h.src 3 1
  else if !helloForm d then discardMessage s p h.src 3 1
  else if !helloFits ps d then dropPort s p .detect
  else helloDone (updPort s p (fun ps => { ps with helloAckIn := true, ackGot := d })) p

def execHelloAck (p : Nat) (h : MgmtHdr) (d : List Byte) (s : State) : Host.Outcome State Fault Refusal := done s (helloAckCame s p h d)

/-! ### Session messages -/

/-- May a session message be taken: in AUTH while no failed attempt is waited out, or over the live session. -/
def sessOpen (ps : PortS) : Bool := (ps.st == .auth && ps.retryAt.isNone) || ps.st == .up

/-- SESS_INIT arrives: the responder judges it, encapsulates and answers (step 1). An exchange of this end gives way to one
of a partner with the lower ID. -/
def initCame (s : State) (p : Nat) (h : MgmtHdr) (d : List Byte) : State :=
  let ps := portOf s p
  if !sessOpen ps then s
  else if !mgmtOk h then discardMessage s p h.src 3 1
  else if (ps.st = .auth ∧ initiates s ps) ∨ (ps.step ≠ .idle ∧ initiates s ps) then s
  else match judge s ps d with
    | .error cause => sessionFails s p 1 cause
    | .ok (key, ev) =>
      let (nonce, s) := drawNonce s
      let draw := s.free
      let s := { s with free := s.free + 1 }
      let (ct, ss) := Config.kemEncaps (slice d 32 1568) draw
      let body := (nonce ++ padTo 1568 (ct.take 1568)) ++ deviceChain s ++ padTo evidenceBytes ((evidence s nonce).take evidenceBytes)
      let t := transcriptOf ps.helloGot ps.helloSent (d.take bodyBytes) body
      let s := atStep s p .sentResp (fun ps => { ps with
        rekeying := ps.st == .up, nonce := nonce, transcript := t, finishKey := finishKeyOf ss t, partnerKey := key, partnerNext := ev
        keysNext := linkKeysOf ss t false })
      sendMgmt s p 9 { xid := h.xid } (padUnits (body ++ signT s t))

def execSessInit (p : Nat) (h : MgmtHdr) (d : List Byte) (s : State) : Host.Outcome State Fault Refusal := done s (initCame s p h d)

/-- SESS_RESP arrives: the initiator judges it, verifies the signature over T, derives keys and sends SESS_FIN (step 2). -/
def respCame (s : State) (p : Nat) (h : MgmtHdr) (d : List Byte) : State :=
  let ps := portOf s p
  if !sessOpen ps || ps.step ≠ .sentInit then s
  else if !mgmtOk h then discardMessage s p h.src 3 1
  else match judge s ps d with
    | .error cause => sessionFails s p 2 cause
    | .ok (key, ev) =>
      let t := transcriptOf ps.helloSent ps.ackGot ps.transcript (d.take bodyBytes)
      if !Config.mldsaVerify key t (slice d bodyBytes 3309) then sessionFails s p 2 1
      else
        let ss := Config.kemDecaps ps.kemDraw (slice d 32 1568)
        let fk := finishKeyOf ss t
        let s := atStep s p .sentFin (fun ps => { ps with
          transcript := t, finishKey := fk, partnerKey := key, partnerNext := ev, keysNext := linkKeysOf ss t true })
        sendMgmt s p 0x0A { xid := h.xid } (padUnits (signT s t ++ finishValue fk t))

def execSessResp (p : Nat) (h : MgmtHdr) (d : List Byte) (s : State) : Host.Outcome State Fault Refusal := done s (respCame s p h d)

/-- SESS_FIN arrives: the responder verifies it, sends SESS_ACK and uses the new keys (step 3). -/
def finCame (s : State) (p : Nat) (h : MgmtHdr) (d : List Byte) : State :=
  let ps := portOf s p
  if !sessOpen ps || ps.step ≠ .sentResp then s
  else if !mgmtOk h then discardMessage s p h.src 3 1
  else if !Config.mldsaVerify ps.partnerKey ps.transcript (slice d 0 3309) then sessionFails s p 3 1
  else if slice d 3309 32 ≠ finishValue ps.finishKey ps.transcript then sessionFails s p 3 3
  else sessionDone (sendMgmt s p 0x0B { xid := h.xid } (padUnits (ackValue ps.finishKey ps.transcript))) p

def execSessFin (p : Nat) (h : MgmtHdr) (d : List Byte) (s : State) : Host.Outcome State Fault Refusal := done s (finCame s p h d)

/-- SESS_ACK arrives: both ends use the new keys (step 4). -/
def ackCame (s : State) (p : Nat) (h : MgmtHdr) (d : List Byte) : State :=
  let ps := portOf s p
  if !sessOpen ps || ps.step ≠ .sentFin then s
  else if !mgmtOk h then discardMessage s p h.src 3 1
  else if slice d 0 32 ≠ ackValue ps.finishKey ps.transcript then sessionFails s p 4 3
  else sessionDone s p

def execSessAck (p : Nat) (h : MgmtHdr) (d : List Byte) (s : State) : Host.Outcome State Fault Refusal := done s (ackCame s p h d)

/-! ### Bounds -/

/-- A step did not arrive within 100 bells (R92): the attempt fails with step 5. -/
def stepTimeout (s : State) (p : Nat) : State :=
  let ps := portOf s p
  if sessOpen ps && ps.step != .idle && decide (100 ≤ since s ps.stepBell) then sessionFails s p 5 0 else s

def execSessionStepTimeout (p : Nat) (s : State) : Host.Outcome State Fault Refusal := done s (stepTimeout s p)

/-- A state's bound is reached (Table 3.1). -/
def stateTimeout (s : State) (p : Nat) : State :=
  let ps := portOf s p
  let t := since s ps.since
  match ps.st with
  | .train => if 100000 ≤ t then dropPort s p .detect else s
  | .align => if 1000 ≤ t then dropPort s p .detect else s
  | .hello => if 100 ≤ t then dropPort s p .detect else s
  | .auth => if 400 ≤ t ∧ ps.retryAt.isNone then sessionFails s p 5 0 else s
  | _ => s

def execPortStateTimeout (p : Nat) (s : State) : Host.Outcome State Fault Refusal := done s (stateTimeout s p)

/-- Is it time to try again. -/
def retryDue (s : State) (ps : PortS) : Bool := ps.retryAt.any (fun b => decide (b.toNat ≤ bellN s))

/-- 10,000 bells after a failed attempt the port goes back to DETECT. -/
def authAgain (s : State) (p : Nat) : State :=
  let ps := portOf s p
  if ps.st = .auth ∧ retryDue s ps then dropPort s p .detect else s

def execAuthRetry (p : Nat) (s : State) : Host.Outcome State Fault Refusal := done s (authAgain s p)

/-- Start a new exchange over the live session (R93). -/
def rekey (s : State) (p : Nat) : State := startExchange (updPort s p (fun ps => { ps with rekeying := true })) p

/-- Is a session's use at a number of frames or bells. -/
def sessionAt (s : State) (ps : PortS) (frames bells : Nat) : Bool :=
  decide (2 ^ frames ≤ ps.framesIn) || decide (2 ^ frames ≤ ps.framesOut) || decide (2 ^ bells ≤ since s ps.keyBell)

/-- The limits of R93 are reached. -/
def rekeyNow (s : State) (p : Nat) : State :=
  let ps := portOf s p
  if ps.st = .up ∧ !ps.rekeying ∧ ps.retryAt.isNone ∧ sessionAt s ps 36 31 then rekey s p else s

def execRekeyDue (p : Nat) (s : State) : Host.Outcome State Fault Refusal := done s (rekeyNow s p)

/-- 10,000 bells after a failed rekey it is tried again (R94). -/
def rekeyAgain (s : State) (p : Nat) : State :=
  let ps := portOf s p
  if ps.st = .up ∧ !ps.rekeying ∧ retryDue s ps then rekey s p else s

def execRekeyRetry (p : Nat) (s : State) : Host.Outcome State Fault Refusal := done s (rekeyAgain s p)

/-- Keys without replacement reach their last use (R94). -/
def keysExpire (s : State) (p : Nat) : State :=
  let ps := portOf s p
  if ps.st = .up ∧ sessionAt s ps 38 33 then dropPort s p .detect else s

def execSessionKeysExpired (p : Nat) (s : State) : Host.Outcome State Fault Refusal := done s (keysExpire s p)

/-! ### Mailbox messages (R73, R415) -/

/-- An MBOX_CMD arrives. -/
def mboxCmdCame (s : State) (p : Nat) (h : MgmtHdr) (d : List Byte) : State :=
  let refuse := fun (mstat : Nat) => mbRefuse s p h.src h.xid mstat 0
  if !portUp s p then s
  else if !mgmtOk h then discardMessage s p h.src 3 1
  else if (portOf s p).ptype ≠ 1 ∧ h.src ≠ (portOf s p).epid then discardMessage s p h.src 3 2
  else if h.stall ≠ 0 ∨ h.len ≠ 2 ∨ d.length ≠ 128 then refuse UNSUPPORTED
  else if h.dst = 0xFFFF ∨ h.dst = s.dom.devid then
    let (opc, e) := entryOf (bytesWords d 16)
    mailbox s (.fabric p h.src h.xid) opc e
  else if 0x40 ≤ h.dst ∨ (portOf s p).ptype = 1 then refuse UNSUPPORTED
  else match pickPort (portsToDevice s h.dst) h.src h.stall h.svc 0 with
    | none => refuse NO_HOME
    | some o =>
      let s := { s with fab := { s.fab with mbox := s.fab.mbox ++ [{ port := p, src := h.src, xid := h.xid, dst := h.dst }] } }
      send s o (.mgmt 0x20 h d)

def execMboxCmd (p : Nat) (h : MgmtHdr) (d : List Byte) (s : State) : Host.Outcome State Fault Refusal := done s (mboxCmdCame s p h d)

/-- An MBOX_RSP of another device comes back: it goes to the sender of the command. -/
def mboxRspCame (s : State) (p : Nat) (h : MgmtHdr) (d : List Byte) : State :=
  if !portUp s p then s
  else if !mgmtOk h then discardMessage s p h.src 3 1
  else match s.fab.mbox.find? (fun r => r.dst == (portOf s p).epid && r.xid == h.xid) with
    | none => s
    | some r =>
      let final := h.mstat ≠ OK ∨ bit (wordAt d 0) 31
      let s := if final then { s with fab := { s.fab with mbox := s.fab.mbox.filter (fun x => !(x.dst == r.dst && x.xid == r.xid && x.src == r.src)) } } else s
      match mgmtPort s r.port r.src with
      | some o => send s o (.mgmt 0x21 { h with dst := r.src } d)
      | none => s

def execMboxRsp (p : Nat) (h : MgmtHdr) (d : List Byte) (s : State) : Host.Outcome State Fault Refusal := done s (mboxRspCame s p h d)

/-! ### Lease and quorum messages (R434, R435, R441, R456) -/

/-- Pass a message to the host die (R434). -/
def toHost (s : State) (p : Nat) (h : MgmtHdr) (opc : Nat) : State :=
  { s with fab := { s.fab with hostAsked := s.fab.hostAsked ++ [(h.xid, p, h.src, opc)] } }

/-- A message of the domain on a port: none on an inter-domain port (R456). -/
def domainMessage (s : State) (p : Nat) (h : MgmtHdr) (take : State → State) : State :=
  if !portUp s p || (portOf s p).ptype == 3 then s
  else if !mgmtOk h then discardMessage s p h.src 3 1
  else take s

def execLeaseRenew (p : Nat) (h : MgmtHdr) (_d : List Byte) (s : State) : Host.Outcome State Fault Refusal :=
  done s (domainMessage s p h (fun s => if h.dst = s.dom.devid then toHost s p h 0x30 else s))

/-- Count a grant (R435). -/
def grant (s : State) (mstat : Nat) (d : List Byte) : State :=
  let m := natAt d 0x0C 1
  let rbell := wordAt d 0
  match s.dom.members[m]? with
  | none => s
  | some e =>
    if mstat = OK ∧ s.dom.renewals.contains rbell ∧ Config.mldsaVerify e.2 (slice d 0 0x40) (slice d 0x40 3309) then
      { s with dom := { s.dom with grants := Tab.upd s.dom.grants m (0, 0) (fun g =>
        (if g.1.toNat < rbell.toNat then rbell else g.1, max g.2 (natAt d 8 4))) } }
    else s

def execLeaseGrant (p : Nat) (h : MgmtHdr) (d : List Byte) (s : State) : Host.Outcome State Fault Refusal :=
  done s (domainMessage s p h (fun s => grant s h.mstat d))

/-- A certified command arrives with its data area (R441): as at the operator mailbox, its data area already there. -/
def quorumCommand (s : State) (p : Nat) (h : MgmtHdr) (d : List Byte) : State :=
  let (opc, e) := entryOf (bytesWords d 16)
  let iss : Issuer := .quorum p h.src h.xid
  if 16 ≤ mbOut s 0 then send s p (.mgmt 0x38 { src := s.dom.devid, dst := h.src, mstat := BUSY_RETRY, xid := h.xid } [])
  else
    let area := d.drop 128
    let pages := (List.range (ceilDiv area.length 4096)).map (fun i => (i, slice area (4096 * i) 4096))
    let n := s.mb.nextCmd
    let s := updCmd (takeCmd s iss opc e) n (fun c => { c with asked := true, area := pages })
    settleAll (runMailboxes s)

def execQuorum (p : Nat) (h : MgmtHdr) (d : List Byte) (s : State) : Host.Outcome State Fault Refusal :=
  done s (domainMessage s p h (fun s =>
    if h.dst = s.dom.devid then toHost s p h 0x38 else if h.dst = 0xFFFF then quorumCommand s p h d else s))

/-- Port number of a message that the device has sent to its own host die. -/
def ownPort : Nat := 256

/-- The host die's reply to a message passed to it goes back on the original port (R434); a grant of the device's own host die
is counted here. -/
def hostReply (s : State) (xid mstat : Nat) (d : List Byte) : State :=
  match s.fab.hostAsked.find? (fun a => a.1 == xid) with
  | none => s
  | some (_, p, src, opc) =>
    let s := { s with fab := { s.fab with hostAsked := s.fab.hostAsked.eraseP (fun a => a.1 == xid) } }
    if p = ownPort then (if opc = 0x30 then grant s mstat d else s)
    else match mgmtPort s p src with
      | some o => sendMgmt s o (if opc = 0x30 then 0x31 else 0x38) { dst := src, mstat := mstat, xid := xid } (padUnits d)
      | none => s

def execHostDieReply (xid mstat : Nat) (d : List Byte) (s : State) : Host.Outcome State Fault Refusal := done s (hostReply s xid mstat d)

end Sys2Proof.Machine
end

