-- ==== Sys2Proof/Machine/DomainRows.lean ====
section
/-! DEFINITION. Events of leases, sheaves, moves, maps, key slots and code tables (R107, R114, R117, R235 to R238, R434 to R452). -/

namespace Sys2Proof.Machine

/-! ### Leases (R434 to R438) -/

/-- LEASE_RENEW of this bell (Table 17.2). -/
def renewBytes (s : State) : List Byte :=
  wordBytes s.time.bell ++ natLe 4 s.maps.cur.epoch ++ natLe 1 s.dom.devid ++ List.replicate 51 0

/-- At every 500th bell LEASE_RENEW goes to every member; to the device's own host die directly (R434). -/
def renewLease (s : State) : State :=
  if !s.dom.dvalid || s.dom.members.isEmpty || bellN s % 500 != 0 || s.dom.renewals.contains s.time.bell then s
  else
    let xid := bellN s % 2 ^ 24
    let s := { s with dom := { s.dom with renewals := s.time.bell :: s.dom.renewals, lastRenewal := s.time.bell } }
    each s.dom.members (fun m s =>
      if m.1 = s.dom.devid then { s with fab := { s.fab with hostAsked := s.fab.hostAsked ++ [(xid, ownPort, s.dom.devid, 0x30)] } }
      else match pickPort (portsToDevice s m.1) s.dom.devid 0 0 0 with
        | some p => sendMgmt s p 0x30 { dst := m.1, xid := xid } (renewBytes s)
        | none => s) s

def execLeaseRenewalDue (s : State) : Host.Outcome State Fault Refusal := done s (renewLease s)

/-- Members whose counted grants still stand, as a mask. -/
def grantMask (s : State) : Nat :=
  s.dom.grants.foldl (fun m e => if bellN s < e.2.1.toNat + 2000 then m + 2 ^ e.1 else m) 0

/-- Set FENCED in every record the device homes (R437, R438). -/
def setFenced (s : State) (f : Bool) : State :=
  { s with dom := { s.dom with fenced := f }
           regs := { s.regs with recs := s.regs.recs.map (fun e => if homeDevice s e.2 = s.dom.devid then (e.1, { e.2 with fenced := f }) else e) } }

/-- Stores held for parity end with MEDIA_ERROR and are never performed (R448). -/
def dropHeldStores (s : State) : State :=
  each (s.home.reqs.filter (fun r => r.wait == .parity)) (fun r s => finish (cancelDeltas s r.id MEDIA_ERROR) r MEDIA_ERROR 0 []) s

/-- A record of the domain: UNIT is the control core that serves the operator mailbox. -/
def domainRecord (s : State) (code princ : Nat) (p0 p1 p2 p3 : Word) : State :=
  let (q, core) := servingCore s 0
  record s { code := code, quarter := q, kind := 0x0B, inst := core, principal := princ, p0 := p0, p1 := p1, p2 := p2, p3 := p3 }

/-- The device fences (R437). -/
def fenceNow (s : State) : State :=
  let s := dropHeldStores (setFenced s true)
  settleAll (domainRecord s 0x1301 0 s.time.bell ((majorityRbell s).getD 0) (word (grantMask s)) 0)

/-- The device fences when its lease is not current (R437). -/
def leaseLost (s : State) : State :=
  if s.dom.dvalid && !s.dom.fenced && (s.dom.outcast || !leaseCurrent s) then fenceNow { s with dom := { s.dom with leaseOk := leaseCurrent s } } else s

def execLeaseLost (s : State) : Host.Outcome State Fault Refusal := done s (leaseLost s)

/-- The largest MEPOCH among the counted grants (R438). -/
def grantedEpoch (s : State) : Nat := s.dom.grants.foldl (fun m e => max m e.2.2) 0

/-- The fence lifts (R438). -/
def liftFence (s : State) : State :=
  let s := setFenced { s with dom := { s.dom with leaseOk := true } } false
  settleAll (domainRecord s 0x1302 0 s.time.bell (word (grantedEpoch s)) (word (grantMask s)) 0)

/-- The fence lifts at a strike at which the lease is current and the epoch the granted one (R438). -/
def leaseRegained (s : State) : State :=
  if s.time.phase == 0 && s.dom.fenced && !s.dom.outcast && leaseCurrent s && s.maps.cur.epoch == grantedEpoch s then liftFence s else s

def execLeaseRegained (s : State) : Host.Outcome State Fault Refusal := done s (leaseRegained s)

/-! ### Sheaves (R444, R450 to R452) -/

/-- A parity home takes the next page to scrub (R450). -/
def scrubNext (s : State) (h : Nat) : State :=
  match sheafOf s h with
  | some x =>
    if x.self < x.k ∨ x.work ≠ 0 ∨ x.stale.contains x.self then s
    else
      let s := updSheaf s h (fun y => { y with work := 4, cursor := y.scrub })
      settleAll (askPage s { x with work := 4, cursor := x.scrub } x.scrub)
  | none => s

def execScrubPage (handle : Nat) (s : State) : Host.Outcome State Fault Refusal := done s (scrubNext s handle)

/-- Has a sheaf's page work reached the end of the stalk. -/
def workDone (s : State) (h work : Nat) : Option (Sheaf × Region) :=
  match sheafOf s h, regionOf s h with
  | some x, some g => if x.work = work ∧ stalkPages x g ≤ x.cursor then some (x, g) else none
  | _, _ => none

/-- Every page of a data stalk has been pushed and acknowledged (R444). -/
def pushDone (s : State) (h : Nat) : State :=
  match workDone s h 1 with
  | some _ =>
    if s.dom.deltas.any (fun d => d.handle == h && d.req == 0 && !d.acked) then s
    else settleAll (endDrains (updSheaf s h (fun y => { y with work := 0 })) (· == .sheaf h) OK s.time.bell [])
  | none => s

def execSheafPushDone (handle : Nat) (s : State) : Host.Outcome State Fault Refusal := done s (pushDone s handle)

/-- Principal of the command that a drain belongs to. -/
def drainPrincipal (s : State) (d : DrainOn) : Nat := (s.mb.cmds.find? (fun c => c.drain == some d)).elim 0 (·.principal)

/-- Keys that a region brings with it count as issued to it (R103). -/
def keysIssued (s : State) (h : Nat) : State :=
  match regionOf s h with
  | some g => { s with regs := { s.regs with
      issued := Tab.upd s.regs.issued h [] (fun l => [g.slotA.key, g.slotB.key].foldl (fun l k => if k = 0 then l else addOnce l k) l) } }
  | none => s

/-- Every page of a data stalk is rebuilt: it is VALID and under maintenance (R451). -/
def rebuilt (s : State) (h : Nat) : State :=
  match workDone s h 2 with
  | some (x, g) =>
    let s := updRegion (updSheaf s h (fun y => { y with work := 0, ahead := [], current := none })) h (fun g => { g with valid := true, moving := false })
    let s := domainRecord (keysIssued s h) 0x1305 (drainPrincipal s (.sheaf h)) (word h) (pack [(16, x.self), (0, x.avail)]) (word (stalkPages x g)) s.time.bell
    settleAll (endDrains s (· == .sheaf h) OK s.time.bell [])
  | none => s

def execRebuildDone (handle : Nat) (s : State) : Host.Outcome State Fault Refusal := done s (rebuilt s handle)

/-- Every page of a parity stalk is recomputed: it is not STALE any more (R452). -/
def reencoded (s : State) (h : Nat) : State :=
  match workDone s h 3 with
  | some _ =>
    let s := updSheaf s h (fun y => { y with work := 0, stale := y.stale.filter (· != y.self) })
    settleAll (endDrains s (· == .sheaf h) OK s.time.bell [])
  | none => s

def execReencodeDone (handle : Nat) (s : State) : Host.Outcome State Fault Refusal := done s (reencoded s handle)

/-! ### Home moves (R117, Table 4.7; log 17) -/

/-- Change a move. -/
def updMove (s : State) (h : Nat) (f : Move → Move) : State :=
  { s with regs := { s.regs with moves := adjustWhere s.regs.moves (fun m => m.handle == h) f } }

/-- The record of a region as it will stand after a move between quarters of this device. -/
def movedRegion (g : Region) (m : Move) : Region := { g with homeq := m.homeq, tier := m.tier, place := m.place }

/-- Copy a page to its new place; false when lines of it must be read from a tray first or no frame is free. -/
def copyWithin (s : State) (g : Region) (m : Move) (page : Nat) : Bool × State :=
  match getPage s g page with
  | (none, s) => (false, s)
  | (some d, s) => match putPage s (movedRegion g m) page d with
    | some s => (true, s)
    | none => (false, s)

/-- One page of a move between quarters of this device at each strike (DESIGN CHOICE, log 17). -/
def moveWithin (s : State) (m : Move) : State :=
  match regionOf s m.handle with
  | some g =>
    if m.copied ∨ g.size4k < m.cursor then s
    else match copyWithin s g m m.cursor with
      | (true, s) => updMove s m.handle (fun m => { m with cursor := m.cursor + 1 })
      | (false, s) => s
  | none => s

/-- The copy of a moving region is complete: MOVE_PREPARE ends (Table 16.11). -/
def copyDone (s : State) (h : Nat) : State :=
  match s.regs.moves.find? (fun m => m.handle == h && m.new), regionOf s h with
  | some m, some g =>
    if m.copied ∨ m.cursor ≤ g.size4k then s
    else endDrains (updMove s h (fun m => { m with copied := true })) (· == .move h) OK s.time.bell []
  | _, _ => s

def execMoveCopyDone (handle : Nat) (s : State) : Host.Outcome State Fault Refusal := done s (copyDone s handle)

/-- Recall every line of a region (R183); nothing is left when the directory names none. -/
def recallAll (s : State) (g : Region) : State :=
  each (s.home.dir.filter (fun e => e.handle == g.handle)) (fun e s => recallLine s g.comp e) s

/-- Does the directory still name lines of a region. -/
def hasLines (s : State) (h : Nat) : Bool := s.home.dir.any (fun e => e.handle == h)

/-- Send the pages written meanwhile from the old home, each until it is answered OK (Table 4.7, step 4). -/
def sendPages (s : State) (g : Region) (m : Move) : State :=
  let sent := fun (s : State) (page : Nat) => s.regs.gwXfers.any (fun x => x.handle == g.handle && x.write && x.dev == m.other && x.line == page * 64)
  each m.pages (fun page s => if sent s page then s else match getPage s g page with
    | (none, s) => s
    | (some _, s) => startCopy s g.handle page true m.other) s

/-- Words of a region record that come with a move (Table 4.7, step 4): as the old home holds them. -/
def takeRecord (s : State) (g : Region) (m : Move) : Region :=
  let w := fun (i : Nat) => Config.movedWord m.other g.handle i
  let e3 := w 3
  let slot := fun (state stall rights : Nat) (any : Bool) (key : Word) => ({ state := state, stall := stall, rights := rights, any := any, key := key, since := s.time.bell } : KeySlot)
  { g with
    valid := true, moving := false, fenced := s.dom.fenced
    slotA := slot (fld e3 15 14) (fld (w 2) 23 12) (fld e3 11 9) (bit e3 5) (w 5)
    slotB := slot (fld e3 13 12) (fld (w 2) 11 0) (fld e3 8 6) (bit e3 4) (w 6)
    ownep := fld e3 63 32, owner := fld e3 31 16, version := w 4 }

/-- Are requests for a region admitted before its switch strike still in service. -/
def stillServing (s : State) (m : Move) : Bool :=
  s.home.reqs.any (fun r => r.h.handle == m.handle && decide (r.bell.toNat < m.struck.toNat))

/-- The keys of a region have come to its new home: the requests held for it are checked now (log 162). -/
def recheckHeld (s : State) (h : Nat) : State :=
  each (s.home.reqs.filter (fun r => r.h.handle == h && !r.begun && !r.org.copies)) (fun r s =>
    let c := homeCheckOf s r
    if c.1 == OK then (match regionOf s h with | some g => updReq s r.id (fun r => { r with slot := keySlotOf g r.h.key }) | none => s)
    else finish (if c.1 == OUT_OF_BOUNDS then s else meterRefused s (some r.comp)) r c.1 (word c.2) []) s

/-- A home move goes through its last steps (Table 4.7, steps 4 and 5): at the old home, lines are recalled and pages sent once
its admitted requests are final; at the new home, the region becomes VALID and the requests held for it are served. -/
def completeMove (s : State) (m : Move) (g : Region) : State :=
  if !m.switched || stillServing s m then s
  else if m.new ∧ m.other ≠ s.dom.devid then
    if m.copied then
      let s := putRegion { s with regs := { s.regs with moves := s.regs.moves.filter (fun x => !(x.handle == g.handle && x.new)) } } (takeRecord s g m)
      settleAll (recheckHeld (keysIssued s g.handle) g.handle)
    else s
  else if hasLines s g.handle then recallAll s g
  else if m.new then
    if !m.copied then s
    else
      let s := each m.pages (fun page s => match copyWithin s g m page with
        | (true, s) => updMove s m.handle (fun m => { m with pages := m.pages.filter (· != page) })
        | (false, s) => s) s
      match s.regs.moves.find? (fun x => x.handle == g.handle && x.new) with
      | some x =>
        if x.pages.isEmpty then
          let s := { s with regs := { s.regs with moves := s.regs.moves.filter (fun y => !(y.handle == g.handle && y.new)) } }
          settleAll (putRegion s { movedRegion g m with valid := true, moving := false })
        else s
      | none => s
  else sendPages s g m

def moveEnds (s : State) (h : Nat) : State :=
  match s.regs.moves.find? (fun m => m.handle == h), regionOf s h with
  | some m, some g => completeMove s m g
  | _, _ => s

def execMoveComplete (handle : Nat) (s : State) : Host.Outcome State Fault Refusal := done s (moveEnds s handle)

/-! ### Maps (R113, R114, R439) -/

/-- The largest completion window of the device's ports (R114). -/
def maxWindow (s : State) : Nat := s.ports.foldl (fun m e => max m e.2.window) 4

/-- Records of regions that have moved away are freed when the previous map retires (R117). -/
def freeMoved (s : State) : State :=
  let gone := s.regs.moves.filter (fun m => !m.new && m.switched)
  each gone (fun m s => removeRegion s m.handle) { s with regs := { s.regs with moves := s.regs.moves.filter (fun m => m.new || !m.switched) } }

/-- The previous map retires at the first strike at which no request was in flight under it and W_max bells have passed (R114); after a
whole map, once none is in flight. -/
def retireMap (s : State) : State :=
  if 0 < s.maps.strikeFlight then s
  else match s.maps.prev with
    | some m =>
      if since s s.maps.switchBell < maxWindow s then s
      else
        let s := record s { code := 0x0402, quarter := masterQuarter s, kind := 0x14, p0 := word m.epoch, p1 := s.maps.switchBell, p2 := s.time.bell }
        freeMoved { s with maps := { s.maps with prev := none, retireBell := s.time.bell } }
    | none => if s.maps.draining then freeMoved { s with maps := { s.maps with draining := false } } else s

def execMapRetired (s : State) : Host.Outcome State Fault Refusal := done s (retireMap s)

/-! ### Key slots and regions (R107, R183, R422) -/

/-- Is a slot still to be drained: REVOKING, and not found drained at this strike. -/
def slotHeld (s : State) (g : Region) (slot : Nat) : Bool :=
  (slotOf g slot).state == 2 && !s.mb.changes.any (fun e => match e.2 with | .key h n k => h == g.handle && n == slot && k.state == 3 | _ => false)

/-- A destroyed region whose slots have drained: its lines are recalled, then its memory is freed (Table 16.9, R183). -/
def destroyStep (s : State) (h : Nat) : State :=
  match regionOf s h with
  | some g =>
    if !g.dying || slotHeld s g 0 || slotHeld s g 1 then s
    else if hasLines s h then recallAll s g
    else
      let s := removeRegion s h
      let s := dropHeldOf { s with
        regs := { s.regs with issued := Tab.erase s.regs.issued h, gw := Tab.erase s.regs.gw h,
                              gwBlocks := s.regs.gwBlocks.filter (fun b => b.handle != h) }
        dom := { s.dom with sheaves := s.dom.sheaves.filter (fun x => x.handle != h) }
        home := { s.home with offers := Tab.erase s.home.offers h }
        sec := { s.sec with content := Tab.erase s.sec.content h } } h
      endDrains s (· == .destroy h) OK s.time.bell []
  | none => s

/-- A REVOKING slot whose admitted count was zero at the latest strike is drained: KEY_REVOKE ends with that strike's bell, and REVOKED
is visible from the next (Table 4.3, R104, R107). -/
def slotDrained (s : State) (h slot : Nat) : State :=
  match regionOf s h with
  | some g =>
    if !slotHeld s g slot || decide (0 < strikeAdmit s h slot) then s
    else
      let c : Change := .key h slot { slotOf g slot with state := 3 }
      let s := mirrorChanges { s with mb := { s.mb with changes := s.mb.changes ++ [(0, c)] } } [c]
      destroyStep (endDrains s (· == .revoke h slot) OK s.time.bell []) h
  | none => s

/-- At a strike, every slot that its counts find drained (R107). -/
def drainSlots (s : State) : State :=
  each (s.regs.recs.filter (fun e => slotHeld s e.2 0 || slotHeld s e.2 1)) (fun e s => slotDrained (slotDrained s e.1 0) e.1 1) s

def execKeyDrained (handle slot : Nat) (s : State) : Host.Outcome State Fault Refusal := done s (settleAll (slotDrained s handle slot))

/-! ### Code tables (R235 to R238) -/

/-- Does a request decode a block that names a table slot, as far as its header can be read (R237). -/
def decodesWith (s : State) (r : Req) (slot : Nat) : Bool :=
  r.opc == 1 && (match regionOf s r.h.handle with
    | some g => isExpanded g r.opc r.h.raw && (match blockHeader s g (r.h.offset / 4096) with
      | some h => fld (wordAt h 0) 45 36 == slot
      | none => true)
    | none => false)

/-- Held blocks decoded with a table slot, and decodes in progress that name it, of requests admitted before its fence (R237). -/
def tableRefs (s : State) (slot : Nat) (t : TableSlot) : Nat :=
  (s.ecx.held.filter (fun b => !b.literal && b.slot == slot)).length
    + (s.home.reqs.filter (fun r => decide (r.bell.toNat < t.fence.toNat) && decodesWith s r slot)).length

/-- A RETIRING slot is FREE at a strike 257 bells after its fence or later at which nothing refers to it (Table 8.10). -/
def tableFrees (s : State) (slot : Nat) : State :=
  match Tab.get? s.ecx.tables slot with
  | some t =>
    if t.state ≠ 2 ∨ since s t.fence < 257 ∨ 0 < tableRefs s slot t then s
    else
      let s := { s with ecx := { s.ecx with tables := Tab.set s.ecx.tables slot { state := 0, gen := t.gen } } }
      let s := record s { code := 0x0812, quarter := masterQuarter s, kind := 0x0B, p0 := word slot, p1 := word t.gen, p2 := word t.tdig, p3 := s.time.bell }
      endDrains s (· == .table slot t.gen) OK s.time.bell []
  | none => s

def execTableFreed (slot : Nat) (s : State) : Host.Outcome State Fault Refusal := done s (if s.time.phase = 0 then tableFrees s slot else s)

/-- At a strike, every slot that can be freed. -/
def freeTables (s : State) : State := each ((s.ecx.tables.filter (fun e => e.2.state == 2)).map (·.1)) (fun n s => tableFrees s n) s

end Sys2Proof.Machine
end

