-- ==== Sys2Proof/Machine/Due.lean ====
section
/-! DEFINITION. Commands that say that something waiting at the home or the switch has fallen due. Each looks at the manual's condition
first; where it does not hold, nothing happens (DESIGN CHOICE, log 13). -/

namespace Sys2Proof.Machine

/-- The admitted request of a port, source and tag. -/
def reqOf (s : State) (p src tag : Nat) : Option Req :=
  s.home.reqs.find? (fun r => r.port == p && r.h.src == src && r.h.tag == tag)

/-- The forwarded request of a port, source and tag. -/
def relayOf (s : State) (p src tag : Nat) : Option Relay :=
  s.fab.relays.find? (fun r => r.port == p && r.h.src == src && r.h.tag == tag)

/-- Bells from admission, or from the last DEFERRED, at which a request's next response is due (R83, R84). -/
def isDue (s : State) (bell lastDefer : Word) (deferrals win : Nat) : Bool :=
  decide ((if deferrals = 0 then bell else lastDefer).toNat + win - 2 ≤ bellN s)

/-- DEFERRED_DUE: a request in service gets DEFERRED, once more (R84); so does a FENCE held at its ingress (R130). -/
def deferDue (s : State) (p src tag : Nat) : State :=
  match reqOf s p src tag with
  | some r => if r.begun && isDue s r.bell r.lastDefer r.deferrals r.win then defer s r else s
  | none => match relayOf s p src tag with
    | some f =>
      if f.held.isSome && isDue s f.bell f.lastDefer f.deferrals f.win then
        let s := sendResponse s p src (responseTo s f.opc f.h DEFERRED (pack [(16, 0xFFFF), (0, f.deferrals + 1)]).toNat (earlyLoad s (portQuarter p) f.h.stall) 0 0) [] 0
        { s with fab := { s.fab with
          relays := adjustWhere s.fab.relays (fun e => e.order == f.order) (fun e => { e with deferrals := e.deferrals + 1, lastDefer := s.time.bell }) } }
      else s
    | none => s

def execDeferredDue (p src tag : Nat) (s : State) : Host.Outcome State Fault Refusal := done s (deferDue s p src tag)

/-- Does an egress message carry a forwarded request. -/
def carries (f : Relay) (m : Queued) : Bool :=
  match m.msg with
  | .req o h _ => o == f.opc && h == f.h
  | _ => false

/-- AGED: a request that has not begun service at the strike W − 2 bells after admission (R83, R368); a forwarded
request still held at its egress port likewise (R384). -/
def ageOut (s : State) (p src tag : Nat) : State :=
  match reqOf s p src tag with
  | some r => if !r.begun && agedNow s r then settleAll (finish s r AGED 0 []) else s
  | none => match relayOf s p src tag with
    | some f =>
      if (portOf s f.out).egress.any (carries f) && decide (f.bell.toNat + f.win - 2 ≤ bellN s) then
        let s := updPort s f.out (fun ps => { ps with egress := ps.egress.filter (fun m => !carries f m) })
        settleAll (endRelay (meterRefused s (some f.comp)) f AGED 0 0)
      else s
    | none => s

def execAged (p src tag : Nat) (s : State) : Host.Outcome State Fault Refusal := done s (ageOut s p src tag)

/-- REQUEST_EXPIRED: 256 bells without a final response give MEDIA_ERROR, recorded; what was not performed never is (R86). -/
def expire (s : State) (p src tag : Nat) : State :=
  match reqOf s p src tag with
  | some r =>
    if decide (256 ≤ since s r.bell) then
      let seq := nextSeq s 0x0307 (portQuarter p)
      let s := record s { code := 0x0307, quarter := portQuarter p, kind := 2, inst := portInst p, stall := r.h.stall, principal := stallPrincipal s r.h.stall
                          p0 := pack [(16, src), (0, tag)], p1 := word r.h.handle, p2 := r.bell }
      let s := cancelDeltas s r.id MEDIA_ERROR
      settleAll (finish s r MEDIA_ERROR seq [])
    else s
  | none => match relayOf s p src tag with
    | some f =>
      if decide (256 ≤ since s f.bell) then
        let seq := nextSeq s 0x0307 (portQuarter p)
        let s := record s { code := 0x0307, quarter := portQuarter p, kind := 2, inst := portInst p, stall := f.h.stall, principal := stallPrincipal s f.h.stall
                            p0 := pack [(16, src), (0, tag)], p1 := word f.h.handle, p2 := f.bell }
        settleAll (endRelay s f MEDIA_ERROR seq 0)
      else s
    | none => s

def execRequestExpired (p src tag : Nat) (s : State) : Host.Outcome State Fault Refusal := done s (expire s p src tag)

/-- SNOOP_TIMEOUT: after 8 bells the agent is dropped; a line it owned is poisoned and its waiters end POISONED (R182). -/
def snoopLapse (s : State) (q agent tag : Nat) : State :=
  match s.home.snoops.find? (fun n => n.q == q && n.agent == agent && n.tag == tag) with
  | none => s
  | some n =>
    if since s n.bell < 8 then s
    else
      let seq := nextSeq s 0x0602 q
      let s := record s { code := 0x0602, quarter := q, kind := 5, p0 := word n.handle, p1 := word (n.line * 64), p2 := word agent
                          p3 := word (b2n n.owner) }
      let s := { s with home := { s.home with snoops := s.home.snoops.filter (fun m => !(m.agent == agent && m.tag == tag)) } }
      let s := { s with home := { s.home with
        dir := adjustWhere s.home.dir (fun o => o.handle == n.handle && o.line == n.line) (fun e => { e with ptrs := e.ptrs.filter (· != agent) }) } }
      let s := if n.owner then
          let s := match (regionOf s n.handle).bind (fun g => placeOf g (n.line * 64)) with
            | some a => setPoison s a seq
            | none => s
          each (s.home.reqs.filter (fun r => r.begun && r.h.handle == n.handle && (reqLines s r).contains (n.line * 64)
            && !r.done.contains (n.line * 64))) (fun r s => finish s r POISONED seq []) s
        else s
      settleAll (snoopEnd s n)

def execSnoopTimeout (q agent tag : Nat) (s : State) : Host.Outcome State Fault Refusal := done s (snoopLapse s q agent tag)

/-- OFFER_LAPSED: at the 64th strike after it committed an offer is removed and recorded; a waiting CONFIRM fails (R160, R162). -/
def offerLapse (s : State) (handle : Nat) : State :=
  match Tab.get? s.home.offers handle with
  | none => s
  | some o =>
    if since s o.bell < 64 then s
    else
      let q := (regionOf s handle).elim 0 (·.homeq)
      let s := record s { code := 0x0601, quarter := q, kind := 5, p0 := word handle, p1 := word o.toward, p2 := word o.ownep }
      settleAll (dropOffer s handle)

def execOfferLapsed (handle : Nat) (s : State) : Host.Outcome State Fault Refusal := done s (offerLapse s handle)

/-- OFFER_TABLE_ENTRY_FREE: an OFFER that found the table full is recorded when an entry is free (R160). -/
def execOfferTableEntryFree (_q : Nat) (s : State) : Host.Outcome State Fault Refusal := done s (settleAll s)

/-- COMBINING_GROUP_CLOSE: 64 SCLK after its first member a group closes and is performed (R135). -/
def groupClose (s : State) (q line : Nat) : State :=
  match s.home.groups.find? (fun g => g.q == q && lineKey g.handle (g.line * 64) == line) with
  | some g => if g.bell.toNat * 1400 + g.phase + 64 ≤ now s then settleAll (closeGroup s g) else s
  | none => s

def execCombiningGroupClose (q line : Nat) (s : State) : Host.Outcome State Fault Refusal := done s (groupClose s q line)

/-- The tally of a quarter's line, by its key. -/
def tallyAt (s : State) (q line : Nat) : Option Tally :=
  s.home.tallies.find? (fun t => t.q == q && lineKey t.handle (t.line * 64) == line)

/-- TALLY_ABSORB: a tally absorbs one entry, or a run of LOADs (R138). -/
def tallyStep (s : State) (q line : Nat) : State :=
  match tallyAt s q line with
  | some t => if t.closing then settleAll s else settleAll (absorb s t)
  | none => s

def execTallyAbsorb (q line : Nat) (s : State) : Host.Outcome State Fault Refusal := done s (tallyStep s q line)

/-- TALLY_DEMOTE: an empty tally that absorbed fewer than 16 entries in each of four bells gives up its slot; its line is
written back from the line cache (R140, Table 7.3). -/
def tallyDemotion (s : State) (q line : Nat) : State :=
  match tallyAt s q line with
  | some t =>
    if tallyDepth s t = 0 ∧ (t.closing ∨ (4 ≤ t.history.length ∧ (t.history.take 4).all (· < 16))) then
      let s := { s with home := { s.home with tallies := s.home.tallies.filter (fun x => !(x.handle == t.handle && x.line == t.line)) } }
      settleAll (tallyFlush s t.handle t.line)
    else s
  | none => s

def execTallyDemote (q line : Nat) (s : State) : Host.Outcome State Fault Refusal := done s (tallyDemotion s q line)

/-- Age a request kept out of a line queue: it gets its place among the aged, and its line AGEDW (R185). -/
def ageReq (s : State) (r : Req) : State :=
  if r.old.isSome then s
  else
    let s := updReq s r.id (fun r => { r with old := some s.home.agedNext, oldQuarter := decide (32768 ≤ quarterQueue s r.q) })
    refreshAged { s with home := { s.home with agedNext := s.home.agedNext + 1 } }

/-- LINE_QUEUE_PRESENTATION: the request is presented again; a presentation that fails is a retry, the 8th ages it (R185). -/
def present (s : State) (p src tag : Nat) : State :=
  let s := settleAll s
  match reqOf s p src tag with
  | some r =>
    if r.begun || !queueFull s r then s
    else
      let s := updReq s r.id (fun r => { r with retries := r.retries + 1, firstTry := some (r.firstTry.getD s.time.bell) })
      if 8 ≤ r.retries + 1 then ageReq s r else s
  | none => s

def execLineQueuePresentation (p src tag : Nat) (s : State) : Host.Outcome State Fault Refusal := done s (present s p src tag)

/-- LINE_QUEUE_AGEING: 4 bells after its first presentation a request kept out is aged (R185). -/
def queueAge (s : State) (p src tag : Nat) : State :=
  match reqOf s p src tag with
  | some r => match r.firstTry with
    | some b => if !r.begun && decide (4 ≤ since s b) then settleAll (ageReq s r) else s
    | none => s
  | none => s

def execLineQueueAgeing (p src tag : Nat) (s : State) : Host.Outcome State Fault Refusal := done s (queueAge s p src tag)

/-- FRAME_AVAILABLE: misses that found every frame of their set busy try again (R196). -/
def execFrameAvailable (_q _set : Nat) (s : State) : Host.Outcome State Fault Refusal := done s (settleAll s)

/-- REFUSING_STATE_TIMEOUT: a stream without a request for 300 bells leaves the refusing state (R144). -/
def refusingLapse (s : State) (q point src stall svc qp : Nat) : State :=
  { s with sw := { s.sw with
    refusing := s.sw.refusing.filter (fun e => !(e.q == q && e.point == point && e.src == src && e.stall == stall && e.svc == svc
      && e.qp == qp && decide (300 ≤ since s e.last))) } }

def execRefusingStateTimeout (q point src stall svc qp : Nat) (s : State) : Host.Outcome State Fault Refusal :=
  done s (refusingLapse s q point src stall svc qp)

/-- REFUSE_TABLE_CLEAR: a point leaves its full state with a free entry and W_max bells since its last full-table
refusal, and says how many it made (R144). -/
def refuseClear (s : State) (q point : Nat) : State :=
  match s.sw.full.find? (fun f => f.q == q && f.point == point) with
  | some f =>
    if refusingCount s q point < 65536 ∧ wMax s ≤ since s f.last then
      let s := { s with sw := { s.sw with full := s.sw.full.filter (fun e => !(e.q == q && e.point == point)) } }
      record s { code := 0x0502, quarter := q, kind := 5, p0 := pack [(8, q), (0, point)], p1 := word f.count }
    else s
  | none => s

def execRefuseTableClear (q point : Nat) (s : State) : Host.Outcome State Fault Refusal := done s (refuseClear s q point)

/-- GATEWAY_FLUSH: a block is flushed FLUSH bells after its first dirty line (R147). -/
def flushDue (s : State) (handle block : Nat) : State :=
  match gwOf s handle, gwBlockOf s handle block with
  | some g, some b => if !b.dirty.isEmpty ∧ g.flush ≤ since s b.dirtySince then gwFlushBlock s g block else s
  | _, _ => s

def execGatewayFlush (handle block : Nat) (s : State) : Host.Outcome State Fault Refusal := done s (flushDue s handle block)

/-- FINE_WHEEL_SLOT: the shaper nodes of a quarter parked in a fine slot become eligible when it begins (R385). -/
def wheelSlot (s : State) (q slot : Nat) : State :=
  let inSlot := fun (key : Nat) (sh : Shaper) => match sh.parked with
    | some t => portQuarter (key / 32768) == q && decide (t < now s + 2048) && t / 8 % 256 == slot
    | none => false
  let ports := ((s.sw.shapers.filter (fun e => inSlot e.1 e.2)).map (fun e => e.1 / 32768)).eraseDups
  let s := { s with sw := { s.sw with
    shapers := s.sw.shapers.map (fun e => if inSlot e.1 e.2 then (e.1, { e.2 with parked := none }) else e) } }
  each ports (fun p s => pump s p) s

def execFineWheelSlot (q slot : Nat) (s : State) : Host.Outcome State Fault Refusal := done s (wheelSlot s q slot)

end Sys2Proof.Machine
end

