-- ==== Sys2Proof/Machine/Reduction.lean ====
section
/-! DEFINITION. Threshers: contributions, windows, the closing of blocks, partials and results (R245 to R265, R274 to R292). -/

namespace Sys2Proof.Machine

/-! ### The tree (Tables 10.4, 10.5) -/

/-- Entry and children of a device in a job. -/
def RedJob.device (r : RedJob) (dev : Nat) : Option JobDevice := r.devices.find? (fun d => d.dev == dev)
def RedJob.children (r : RedJob) (dev : Nat) : List JobDevice := r.devices.filter (fun d => d.parent == dev && d.dev != dev)

/-- Ranks a device collects, with their entries. -/
def RedJob.collected (r : RedJob) (dev : Nat) : List (Nat × Contributor) :=
  (r.contributors.zipIdx.filter (fun e => e.1.collect == dev)).map (fun e => (e.2, e.1))

/-- Does a device lie in the subtree of another. -/
def RedJob.under (r : RedJob) (top : Nat) : Nat → Nat → Bool
  | 0, _ => false
  | n + 1, dev => dev == top || (match r.device dev with
    | some d => d.parent != dev && r.under top n d.parent
    | none => false)

/-- Packed size of a contribution, and of an annex with a partial in a format (R244, R282). -/
def RedJob.inSize (r : RedJob) : Nat := packedSize r.infmt r.inscale
def RedJob.outSize (r : RedJob) (fmt : Nat) : Nat := packedSize fmt (ladderScale fmt r.outscale)

/-- Inputs a device needs for a block. -/
def RedJob.needs (r : RedJob) (dev : Nat) : Nat := (r.collected dev).length + (r.children dev).length

/-- WIN of R278; a device without inputs has no window. -/
def RedJob.window (r : RedJob) (dev : Nat) : Nat :=
  let pb := (r.collected dev).length * r.inSize + (r.children dev).length * 4160
  if pb = 0 then r.nblk else 2 ^ 20 * r.retain / pb

/-- Is a block not closed, and may its inputs be retained (R278). -/
def RedJob.isOpen (r : RedJob) (b : Nat) : Bool := decide (r.low ≤ b) && decide (b < r.nblk) && !r.closedAbove.contains b
def RedJob.inWindow (r : RedJob) (dev b : Nat) : Bool := decide (b < r.low + r.window dev)

/-- Destination ranks of a block (Table 10.1). -/
def RedJob.targets (r : RedJob) (b : Nat) : List Nat :=
  let ok := fun (k : Nat) => (r.contributors[k]?).any (fun c => c.src == 0)
  if r.kind = 0 then (List.range r.contributors.length).filter ok
  else if r.kind = 1 then [b / ceilDiv r.nblk (max r.contributors.length 1)].filter ok
  else []

/-- Where a device sends a block's result: ranks it collects, and children with a destination below them (R283). -/
def RedJob.copies (r : RedJob) (dev b : Nat) : List Nat × List Nat :=
  let ts := r.targets b
  let at_ := fun (k : Nat) => (r.contributors[k]?).map (·.collect)
  (ts.filter (fun k => at_ k == some dev),
   ((r.children dev).map (·.dev)).filter (fun c => ts.any (fun k => (at_ k).any (fun d => r.under c 64 d))))

/-! ### Taking messages into a job (R274, R275, R278, R282) -/

/-- What becomes of an engine message. -/
inductive Verdict where
  | take
  | wait
  | dup
  | discard (cause : Nat)
deriving DecidableEq, Repr

/-- The conditions on JKEY and COMP. -/
def headCause (j : Job) (h : EngHdr) : Option Nat := if h.jkey ≠ j.jkey then some 2 else if h.comp ≠ j.comp then some 5 else none

/-- Taken now, waiting for its window, or a duplicate. -/
def RedJob.place (r : RedJob) (dev : Nat) (h : EngHdr) (has : Bool) : Verdict :=
  if !r.isOpen h.block || has then .dup else if r.inWindow dev h.block then .take else .wait

/-- A CONTRIB of a job (R274). -/
def judgeContrib (j : Job) (r : RedJob) (dev : Nat) (h : EngHdr) : Verdict :=
  match headCause j h with
  | some c => .discard c
  | none =>
    if !(r.contributors[h.rank]?).any (fun c => c.src == 0 && c.collect == dev && c.epid == h.src) then .discard 3
    else if r.nblk ≤ h.block then .discard 6
    else if h.fmt ≠ r.infmt ∨ h.len * 64 ≠ r.inSize then .discard 4
    else r.place dev h (r.inputs.any (fun i => i.block == h.block && !i.child && i.rank == h.rank))

/-- Does a child's partial wait for its second message. -/
def RedJob.halfOf (r : RedJob) (h : EngHdr) : Bool := r.inputs.any (fun i => i.block == h.block && i.child && i.rank == h.rank && i.half)

/-- Units of a partial or a result: FP32 comes in two messages (R282). -/
def RedJob.unitsOf (r : RedJob) (fmt : Nat) (second : Bool) : Nat :=
  if fmt = 0 then (if second then 32 else 33) else 1 + r.outSize fmt / 64

/-- A PARTIAL of a reduction (R282). -/
def judgePartial (j : Job) (r : RedJob) (dev : Nat) (h : EngHdr) : Verdict :=
  match headCause j h with
  | some c => .discard c
  | none =>
    if !(r.children dev).any (fun d => d.dev == h.rank) then .discard 7
    else if r.nblk ≤ h.block then .discard 6
    else if !(ladder r.outfmt).contains h.fmt then .discard 7
    else if h.len ≠ r.unitsOf h.fmt (r.halfOf h) then .discard 4
    else r.place dev h (r.inputs.any (fun i => i.block == h.block && i.child && i.rank == h.rank && !i.half))

/-- Retain an input of a block. -/
def retain (s : State) (jobid : Nat) (i : Input) : State :=
  let s := updJob s jobid (fun j => { j with heard := s.time.bell })
  updRed s jobid (fun r => { r with
    inputs := r.inputs ++ [i]
    firstInput := if Tab.has r.firstInput i.block then r.firstInput else Tab.set r.firstInput i.block s.time.bell })

/-- Take a CONTRIB. -/
def takeContrib (s : State) (r : RedJob) (h : EngHdr) (d : List Byte) : State :=
  retain s h.jobid { block := h.block, rank := h.rank, fmt := r.infmt, bytes := d }

/-- Take a PARTIAL, or the second message of one. -/
def takePartial (s : State) (r : RedJob) (h : EngHdr) (d : List Byte) : State :=
  if r.halfOf h then
    updRed (updJob s h.jobid (fun j => { j with heard := s.time.bell })) h.jobid (fun r => { r with
      inputs := adjustWhere r.inputs (fun i => i.block == h.block && i.child && i.rank == h.rank) (fun i => { i with bytes := i.bytes ++ d, half := false }) })
  else retain s h.jobid { block := h.block, child := true, rank := h.rank, fmt := h.fmt, annex := annexOf (wordAt d 0) (wordAt d 8), bytes := d.drop 64, half := h.fmt == 0 }

/-! ### Region sources (R277) -/

/-- Read the region sources of the blocks that have entered the window. -/
def askSources (s : State) (jobid : Nat) : State :=
  match jobOf s jobid with
  | some j => match j.body with
    | .red r =>
      let dev := s.dom.devid
      let top := min r.nblk (r.low + r.window dev)
      let srcs := (r.collected dev).filter (fun e => e.2.src == 1)
      let s := updRed s jobid (fun r => { r with asked := max r.asked top })
      each (if srcs.isEmpty then [] else List.range' r.asked (top - r.asked)) (fun b s =>
        each srcs (fun e s => issueReads s (.jobRead jobid b e.1) j.charge e.2.handle e.2.key 0 (e.2.off * 4096 + b * r.inSize) r.inSize) s) s
    | _ => s
  | none => s

/-- Reads of a job that have every answer: item and part. -/
def readyReads (s : State) (jobid : Nat) : List (Nat × Nat) :=
  let mine := s.eng.access.filterMap (fun a => match a.use with
    | .jobRead n i k => if n = jobid then some (i, k) else none
    | _ => none)
  mine.eraseDups.filter (fun e => (accessesOf s (.jobRead jobid e.1 e.2)).all (·.answer.isSome))

/-- Take the blocks of region sources that have been read; a read that failed ends the job. -/
def takeSources (s : State) (jobid : Nat) : State :=
  each (readyReads s jobid) (fun e s => match jobOf s jobid with
    | some j => match j.body with
      | .red r =>
        let c := (r.contributors[e.2]?).getD {}
        let (f, s) := takeReads s (.jobRead jobid e.1 e.2) (c.off * 4096 + e.1 * r.inSize) r.inSize
        match f with
        | .data d => retain s jobid { block := e.1, rank := e.2, fmt := r.infmt, bytes := d }
        | .failed status _ => endJob s jobid status 1 e.2 e.1
        | .waiting => s
      | _ => s
    | none => s) s

/-! ### Runnable blocks (R279, R281) -/

/-- Inputs of a block in the order of their addition: contributions by rank, partials by device entry. -/
def RedJob.ordered (r : RedJob) (b : Nat) : List Input :=
  let key := fun (i : Input) => if i.child then 2 ^ 20 + (r.devices.findIdx? (fun d => d.dev == i.rank)).getD 0 else i.rank
  sortBy (fun x y => decide (key x < key y)) (r.inputs.filter (fun i => i.block == b && !i.half))

/-- Blocks whose inputs are all retained, lowest first. -/
def RedJob.runnable (r : RedJob) (dev : Nat) : List Nat :=
  let n := r.needs dev
  if n = 0 then (List.range' r.low (min 4096 (r.nblk - r.low))).filter r.isOpen
  else
    let bs := sortBy (fun x y => decide (x < y)) ((r.inputs.map (·.block)).eraseDups)
    bs.filter (fun b => (r.inputs.filter (fun i => i.block == b && !i.half)).length == n)

/-- Time of one input block on a thresher, in 512ths of an ACLK: 512 bytes and 1,024 elements an ACLK, an annex unit counting as 64
bytes (R281, Table 10.7). -/
def Input.cost (i : Input) : Nat := max 512 (i.bytes.length + 64 * b2n i.child)

/-! ### Executions of a block (R44, R252 to R261) -/

/-- The execution of a block with a number. -/
def RedJob.exec (r : RedJob) (b num : Nat) : Option Exec := r.execs.find? (fun x => x.block == b && x.num == num)

/-- The item of a portion that an execution is, and back. -/
def itemOf (b num : Nat) : Nat := 4 * b + num
def itemBlock (i : Nat) : Nat := i / 4
def itemNum (i : Nat) : Nat := i % 4

/-- Bytes of GFCOMB's outputs for a block (R288). -/
def RedJob.parityBytes (r : RedJob) : Nat := if r.kind = 3 then (if r.nout = 2 then 8192 else 4096) else 0

/-- An execution at the start of a pass: nothing added. -/
def RedJob.startPass (r : RedJob) (x : Exec) (step : Nat) : Exec :=
  { x with
    step := step, taken := 0, asum := 0, bound := 0
    sum := if r.kind = 3 then [] else List.replicate 1024 0, parity := List.replicate r.parityBytes 0 }

/-- An input as a summand (R252, R254). -/
def summandOf (r : RedJob) (i : Input) : Summand :=
  if i.child then
    { values := (decodeBlock i.annex.wfmt (ladderScale i.annex.wfmt r.outscale) r.txout i.bytes).map toFp32
      mag := boundOf i.annex.asum, magNan := (fpOf i.annex.asum).isNan, bound := boundOf i.annex.bound }
  else
    let vs := decodeBlock r.infmt r.inscale r.txin i.bytes
    { values := vs.map toFp32, mag := blockMag vs, magNan := vs.any (·.isNan), bound := some {} }

/-- Rounding of an element on a pass (R249, R250). -/
def RedJob.how (r : RedJob) (seed b num : Nat) (step index : Nat) : Rounding :=
  if r.round = 0 then .nearest else if r.round = 1 then .zero else .draw (Config.jobDraw seed b step (num + 1) index % 2 ^ 16)

/-- What closing a block needs of its job. -/
def RedJob.closeOpts (r : RedJob) (seed depth b num : Nat) (nowiden : Bool) : CloseOpts :=
  { outfmt := r.outfmt, outscale := r.outscale, txout := r.txout, budget := budgetOf r.bexp r.bman, depth := depth, nowiden := nowiden
    how := r.how seed b num }

/-- The two outputs of GFCOMB that one input adds to (R288). -/
def RedJob.parityOf (r : RedJob) (i : Input) : List Byte :=
  let out := fun (coef : List Nat) => combine 4096 [(BitVec.ofNat 8 (nth coef i.rank), i.bytes)]
  out r.coef0 ++ (if r.nout = 2 then out r.coef1 else [])

/-- One input block is added: to the FP32 sum in order, to A and to E_in (R248, R252, R279), or to the outputs of GFCOMB. -/
def RedJob.addInput (r : RedJob) (x : Exec) (i : Input) : Exec :=
  if r.kind = 3 then { x with taken := x.taken + 1, parity := xorBytes x.parity (r.parityOf i) }
  else
    let m := summandOf r i
    { x with
      taken := x.taken + 1, sum := (List.zipWith fadd (x.sum.map fpOf) m.values).map fpBits
      asum := boundBits (addUp (boundOf x.asum) m.mag), bound := boundBits (addUp (boundOf x.bound) m.bound) }

/-- Elements that a faulty datapath wrote in an execution of a block. -/
def corruptOf (c : List (Nat × Nat × Nat × BitVec 32)) (b num : Nat) : List (Nat × BitVec 32) :=
  c.filterMap (fun e => if e.1 = b ∧ e.2.1 = num then some e.2.2 else none)

/-- All inputs of a pass are added: the execution ends, or is threshed again in the next format (R255). -/
def RedJob.endPass (r : RedJob) (seed depth : Nat) (bad : List (Nat × BitVec 32)) (x : Exec) : Exec :=
  if r.kind = 3 then { x with out := some { bytes := bad.foldl (fun d e => patch d e.1 [e.2.setWidth 8]) x.parity, fmt := r.outfmt }, parity := [] }
  else
    let y := bad.foldl (fun y e => modNth y e.1 (fun _ => fpOf e.2)) (x.sum.map fpOf)
    match passEnd (r.closeOpts seed depth x.block x.num r.nowiden) ((r.ordered x.block).map (summandOf r)) (boundOf x.asum) (boundOf x.bound) y x.step with
    | some t => { x with out := some t, sum := [] }
    | none => r.startPass x (x.step + 1)

/-- Run an execution on its thresher: whole input blocks while they fit the ACLK left and the engine gets to them, one pass after the
other (R43, R258). What is left of the two, and the execution. -/
def RedJob.runExec (r : RedJob) (seed depth : Nat) (bad : List (Nat × BitVec 32)) (ins : List Input) : Nat → Nat → Nat → Exec → Nat × Nat × Exec
  | 0, room, most, x => (room, most, x)
  | n + 1, room, most, x =>
    if x.out.isSome then (room, most, x)
    else match ins[x.taken]? with
      | none => r.runExec seed depth bad ins n room most (r.endPass seed depth bad x)
      | some i => if room < i.cost ∨ most = 0 then (room, most, x) else r.runExec seed depth bad ins n (room - i.cost) (most - 1) (r.addInput x i)

/-- What is left of an execution's pass, in 512ths of an ACLK. -/
def RedJob.cost (r : RedJob) (item : Nat) : Nat :=
  let taken := ((r.exec (itemBlock item) (itemNum item)).map (·.taken)).getD 0
  ((r.ordered (itemBlock item)).drop taken).foldl (fun n i => n + i.cost) 0

/-- Values that a result stands for; GFCOMB has none. -/
def RedJob.valuesOf (r : RedJob) (x : Threshed) : List Fp :=
  if r.kind = 3 then [] else decodeBlock x.fmt (ladderScale x.fmt r.outscale) r.txout x.bytes

/-- Do two executions agree: within their bounds, or bit for bit for GFCOMB (R260, R289). -/
def RedJob.same (r : RedJob) (x y : Threshed) : Bool :=
  if r.kind = 3 then x.bytes == y.bytes else agree (boundOf x.bound) (boundOf y.bound) (r.valuesOf x) (r.valuesOf y)

/-- An execution's annex (Table 9.4). -/
def annexFrom (x : Threshed) (depth : Nat) : Annex :=
  { bound := x.bound, asum := x.asum, wfmt := x.fmt, depth := depth, steps := x.steps, nonfinite := x.nonfinite, exceeds := x.exceeds }

/-- Is a block sampled (R259). -/
def RedJob.sampled (r : RedJob) (seed b : Nat) : Bool := Config.jobDraw seed b 0 0 0 % 2 ^ r.sample == 0

/-- Executions of a block that have still to run: the first; with it the second of a sampled block; the third when the two disagree
(R259, R261). -/
def RedJob.toRun (r : RedJob) (seed b : Nat) : List Nat :=
  let out := fun (num : Nat) => (r.exec b num).bind (·.out)
  let first := if r.sampled seed b then [1, 2] else [1]
  match out 1, out 2 with
  | some x, some y => if r.same x y || (out 3).isSome then [] else [3]
  | _, _ => first.filter (fun n => (out n).isNone)

/-- May a thresher take an execution of a block: it goes on where it began while that thresher is in service, and each execution runs
on a thresher that no other execution of the block has, where the quarter has one (R259, R261, R262). -/
def RedJob.mayRun (r : RedJob) (there : List Nat) (t b num : Nat) : Bool :=
  let others := (r.execs.filter (fun x => x.block == b && x.num != num)).map (·.unit)
  match r.exec b num with
  | some x => x.unit == t || !there.contains x.unit
  | none => !others.contains t || there.all others.contains

/-- Items that a thresher may be dealt: of each runnable block the first execution that is not dealt and may run on it. -/
def RedJob.itemsFor (r : RedJob) (seed dev : Nat) (there dealt : List Nat) (t : Nat) : List Nat :=
  (r.runnable dev).filterMap (fun b =>
    ((r.toRun seed b).find? (fun n => !dealt.contains (itemOf b n) && r.mayRun there t b n)).map (itemOf b))

/-! ### Threshers in service (R262, R463) -/

/-- Engines of a kind in a quarter that receive portions. -/
def enginesIn (s : State) (q : Nat) (k : EngineKind) : List Nat :=
  (List.range k.count).filter (fun i => !s.eng.failed.contains (q, k, i) && !(k == .thresher && s.eng.out.contains (q * 32 + i))
    && !s.rst.running.any (fun r => r.scope == .engine q k i || r.scope == .quarter q || r.scope == .device || r.scope == .power))

/-- A record of a thresher. -/
def thresherRecord (s : State) (q t code stall : Nat) (p0 p1 p2 p3 : Word) : State :=
  record s { code := code, quarter := q, kind := 0x10, inst := t, stall := stall, principal := stallPrincipal s stall, p0 := p0, p1 := p1, p2 := p2, p3 := p3 }

/-- First bell of the running lifetime tick (R38, R54). -/
def tickStart (s : State) : Nat := bellN s - s.time.powered.toNat % 1000000

/-- Charge a disagreement to a thresher; the second in a lifetime tick takes it out of service from the next strike (R262). -/
def chargeThresher (s : State) (q t stall : Nat) : State :=
  let k := q * 32 + t
  let bells := (Tab.getD s.eng.charges k []).filter (fun b => decide (tickStart s ≤ b.toNat)) ++ [s.time.bell]
  let s := { s with eng := { s.eng with charges := Tab.set s.eng.charges k bells } }
  if bells.length = 2 then
    let off := fun (b : Word) => b.toNat - tickStart s
    let s := { s with eng := { s.eng with outNext := addOnce s.eng.outNext k } }
    thresherRecord s q t 0x0903 stall (word t) (pack [(32, off ((bells[1]?).getD 0)), (0, off ((bells[0]?).getD 0))]) 0 0
  else s

/-- DUAL_MISMATCH or DUAL_POISON (Table 9.6): block, the three threshers, the disagreeing one, the largest difference of the first two
executions. -/
def mismatchRecord (s : State) (j : Job) (r : RedJob) (code b : Nat) (ts : List Nat) (who : Nat) (x y : Threshed) : State :=
  let diff := match roundUp (worstDiff (r.valuesOf x) (r.valuesOf y)) with | some v => fpBits (.num v) | none => 0x7F800000#32
  thresherRecord s j.quarter (nth ts 0) code j.stall (pack [(32, j.jobid), (0, b % 2 ^ 32)]) (pack [(16, nth ts 2), (8, nth ts 1), (0, nth ts 0)])
    (word who) (word diff.toNat)

/-- What is delivered of a block whose three executions have ended, the first two in disagreement, with its annex (R261, R262). -/
def decideThird (s : State) (j : Job) (r : RedJob) (depth b : Nat) (ts : List Nat) (x1 x2 x3 : Threshed) : Threshed × Annex × State :=
  let put := fun (s : State) (code who : Nat) => mismatchRecord s j r code b ts who x1 x2
  let annex := fun (x : Threshed) => { annexFrom x depth with sampled := true, mismatch := true }
  if r.same x1 x3 then
    -- two agrees with three as well: every result agrees with another, and no thresher is charged (log 153)
    if r.same x2 x3 then (x1, annex x1, put s 0x0901 0xFF)
    else (x1, annex x1, chargeThresher (put s 0x0901 (nth ts 1)) j.quarter (nth ts 1) j.stall)
  else if r.same x2 x3 then (x2, annex x2, chargeThresher (put s 0x0901 (nth ts 0)) j.quarter (nth ts 0) j.stall)
  else ({ x1 with bytes := List.replicate x1.bytes.length 0 }, { annex x1 with poison := true }, put s 0x0902 0xFF)

/-- The result of a block whose executions have all ended (R259 to R262). -/
def decided (s : State) (j : Job) (r : RedJob) (depth b : Nat) : Option (Threshed × Annex × State) :=
  if !(r.toRun j.seed b).isEmpty then none
  else
    let xs := (List.range' 1 3).filterMap (r.exec b)
    match xs.map (·.out) with
    | [some x] => some (x, annexFrom x depth, s)
    | [some x, some _] => some (x, { annexFrom x depth with sampled := true }, s)
    | [some x, some y, some z] => some (decideThird s j r depth b (xs.map (·.unit)) x y z)
    | _ => none

/-! ### Partials and results (R282 to R284) -/

/-- Payloads of a block as PARTIAL or RESULT: annex unit and block, in two messages for FP32. -/
def blockParts (a : Annex) (fmt : Nat) (d : List Byte) : List (List Byte) :=
  let unit := padTo 64 (wordsBytes (annexWords a))
  if fmt = 0 then [unit ++ d.take 2048, d.drop 2048] else [unit ++ d]

/-- Header of a message of a reduction. -/
def redHdr (j : Job) (b rank fmt : Nat) : EngHdr := { tc := 2, jobid := j.jobid, comp := j.comp, fmt := fmt, block := b, rank := rank, jkey := j.jkey }

/-- Send copies of a block's result, one payload at a time. -/
def sendCopies (s : State) (j : Job) (r : RedJob) (b fmt : Nat) (parts : List (List Byte)) : State :=
  let (ranks, kids) := r.copies s.dom.devid b
  let s := each ranks (fun k s =>
    let ep := ((r.contributors[k]?).getD {}).epid
    let h := redHdr j b k fmt
    match (portsTo s ep).head? with
    | some p => each parts (fun d s => sendEng s j.jobid p 2 h d 0) s
    | none => lostCopy s h ep) s
  each kids (fun c s =>
    let h := redHdr j b 0xFFFF fmt
    match pickPort (portsToDevice s c) s.dom.devid j.stall j.svc j.qp with
    | some p => each parts (fun d s => sendEng s j.jobid p 2 h d 0) s
    | none => lostCopy s h c) s

/-- Send a member's partial to its parent. Without a port to it the partial is lost, and the parent's timeout tells (R290). -/
def sendPartial (s : State) (j : Job) (r : RedJob) (b fmt : Nat) (parts : List (List Byte)) : State :=
  let dev := s.dom.devid
  match (r.device dev).bind (fun d => pickPort (portsToDevice s d.parent) dev j.stall j.svc j.qp) with
  | some p => each parts (fun d s => sendEng s j.jobid p 4 (redHdr j b dev fmt) d 0) s
  | none => s

/-! ### The destination region (R285 to R288) -/

/-- Offsets of the areas of Table 10.8 behind the data area. -/
def RedJob.annexOff (r : RedJob) : Nat := up4k (r.nblk * r.outSize r.outfmt)
def RedJob.mapOff (r : RedJob) : Nat := r.annexOff + up4k (r.nblk * 16)
def RedJob.wideOff (r : RedJob) : Nat := r.mapOff + up4k (r.nblk * 4)

/-- Store a block: its bytes, its annex, its widen map entry. -/
def storeBlock (s : State) (j : Job) (r : RedJob) (b fmt : Nat) (a : Annex) (d : List Byte) : State :=
  let use : AccUse := .jobStore j.jobid b
  let base := r.dstOff * 4096
  if r.kind = 3 then
    let s := (issueStores s use j.charge r.dst r.dstKey (base + 4096 * b) (d.take 4096)).2
    if r.nout = 2 then (issueStores s use j.charge r.out1 r.out1Key (r.out1Off * 4096 + 4096 * b) (d.drop 4096)).2 else s
  else
    let wide := fmt != r.outfmt
    let at_ := if wide then base + r.wideOff + 4096 * r.wideNext else base + b * r.outSize r.outfmt
    let s := (issueStores s use j.charge r.dst r.dstKey at_ (padUnits d)).2
    let s := issueMasked s use j.charge r.dst r.dstKey (base + r.annexOff + 16 * b) (wordsBytes (annexWords a))
    let s := issueMasked s use j.charge r.dst r.dstKey (base + r.mapOff + 4 * b) (natLe 4 (if wide then r.wideNext else 0xFFFFFFFF))
    if wide then updRed s j.jobid (fun r => { r with wideNext := r.wideNext + 1 }) else s

/-- A block's first execution as NOWIDEN would have it: one pass in OUTFMT; none where OUTFMT does not encode it. -/
def RedJob.inOutfmt (r : RedJob) (seed depth b : Nat) : Option Threshed :=
  let ins := r.ordered b
  let x := ins.foldl r.addInput (r.startPass { block := b } 0)
  let t := passEnd (r.closeOpts seed depth b 1 true) (ins.map (summandOf r)) (boundOf x.asum) (boundOf x.bound) (x.sum.map fpOf) 0
  t.filter (fun t => t.fmt == r.outfmt)

/-- What the root delivers of a block when the wide area is full (R286). -/
def fitWide (s : State) (j : Job) (r : RedJob) (depth b : Nat) (x : Threshed) (a : Annex) : Nat × List Byte × Annex × State :=
  if r.dst = 0 ∨ r.kind = 3 ∨ x.fmt = r.outfmt ∨ r.wideNext < r.wcap then (x.fmt, x.bytes, a, s)
  else
    let s := if r.wideFull then s
      else engRecord (updRed s j.jobid (fun r => { r with wideFull := true })) j.quarter 0x0A04 j.stall (word j.jobid) (word b) (word r.wcap) 0
    match r.inOutfmt j.seed depth b with
    | some y => if a.poison then (r.outfmt, List.replicate (r.outSize r.outfmt) 0, { a with wfmt := r.outfmt, steps := 0 }, s)
      else (r.outfmt, y.bytes, { a with bound := y.bound, wfmt := r.outfmt, steps := 0, exceeds := true }, s)
    | none => (r.outfmt, List.replicate (r.outSize r.outfmt) 0, { a with wfmt := r.outfmt, steps := 0, poison := true }, s)

/-! ### Closing a block (R255, R280) -/

/-- LOW after a block closes. -/
def lowAfter : Nat → Nat → List Nat → Nat
  | 0, low, _ => low
  | n + 1, low, above => if above.contains low then lowAfter n (low + 1) above else low

/-- A block closes: its retention is given back. -/
def RedJob.close (r : RedJob) (b : Nat) (rep : Report) (wait : Option Word) : RedJob :=
  let above := addOnce r.closedAbove b
  let low := lowAfter above.length r.low above
  { r with
    inputs := r.inputs.filter (fun i => i.block != b), firstInput := Tab.erase r.firstInput b, execs := r.execs.filter (fun x => x.block != b)
    low := low, closedAbove := above.filter (fun c => decide (low ≤ c)), report := rep
    awaiting := match wait with | some w => Tab.set r.awaiting b w | none => r.awaiting }

/-- Does a device expect the RESULT of a block. -/
def RedJob.expects (r : RedJob) (dev b : Nat) : Bool := let (x, y) := r.copies dev b; !r.root && (!x.isEmpty || !y.isEmpty)

/-- A block closes when its executions have ended: its partial or its results are sent, its stores issued. -/
def closeBlock (s : State) (jobid b : Nat) : State :=
  match jobOf s jobid with
  | none => s
  | some j => match j.body with
    | .red r =>
      let dev := s.dom.devid
      let depth := ((r.device dev).map (·.depth)).getD 0
      let below := (r.inputs.filter (fun i => i.block == b && i.child)).map (·.annex)
      match decided s j r depth b with
      | none => s
      | some (x, a, s) =>
        let (fmt, d, a, s) := if r.root then fitWide s j r depth b x a else (x.fmt, x.bytes, a, s)
        let rep := reportAfter r.report a below
        let rep := if r.kind = 3 then { rep with widened := 0, exceeds := 0, nonfinite := 0, worst := 0 } else rep
        let s := updRed s jobid (fun r => r.close b rep (if r.expects dev b then some s.time.bell else none))
        if r.root then
          let s := if r.dst = 0 then s else storeBlock s j r b fmt a d
          if r.kind = 3 then s else sendCopies s j r b fmt (blockParts a fmt d)
        else sendPartial s j r b fmt (blockParts a fmt d)
    | _ => s

/-- An execution is dealt to a thresher: it begins there, or goes on there. -/
def RedJob.assign (r : RedJob) (t item : Nat) : RedJob :=
  let b := itemBlock item
  let n := itemNum item
  match r.exec b n with
  | some _ => { r with execs := adjustWhere r.execs (fun x => x.block == b && x.num == n) (fun x => { x with unit := t }) }
  | none => { r with execs := r.execs ++ [r.startPass { block := b, num := n, unit := t } 0] }

/-- A thresher runs the items of its portion in order, as far as the ACLK and the input blocks it got to reach; blocks whose executions
have all ended close. What is left of both. -/
def thresh (jobid : Nat) (c : List (Nat × Nat × Nat × BitVec 32)) : List Nat → Nat → Nat → State → Nat × Nat × State
  | [], room, most, s => (room, most, s)
  | i :: l, room, most, s =>
    match jobOf s jobid with
    | some j => match j.body with
      | .red r =>
        let b := itemBlock i
        match r.exec b (itemNum i) with
        | some x =>
          let ins := r.ordered b
          let depth := ((r.device s.dom.devid).map (·.depth)).getD 0
          let (room, most, x) := r.runExec j.seed depth (corruptOf c b x.num) ins (6 * (ins.length + 1)) room most x
          let s := updRed s jobid (fun r => { r with execs := adjustWhere r.execs (fun y => y.block == b && y.num == x.num) (fun _ => x) })
          thresh jobid c l room most (closeBlock s jobid b)
        | none => thresh jobid c l room most s
      | _ => (room, most, s)
    | none => (room, most, s)

/-- A RESULT at a member: forwarded to its own destinations and its children (R283). -/
def judgeResult (j : Job) (r : RedJob) (h : EngHdr) : Verdict :=
  match headCause j h with
  | some c => .discard c
  | none =>
    if h.rank ≠ 0xFFFF ∨ r.root then .discard 3
    else if r.nblk ≤ h.block then .discard 6
    else if !((ladder r.outfmt).contains h.fmt || h.fmt == 1) then .discard 7
    else if h.len ≠ r.unitsOf h.fmt (r.halves.contains h.block) then .discard 4
    else if !Tab.has r.awaiting h.block then .dup
    else .take

/-- Forward a RESULT. It is no input of the node, so the second timeout of R290 runs on. -/
def takeResult (s : State) (j : Job) (r : RedJob) (h : EngHdr) (d : List Byte) : State :=
  let first := h.fmt == 0 && !r.halves.contains h.block
  let s := updRed s j.jobid (fun r => { r with
    halves := if first then h.block :: r.halves else r.halves.filter (· != h.block)
    awaiting := if first then r.awaiting else Tab.erase r.awaiting h.block })
  sendCopies s j r h.block h.fmt [d]

/-- Has a node done everything (R295). -/
def RedJob.complete (r : RedJob) : Bool := r.low == r.nblk && r.awaiting.isEmpty

/-! ### JOB_TIMEOUT (R290) -/

/-- The lowest rank or child missing from a block: MKIND and MISS. -/
def RedJob.missing (r : RedJob) (dev b : Nat) : Nat × Nat :=
  let here := r.inputs.filter (fun i => i.block == b && !i.half)
  match (r.collected dev).find? (fun e => !here.any (fun i => !i.child && i.rank == e.1)) with
  | some e => (1, e.1)
  | none => match minBy (·.dev) ((r.children dev).filter (fun d => !here.any (fun i => i.child && i.rank == d.dev))) with
    | some d => (2, d.dev)
    | none => (0, 0)

/-- The timeout that ends a reduction now: which of R290, block, MKIND and MISS. -/
def redTimeout (s : State) (j : Job) (r : RedJob) : Option (Nat × Nat × Nat × Nat) :=
  let dev := s.dom.devid
  let late := fun (b : Word) => decide (j.tmo ≤ since s b)
  match r.firstInput.find? (fun e => late e.2 && (r.missing dev e.1).1 != 0) with
  | some e => let m := r.missing dev e.1; some (1, e.1, m.1, m.2)
  | none =>
    if late j.heard && decide (r.low < r.nblk) then let m := r.missing dev r.low; some (2, r.low, m.1, m.2)
    else match r.awaiting.find? (fun e => late e.2) with
      | some e => some (3, e.1, 2, ((r.device dev).map (·.parent)).getD 0)
      | none => none

def jobTimeout (s : State) (jobid : Nat) : State :=
  match jobOf s jobid with
  | some j => match j.body with
    | .red r => match redTimeout s j r with
      | some (which, b, mkind, miss) =>
        let s := engRecord s j.quarter 0x0A02 j.stall (word jobid) (pack [(16, mkind), (0, miss)]) (word b) (word which)
        endJob s jobid MEDIA_ERROR mkind miss b
      | none => s
    | _ => s
  | none => s

end Sys2Proof.Machine
end

