-- ==== Sys2Proof/Machine/GatherWinnow.lean ====
section
/-! DEFINITION. Gleaners and winnows (R297 to R321). -/

namespace Sys2Proof.Machine

/-! ### Gather: index entries and rows (R299 to R306) -/

/-- Bytes of an index entry; place of entry i and of row r. -/
def GatherJob.width (r : GatherJob) : Nat := if r.iw then 8 else 4
def GatherJob.entryOff (r : GatherJob) (i : Nat) : Nat := r.idxOff * 4096 + i * r.width
def GatherJob.rowOff (r : GatherJob) (row : Nat) : Nat := r.tblOff * 4096 + row * r.stride * 64

/-- Read index entries from a position on. -/
def askIndex (s : State) (j : Job) (r : GatherJob) (first n : Nat) : State :=
  issueReads s (.jobRead j.jobid first n) j.charge r.idx r.idxKey 0 (r.entryOff first) (n * r.width)

/-- Rows a gleaner has outstanding. -/
def rowsOf (s : State) (q g : Nat) : Nat :=
  s.eng.jobs.foldl (fun n j => match j.body with
    | .gather r => if j.quarter = q then n + (((r.rows.filter (fun e => e.2.2 == g)).map (·.2.1)).eraseDups).length else n
    | _ => n) 0

/-- Deliver an output row (R300). False: a sealed row whose session does not satisfy the policy (R304). -/
def deliverRow (s : State) (j : Job) (r : GatherJob) (i row : Nat) (d : List Byte) : Bool × State :=
  let count := fun (s : State) => updGather s j.jobid (fun r => { r with delivered := r.delivered + 1 })
  if r.dkind = 0 then (true, count (issueStores s (.jobStore j.jobid i) j.charge r.dst r.dstKey (r.dstOff * 4096 + i * r.rowb * 64) d).2)
  else if r.dkind = 1 then
    let sealOf := if (regionOf s r.tbl).any (·.sealed) then r.tbl else 0
    match (portsTo s r.epid).find? (fun p => sealOf == 0 || policyOk s p sealOf) with
    | some p => (true, count (sendEng s j.jobid p 2 { tc := 2, jobid := j.jobid, comp := j.comp, block := i, jkey := j.jkey } d sealOf))
    | none => (sealOf == 0, s)
  else match r.feeds with
    | some w =>
      let s := updJob s w (fun j => { j with heard := s.time.bell })
      (true, count (updWinnow s w (fun x => { x with waitingRecs := x.waitingRecs ++ [(i, word row, d)] })))
    | none => (true, s)

/-- A zero row in place of one that cannot be had (R303): written under DKIND 0, else left out. -/
def zeroRow (s : State) (j : Job) (r : GatherJob) (i : Nat) : State :=
  if r.dkind = 0 then
    (issueStores s (.jobStore j.jobid i) j.charge r.dst r.dstKey (r.dstOff * 4096 + i * r.rowb * 64) (List.replicate (r.rowb * 64) 0)).2
  else s

/-- A row that failed (R304). -/
def badRow (s : State) (j : Job) (i status : Nat) (seq : Word) : State :=
  match jobOf s j.jobid with
  | some j => match j.body with
    | .gather r =>
      let s := if r.badRows = 0 then engRecord s j.quarter 0x0B02 j.stall (word j.jobid) (word i) (word status) seq else s
      let s := zeroRow s j r i
      updGather s j.jobid (fun r => { r with badRows := r.badRows + 1, firstBad := if r.badRows = 0 then i else r.firstBad })
    | _ => s
  | none => s

/-- Take one index entry: out of range, joined to a read of the same row, or a new read. False: the gleaner has 1,024 rows
outstanding. -/
def takeEntry (s : State) (jobid g i : Nat) : Bool × State :=
  match jobOf s jobid with
  | some j => match j.body with
    | .gather r => match Tab.get? r.vals i with
      | none => (false, s)
      | some row =>
        let past := fun (s : State) => updGather s jobid (fun r => { r with next := r.next + 1, vals := Tab.erase r.vals i })
        if r.nrows ≤ row then
          if r.oorpol then (true, endJob s jobid OUT_OF_BOUNDS 0 0 0)
          else (true, past (updGather (zeroRow s j r i) jobid (fun r => { r with oor := r.oor + 1 })))
        else
          let known := r.rows.any (fun e => e.2.1 == row)
          if !known && decide (1024 ≤ rowsOf s j.quarter g) then (false, s)
          else
            let s := if known then s else issueReads s (.row jobid row) j.charge r.tbl r.tblKey r.ownep (r.rowOff row) (r.rowb * 64)
            (true, past (updGather s jobid (fun r => { r with rows := r.rows ++ [(i, row, g)] })))
    | _ => (false, s)
  | none => (true, s)

/-- Take entries in order until one must wait; gives how many were taken. -/
def takeEntriesOf (jobid g : Nat) : List Nat → State → Nat × State
  | [], s => (0, s)
  | i :: is, s =>
    let (ok, s') := takeEntry s jobid g i
    if ok then let (n, s'') := takeEntriesOf jobid g is s'; (n + 1, s'') else (0, s)

/-- A row read that has its answers: every position it serves is delivered (R304, R305). -/
def rowRead (s : State) (jobid row : Nat) : State :=
  match jobOf s jobid with
  | some j => match j.body with
    | .gather r =>
      let (f, s) := takeReads s (.row jobid row) (r.rowOff row) (r.rowb * 64)
      let mine := (r.rows.filter (fun e => e.2.1 == row)).map (·.1)
      let s' := updGather (updJob s jobid (fun j => { j with heard := s.time.bell })) jobid (fun r => { r with rows := r.rows.filter (fun e => e.2.1 != row) })
      match f with
      | .waiting => s
      | .data d => each mine (fun i s =>
          let (ok, t) := deliverRow s j r i row d
          if ok then t else badRow s j i POISONED 0) s'
      | .failed status seq =>
        if status = POISONED ∨ status = MEDIA_ERROR then each mine (fun i s => badRow s j i status seq) s'
        else endJob s jobid status 0 0 0
    | _ => s
  | none => s

/-- Take the parts of the index list that have been read. -/
def takeIndex (s : State) (jobid : Nat) : State :=
  each (readyReads s jobid) (fun e s => match jobOf s jobid with
    | some j => match j.body with
      | .gather r =>
        let (f, s) := takeReads s (.jobRead jobid e.1 e.2) (r.entryOff e.1) (e.2 * r.width)
        match f with
        | .data d => updGather s jobid (fun r => { r with
            vals := (List.range e.2).foldl (fun t k => Tab.set t (e.1 + k) (natAt d (k * r.width) r.width)) r.vals })
        | .failed status _ => endJob s jobid status 0 0 0
        | .waiting => s
      | _ => s
    | none => s) s

/-- Has a gather delivered everything. -/
def GatherJob.complete (r : GatherJob) : Bool := r.next == r.nidx && r.rows.isEmpty

/-! ### Predicate programs (R309, Table 11.4) -/

/-- A register as FP32, and an FP32 result in a register. -/
def regFp (w : Word) : Fp := fpOf (w.setWidth 32)
def fpReg (v : Fp) : Word := (fpBits v).setWidth 64

/-- The negative of an FP32 value. -/
def fpNeg (v : Fp) : Fp := fpOf (fpBits v ^^^ 0x80000000#32)

/-- FMIN, FMAX; open where an operand is NaN or the two are equal. -/
def fpPick (max : Bool) (a b : Word) : Word :=
  let x := regFp a
  let y := regFp b
  if fpLt x y then (if max then fpReg y else fpReg x) else if fpLt y x then (if max then fpReg x else fpReg y)
  else if a.setWidth 32 = b.setWidth 32 then fpReg x
  else (Config.minMax max (a.setWidth 32) (b.setWidth 32)).setWidth 64

/-- A comparison by T of Table 11.4. -/
def compareBy (t : Nat) (lt eq nan : Bool) : Bool :=
  if nan then t == 1
  else match t with
    | 0 => eq
    | 1 => !eq
    | 2 => lt
    | 3 => lt || eq
    | 4 => !lt && !eq
    | _ => !lt

/-- Bytes that an instruction loads from the record: offset and length. -/
def loadBytes (i : Word) : Option (Nat × Nat) :=
  let t := fld i 43 40
  if fld i 63 56 = 1 then some (fld i 31 0, ceilDiv (fmtBits t) 8)
  else if fld i 63 56 = 2 then some (fld i 31 0, 2 ^ (t % 4))
  else none

/-- The value an instruction puts into V[D]. -/
def opValue (rec : List Byte) (proj : List (BitVec 32)) (v : List Word) (i : Word) : Word :=
  let a := (v[fld i 51 48]?).getD 0
  let b := (v[fld i 47 44]?).getD 0
  let t := fld i 43 40
  let imm := fld i 31 0
  match fld i 63 56 with
  | 0x01 =>
    let code := natAt rec imm (ceilDiv (fmtBits t) 8) % 2 ^ fmtBits t
    if t = 0 then word code else fpReg (toFp32 (eltValue t 0 code))
  | 0x02 =>
    let n := 2 ^ (t % 4)
    let x := natAt rec imm n
    if t / 4 % 2 = 1 ∧ 2 ^ (8 * n - 1) ≤ x then word (2 ^ 64 + x - 2 ^ (8 * n)) else word x
  | 0x03 => word imm
  | 0x04 => (BitVec.ofNat 32 imm).signExtend 64
  | 0x05 => ((proj[imm]?).getD 0).setWidth 64
  | 0x10 => fpReg (fadd (regFp a) (regFp b))
  | 0x11 => fpReg (fadd (regFp a) (fpNeg (regFp b)))
  | 0x12 => fpReg (fmul (regFp a) (regFp b))
  | 0x13 => fpPick false a b
  | 0x14 => fpPick true a b
  | 0x15 => (a.setWidth 32 &&& 0x7FFFFFFF#32).setWidth 64
  | 0x20 => a + b
  | 0x21 => a &&& b
  | 0x22 => a ||| b
  | 0x23 => a ^^^ b
  | 0x24 => a >>> (imm % 64)
  | 0x30 =>
    let x := regFp a
    let y := regFp b
    word (b2n (compareBy t (fpLt x y) (!fpLt x y && !fpLt y x) (x.isNan || y.isNan)))
  | 0x31 => word (b2n (compareBy t (a.slt b) (a == b) false))
  | _ => 0

/-- Run a program over a record: does it pass, and its score. -/
def runProgram (rec : List Byte) (proj : List (BitVec 32)) : List Word → List Word → Bool × BitVec 32
  | [], _ => (false, 0)
  | i :: is, v =>
    if fld i 63 56 = 0x3F then ((v[fld i 51 48]?).getD 0 != 0, ((v[fld i 47 44]?).getD 0).setWidth 32)
    else runProgram rec proj is (modNth v (fld i 55 52) (fun _ => opValue rec proj v i))

/-- May an instruction stand in a program (R308): known, its reserved bits zero, its fields in range. -/
def opKnown (recBytes pdim : Nat) (i : Word) : Bool :=
  let op := fld i 63 56
  let t := fld i 43 40
  fld i 39 32 == 0
    && [1, 2, 3, 4, 5, 0x10, 0x11, 0x12, 0x13, 0x14, 0x15, 0x20, 0x21, 0x22, 0x23, 0x24, 0x30, 0x31, 0x3F].contains op
    && (match loadBytes i with | some (o, n) => decide (o + n ≤ recBytes) | none => true)
    && (op != 1 || decide (t ≤ 8)) && (op != 2 || decide (t < 8)) && (op != 5 || decide (fld i 31 0 < pdim))
    && (!(op == 0x30 || op == 0x31) || decide (t ≤ 5))

/-- Is a program one that R308 admits: END last and only there. -/
def programOk (recBytes pdim : Nat) (p : List Word) : Bool :=
  p.all (opKnown recBytes pdim) && (p.getLast?.any (fun i => fld i 63 56 == 0x3F)) && (p.filter (fun i => fld i 63 56 == 0x3F)).length == 1

/-! ### Selection (R311, R312) -/

/-- Is an entry better than another: by DIR, then lower ID, then lower RANK. -/
def better (smallest : Bool) (a b : Entry) : Bool :=
  let x := fpOf a.score
  let y := fpOf b.score
  if (if smallest then fpLt x y else fpLt y x) then true
  else if (if smallest then fpLt y x else fpLt x y) then false
  else if a.ident = b.ident then decide (a.rank < b.rank) else decide (a.ident.toNat < b.ident.toNat)

/-- Take an entry into a top-k list: a NaN score is never selected. -/
def topk (smallest : Bool) (k : Nat) (l : List Entry) (e : Entry) : List Entry :=
  if (fpOf e.score).isNan then l else (insertBy (better smallest) e l).take k

/-- An entry's words (Table 11.5), and the entries of a payload. -/
def entryBytes (e : Entry) : List Byte := wordsBytes [pack [(32, e.score.toNat), (16, e.rank)], e.ident]
def entryAt (d : List Byte) (i : Nat) : Entry :=
  let w := wordAt d (16 * i)
  { score := BitVec.ofNat 32 (fld w 63 32), rank := fld w 31 16, ident := wordAt d (16 * i + 8) }
def entriesOf (d : List Byte) : List Entry := (List.range (d.length / 16)).map (entryAt d)

/-- Take a passing record into a winnow's list. -/
def WinnowJob.select (w : WinnowJob) (e : Entry) : WinnowJob :=
  if w.sel = 1 then { w with list := topk w.dir w.k w.list e }
  else if w.list.length < w.k then { w with list := w.list ++ [e] }
  else { w with dropped := w.dropped + 1 }

/-- Elements of a packed unscaled vector in FP32 bits. -/
def vectorBits (fmt n : Nat) (d : List Byte) : List (BitVec 32) :=
  let b := fmtBits fmt / 8
  (List.range n).map (fun i => fpBits (toFp32 (eltValue fmt 0 (natAt d (i * b) b))))

/-- Projections of a record (R310). -/
def WinnowJob.project (w : WinnowJob) (rec : List Byte) : List (BitVec 32) :=
  let x := vectorBits w.vfmt w.vdim (rec.drop w.voff)
  let col := up64 (w.vdim * (fmtBits w.pfmt / 8))
  (List.range w.pdim).map (fun c => Config.macSum 0 x (vectorBits w.pfmt w.vdim ((w.matrix.getD []).drop (c * col))))

/-- Process one record (R307, R309 to R311). -/
def WinnowJob.record (w : WinnowJob) (n : Nat) (val : Word) (rec : List Byte) : WinnowJob :=
  let (pass, score) := runProgram rec (w.project rec) w.program (List.replicate 16 0)
  let ident := if w.idoff = 0xFFF then (if w.src = 0 then word n else val) else wordAt rec w.idoff
  let w := { w with next := w.next + 1 }
  if pass then w.select { score := score, ident := ident, record := if w.emit then rec else [] } else w

/-! ### Sparse blocks (R314, R315) -/

/-- The elements x' of a block and the selected indices, largest magnitude first. -/
def WinnowJob.sparse (w : WinnowJob) (d resid : List Byte) : List Fp × List Nat :=
  let x := (decodeBlock w.vfmt 0 0 d).map toFp32
  let x := if w.resid then List.zipWith fadd x ((List.range 1024).map (fun i => fpOf (BitVec.ofNat 32 (natAt resid (4 * i) 4)))) else x
  let mag := fun (v : Fp) => fpOf (fpBits v &&& 0x7FFFFFFF#32)
  let able := x.zipIdx.filter (fun e => !(fpOf w.thr).isNan && !e.1.isNan && !fpLt (mag e.1) (fpOf w.thr))
  let order := sortBy (fun a b => fpLt (mag b.1) (mag a.1) || (!fpLt (mag a.1) (mag b.1) && decide (a.2 < b.2))) able
  (x, (order.take w.k).map (·.2))

/-- Bytes of a slot. -/
def WinnowJob.slot (w : WinnowJob) : Nat := up64 (8 + 8 * w.k)

/-- The slot of a block (Table 11.6). -/
def WinnowJob.slotBytes (w : WinnowJob) (b : Nat) (x : List Fp) (sel : List Nat) : List Byte :=
  padTo w.slot (wordsBytes (pack [(28, b), (0, sel.length)] :: sel.map (fun i => pack [(54, i), (0, (fpBits ((x[i]?).getD .nan)).toNat)])))

/-! ### Output (R312, R315, R316) -/

/-- Header of a message of a winnow. -/
def winnowHdr (j : Job) (block rank : Nat) : EngHdr := { tc := 2, jobid := j.jobid, comp := j.comp, block := block, rank := rank, jkey := j.jkey }

/-- Store bytes from a line on: whole lines, then what is left of the last. -/
def storeBytes (s : State) (j : Job) (h : Nat) (key : Word) (off : Nat) (d : List Byte) : State :=
  let full := d.length / 64 * 64
  let use : AccUse := .jobStore j.jobid 0
  let s := if full = 0 then s else (issueStores s use j.charge h key off (d.take full)).2
  if full = d.length then s else issueMasked s use j.charge h key (off + full) (d.drop full)

/-- Send a sparse slot: one message, or parts of 64 units. -/
def sendSlot (s : State) (j : Job) (p b : Nat) (d : List Byte) : State :=
  each (List.range (ceilDiv d.length 4096)) (fun k s => sendEng s j.jobid p 2 (winnowHdr j b k) (slice d (4096 * k) (min 4096 (d.length - 4096 * k))) 0) s

/-- Close a sparse block. -/
def sparseBlock (s : State) (j : Job) (w : WinnowJob) (b : Nat) (d resid : List Byte) : State :=
  let (x, sel) := w.sparse d resid
  let out := w.slotBytes b x sel
  let s := if w.resid then
      (issueStores s (.jobStore j.jobid b) j.charge w.proj w.projKey (w.projOff * 4096 + b * 4096)
        (x.zipIdx.flatMap (fun e => natLe 4 (if sel.contains e.2 then 0 else (fpBits e.1).toNat)))).2
    else s
  let s := updWinnow s j.jobid (fun w => { w with next := w.next + 1, written := w.written + sel.length, waitingRecs := w.waitingRecs.filter (fun r => r.1 != b) })
  if w.dkind = 0 then (issueStores s (.jobStore j.jobid b) j.charge w.dst w.dstKey (w.dstOff * 4096 + b * w.slot) out).2
  else match (portsTo s w.epid).head? with
    | some p => sendSlot s j p b out
    | none => s

/-- Send entries in messages of up to 256 and the closing message of LEN 0. -/
def sendEntries (s : State) (j : Job) (p opc : Nat) (h : Nat → EngHdr) (l : List Entry) : State :=
  let s := each (List.range (ceilDiv l.length 256)) (fun k s =>
    sendEng s j.jobid p opc (h k) (padUnits (((l.drop (256 * k)).take 256).flatMap entryBytes)) 0) s
  sendEng s j.jobid p opc (h l.length) [] 0

/-- Everything has been taken in: the list goes out. -/
def winnowOut (s : State) (j : Job) (w : WinnowJob) : State :=
  let s := updWinnow s j.jobid (fun w => { w with written := w.list.length })
  if w.dkind = 0 then
    let base := w.dstOff * 4096
    let s := storeBytes s j w.dst w.dstKey base (w.list.flatMap entryBytes)
    if w.emit then storeBytes s j w.dst w.dstKey (base + up4k (16 * w.list.length)) (w.list.flatMap (fun e => padTo (w.recb * 64) e.record)) else s
  else if w.dkind = 1 then
    match (portsTo s w.epid).head? with
    | some p => sendEntries s j p 2 (fun k => winnowHdr j k 0) w.list
    | none => s
  else match pickPort (portsToDevice s w.parentDev) s.dom.devid j.stall j.svc j.qp with
    | some p => sendEntries s j p 4 (fun k => { winnowHdr j k w.rank with jobid := w.pjobid, jkey := w.pjkey }) w.list
    | none => s

/-- Has a winnow taken everything in. -/
def winnowAll (s : State) (w : WinnowJob) : Bool :=
  match w.src with
  | 1 => w.waitingRecs.isEmpty && (w.fedBy.bind (jobOf s)).isNone
  | 2 => w.ended.length == w.npart
  | _ => w.next == w.nrec

/-! ### Reading records -/

/-- Read records, or a sparse block and its residual. -/
def askRecords (s : State) (j : Job) (w : WinnowJob) (first n : Nat) : State :=
  if w.src = 0 then issueReads s (.jobRead j.jobid first n) j.charge w.input w.inKey 0 (w.inOff * 4096 + first * w.recb * 64) (n * w.recb * 64)
  else
    let size := packedSize w.vfmt 0
    each (List.range' first n) (fun b s =>
      let s := issueReads s (.jobRead j.jobid b 0) j.charge w.input w.inKey 0 (w.inOff * 4096 + b * size) size
      if w.resid then issueReads s (.jobRead j.jobid b 1) j.charge w.proj w.projKey 0 (w.projOff * 4096 + b * 4096) 4096 else s) s

/-- Item number of the reads of a projection matrix. -/
def matrixItem : Nat := 2 ^ 40

/-- Bytes of a projection matrix. -/
def WinnowJob.matrixBytes (w : WinnowJob) : Nat := w.pdim * up64 (w.vdim * (fmtBits w.pfmt / 8))

/-- Does a winnow still lack its projection matrix; asked for once (R310). -/
def askMatrix (s : State) (j : Job) (w : WinnowJob) : State :=
  if w.pdim = 0 || w.matrix.isSome || !(accessesOf s (.jobRead j.jobid matrixItem 0)).isEmpty then s
  else issueReads s (.jobRead j.jobid matrixItem 0) j.charge w.proj w.projKey 0 (w.projOff * 4096) w.matrixBytes

/-- Take what has been read for a winnow. -/
def takeRecords (s : State) (jobid : Nat) : State :=
  each (readyReads s jobid) (fun e s => match jobOf s jobid with
    | some j => match j.body with
      | .winnow w =>
        let size := packedSize w.vfmt 0
        let (off, n) :=
          if e.1 = matrixItem then (w.projOff * 4096, w.matrixBytes)
          else if w.src = 0 then (w.inOff * 4096 + e.1 * w.recb * 64, e.2 * w.recb * 64)
          else if e.2 = 0 then (w.inOff * 4096 + e.1 * size, size)
          else (w.projOff * 4096 + e.1 * 4096, 4096)
        let (f, s) := takeReads s (.jobRead jobid e.1 e.2) off n
        match f with
        | .data d =>
          let s := updJob s jobid (fun j => { j with heard := s.time.bell })
          updWinnow s jobid (fun w =>
            if e.1 = matrixItem then { w with matrix := some d }
            else if w.src = 0 then { w with
              waitingRecs := w.waitingRecs ++ (List.range e.2).map (fun k => (e.1 + k, 0, slice d (k * w.recb * 64) (w.recb * 64))) }
            else { w with waitingRecs := w.waitingRecs ++ [(e.1, word e.2, d)] })
        | .failed status _ => endJob s jobid status 0 0 0
        | .waiting => s
      | _ => s
    | none => s) s

/-- Process one item of a winnow's portion. False: what it needs has not come. -/
def winnowItem (s : State) (jobid i : Nat) : Bool × State :=
  match jobOf s jobid with
  | none => (true, s)
  | some j => match j.body with
    | .winnow w =>
      let mine := w.waitingRecs.filter (fun r => r.1 == i)
      if w.pdim ≠ 0 && w.matrix.isNone && w.src != 3 then (false, s)
      else if w.src = 3 then
        match mine.find? (fun r => r.2.1 == 0), mine.find? (fun r => r.2.1 == 1) with
        | some d, x => if w.resid && x.isNone then (false, s) else (true, sparseBlock s j w i d.2.2 ((x.map (·.2.2)).getD []))
        | none, _ => (false, s)
      else match mine with
        | r :: _ => (true, updWinnow s jobid (fun w => { w.record i r.2.1 r.2.2 with waitingRecs := w.waitingRecs.filter (fun x => x.1 != i) }))
        | [] => (false, s)
    | _ => (true, s)

/-- Process items in order until one must wait; gives how many were processed. -/
def winnowItems (jobid : Nat) : List Nat → State → Nat × State
  | [], s => (0, s)
  | i :: is, s =>
    let (ok, s') := winnowItem s jobid i
    if ok then let (n, s'') := winnowItems jobid is s'; (n + 1, s'') else (0, s)

/-! ### Streaming merge (R316, R317) -/

/-- A PARTIAL of a child of a winnow job. -/
def judgeList (j : Job) (w : WinnowJob) (h : EngHdr) : Verdict :=
  match headCause j h with
  | some c => .discard c
  | none =>
    if w.src ≠ 2 then .discard 3
    else if w.npart ≤ h.rank then .discard 7
    else if h.fmt ≠ 0 then .discard 4
    else if w.ended.contains h.rank then .discard 8
    else .take

/-- Merge entries of a rank. -/
def WinnowJob.merge (w : WinnowJob) (rank : Nat) (es : List Entry) : WinnowJob :=
  { w with list := es.foldl (fun l e => topk w.dir w.k l { e with rank := rank }) w.list }

/-- Take a PARTIAL: the message before it is merged whole; the closing one says how many entries the last one holds. -/
def takeList (s : State) (h : EngHdr) (d : List Byte) : State :=
  let s := updJob s h.jobid (fun j => { j with heard := s.time.bell })
  updWinnow s h.jobid (fun w =>
    let (n, last) := Tab.getD w.lists h.rank (0, [])
    if h.len = 0 then
      { w.merge h.rank ((entriesOf last).take (h.block - n)) with ended := addOnce w.ended h.rank, lists := Tab.erase w.lists h.rank }
    else
      { w.merge h.rank (entriesOf last) with lists := Tab.set w.lists h.rank (n + (entriesOf last).length, d) })

/-! ### Timeouts (R319) -/

/-- MISS of a gather or winnow that has heard nothing for TMO bells while it expects input. -/
def wjobLate (s : State) (j : Job) : Option Nat :=
  if since s j.heard < j.tmo then none
  else match j.body with
    | .gather r => if r.complete then none else some 0
    | .winnow w => if winnowAll s w then none
      else if w.src = 2 then some (((List.range w.npart).find? (fun k => !w.ended.contains k)).getD 0) else some 0
    | _ => none

def wjobTimeout (s : State) (jobid : Nat) : State :=
  match jobOf s jobid with
  | none => s
  | some j => match wjobLate s j with
    | some miss =>
      let s := engRecord s j.quarter 0x0B03 j.stall (word jobid) (word miss) (word (since s j.heard)) 0
      endJob s jobid MEDIA_ERROR 0 miss 0
    | none => s

end Sys2Proof.Machine
end

