-- ==== Sys2Proof/Machine/Search.lean ====
section
/-! DEFINITION. Vector search: the root of a job, the shard pipeline, the merges, compaction (R327 to R352). -/

namespace Sys2Proof.Machine

/-! ### Scores (R327, Table 12.6) -/

/-- DIR of a distance program: smallest first. -/
def dirOf (d0 : Word) : Bool := bit d0 55

/-- A product sum under an operator, scaled. -/
def scaled (scale : Nat) (op : Nat) (x y : List (BitVec 32)) : Fp := fmul (fpOf (BitVec.ofNat 32 scale)) (fpOf (Config.macSum op x y))

/-- Vectors of a query, a centroid, a codeword and an item, in FP32. -/
def queryVec (x : Index) (d : List Byte) : List (BitVec 32) := vectorBits x.qfmt x.dim d
def centroid (s : State) (x : Index) (l : Nat) : List (BitVec 32) :=
  vectorBits x.cfmt x.dim (indexBytes s x.common x.commonKey (l * x.cstride) x.cstride)
def codeword (s : State) (x : Index) (m k : Nat) : List (BitVec 32) :=
  vectorBits x.cfmt (x.dim / x.m) (indexBytes s x.common x.commonKey (x.bookOff + (256 * m + k) * x.sstride) x.sstride)
def itemVec (s : State) (x : Index) (slot : Nat) : List (BitVec 32) :=
  match partAt x (slot / 2 ^ 30) with
  | some p => vectorBits x.qfmt x.dim (indexBytes s p.handle p.key (vecOff p + slot % 2 ^ 30 * x.vstride) x.vstride)
  | none => []

/-- The coarse score of a list. -/
def coarse (s : State) (x : Index) (d0 d1 : Word) (q : List (BitVec 32)) (l : Nat) : Fp := scaled (fld d1 63 32) (fld d0 63 62) q (centroid s x l)

/-- Round to FP16 (R327). -/
def toFp16 (v : Fp) : Fp :=
  match v, floatFmt 2 with
  | .num a, some k => let c := floatCode k .nearest a; floatValue k ((if c.1 then 2 ^ 15 else 0) + c.2)
  | v, _ => v

/-- A table entry. -/
def tableEntry (s : State) (x : Index) (d0 d1 : Word) (q : List (BitVec 32)) (m k : Nat) : Fp :=
  let n := x.dim / x.m
  toFp16 (scaled (fld d1 31 0) (fld d0 61 60) ((q.drop (m * n)).take n) (codeword s x m k))

/-- The scan score of an item with its bytes, in a list with coarse score c, from the query's table entries. -/
def scanScore (x : Index) (d0 : Word) (entries : List (BitVec 32)) (c : Fp) (item : List Byte) : Fp :=
  let s0 := if bit d0 57 then c else .num {}
  let s1 := (List.range x.m).foldl (fun a m => fadd a (fpOf ((entries[256 * m + natAt item m 1]?).getD 0))) s0
  if bit d0 56 then fadd s1 (fmul (fpOf (BitVec.ofNat 32 (fld d0 31 0))) (toFp32 (eltValue 2 0 (natAt item (x.m + 4) 2)))) else s1

/-- The refine score of a slot. -/
def refineScore (s : State) (x : Index) (d0 d1 : Word) (q : List (BitVec 32)) (slot : Nat) : Fp := scaled (fld d1 63 32) (fld d0 59 58) q (itemVec s x slot)

/-! ### Lists on the way (R347, Table 12.12) -/

/-- The summary unit; EPOCH and COUNT are set in a result header only. -/
def summaryUnit (m : Summary) (epoch count : Nat) : List Byte :=
  padTo 64 (wordsBytes [pack [(56, m.status), (48, m.shards), (42, m.failrank)], word m.scanned, pack [(32, m.fallback), (0, m.tombpass)]
                       , pack [(32, m.evaluated), (0, m.badpages)], pack [(32, epoch), (0, count)]])

/-- A summary from its unit. -/
def summaryOf (d : List Byte) : Summary :=
  let w := fun (i : Nat) => wordAt d (8 * i)
  { status := fld (w 0) 63 56, shards := fld (w 0) 55 48, failrank := fld (w 0) 47 42, scanned := (w 1).toNat, fallback := fld (w 2) 63 32
    tombpass := fld (w 2) 31 0, evaluated := fld (w 3) 63 32, badpages := fld (w 3) 31 0 }

/-- Sum two summaries: STATUS and FAILRANK of the lowest failing rank (R348). -/
def addSummary (a b : Summary) : Summary :=
  let take := b.status ≠ OK ∧ (a.status = OK ∨ b.failrank < a.failrank)
  { status := if take then b.status else a.status, failrank := if take then b.failrank else a.failrank, shards := a.shards + b.shards
    scanned := a.scanned + b.scanned, fallback := a.fallback + b.fallback, tombpass := a.tombpass + b.tombpass
    evaluated := a.evaluated + b.evaluated, badpages := a.badpages + b.badpages }

/-- Later messages of a list: up to 256 entries each, the last below that. -/
def tailParts : Nat → List Entry → List (List Byte)
  | 0, _ => []
  | n + 1, es => padUnits ((es.take 256).flatMap entryBytes) :: (if es.length < 256 then [] else tailParts n (es.drop 256))

/-- Payloads of a list: the first with the summary and up to 252 entries. -/
def listParts (unit : List Byte) (es : List Entry) : List (List Byte) :=
  (unit ++ padUnits ((es.take 252).flatMap entryBytes)) :: (if es.length < 252 then [] else tailParts es.length (es.drop 252))

/-- Entries of a payload: those after the last that is not all zero are padding. -/
def listEntries (d : List Byte) : List Entry :=
  ((entriesOf d).reverse.dropWhile (fun e => e.score == 0 && e.rank == 0 && e.ident == 0)).reverse

/-- Merge a message of a rank's list into a merge; does it end the list. -/
def Merge.add (m : Merge) (smallest : Bool) (k rank : Nat) (d : List Byte) : Merge :=
  let first := !m.seen.contains rank
  let es := listEntries (if first then d.drop 64 else d)
  let m := if first then { m with seen := rank :: m.seen, sum := addSummary m.sum (summaryOf d) } else m
  { m with
    list := es.foldl (topk smallest k) m.list
    ended := if es.length < (if first then 252 else 256) then addOnce m.ended rank else m.ended }

/-! ### The shard: which queries are where -/

/-- A query in a shard by job and number, with its index. -/
def queryAt (s : State) (jobid query : Nat) : Option (Index × ShardQuery) :=
  s.idx.indexes.findSome? (fun x => (x.queries.find? (fun q => q.jobid == jobid && q.query == query)).map (fun q => (x, q)))

/-- What stands for JOBID where work is no job's. -/
def noJob : Nat := 2 ^ 32

/-- Change a query. -/
def updQuery (s : State) (n jobid query : Nat) (f : ShardQuery → ShardQuery) : State :=
  updIndex s n (fun x => { x with queries := adjustWhere x.queries (fun q => q.jobid == jobid && q.query == query) f })

/-- Ranks that send their lists to a rank. -/
def Index.kids (x : Index) (rank : Nat) : List Nat := (List.range x.shards.length).filter (fun r => r != rank && (x.shards[r]?).any (fun e => e.2 == rank))

/-- Merge tops. -/
def Index.tops (x : Index) : List Nat := (List.range x.shards.length).filter (fun r => (x.shards[r]?).any (fun e => e.2 == r))

/-- The quarter that merges: the common region's home quarter (Table 12.9). -/
def mergeQuarter (s : State) (x : Index) : Nat := (regionOf s x.common).elim 0 (·.homeq)

/-- A part frees what the queries of before its switch were reading, once they are done (R345). -/
def freeOld (s : State) (n : Nat) : State :=
  match indexAt s n with
  | none => s
  | some x => each (x.parts.filter (fun p => p.oldReaders.isEmpty && !(p.oldPages.isEmpty && p.oldSlots.isEmpty))) (fun p s =>
      let s := each p.oldSlots (fun slot s => match partAt x (slot / 2 ^ 30) with
        | some q => putMeta s q (slot % 2 ^ 30) 0 0 0
        | none => s) s
      updIndex s n (fun x => { x with parts := adjustWhere x.parts (fun o => o.part == p.part) (fun o => { o with oldPages := [], oldSlots := [], oldDir := [] }) })) s

/-- A query leaves a shard. -/
def dropQuery (s : State) (n jobid query : Nat) : State :=
  freeOld (updIndex s n (fun x => { x with
    queries := x.queries.filter (fun q => !(q.jobid == jobid && q.query == query))
    parts := x.parts.map (fun p => { p with oldReaders := p.oldReaders.filter (· != (jobid, query)) }) })) n

/-! ### The root: merging and delivering (R348 to R351) -/

/-- Status of a search's FINAL: that of the lowest-numbered failing query. -/
def SearchJob.status (r : SearchJob) : Nat :=
  match minBy (·.query) (r.merges.filter (fun m => m.sum.status != OK)) with
  | some m => m.sum.status
  | none => OK

/-- Deliver a query's result (R349). -/
def deliverQuery (s : State) (j : Job) (r : SearchJob) (m : Merge) : State :=
  let head := summaryUnit m.sum r.epoch m.list.length
  if r.dkind = 0 then
    storeBytes s j r.dst r.dstKey (r.dstOff * 4096 + m.query * up64 (64 + 16 * r.k)) (head ++ m.list.flatMap entryBytes)
  else match (portsTo s r.epid).head? with
    | some p => each (listParts head m.list) (fun d s =>
        sendEng s j.jobid p 2 { tc := 3, jobid := j.jobid, comp := j.comp, block := m.query, jkey := j.jkey } d 0) s
    | none => s

/-- Deliver the results of queries whose every top has ended its list. -/
def deliverReady (s : State) (jobid : Nat) : State :=
  match jobOf s jobid with
  | some j => match j.body with
    | .search r => match indexAt s r.index with
      | some x =>
        let ready := r.merges.filter (fun m => !m.delivered && x.tops.all (fun t => m.ended.contains t))
        each ready (fun m s => deliverQuery (updSearch s jobid (fun r => { r with
          merges := adjustWhere r.merges (fun o => o.query == m.query) (fun o => { o with delivered := true }) })) j r m) s
      | none => s
    | _ => s
  | none => s

/-- Take a message of a top's list at the root. -/
def takeAtRoot (s : State) (jobid query rank : Nat) (d : List Byte) : State :=
  deliverReady (updSearch s jobid (fun r => { r with
    merges := adjustWhere r.merges (fun m => m.query == query) (fun m => m.add (dirOf r.d0) r.k rank d) })) jobid

/-! ### The shard: sending and merging lists (R347, R348) -/

/-- Header of a message of a shard. -/
def shardHdr (s : State) (x : Index) (q : ShardQuery) : EngHdr :=
  { src := s.dom.devid, tc := 3, stall := q.stall, svc := q.svc, jobid := q.jobid, comp := x.comp, block := q.query, rank := x.rank, jkey := q.jkey }

/-- Send messages to a device; those for this device are handed over at once. -/
def sendShard (s : State) (x : Index) (q : ShardQuery) (dev opc : Nat) (h : EngHdr) (d : List Byte) : State :=
  match pickPort (portsToDevice s dev) s.dom.devid q.stall q.svc 0 with
  | some p => send s p (.eng opc { h with len := d.length / 64, comp := x.comp } d 0)
  | none => s

/-- A query whose own list and whose children's lists have ended sends one list up: to its merge parent, or from a top to the
root (R348). -/
def sendUp (s : State) (n jobid query : Nat) : State :=
  match indexAt s n with
  | none => s
  | some x => match x.queries.find? (fun q => q.jobid == jobid && q.query == query) with
    | none => s
    | some q =>
      if !q.own || !(x.kids x.rank).all (fun r => q.merge.ended.contains r) then s
      else
        let parent := ((x.shards[x.rank]?).map (·.2)).getD x.rank
        let dev := if parent = x.rank then q.root else ((x.shards[parent]?).map (·.1)).getD q.root
        let parts := listParts (summaryUnit q.merge.sum 0 0) q.merge.list
        let s := dropQuery s n jobid query
        if dev = s.dom.devid && parent == x.rank then each parts (fun d s => takeAtRoot s jobid query x.rank d) s
        else each parts (fun d s => sendShard s x q dev 4 (shardHdr s x q) d) s

/-- A shard's own list has ended with a summary and entries. -/
def ownList (s : State) (x : Index) (q : ShardQuery) (sum : Summary) (es : List Entry) : State :=
  let s := updQuery s x.number q.jobid q.query (fun q => { q with
    own := true, held := false
    merge := { q.merge with sum := addSummary q.merge.sum sum, list := es.foldl (topk (dirOf q.d0) q.k) q.merge.list } })
  sendUp s x.number q.jobid q.query

/-- A list that ends with a status and no entries (R343). -/
def failList (s : State) (x : Index) (q : ShardQuery) (status : Nat) : State := ownList s x q { status := status, failrank := x.rank } []

/-! ### The shard pipeline (Table 12.9, R335 to R338) -/

/-- Take a candidate into the best n. -/
def bestOf (smallest : Bool) (n : Nat) (l : List Found) (f : Found) : List Found :=
  if (fpOf f.e.score).isNan then l else (insertBy (fun a b => better smallest a.e b.e) f l).take n

/-- Candidates that the scan keeps of a query: C of Table 12.9. -/
def ShardQuery.keep (q : ShardQuery) : Nat := if q.rcand = 0 then q.k else q.rcand

/-- MACs that an array does in an ACLK on elements of a format (R331). -/
def macRate (fmt : Nat) : Nat := if eltBytes fmt = 1 then 8192 else 4096

/-- Codes that a search engine scores in an ACLK (Table 12.9): half with the tables in HBM. -/
def scanRate (x : Index) (hbm : Bool) : Nat := max 1 (min 64 (2048 / max x.m 1) / (if hbm then 2 else 1))

/-- A query's tables in a quarter. -/
def ShardQuery.tablesIn (q : ShardQuery) (n : Nat) : Option QueryTables := q.tables.find? (fun t => t.quarter == n)

/-- Charge MACs to a composition, to the 2^20 that MAC_OPS counts (Table 4.5). -/
def meterMacs (s : State) (comp n : Nat) : State := meter s comp (fun m => { m with macs := m.macs + n })

/-! #### The query batch (R335) -/

/-- Bytes of a query's tables. -/
def tableBytes (x : Index) : Nat := x.m * 512

/-- A query enters the batch of every quarter whose part holds a list that it probes. It waits for directory lines that are not read. -/
def startQuery (s : State) (x : Index) (q : ShardQuery) : State :=
  let missing := missingNeeds s [dirNeeds x (q.probes.map (·.1))]
  if !missing.isEmpty then askNeeds s missing
  else
    let scans := q.probes.filterMap (fun (l, c) => (partAt x (fld (dirWords s x l).2 1 0)).map (fun p =>
      ({ list := l, score := c, part := p.part, quarter := p.quarter } : Probe)))
    let left := ceilDiv (256 * x.dim) (macRate x.cfmt)
    updQuery s x.number q.jobid q.query (fun q => { q with
      started := true, scans := scans, tables := ((scans.map (·.quarter)).eraseDups).map (fun n => { quarter := n, left := left }) })

/-! #### Tables and scans -/

/-- A MAC array builds a query's tables in a quarter for up to some ACLK; what is left of them. A table waits for codebook lines that are
not read. -/
def buildTables (s : State) (x : Index) (q : ShardQuery) (n room : Nat) : Nat × State :=
  match q.tablesIn n with
  | none => (room, s)
  | some t =>
    let missing := missingNeeds s [bytesNeeds x.common x.bookOff (256 * x.m * x.sstride)]
    if !missing.isEmpty then (room, askNeeds s missing)
    else
      let k := min t.left room
      let entries := if k < t.left then [] else
        let v := queryVec x q.vec
        (List.range (256 * x.m)).map (fun i => fpBits (tableEntry s x q.d0 q.d1 v (i / 256) (i % 256)))
      let s := meterMacs s x.comp (k * macRate x.cfmt)
      (room - k, updQuery s x.number q.jobid q.query (fun q => { q with
        tables := adjustWhere q.tables (fun t => t.quarter == n) (fun t => { t with left := t.left - k, entries := entries }) }))

/-- Change the scan of a query's probe. -/
def updProbe (s : State) (x : Index) (q : ShardQuery) (i : Nat) (f : Probe → Probe) : State :=
  updQuery s x.number q.jobid q.query (fun q => { q with scans := q.scans.zipIdx.map (fun e => if e.2 = i then f e.1 else e.1) })

/-- The page that a probe's scan comes to next: the first of its slice, that of before a switch for a query of before it (R345), or the
one it has reached. None where the slice ends. -/
def nextPage (s : State) (x : Index) (q : ShardQuery) (r : Probe) (p : IndexPart) : Option Nat :=
  let l0 := (dirWords s x r.list).1
  let l0 := if p.oldReaders.contains (q.jobid, q.query) then Tab.getD p.oldDir r.list l0 else l0
  let page := r.page.getD (fld l0 63 32)
  if p.npage ≤ page ∨ p.npage ≤ r.pages then none else some page

/-- What the scan of a page gives: its items scored, its candidates, the page behind it, and the failure of one that cannot be read
(R336, R337). A page whose header cannot be read is the last one found (log 155). -/
structure PageScan where
  count : Nat := 0
  found : List Found := []
  next : Nat := 0
  bad : Option (Nat × Word) := none
deriving DecidableEq, Repr

def scanPage (s : State) (x : Index) (q : ShardQuery) (t : QueryTables) (r : Probe) (p : IndexPart) (page : Nat) (found : List Found) : PageScan :=
  let next := match peek s p.handle p.key (page * 4096) 8 with
    | .ok d => fld (wordAt d 0) 63 32
    | .error _ => noPage
  match peek s p.handle p.key (page * 4096) 4096 with
  | .error e => { found := found, next := next, bad := some e }
  | .ok d =>
    let n := fld (wordAt d 0) 8 0
    let h1 := wordAt d 8
    let all := decide (fld h1 63 32 ≤ q.epoch) && decide (q.epoch < fld h1 31 0)
    let found := (List.range n).foldl (fun l i =>
      let item := slice d (64 + i * x.isz) x.isz
      let slot := itemSlot x item
      let (e0, e1, _) := itemMeta s x slot
      if all || visibleAt e1 q.epoch then
        bestOf (dirOf q.d0) q.keep l { e := { score := fpBits (scanScore x q.d0 t.entries (fpOf r.score) item), rank := x.rank, ident := e0 }, slot := slot }
      else l) found
    { count := n, found := found, next := next }

/-- Lines that scanning a page needs: its header, the page, the metadata of its items. -/
def scanNeeds (s : State) (x : Index) (p : IndexPart) (page : Nat) : List Needs :=
  [headNeeds p [page], pageNeeds p [page], metaNeeds x (slotsIn s x p [page])]

/-- The scan of a probe is done; the tables go with the last of its quarter. -/
def endProbe (s : State) (x : Index) (q : ShardQuery) (i n : Nat) : State :=
  updQuery (updProbe s x q i (fun r => { r with ended := true })) x.number q.jobid q.query (fun q => { q with
    tables := if q.scans.any (fun r => r.quarter == n && !r.ended) then q.tables else q.tables.filter (fun t => t.quarter != n) })

/-- A page of a probe has been scanned: counted, metered, recorded where it failed. -/
def pageDone (s : State) (x : Index) (q : ShardQuery) (i : Nat) (r : Probe) (page : Nat) (hbm : Bool) (g : PageScan) : State :=
  let s := match g.bad with
    | some (status, seq) => engRecord s r.quarter 0x0C03 q.stall (pack [(48, x.number), (0, r.part)]) (word page) (word status) seq
    | none => meter s x.comp (fun m => { m with searchCodes := m.searchCodes + word g.count })
  let s := updQuery s x.number q.jobid q.query (fun q => { q with
    found := Tab.set q.found r.quarter g.found
    sum := { q.sum with
      scanned := q.sum.scanned + g.count, badpages := q.sum.badpages + b2n g.bad.isSome
      fallback := q.sum.fallback + b2n (hbm && r.page.isNone)
      status := if q.sum.status = OK then (g.bad.elim OK (·.1)) else q.sum.status } })
  updProbe s x q i (fun r => { r with page := some g.next, pages := r.pages + 1 })

/-- A search engine scans pages of a probe while they fit the codes left and it gets to them. -/
def scanProbe (n jobid query i : Nat) : Nat → Nat → Nat → State → Nat × Nat × State
  | 0, room, most, s => (room, most, s)
  | fuel + 1, room, most, s =>
    match indexAt s n, queryAt s jobid query with
    | some x, some (_, q) => match q.scans[i]? with
      | none => (room, most, s)
      | some r => match partAt x r.part, q.tablesIn r.quarter with
        | some p, some t =>
          if r.ended then (room, most, s)
          else match nextPage s x q r p with
            | none => (room, most, endProbe s x q i r.quarter)
            | some page =>
              let missing := missingNeeds s (scanNeeds s x p page)
              if !missing.isEmpty then (room, most, askNeeds s missing)
              else
                let s := readThrough s (scanNeeds s x p page).flatten
                let g := scanPage s x q t r p page (Tab.getD q.found r.quarter [])
                let cost := ceilDiv g.count (scanRate x t.hbm)
                if room < cost ∨ most = 0 then (room, most, s)
                else scanProbe n jobid query i fuel (room - cost) (most - 1) (pageDone s x q i r page t.hbm g)
        | _, _ => (room, most, s)
    | _, _ => (room, most, s)

/-! #### The quarter merge, refining and the walk -/

/-- A query's own list is done: it is merged with those of its children and goes up. -/
def endQuery (s : State) (x : Index) (q : ShardQuery) (best : List Found) (ev tomb : Nat) : State :=
  let sum := { q.sum with
    evaluated := ev, tombpass := tomb, shards := b2n (q.sum.status == OK), failrank := if q.sum.status = OK then 0 else x.rank }
  ownList s x q sum ((best.take q.k).map (·.e))

/-- A winnow merges the quarters' candidates, 32 entries an ACLK. With the last of them the query has its C best: they are refined, or,
with RCAND 0, are its list (R338). -/
def mergeQuery (s : State) (x : Index) (q : ShardQuery) (room : Nat) : Nat × State :=
  let all := q.found.flatMap (·.2)
  let k := min (all.length - q.taken) (room * 32)
  let room := room - ceilDiv k 32
  if q.taken + k < all.length then (room, updQuery s x.number q.jobid q.query (fun q => { q with taken := q.taken + k }))
  else
    let best := all.foldl (bestOf (dirOf q.d0) q.keep) []
    let s := updQuery s x.number q.jobid q.query (fun q => { q with taken := all.length, merged := true, found := [], refine := if q.rcand = 0 then [] else best })
    (room, if q.rcand = 0 then endQuery s x q best 0 0 else s)

/-- Is a node's word E1 that of an item inserted at an epoch. -/
def insertedAt (e1 : Word) (e : Nat) : Bool := decide (1 ≤ insep e1) && decide (insep e1 ≤ e)

/-- Follow one edge of a node. -/
def walkEdge (s : State) (x : Index) (q : ShardQuery) (v : List (BitVec 32)) (run : Nat) (w : Walk) (t : Nat) : Walk :=
  if t = noPage ∨ w.visited.contains t ∨ q.eval ≤ w.ev then w
  else
    let (e0, e1, _) := itemMeta s x t
    let dead := delep e1 != 0 && decide (delep e1 ≤ q.epoch)
    let run := if dead then run + 1 else 0
    if !insertedAt e1 q.epoch || decide (2 < run) then w
    else
      let f : Found := { e := { score := fpBits (refineScore s x q.d0 q.d1 v t), rank := x.rank, ident := e0 }, slot := t }
      { heap := if (fpOf f.e.score).isNan then w.heap else { f := f, run := run } :: w.heap
        visited := t :: w.visited
        found := if dead || w.found.any (fun g => g.slot == t) then w.found else bestOf (dirOf q.d0) (max q.k w.found.length + 1) w.found f
        ev := w.ev + 1, tomb := w.tomb + b2n dead }

/-- The node that a walk expands next; none where it stops (R344). -/
def walkNext (q : ShardQuery) (w : Walk) : Option Node :=
  let small := dirOf q.d0
  match w.heap.filter (fun h => !h.expanded) with
  | [] => none
  | h :: hs =>
    let best := hs.foldl (fun b o => if better small o.f.e b.f.e then o else b) h
    let stop := match w.found[q.k - 1]? with
      | some k => if small then fpLt (fpOf k.e.score) (fpOf best.f.e.score) else fpLt (fpOf best.f.e.score) (fpOf k.e.score)
      | none => false
    if q.eval ≤ w.ev || stop then none else some best

/-- Expand a node. -/
def walkExpand (s : State) (x : Index) (q : ShardQuery) (v : List (BitVec 32)) (w : Walk) (best : Node) : Walk :=
  let w := (edgesOf s x best.f.slot).foldl (walkEdge s x q v best.run) w
  { w with heap := adjustWhere w.heap (fun o => o.f.slot == best.f.slot) (fun o => { o with expanded := true }) }

/-- Lines that expanding a node needs: its edges, the metadata and vectors they lead to. -/
def walkNeeds (s : State) (x : Index) (n : Node) : List Needs :=
  let ends := (edgesOf s x n.f.slot).filter (· != noPage)
  [edgeNeeds x [n.f.slot], metaNeeds x ends ++ vecNeeds x ends]

/-- Candidates that an array scores at once, and the ACLK they take (Table 12.9). -/
def refineGroup (x : Index) : Nat := if eltBytes x.qfmt = 1 then 128 else 64
def refineCost (x : Index) : Nat := ceilDiv x.dim 64

/-- A walk begins from the ENTRY best refined candidates. -/
def walkStart (q : ShardQuery) : Walk :=
  let seeds := q.refined.take q.entry
  { heap := seeds.map (fun f => { f := f }), visited := seeds.map (·.slot), found := q.refined }

/-- A MAC array refines a query's candidates group by group and then walks the graph node by node, while they fit the ACLK left and it
gets to them; the query's list ends with the last (R338, R344). -/
def refineQuery (n jobid query : Nat) : Nat → Nat → Nat → State → Nat × Nat × State
  | 0, room, most, s => (room, most, s)
  | fuel + 1, room, most, s =>
    match indexAt s n, queryAt s jobid query with
    | some x, some (_, q) =>
      let v := queryVec x q.vec
      let cost := refineCost x
      let go := fun (needs : List Needs) (evals : Nat) (f : ShardQuery → ShardQuery) =>
        let missing := missingNeeds s needs
        if !missing.isEmpty then (none, askNeeds s missing)
        else if room < cost ∨ most = 0 then (none, s)
        else (some (), updQuery (meterMacs (readThrough s needs.flatten) x.comp (evals * x.dim)) n jobid query f)
      if !q.merged ∨ q.own then (room, most, s)
      else if !q.refine.isEmpty then
        let group := q.refine.take (refineGroup x)
        let (r, s') := go [vecNeeds x (group.map (·.slot))] group.length (fun q => { q with
          refine := q.refine.drop (refineGroup x)
          refined := group.foldl (fun l f => bestOf (dirOf q.d0) (l.length + 1) l { f with e := { f.e with score := fpBits (refineScore s x q.d0 q.d1 v f.slot) } }) q.refined })
        match r with
        | none => (room, most, s')
        | some _ => refineQuery n jobid query fuel (room - cost) (most - 1) s'
      else if q.entry = 0 then (room, most, endQuery s x q q.refined 0 0)
      else
        let w := q.walk.getD (walkStart q)
        match walkNext q w with
        | none => (room, most, endQuery s x q w.found w.ev w.tomb)
        | some b =>
          let w' := walkExpand s x q v w b
          let (r, s') := go (walkNeeds s x b) (w'.ev - w.ev) (fun q => { q with walk := some w' })
          match r with
          | none => (room, most, s')
          | some _ => refineQuery n jobid query fuel (if w'.ev = w.ev then room else room - cost) (most - 1) s'
    | _, _ => (room, most, s)

/-! ### Taking QUERYs (R333, R334, R343) -/

/-- QUERY_DISCARD: one record for an index and cause in 1,000 bells. -/
def discardQuery (s : State) (q n : Nat) (h : EngHdr) (cause : Nat) : State :=
  recordRate s (n * 8 + cause) { code := 0x0C01, quarter := q, kind := 9, stall := h.stall, principal := stallPrincipal s h.stall, p0 := word n
                                 p1 := pack [(48, h.src), (32, h.rank)], p2 := word cause }

/-- What becomes of a QUERY. -/
def judgeQuery (s : State) (h : EngHdr) (d : List Byte) : Verdict :=
  match (indexAt s (fld (wordAt d 0) 31 16)).filter (·.loaded) with
  | none => .discard 1
  | some x =>
    if !x.shards.any (fun e => e.1 == h.src) then .discard 2
    else if h.comp ≠ x.comp then .discard 3
    else if h.rank ≠ x.rank then .discard 4
    else if h.len ≠ 1 + ceilDiv (fld (wordAt d 0) 15 4) 8 + x.vstride / 64 then .discard 5
    else if 4096 ≤ x.queries.length then .wait
    else .take

/-- The query that a QUERY's payload describes. -/
def queryOf (s : State) (x : Index) (h : EngHdr) (d : List Byte) : ShardQuery :=
  let u0 := wordAt d 0
  let u1 := wordAt d 8
  let np := fld u0 15 4
  { jobid := h.jobid, jkey := h.jkey, query := h.block, root := fld u1 18 13, stall := h.stall, svc := h.svc, epoch := fld u0 63 32
    k := fld u1 63 52, rcand := fld u1 51 40, entry := fld u1 39 33, eval := fld u1 32 19, d0 := wordAt d 16, d1 := wordAt d 24
    probes := (List.range np).map (fun i => let w := wordAt d (64 + 8 * i); (fld w 51 32, BitVec.ofNat 32 (fld w 31 0)))
    vec := slice d (64 * (1 + ceilDiv np 8)) x.vstride, bell := s.time.bell, held := decide (x.epoch < fld u0 63 32)
    merge := { query := h.block } }

/-- Take a QUERY: below FLOOR it ends at once with EPOCH_STALE, above the committed epoch it is held (R343). -/
def takeQuery (s : State) (h : EngHdr) (d : List Byte) : State :=
  match indexAt s (fld (wordAt d 0) 31 16) with
  | none => s
  | some x =>
    let q := queryOf s x h d
    let s := updIndex s x.number (fun x => { x with queries := x.queries ++ [q] })
    if q.epoch < x.floor then failList s x q EPOCH_STALE else s

/-- A query held 4 bells for its epoch ends its list with EPOCH_STALE (R343). -/
def holdExpiry (s : State) (n jobid query : Nat) : State :=
  match indexAt s n with
  | none => s
  | some x => match x.queries.find? (fun q => q.jobid == jobid && q.query == query) with
    | some q => if q.held && decide (4 ≤ since s q.bell) then failList s x q EPOCH_STALE else s
    | none => s

/-- Queries whose epoch has become visible are held no longer. -/
def releaseHeld (s : State) : State :=
  { s with idx := { s.idx with indexes := s.idx.indexes.map (fun x => { x with queries := x.queries.map (fun q => { q with held := q.held && decide (x.epoch < q.epoch) }) }) } }

/-! ### PARTIALs of lists (R348, R350) -/

/-- A PARTIAL on TC3: for the root of a search, or for a merge parent. -/
def judgeSearchPart (s : State) (h : EngHdr) : Verdict :=
  match (queryAt s h.jobid h.block).filter (fun e => (e.1.kids e.1.rank).contains h.rank) with
  | some (x, q) =>
    if h.jkey ≠ q.jkey then .discard 2
    else if h.comp ≠ x.comp then .discard 5
    else if h.fmt ≠ 0 then .discard 4
    else if q.merge.ended.contains h.rank then .dup else .take
  | none => match jobOf s h.jobid with
    | none => .discard 1
    | some j => match j.body with
      | .search r =>
        if h.jkey ≠ j.jkey then .discard 2
        else match indexAt s r.index with
          | none => .discard 3
          | some x =>
            if h.comp ≠ x.comp then .discard 5
            else if !x.tops.contains h.rank then .discard 7
            else if h.fmt ≠ 0 then .discard 4
            else match r.merges.find? (fun m => m.query == h.block) with
              | none => .discard 6
              | some m => if m.ended.contains h.rank then .dup else .take
      | _ => .discard 1

/-- Take a PARTIAL on TC3. -/
def takeSearchPart (s : State) (h : EngHdr) (d : List Byte) : State :=
  match queryAt s h.jobid h.block with
  | some (x, _) =>
    if (x.kids x.rank).contains h.rank then
      let s := updQuery s x.number h.jobid h.block (fun q => { q with merge := q.merge.add (dirOf q.d0) q.k h.rank d })
      sendUp s x.number h.jobid h.block
    else takeAtRoot s h.jobid h.block h.rank d
  | none => takeAtRoot s h.jobid h.block h.rank d

/-- The root merges without a shard that has not ended its list TMO bells after the QUERYs (R350). -/
def shardTimeout (s : State) (jobid query rank : Nat) : State :=
  match jobOf s jobid with
  | some j => match j.body with
    | .search r => match r.merges.find? (fun m => m.query == query), indexAt s r.index with
      | some m, some x =>
        if m.delivered || m.ended.contains rank || !x.tops.contains rank || decide (since s m.sent < j.tmo) then s
        else
          let s := engRecord s j.quarter 0x0C02 j.stall (word jobid) (word query) (word rank) 0
          deliverReady (updSearch s jobid (fun r => { r with
            merges := adjustWhere r.merges (fun m => m.query == query) (fun m => { m with
              ended := addOnce m.ended rank, sum := addSummary m.sum { status := MEDIA_ERROR, failrank := rank } }) })) jobid
      | _, _ => s
    | _ => s
  | none => s

/-! ### The coarse stage (R330, R331, R333) -/

/-- Queries of the group now passing: up to 64 behind those sent. -/
def SearchJob.group (r : SearchJob) : List Nat := List.range' r.sent (min 64 (r.nq - r.sent))

/-- Read the query vectors of the next group. -/
def askQueries (s : State) (j : Job) (r : SearchJob) : State :=
  match indexAt s r.index with
  | none => s
  | some x =>
    let g := r.group
    if g.isEmpty || !(accessesOf s (.jobRead j.jobid r.sent g.length)).isEmpty || g.all (Tab.has r.vecs) then s
    else issueReads s (.jobRead j.jobid r.sent g.length) j.charge r.qh r.qkey 0 (r.qoff * 4096 + r.sent * x.vstride) (g.length * x.vstride)

/-- Take the query vectors that have been read. -/
def takeQueries (s : State) (jobid : Nat) : State :=
  each (readyReads s jobid) (fun e s => match jobOf s jobid with
    | some j => match j.body with
      | .search r => match indexAt s r.index with
        | some x =>
          let (f, s) := takeReads s (.jobRead jobid e.1 e.2) (r.qoff * 4096 + e.1 * x.vstride) (e.2 * x.vstride)
          match f with
          | .data d => updSearch s jobid (fun r => { r with
              vecs := (List.range e.2).foldl (fun t i => Tab.set t (e.1 + i) (slice d (i * x.vstride) x.vstride)) r.vecs })
          | .failed status _ => endJob s jobid status 0 0 0
          | .waiting => s
        | none => s
      | _ => s
    | none => s) s

/-- ACLK that a pass takes on one MAC array (R331). -/
def passCost (x : Index) : Nat := ceilDiv (x.nlist * x.dim * 64) (macRate x.cfmt)

/-- The NPROBE best lists of a query with their scores. -/
def probesOf (s : State) (x : Index) (r : SearchJob) (v : List (BitVec 32)) : List (Nat × BitVec 32) :=
  let best := (List.range x.nlist).foldl (fun l n => bestOf (dirOf r.d0) r.nprobe l { e := { score := fpBits (coarse s x r.d0 r.d1 v n), ident := word n }, slot := n }) []
  best.map (fun f => (f.slot, f.e.score))

/-- The payload of a QUERY (R333). -/
def queryPayload (s : State) (x : Index) (r : SearchJob) (probes : List (Nat × BitVec 32)) (vec : List Byte) : List Byte :=
  wordsBytes [pack [(32, r.epoch), (16, r.index), (4, probes.length)]
             , pack [(52, r.k), (40, r.rcand), (33, r.entry), (19, r.eval), (13, s.dom.devid)], r.d0, r.d1, 0, 0, 0, 0]
    ++ padUnits (wordsBytes (probes.map (fun e => pack [(32, e.1), (0, e.2.toNat)]))) ++ padTo x.vstride vec

/-- Send a query to every shard, this device's own included. -/
def sendQuery (s : State) (j : Job) (r : SearchJob) (x : Index) (n : Nat) : State :=
  let vec := Tab.getD r.vecs n []
  let d := queryPayload s x r (probesOf s x r (queryVec x vec)) vec
  let s := updSearch s j.jobid (fun r => { r with merges := r.merges ++ [{ query := n, sent := s.time.bell }], vecs := Tab.erase r.vecs n })
  each (List.range x.shards.length) (fun k s =>
    let dev := ((x.shards[k]?).map (·.1)).getD 0
    let h : EngHdr := { src := s.dom.devid, tc := 3, stall := j.stall, svc := j.svc, jobid := j.jobid, comp := x.comp, fmt := x.qfmt, len := d.length / 64
                        block := n, rank := k, jkey := j.jkey }
    if dev = s.dom.devid then takeQuery s h d
    else match pickPort (portsToDevice s dev) s.dom.devid j.stall j.svc j.qp with
      | some p => sendEng s j.jobid p 3 h d 0
      | none => s) s

/-- An array has ACLK for a group's pass: how many it took. When the pass ends, the group's QUERYs go out (R331). -/
def coarseWork (s : State) (jobid aclk : Nat) : Nat × State :=
  match jobOf s jobid with
  | some j => match j.body with
    | .search r => match indexAt s r.index with
      | some x =>
        let g := r.group
        let n := min aclk (passCost x - r.pass)
        let missing := missingNeeds s [bytesNeeds x.common 0 (x.nlist * x.cstride)]
        if !missing.isEmpty then (0, askNeeds s missing)
        else if !g.all (Tab.has r.vecs) || g.isEmpty then (0, s)
        else
          let s := meterMacs s j.comp (n * macRate x.cfmt)
          if r.pass + n < passCost x then (n, updSearch s jobid (fun r => { r with pass := r.pass + n }))
          else
            let s := each g (fun n s => sendQuery s j r x n) s
            (n, updSearch s jobid (fun r => { r with sent := r.sent + g.length, pass := 0 }))
      | none => (0, s)
    | _ => (0, s)
  | none => (0, s)

/-- Has a search delivered every query. -/
def SearchJob.complete (r : SearchJob) : Bool := r.sent == r.nq && r.merges.length == r.nq && r.merges.all (·.delivered)

/-! ### COMPACT_SWITCH (R345) -/

/-- The directory switches to slices without the removable items: at a strike, when no query reads slices of an earlier
compaction any more. -/
def compactSwitch (s : State) (n part : Nat) : State :=
  match indexAt s n with
  | none => s
  | some x => match partAt x part with
    | none => s
    | some p => match p.compacting with
      | none => s
      | some (cepoch, _) =>
        let missing := missingNeeds s (compactNeeds s x p)
        if !missing.isEmpty then askNeeds s missing
        else if s.time.phase ≠ 0 ∨ !p.oldPages.isEmpty ∨ !p.oldSlots.isEmpty then s
        else
          let lists := (listsOf s x part).map (fun l => (l, (dirWords s x l).1))
          let dead := fun (l0 : Word) => ((sliceItems s x p (slicePages s p l0)).map (itemSlot x)).filter (removable s x cepoch)
          let hit := lists.filter (fun e => !(dead e.2).isEmpty)
          let slots := hit.flatMap (fun e => dead e.2)
          let gone := fun (t : Nat) => slots.contains t
          let pages := hit.flatMap (fun e => slicePages s p e.2)
          let readers := (x.queries.filter (fun q => !q.own)).map (fun q => (q.jobid, q.query))
          let setPart := fun (s : State) (f : IndexPart → IndexPart) => updIndex s n (fun x => { x with parts := adjustWhere x.parts (fun o => o.part == part) f })
          let s := setPart s (fun o => { o with compacting := none, oldPages := pages, oldSlots := slots, oldReaders := readers, oldDir := hit.foldl (fun t e => Tab.set t e.1 e.2) [] })
          let x' := (indexAt s n).getD x
          let p' := (partAt x' part).getD p
          let s := each x.parts (fun o s => each (List.range o.nslot) (fun t s =>
            let owner := 2 ^ 30 * o.part + t
            let es := edgesOf s x owner
            if es.any (fun e => e != noPage && gone e) then
              pokeAt s o.handle (edgeOff x o + t * x.gstride) ((mendEdges s x gone owner es).flatMap (natLe 4))
            else s) s) s
          let s := each hit (fun e s => rewriteList s x' p' gone e.1) s
          let s := updIndex s n (fun x => { x with floor := cepoch })
          let s := engRecord s p.quarter 0x0C05 0 (pack [(48, n), (0, part)]) (word cepoch) (word slots.length) s.time.bell
          endDrains (freeOld s n) (fun d => d == .compact n part) OK s.time.bell []

end Sys2Proof.Machine
end

