-- ==== Sys2Proof/Machine/Sequencer.lean ====
section
/-! DEFINITION. The queue sequencer: how submission entries are read, rejected, held and admitted (R44, R268 to R273, R297, R301, R308, R328 to R330,
R358, R400 to R402, R406). -/

namespace Sys2Proof.Machine

/-! ### Reading an entry and what it names -/

/-- Part k of what is read for the entry at SQHEAD: read once and kept until the entry is taken. -/
def readPart (s : State) (n k : Nat) (h : Nat) (key : Word) (svc off len : Nat) : Fetched × State :=
  match Tab.get? s.qps n with
  | none => (.waiting, s)
  | some c => match c.read[k]? with
    | some d => (.data d, s)
    | none =>
      let (f, s) := fetch s (.admission n k) { stall := c.stall, svc := svc, qp := n } h key 0 off len
      match f with
      | .data d => (f, updQp s n (fun c => { c with read := c.read ++ [d] }))
      | f => (f, s)

/-- What an entry asks for, once everything it names has been read. -/
inductive Ask where
  | wait
  | fail (status : Nat)
  /-- The next entry of the ring could not be read (R409). -/
  | ringFail (status : Nat)
  | job (b : JobKind) (jobid : Nat) (jkey : Word) (svc tmo : Nat)
  /-- A gather with the winnow it feeds: the winnow's entry, service and timeout. -/
  | pair (g : GatherJob) (svc tmo : Nat) (w : WinnowJob) (entry : List Byte) (wsvc wtmo : Nat)
deriving DecidableEq, Repr

/-- Word i of an entry's descriptor. -/
def descWord (e : List Byte) (i : Nat) : Word := wordAt e (16 + 8 * i)

/-- Is everything behind a descriptor of n words zero. -/
def descEnds (e : List Byte) (n : Nat) : Bool := allZero (e.drop (16 + 8 * n))

/-- A handle and offset word has its reserved bits zero. -/
def placeOk (w : Word) : Bool := fld w 39 36 == 0

/-! ### Reductions (R268 to R272, R289) -/

/-- A reduction as its descriptor gives it, without the table; none where a field is out of range. -/
def redOf (e : List Byte) : Option RedJob :=
  let w := descWord e
  let c0 := w 8
  let c1 := w 9
  let kind := fld (w 0) 63 60
  let root := bit (w 0) 59
  let sample := fld c0 39 35
  let gf := kind == 3
  let ok := decide (kind ≤ 3) && fld (w 0) 39 36 == 0 && decide (1 ≤ fld (w 0) 55 40) && decide (1 ≤ fld (w 0) 35 0)
    && decide (1 ≤ fld (w 1) 31 26) && decide (fld (w 1) 31 26 ≤ 44) && fld (w 1) 25 0 == 0 && (!root || (fld (w 1) 63 32 == 0 && w 2 == 0))
    && placeOk (w 3) && placeOk (w 5) && fld (w 7) 31 0 == 0 && descEnds e 10
    && (if gf then c0 == pack [(35, sample)] && decide (sample ≤ 16) && c1 == 0 else controlOk c0 c1)
    && !(root && (kind == 2 || gf) && fld (w 5) 63 40 == 0)
  if !ok then none
  else some {
    kind := kind, root := root, nblk := fld (w 0) 35 0, retain := fld (w 1) 31 26
    dst := fld (w 5) 63 40, dstOff := fld (w 5) 35 0, dstKey := w 6, wcap := fld (w 7) 63 32
    infmt := fld c0 63 60, inscale := fld c0 59 58, outfmt := fld c0 57 54, outscale := fld c0 53 52, round := fld c0 51 50
    bexp := fld c0 49 44, bman := fld c0 43 40, sample := sample, nowiden := bit c0 34, txin := signed8 (fld c1 63 56), txout := signed8 (fld c1 55 48) }

/-- Bytes of the two coefficient words. -/
def coefBytes (a b : Word) : List Nat := (wordBytes a ++ wordBytes b).map (·.toNat)

/-- The membership table's header and device entries put into a job; none where they break R270 or R271. -/
def withDevices (r : RedJob) (d : List Byte) (dev : Nat) : Option (RedJob × Nat) :=
  let m := fun (i : Nat) => wordAt d (8 * i)
  let gf := r.kind == 3
  let v := (List.range 64).map (fun i => wordAt d (64 + 8 * i))
  let devs := (v.filter (fun w => bit w 47)).map (fun w => ({ dev := fld w 63 58, parent := fld w 57 52, depth := fld w 51 48 } : JobDevice))
  let ndev := fld (m 0) 47 40
  let ncon := fld (m 0) 39 24
  let nout := fld (m 0) 23 22
  let roots := devs.filter (fun x => x.parent == x.dev)
  let ok := fld (m 0) 63 48 == 0x7E01 && decide (1 ≤ ndev) && decide (ndev ≤ 64) && decide (1 ≤ ncon) && decide (ncon ≤ (if gf then 16 else 16384))
    && fld (m 0) 21 0 == 0 && m 7 == 0 && placeOk (m 5) && v.all (fun w => fld w 46 0 == 0)
    && (if gf then decide (1 ≤ nout) && decide (nout ≤ 2) && ndev == 1 else nout == 0 && [1, 2, 3, 4, 5, 6].all (fun i => m i == 0))
    && devs.length == ndev && (devs.map (·.dev)).eraseDups.length == ndev && roots.length == 1 && roots.all (fun x => x.depth == 0)
    && devs.all (fun x => x.parent == x.dev || devs.any (fun p => p.dev == x.parent && p.depth + 1 == x.depth))
    && devs.any (fun x => x.dev == dev && (x.depth == 0) == r.root)
  if !ok then none
  else some ({ r with devices := devs, nout := nout, coef0 := coefBytes (m 1) (m 2), coef1 := coefBytes (m 3) (m 4)
                      out1 := fld (m 5) 63 40, out1Off := fld (m 5) 35 0, out1Key := m 6 }, ncon)

/-- The contributor entries put into a job; none where they break R270 or R271. -/
def withContributors (r : RedJob) (d : List Byte) (dev : Nat) : Option RedJob :=
  let n := fun (k i : Nat) => wordAt d (32 * k + 8 * i)
  let cs := (List.range (d.length / 32)).map (fun k => ({
    src := fld (n k 0) 63 62, collect := fld (n k 0) 61 56, epid := fld (n k 0) 55 40
    handle := fld (n k 1) 63 40, off := fld (n k 1) 35 0, key := n k 2 } : Contributor))
  let r := { r with contributors := cs }
  let ok := (List.range cs.length).all (fun k => fld (n k 0) 39 0 == 0 && placeOk (n k 1) && n k 3 == 0)
    && cs.all (fun c => decide (c.src ≤ 1) && (r.device c.collect).isSome && (r.kind != 3 || c.src == 1))
    && decide (r.needs dev ≤ 4096) && decide (2 ≤ r.window dev ∨ r.needs dev = 0)
  if ok then some r else none

/-- What a reduction entry asks for. -/
def askRed (s : State) (n : Nat) (retainmax : Nat) (e : List Byte) : Ask × State :=
  match redOf e with
  | none => (.fail UNSUPPORTED, s)
  | some r =>
    let w := descWord e
    let svc := fld (w 0) 58 56
    let part := fun (s : State) (k off len : Nat) => readPart s n k (fld (w 3) 63 40) (w 4) svc (fld (w 3) 35 0 * 4096 + off) len
    if retainmax < r.retain || (!r.root && (jobOf s (fld (w 1) 63 32)).isSome) then (.fail UNSUPPORTED, s)
    else
      let (f, s) := part s 1 0 576
      match f with
      | .waiting => (.wait, s)
      | .failed st _ => (.fail st, s)
      | .data d => match withDevices r d s.dom.devid with
        | none => (.fail UNSUPPORTED, s)
        | some (r, ncon) =>
          let (f, s) := part s 2 576 (32 * ncon)
          match f with
          | .waiting => (.wait, s)
          | .failed st _ => (.fail st, s)
          | .data d => match withContributors r d s.dom.devid with
            | none => (.fail UNSUPPORTED, s)
            | some r => (.job (.red r) (fld (w 1) 63 32) (w 2) svc (fld (w 0) 55 40), s)

/-! ### Gathers and winnows (R299, R301, R307, R308) -/

/-- Is a region held here SEALED. -/
def isSealed (s : State) (h : Nat) : Bool := (regionOf s h).any (·.sealed)

/-- A gather from its descriptor; none where R301 rejects it. -/
def gatherOf (s : State) (e : List Byte) : Option GatherJob :=
  let w := descWord e
  let dkind := fld (w 0) 63 62
  let rowb := fld (w 0) 39 32
  let ok := decide (dkind ≤ 2) && !bit (w 0) 59 && decide (1 ≤ fld (w 0) 55 40) && decide (1 ≤ rowb) && decide (rowb ≤ 64) && decide (1 ≤ fld (w 0) 31 0)
    && placeOk (w 1) && placeOk (w 3) && decide (1 ≤ fld (w 5) 63 24) && decide (rowb ≤ fld (w 5) 23 0) && placeOk (w 6) && fld (w 8) 31 0 == 0
    && descEnds e 9 && (!isSealed s (fld (w 3) 63 40) || dkind == 1)
  if !ok then none
  else some {
    dkind := dkind, oorpol := bit (w 0) 61, iw := bit (w 0) 60, rowb := rowb, nidx := fld (w 0) 31 0
    idx := fld (w 1) 63 40, idxOff := fld (w 1) 35 0, idxKey := w 2, tbl := fld (w 3) 63 40, tblOff := fld (w 3) 35 0, tblKey := w 4
    nrows := fld (w 5) 63 24, stride := fld (w 5) 23 0, dst := fld (w 6) 63 40, dstOff := fld (w 6) 35 0, dstKey := w 7
    epid := fld (w 8) 63 48, ownep := fld (w 8) 47 32 }

/-- A winnow from its descriptor, without its program; none where a field is out of range. -/
def winnowOf (s : State) (e : List Byte) : Option WinnowJob :=
  let w := descWord e
  let src := fld (w 0) 63 62
  let sel := fld (w 0) 61 60
  let dkind := fld (w 0) 37 36
  let recb := fld (w 3) 63 56
  let vfmt := fld (w 3) 55 52
  let voff := fld (w 3) 51 40
  let vdim := fld (w 3) 39 27
  let pdim := fld (w 3) 26 20
  let parr := fld (w 3) 19 16
  let pfmt := fld (w 3) 15 12
  let idoff := fld (w 3) 11 0
  let k := fld (w 8) 31 8
  let npart := fld (w 9) 15 0
  let plen := fld (w 13) 63 57
  let records := src == 0 || src == 1
  let ok := decide (sel ≤ 2) && decide (dkind ≤ 2) && decide (1 ≤ fld (w 0) 55 40) && ((sel == 2) == (src == 3)) && (src != 2 || sel == 1) && (dkind != 2 || sel == 1)
    && (if src = 2 then fld (w 0) 35 0 == 0 else decide (1 ≤ fld (w 0) 35 0))
    && (!records || (decide (1 ≤ recb) && decide (recb ≤ 64))) && (!bit (w 0) 39 || dkind != 1)
    && [1, 4, 6, 11].all (fun i => placeOk (w i)) && fld (w 8) 7 6 == 0 && fld (w 13) 56 0 == 0 && decide (pdim ≤ 64)
    && (pdim == 0 || (records && decide (1 ≤ vdim) && decide (vdim ≤ 4096) && decide (1 ≤ parr) && decide (parr ≤ 12) && vectorFmt vfmt && vectorFmt pfmt
        && decide (voff + vdim * eltBytes vfmt ≤ recb * 64)))
    && (src != 3 || decide (vfmt ≤ 2)) && (!records || idoff == 0xFFF || decide (idoff + 8 ≤ recb * 64))
    && decide (1 ≤ k) && decide (k ≤ (if sel = 1 then 4096 else if sel = 0 then 2 ^ 24 - 1 else 1024))
    && (src != 2 || (decide (1 ≤ npart) && decide (npart ≤ 4096))) && (if records then decide (1 ≤ plen) && decide (plen ≤ 64) else plen == 0)
    && !(records && src == 0 && isSealed s (fld (w 1) 63 40)) && !(src == 3 && isSealed s (fld (w 1) 63 40))
  if !ok then none
  else some {
    src := src, sel := sel, dir := bit (w 0) 59, emit := bit (w 0) 39 && records, resid := bit (w 0) 38 && sel == 2, dkind := dkind, nrec := fld (w 0) 35 0
    input := fld (w 1) 63 40, inOff := fld (w 1) 35 0, inKey := w 2, recb := recb, vfmt := vfmt, voff := voff, vdim := vdim, pdim := pdim, parrays := parr
    pfmt := pfmt, idoff := idoff, proj := fld (w 4) 63 40, projOff := fld (w 4) 35 0, projKey := w 5, dst := fld (w 6) 63 40, dstOff := fld (w 6) 35 0
    dstKey := w 7, thr := BitVec.ofNat 32 (fld (w 8) 63 32), k := k, parentDev := fld (w 8) 5 0, pjobid := fld (w 9) 63 32, rank := fld (w 9) 31 16
    epid := fld (w 9) 31 16, npart := npart, pjkey := w 10 }

/-- A winnow with its program; the program is read as part k. -/
def askWinnow (s : State) (n k arrays : Nat) (e : List Byte) : (Except Ask WinnowJob) × State :=
  match winnowOf s e with
  | none => (.error (.fail UNSUPPORTED), s)
  | some w =>
    let plen := fld (descWord e 13) 63 57
    if arrays < (if w.pdim = 0 then 0 else w.parrays) then (.error (.fail UNSUPPORTED), s)
    else if plen = 0 then (.ok w, s)
    else
      let p := descWord e 11
      let (f, s) := readPart s n k (fld p 63 40) (descWord e 12) (fld (descWord e 0) 58 56) (fld p 35 0 * 4096) (8 * plen)
      match f with
      | .waiting => (.error .wait, s)
      | .failed st _ => (.error (.fail st), s)
      | .data d =>
        let prog := bytesWords d plen
        if programOk (w.recb * 64) w.pdim prog then (.ok { w with program := prog }, s) else (.error (.fail UNSUPPORTED), s)

/-- Is an entry a winnow descriptor that a gather with DKIND 2 feeds (R301). -/
def feedsOf (g : GatherJob) (e : List Byte) : Bool :=
  fld (wordAt e 0) 63 56 == 3 && fld (descWord e 0) 63 62 == 1 && fld (descWord e 3) 63 56 == g.rowb && fld (descWord e 0) 35 0 == g.nidx

/-- Are the reserved fields of an entry's header zero (Table 15.6). -/
def entryClean (e : List Byte) : Bool := fld (wordAt e 0) 54 32 == 0 && fld (wordAt e 0) 15 0 == 0

/-- What a gather entry asks for; under DKIND 2 with the next entry of the ring. -/
def askGather (s : State) (n kinds arrays : Nat) (c : Qp) (e : List Byte) : Ask × State :=
  match gatherOf s e with
  | none => (.fail UNSUPPORTED, s)
  | some g =>
    let svc := fld (descWord e 0) 58 56
    let tmo := fld (descWord e 0) 55 40
    if g.dkind ≠ 2 then (.job (.gather g) 0 0 svc tmo, s)
    else if c.sqtail ≤ c.sqhead + 1 then (.wait, s)
    else
      let (f, s) := readPart s n 1 c.ring c.rkey 0 (c.sqSlot (c.sqhead + 1)) 128
      match f with
      | .waiting => (.wait, s)
      | .failed st _ => (.ringFail st, s)
      | .data e2 =>
        if !feedsOf g e2 || !entryClean e2 || kinds / 4 % 2 == 0 then (.fail UNSUPPORTED, s)
        else
          let (r, s) := askWinnow s n 2 arrays e2
          match r with
          | .error .wait => (.wait, s)
          | .error _ => (.fail UNSUPPORTED, s)
          | .ok w => (.pair g svc tmo w e2 (fld (descWord e2 0) 58 56) (fld (descWord e2 0) 55 40), s)

/-! ### Searches (R328, R329) -/

/-- What a search entry asks for. -/
def askSearch (s : State) (stall arrays : Nat) (e : List Byte) : Ask :=
  let w := descWord e
  let k := fld (w 1) 63 52
  let nprobe := fld (w 1) 51 40
  let rcand := fld (w 1) 39 28
  let entry := fld (w 1) 27 21
  let eval := fld (w 1) 20 7
  match (indexAt s (fld (w 0) 63 48)).filter (·.loaded) with
  | none => .fail UNSUPPORTED
  | some x =>
    let d0 := w 7
    let ok := decide (1 ≤ fld (w 0) 47 32) && decide (1 ≤ fld (w 0) 28 13) && fld (w 0) 11 0 == 0 && decide (1 ≤ k) && decide (k ≤ 1024) && decide (1 ≤ nprobe)
      && decide (nprobe ≤ 256) && decide (nprobe ≤ x.nlist) && (rcand == 0 || decide (k ≤ rcand)) && decide (entry ≤ 64) && decide (entry ≤ rcand)
      && ((eval == 0) == (entry == 0)) && fld (w 1) 6 0 == 0 && placeOk (w 2) && placeOk (w 4) && fld (w 6) 47 0 == 0 && descEnds e 9
      && decide (fld d0 63 62 ≤ 1) && decide (fld d0 61 60 ≤ 2) && decide (fld d0 59 58 ≤ 2) && fld d0 54 32 == 0
      && stallComp s stall == some x.comp && decide (1 ≤ arrays) && (entry == 0 || x.graph) && (!bit d0 56 || x.term)
      && decide (1 + ceilDiv nprobe 8 + x.vstride / 64 ≤ 64)
    if !ok then .fail UNSUPPORTED
    else .job (.search {
      index := x.number, nq := fld (w 0) 47 32, dkind := b2n (bit (w 0) 12), k := k, nprobe := nprobe, rcand := rcand, entry := entry, eval := eval
      qh := fld (w 2) 63 40, qoff := fld (w 2) 35 0, qkey := w 3, dst := fld (w 4) 63 40, dstOff := fld (w 4) 35 0, dstKey := w 5, epid := fld (w 6) 63 48
      d0 := d0, d1 := w 8, epoch := x.qepoch }) 0 0 (fld (w 0) 31 29) (fld (w 0) 28 13)

/-! ### Taking an entry (R401, R402, R406) -/

/-- Jobs of a quarter, those that hold a job queue, and the MiB that reductions retain there. -/
def jobsIn (s : State) (q : Nat) : List Job := s.eng.jobs.filter (fun j => j.quarter == q)
def queuesIn (s : State) (q : Nat) : Nat := ((jobsIn s q).filter (fun j => j.body.code != 4)).length
def retainedIn (s : State) (q : Nat) : Nat := (jobsIn s q).foldl (fun n j => match j.body with | .red r => n + r.retain | _ => n) 0

/-- May jobs be admitted in a quarter: a context each, a job queue for each that is no search, retention, MAXJOBS. -/
def roomFor (s : State) (q stall maxjobs : Nat) (bs : List JobKind) : Bool :=
  decide ((jobsIn s q).length + bs.length ≤ 8192)
    && decide (queuesIn s q + (bs.filter (fun b => b.code != 4)).length ≤ 4096 ∨ bs.all (fun b => b.code == 4))
    && bs.all (fun b => match b with | .red r => decide (retainedIn s q + r.retain ≤ 44) | _ => true)
    && decide (((jobsIn s q).filter (fun j => j.stall == stall)).length + bs.length ≤ maxjobs)

/-- SQHEAD advances past entries. -/
def advanceSq (s : State) (n k : Nat) : State :=
  dropUses (updQp s n (fun c => { c with sqhead := c.sqhead + k, read := [] })) (fun u => match u with | .admission m _ => m == n | _ => false)

/-- An entry ends with one FINAL and a zero record. -/
def endEntry (s : State) (n : Nat) (e : List Byte) (status : Nat) : State :=
  let w := wordAt e 0
  complete (advanceSq s n 1) n (completionWords (fld w 63 56) status true (fld w 31 16) (wordAt e 8) []) (bit w 55)

/-- Admit a job: identifier, key and seed are drawn, and ADMITTED is issued (R250, R269, R272). -/
def admitJob (s : State) (n : Nat) (c : Qp) (comp : Nat) (e : List Byte) (b : JobKind) (jobid : Nat) (jkey : Word) (svc tmo : Nat) : Nat × State :=
  let count := s.eng.jobCount + 1
  let s := { s with eng := { s.eng with jobCount := count } }
  let member := match b with | .red r => !r.root | _ => false
  let (key, s) := if member then (jkey, s) else drawKey [] 8 s
  let (s0, s) := drawWord s
  let (s1, s) := drawWord s
  let w := wordAt e 0
  let j : Job := {
    jobid := if member then jobid else 2 ^ 26 * s.dom.devid + count % 2 ^ 26
    jkey := key, qp := n, stall := c.stall, comp := comp, svc := svc, quarter := c.quarter, cid := fld w 31 16, user := wordAt e 8, noirq := bit w 55
    tmo := tmo, seed := s0.toNat + 2 ^ 64 * s1.toNat, heard := s.time.bell, body := b }
  let s := { s with eng := { s.eng with jobs := s.eng.jobs ++ [j] } }
  (j.jobid, completeJob s j OK false 0 0 0)

/-- Admit what an entry asks for. -/
def admitAsk (s : State) (n : Nat) (c : Qp) (comp : Nat) (e : List Byte) (a : Ask) : State :=
  match a with
  | .job b jobid jkey svc tmo => (admitJob (advanceSq s n 1) n c comp e b jobid jkey svc tmo).2
  | .pair g svc tmo w e2 wsvc wtmo =>
    let (gid, s) := admitJob (advanceSq s n 2) n c comp e (.gather g) 0 0 svc tmo
    let (wid, s) := admitJob s n c comp e2 (.winnow { w with fedBy := some gid }) 0 0 wsvc wtmo
    updGather s gid (fun g => { g with feeds := some wid })
  | _ => s

/-- What an entry asks for, or why it is rejected. -/
def askEntry (s : State) (n : Nat) (c : Qp) (allot : Nat × Nat × Nat × Nat) (e : List Byte) : Ask × State :=
  let job := fld (wordAt e 0) 63 56
  if allot.1 / 2 ^ (job - 1) % 2 = 0 then (.fail UNSUPPORTED, s)
  else if job = 1 then askRed s n allot.2.2.1 e
  else if job = 2 then askGather s n allot.1 allot.2.2.2 c e
  else if job = 3 then
    let (r, s) := askWinnow s n 1 allot.2.2.2 e
    match r with
    | .error a => (a, s)
    | .ok w => (if w.src = 1 then .fail UNSUPPORTED else .job (.winnow w) 0 0 (fld (descWord e 0) 58 56) (fld (descWord e 0) 55 40), s)
  else (askSearch s c.stall allot.2.2.2 e, s)

/-- The kinds of job that an ask brings. -/
def Ask.bodies : Ask → List JobKind
  | .job b _ _ _ _ => [b]
  | .pair g _ _ w _ _ _ => [.gather g, .winnow w]
  | _ => []

/-- Take the entry at SQHEAD as far as it will go. True: there was progress. -/
def takeOne (s : State) (n : Nat) : Bool × State :=
  match Tab.get? s.qps n with
  | none => (false, s)
  | some c =>
    if c.state ≠ 1 || !c.held.isEmpty || decide (c.sqtail ≤ c.sqhead) || decide (64 ≤ inflight s n) || quarterInReset s c.quarter || deviceInReset s then (false, s)
    else
      let asked := s.eng.nextAcc
      let (f, s) := readPart s n 0 c.ring c.rkey 0 (c.sqSlot c.sqhead) 128
      match f with
      | .waiting => (s.eng.nextAcc != asked, s)
      | .failed st _ => (true, qpError (advanceSq s n 0) n 3 st)
      | .data e =>
        let job := fld (wordAt e 0) 63 56
        if !entryClean e || decide (4 < job) then (true, endEntry s n e UNSUPPORTED)
        else if job = 0 then (true, endEntry s n e OK)
        else match (stallComp s c.stall).filter (fun k => hasRole s s.maps.cur k 1) with
          | none => (true, endEntry s n e UNSUPPORTED)
          | some comp =>
            let allot := Tab.getD (Tab.getD s.stalls c.stall {}).allot c.quarter (0, 0, 0, 0)
            let (a, s) := askEntry s n c allot e
            match a with
            | .wait => (s.eng.nextAcc != asked, s)
            | .fail st => (true, endEntry s n e st)
            | .ringFail st => (true, qpError (advanceSq s n 0) n 3 st)
            | a => if roomFor s c.quarter c.stall allot.2.1 a.bodies && decide (inflight s n + a.bodies.length ≤ 64) then (true, admitAsk s n c comp e a) else (s.eng.nextAcc != asked, s)

/-- Take entries while there is progress; accesses are served in between. -/
def takeLoop : Nat → State → Nat → State
  | 0, s, _ => s
  | fuel + 1, s, n =>
    let (more, s) := takeOne s n
    if more then takeLoop fuel (settleAll s) n else s

/-- Take what a queue pair has waiting. -/
def takeSubmissions (s : State) (n : Nat) : State :=
  let c := Tab.getD s.qps n {}
  takeLoop (8 * (c.sqtail - c.sqhead) + 8) (settleAll (flushCompletions s n)) n

end Sys2Proof.Machine
end

