-- ==== Sys2Proof/Machine/EngineMsgs.lean ====
section
/-! DEFINITION. Engine messages as they arrive, and what the engines do whenever something has come in (R72, R74, R276, R287, R295, R334, R453). -/

namespace Sys2Proof.Machine

/-! ### What a job does with what has come -/

/-- Stores of a job that have their final response; the first that failed ends the job, naming the block it stored (R287, R291, R306,
R319). -/
def takeStores (s : State) (jobid : Nat) : State :=
  let mine := s.eng.access.filterMap (fun a => (storedBlock jobid a.use).bind (fun b => a.answer.map (fun x => (b, x.1))))
  if mine.isEmpty then s
  else
    let s := { s with eng := { s.eng with access := s.eng.access.filter (fun a => !((storedBlock jobid a.use).isSome && a.answer.isSome)) } }
    match mine.find? (fun x => x.2 != OK && x.2 != OK_COMBINED) with
    | some (b, st) => endJob s jobid st 0 0 b
    | none => s

/-- Take what a job's accesses have answered. -/
def takeJob (s : State) (jobid : Nat) : State :=
  let s := takeStores s jobid
  match jobOf s jobid with
  | none => s
  | some j => match j.body with
    | .red _ => takeSources s jobid
    | .gather _ => takeIndex s jobid
    | .winnow w =>
      let s := takeRecords s jobid
      match jobOf s jobid with
      | none => s
      | some j => if winnowAll s w && !w.out && w.sel != 2 then winnowOut (updWinnow s jobid (fun w => { w with out := true })) j w else s
    | .search _ => takeQueries s jobid

/-- FINAL of a job that has done everything and has no store outstanding (R295, R297, R351). -/
def endIfDone (s : State) (jobid : Nat) : State :=
  match jobOf s jobid with
  | none => s
  | some j =>
    if s.eng.access.any (fun a => (storedBlock jobid a.use).isSome) then s
    else match j.body with
      | .red r => if r.complete then finishJob s jobid (if r.report.poisoned = 0 then OK else POISONED) else s
      | .gather r => if r.complete then finishJob s jobid (if r.badRows = 0 then OK else POISONED) else s
      | .winnow w => if winnowAll s w && (w.out || w.sel == 2) then finishJob s jobid OK else s
      | .search r => if r.complete then finishJob s jobid r.status else s

/-! ### Rings (R409) -/

/-- An answered access of a queue sequencer's ring: any status but OK is an error of the queue pair (R409). -/
def ringAnswer (s : State) (a : Access) (n status : Nat) : State :=
  let s := dropAccess s (fun b => b.acc == a.acc)
  if status = OK ∨ status = OK_COMBINED then s else qpError s n 3 status

/-- Every ring access that has its answer. -/
def ringAnswers (s : State) : State :=
  each (s.eng.access.filter (fun a => a.answer.isSome)) (fun a s => match a.use, a.answer with
    | .ring n, some x => ringAnswer s a n x.1
    | _, _ => s) s

/-- Every job takes what has come for it, and those that are done end. -/
def workJobs (s : State) : State :=
  let s := ringAnswers s
  let ids := s.eng.jobs.map (·.jobid)
  each ids (fun n s => endIfDone (takeJob s n) n) s

/-! ### Messages in their queues (R276, R278, R334, R358, R364) -/

/-- Granules of an engine message. -/
def engGranules (d : List Byte) : Nat := ceilDiv (32 + d.length) 64

/-- The index whose search queue a message joins: a QUERY names it, a PARTIAL belongs to a query or a job (Table 13.2). -/
def engIndex (s : State) (opc : Nat) (h : EngHdr) (d : List Byte) : Option Index :=
  if opc = 3 then indexAt s (fld (wordAt d 0) 31 16)
  else match queryAt s h.jobid h.block with
    | some (x, _) => some x
    | none => match jobOf s h.jobid with
      | some j => match j.body with
        | .search r => indexAt s r.index
        | _ => none
      | none => none

/-- The key of a message's VOQ: its job's queue, or its index's (Table 13.2). -/
def engKey (s : State) (p opc : Nat) (h : EngHdr) (d : List Byte) : Nat :=
  voqKey h.tc p (if h.tc = 3 then 0x2000 + (((engIndex s opc h d).map (·.number)).getD 0) % 4096 else 0x1000 + h.jobid % 4096)

/-- The engine service port that a message goes to, quarter × 3 + kind (Table 13.4). -/
def engService (s : State) (p opc : Nat) (h : EngHdr) (d : List Byte) : Nat :=
  match jobOf s h.jobid with
  | some j => match j.body with
    | .red _ => j.quarter * 3
    | .search _ => (if opc = 3 then (engIndex s opc h d).elim j.quarter (mergeQuarter s) else j.quarter) * 3 + 2
    | _ => j.quarter * 3 + 1
  | none => if h.tc = 3 then (engIndex s opc h d).elim (portQuarter p) (mergeQuarter s) * 3 + 2 else portQuarter p * 3

/-- Candidate of an engine service port. -/
def engCand (h : EngHdr) (d : List Byte) (i : Nat) : Cand := { idx := i, tc := h.tc, svc := h.svc, stall := h.stall, size := engGranules d }

/-- Messages that wait at an engine service port, with their places in line, and as candidates. -/
def engThere (s : State) (k : Nat) : List (EngWait × Nat) := s.eng.waiting.zipIdx.filter (fun e => engService s e.1.port e.1.opc e.1.h e.1.data == k)
def engCands (l : List (EngWait × Nat)) : List Cand := l.map (fun e => engCand e.1.h e.1.data e.2)

/-- A message is granted by its engine service port over those that wait there: it crosses in cells, and its mark, or the congestion it
met, is counted by the engine (R354, R360, R367, R378). -/
def engGranted (s : State) (w : EngWait) : State :=
  let k := engService s w.port w.opc w.h w.data
  let rest := engCands (engThere s k)
  let c := engCand w.h w.data 0
  let tree := ((Tab.getD s.sw.engTrees k {}).wake c).granted (weightsOf s [8, 4, 4]) c rest
  let waited := now s - w.entered
  let marked := w.h.cm || decide (700 ≤ waited) || (!w.shared && decide (0 < waited)) || decide (poolFree s (portQuarter w.port) < poolSize / 8)
  let s := granted (crossCells s (destKey w.h.tc (0x200 + k)) c.size) (portQuarter w.port)
  { s with
    sw := { s.sw with engTrees := Tab.set s.sw.engTrees k tree }
    eng := { s.eng with marks := if marked then Tab.upd s.eng.marks k 0 (· + 1) else s.eng.marks } }

/-- Put a message into its VOQ. -/
def holdEng (s : State) (p opc : Nat) (h : EngHdr) (d : List Byte) : State :=
  let key := engKey s p opc h d
  let g := engGranules d
  let q := portQuarter p
  let sh := poolAllows s q key g 1 4
  let w : EngWait := { port := p, entered := now s, key := key, opc := opc, h := h, data := d, shared := sh }
  let s := { s with eng := { s.eng with waiting := s.eng.waiting ++ [w] } }
  if sh then poolTake s q key g else updPort s p (fun ps => { ps with inUse := modNth ps.inUse h.tc (· + g) })

/-- A message leaves its VOQ. -/
def freeEng (s : State) (w : EngWait) : State :=
  let g := engGranules w.data
  if w.shared then poolGive s (portQuarter w.port) w.key g
  else updPort s w.port (fun ps => { ps with inUse := modNth ps.inUse w.h.tc (· - g) })

/-- What becomes of a message, and how it is taken or discarded. -/
structure Judged where
  verdict : Verdict
  take : State → State := id
  discard : Nat → State → State := fun _ s => s

/-- A message of no job that the device knows. -/
def unknownJob (p : Nat) (h : EngHdr) : Judged := { verdict := .discard 1, discard := fun c s => discardRed s (portQuarter p) h c }

/-- Count a duplicate, or a discard of a job that counts them. -/
def countDup (s : State) (jobid : Nat) : State := updRed s jobid (fun r => { r with dups := r.dups + 1 })
def countDiscard (s : State) (jobid : Nat) : State :=
  updSearch (updWinnow (updRed s jobid (fun r => { r with discards := r.discards + 1 })) jobid (fun w => { w with discards := w.discards + 1 })) jobid
    (fun r => { r with discards := r.discards + 1 })

/-- Discard of a message of a known job. -/
def jobDiscard (j : Job) (h : EngHdr) (cause : Nat) (s : State) : State :=
  let s := countDiscard s j.jobid
  match j.body with
  | .winnow _ => discardEng s j.quarter 0x0B01 j.stall h cause (pack [(48, h.src), (32, h.rank)])
  | _ => discardRed s j.quarter h cause

/-- Judge an engine message: 1 CONTRIB, 2 RESULT, 3 QUERY, 4 PARTIAL. -/
def judgeEng (s : State) (p opc : Nat) (h : EngHdr) (d : List Byte) : Judged :=
  if opc = 3 then { verdict := judgeQuery s h d, take := fun s => takeQuery s h d
                    discard := fun c s => discardQuery s (portQuarter p) (fld (wordAt d 0) 31 16) h c }
  else if h.tc = 3 then { verdict := judgeSearchPart s h, take := fun s => takeSearchPart s h d
                          discard := fun c s => discardRed (countDiscard s h.jobid) (((jobOf s h.jobid).map (·.quarter)).getD (portQuarter p)) h c }
  else match jobOf s h.jobid with
    | none => unknownJob p h
    | some j => match j.body with
      | .red r =>
        let dev := s.dom.devid
        let v := if opc = 1 then judgeContrib j r dev h else if opc = 4 then judgePartial j r dev h else judgeResult j r h
        { verdict := v, discard := jobDiscard j h
          take := fun s => if opc = 1 then takeContrib s r h d else if opc = 4 then takePartial s r h d else takeResult s j r h d }
      | .winnow w => if opc = 4 then { verdict := judgeList j w h, take := fun s => takeList s h d, discard := jobDiscard j h } else unknownJob p h
      | _ => unknownJob p h

/-- Does an earlier message of the same sender, job and port wait (R357). -/
def engBehind (s : State) (p : Nat) (h : EngHdr) : Bool := s.eng.waiting.any (fun w => w.port == p && w.h.jobid == h.jobid && w.h.src == h.src && w.h.tc == h.tc)

/-- Take a judged message. -/
def applyJudged (s : State) (jobid : Nat) (v : Judged) : State :=
  match v.verdict with
  | .take => v.take s
  | .dup => if (jobOf s jobid).any (fun j => j.body.code == 4) then countDiscard s jobid else countDup s jobid
  | .discard c => v.discard c s
  | .wait => s

/-- Heads of the streams that wait, with their places in line: a message held behind another of its sender and job is none (R357). -/
def engHeads (l : List EngWait) : List (EngWait × Nat) :=
  l.zipIdx.filter (fun e => !(l.take e.2).any (fun w => w.port == e.1.port && w.h.jobid == e.1.h.jobid && w.h.src == e.1.h.src && w.h.tc == e.1.h.tc))

/-- Grant one message that waits at an engine service port, chosen through its tree among those that may be taken now (R378). -/
def grantEng (s : State) (k : Nat) : Option State :=
  let there := engThere s k
  if there.isEmpty then none
  else
    let able := (engHeads s.eng.waiting).filter (fun e => there.contains e && (judgeEng s e.1.port e.1.opc e.1.h e.1.data).verdict != .wait)
    let cands := engCands able
    match (cands.foldl (fun t c => t.wake c) (Tab.getD s.sw.engTrees k {})).choose cands with
    | none => none
    | some c => match s.eng.waiting[c.idx]? with
      | none => none
      | some w =>
        let v := judgeEng s w.port w.opc w.h w.data
        let s := { s with eng := { s.eng with waiting := s.eng.waiting.eraseIdx c.idx } }
        some (applyJudged (engGranted (freeEng s w) w) w.h.jobid v)

/-- Grant the messages that wait while one may be taken. -/
def retryN : Nat → State → State
  | 0, s => s
  | n + 1, s => match (List.range 12).findSome? (grantEng s) with
    | some s' => retryN n s'
    | none => s

def retryEng (s : State) : State := retryN s.eng.waiting.length s

/-- The engines after something has come in: jobs take it, messages find room, accesses are served. -/
def runEngines (s : State) : State :=
  let s := settleAll s
  let s := retryEng (workJobs s)
  settleAll (workJobs (settleAll s))

/-! ### Mirrors at a shadow (R453, R454) -/

/-- Is a message a mirror to a shadow that this device is: elsewhere a CONTRIB with JKEY 0 is judged like any (R453, R274). -/
def isMirror (s : State) (opc : Nat) (h : EngHdr) : Bool :=
  opc == 1 && h.jkey == 0 && s.dom.shadows.any (fun x => x.comp == h.comp && x.home == h.src)

/-- A mirror arrives: one message, or the second part of one. -/
def takeMirror (s : State) (h : EngHdr) (d : List Byte) : State :=
  { s with dom := { s.dom with
    shadows := adjustWhere s.dom.shadows (fun x => x.comp == h.comp && x.home == h.src) (fun x =>
      if h.rank = 1 then { x with waiting := adjustWhere x.waiting (fun e => e.1 % 2 ^ 32 == h.block % 2 ^ 32) (fun e => (e.1, e.2 ++ d)) }
      else { x with waiting := x.waiting ++ [((wordAt d 0).toNat, d)] }) } }

/-! ### Arrival (R72, R74, R78, R456) -/

/-- Traffic class of an engine message by its opcode: PARTIAL and RESULT of threshers and winnows on TC2, of search engines on TC3. -/
def engTcOk (opc tc : Nat) : Bool := if opc = 1 then tc == 2 else if opc = 3 then tc == 3 else tc == 2 || tc == 3

/-- An engine message arrives on a port. -/
def engArrive (s : State) (p opc : Nat) (h : EngHdr) (d : List Byte) : State :=
  let ps := portOf s p
  if !portUp s p then s
  else if h.ver ≠ 1 ∨ 64 < h.len ∨ d.length ≠ 64 * h.len ∨ h.rsv ≠ 0 ∨ !engTcOk opc h.tc ∨ ps.ptype = 3 then discardMessage s p h.src 2 1
  else if ps.ptype ≠ 1 ∧ h.src ≠ ps.epid then discardMessage s p h.src 2 2
  else if isMirror s opc h then takeMirror s h d
  else
    let v := judgeEng s p opc h d
    if engBehind s p h || v.verdict == .wait then holdEng s p opc h d
    else runEngines (applyJudged (engGranted s { port := p, entered := now s, opc := opc, h := h, data := d }) h.jobid v)

def execContrib (p : Nat) (h : EngHdr) (d : List Byte) (s : State) : Host.Outcome State Fault Refusal := done s (engArrive s p 1 h d)

def execResult (p : Nat) (h : EngHdr) (d : List Byte) (s : State) : Host.Outcome State Fault Refusal := done s (engArrive s p 2 h d)

def execQuery (p : Nat) (h : EngHdr) (d : List Byte) (s : State) : Host.Outcome State Fault Refusal := done s (engArrive s p 3 h d)

def execPartialList (p : Nat) (h : EngHdr) (d : List Byte) (s : State) : Host.Outcome State Fault Refusal := done s (engArrive s p 4 h d)

end Sys2Proof.Machine
end

