-- ==== Sys2Proof/Machine/Portions.lean ====
section
/-! DEFINITION. Engine portions: how they are dealt at a strike and what they do when they close (R42 to R46, R279, R305, R310, R318, R331 to R335, R378, R533). -/

namespace Sys2Proof.Machine

/-! ### What there is to deal -/

/-- Work of one job for engines of one kind: items in order, the cost of each in 512ths of an ACLK, most items in all. -/
structure Work where
  jobid : Nat := 0
  /-- Queries at a shard: the index (R332). -/
  shard : Option Nat := none
  stall : Nat := 0
  svc : Nat := 0
  qp : Nat := 0
  tc : Nat := 2
  items : List Nat := []
  cost : Nat := 512
  costs : List Nat := []
  most : Nat := 2 ^ 20
  /-- The portion is as long as it may be: how much of it the items take shows as they run (R258, R344). -/
  whole : Bool := false
deriving DecidableEq, Repr

/-- ACLK of a portion at a throttle level (R533). -/
def portionSize (s : State) : Nat := 40 * (16 - s.pwr.level)

/-- Portions of a job on engines of a kind. -/
def portionsOf (s : State) (q : Nat) (k : EngineKind) (jobid : Nat) : List Portion :=
  s.eng.portions.filter (fun p => p.quarter == q && p.kind == k && p.jobid == jobid)

/-- Items of a job already dealt. -/
def dealtItems (s : State) (q : Nat) (k : EngineKind) (jobid : Nat) : List Nat := (portionsOf s q k jobid).flatMap (·.blocks)

/-- Items still to be dealt of those numbered up to n: owed ones first. -/
def freshItems (j : Job) (dealt n : Nat) : List Nat := j.owed ++ List.range' dealt (min 640 (n - dealt))

/-- Cost of a record or a sparse block, in 512ths of an ACLK (R318). -/
def WinnowJob.recordCost (w : WinnowJob) : Nat :=
  if w.src = 3 then packedSize w.vfmt 0 + 8192 * b2n w.resid else max (ceilDiv w.program.length 16 * 512) (w.recb * 64)

/-- ACLK that a record takes on one array (R310). -/
def WinnowJob.arrayCost (w : WinnowJob) : Nat := ceilDiv w.vdim (if eltBytes w.vfmt = 1 ∧ eltBytes w.pfmt = 1 then 128 else 64)

/-- What is left of a winnow to deal. -/
def winnowItemsLeft (s : State) (j : Job) (w : WinnowJob) : List Nat :=
  if w.src = 2 then []
  else if w.src = 1 then
    let out := dealtItems s j.quarter .winnow j.jobid
    (w.waitingRecs.map (·.1)).filter (fun i => !out.contains i)
  else freshItems j w.dealt w.nrec

/-- A job's work for an engine of a kind. -/
def jobWork (s : State) (k : EngineKind) (i : Nat) (j : Job) : Option Work :=
  let base : Work := { jobid := j.jobid, stall := j.stall, svc := j.svc, qp := j.qp }
  match k, j.body with
  | .thresher, .red r =>
    let out := dealtItems s j.quarter .thresher j.jobid
    let items := r.itemsFor j.seed s.dom.devid (enginesIn s j.quarter .thresher) out i
    some { base with items := items, costs := items.map r.cost, whole := true }
  | .gleaner, .gather r => some { base with items := freshItems j r.dealt r.nidx, cost := max 512 (r.rowb * 64) }
  | .macArray, .winnow w =>
    if w.pdim = 0 || w.matrix.isNone || (winnowItemsLeft s j w).isEmpty || decide (w.parrays ≤ (portionsOf s j.quarter .macArray j.jobid).length) then none
    else some { base with items := [0], whole := true }
  | .macArray, .search r =>
    let arrays := (Tab.getD (Tab.getD s.stalls j.stall {}).allot j.quarter (0, 0, 0, 0)).2.2.2
    if r.group.isEmpty || !r.group.all (Tab.has r.vecs) || decide (arrays ≤ (portionsOf s j.quarter .macArray j.jobid).length) then none
    else some { base with tc := 3, items := [0], whole := true }
  | .winnow, .winnow w =>
    let arrays := (portionsOf s j.quarter .macArray j.jobid).length
    let most := if w.pdim = 0 then 2 ^ 20
      else arrays * portionSize s / max 1 w.arrayCost - (dealtItems s j.quarter .winnow j.jobid).length
    some { base with items := winnowItemsLeft s j w, cost := w.recordCost, most := most }
  | _, _ => none

/-- An item of a query at a shard: job, query and probe. -/
def shardItem (q : ShardQuery) (i : Nat) : Nat := (q.jobid * 65536 + q.query) * 512 + i
def shardJob (item : Nat) : Nat := item / 512 / 65536
def shardQuery (item : Nat) : Nat := item / 512 % 65536

/-- Items of an index's queries in the portions of engines of a kind in a quarter. -/
def dealtShard (s : State) (q : Nat) (k : EngineKind) (n : Nat) : List Nat :=
  (s.eng.portions.filter (fun p => p.quarter == q && p.kind == k && p.shard == some n)).flatMap (·.blocks)

/-- Items of a query for engines of a kind in a quarter, with their costs in 512ths of an ACLK (Table 12.9): tables and, in the merge quarter, refining
and the walk on MAC arrays; scans, once the quarter's tables are built, on search engines; the quarter merge, once all scans are done, on
a winnow of the merge quarter. -/
def queryItems (s : State) (x : Index) (q : Nat) (k : EngineKind) (y : ShardQuery) : List (Nat × Nat) :=
  if !y.started || y.own then []
  else match k with
    | .macArray =>
      (match y.tablesIn q with
      | some t => if t.left = 0 then [] else [(shardItem y 0, t.left * 512)]
      | none => [])
      ++ (if y.merged ∧ mergeQuarter s x = q then
        [(shardItem y 1, (ceilDiv y.refine.length (refineGroup x) + ceilDiv (y.eval - (y.walk.elim 0 (·.ev))) (max x.gdeg 1)) * refineCost x * 512)] else [])
    | .searchEngine => match y.tablesIn q with
      | some t => if t.left = 0 then (y.scans.zipIdx.filter (fun e => e.1.quarter == q && !e.1.ended)).map (fun e => (shardItem y e.2, ceilDiv x.ipp (scanRate x t.hbm) * 512)) else []
      | none => []
    | .winnow =>
      if mergeQuarter s x = q ∧ !y.merged ∧ y.scans.all (·.ended) then [(shardItem y 0, ceilDiv ((y.found.flatMap (·.2)).length - y.taken) 32 * 512)] else []
    | _ => []

/-- Work of the queries at a shard, one stream for each stall and service; SARRAYS caps the arrays of an index in a quarter (R332). -/
def queryWork (s : State) (q : Nat) (k : EngineKind) : List Work :=
  s.idx.indexes.flatMap (fun x =>
    let dealt := dealtShard s q k x.number
    if k = .macArray ∧ x.sarrays ≤ (s.eng.portions.filter (fun p => p.quarter == q && p.kind == k && p.shard == some x.number)).length then []
    else ((x.queries.map (fun y => (y.stall, y.svc))).eraseDups).map (fun (stall, svc) =>
      let items := (x.queries.filter (fun y => y.stall == stall && y.svc == svc)).flatMap (queryItems s x q k)
      let items := items.filter (fun e => !dealt.contains e.1)
      { jobid := noJob, shard := some x.number, stall := stall, svc := svc, tc := 3, items := items.map (·.1), costs := items.map (·.2), whole := true }))

/-- All work for an engine of a kind in a quarter. -/
def workFor (s : State) (q : Nat) (k : EngineKind) (i : Nat) : List Work :=
  ((jobsIn s q).filterMap (jobWork s k i) ++ queryWork s q k).filter (fun w => !w.items.isEmpty && w.most != 0)

/-- Items of a portion: as many as fit its ACLK, one at least. -/
def fitItems (w : Work) (size : Nat) : List Nat × Nat :=
  let step := fun (acc : List Nat × Nat × Bool) (e : Nat × Nat) =>
    let (l, used, full) := acc
    if full || (!l.isEmpty && decide (size * 512 < used + e.2)) || decide (w.most ≤ l.length) then (l, used, true) else (l ++ [e.1], used + e.2, false)
  let costs := if w.costs.isEmpty then w.items.map (fun _ => w.cost) else w.costs
  let (l, used, _) := (w.items.zip costs).foldl step ([], 0, false)
  (l, if w.whole then size else min size (max (ceilDiv used 512) 1))

/-! ### Dealing (R45) -/

/-- Runs of consecutive items. -/
def itemRuns : List Nat → List (Nat × Nat)
  | [] => []
  | a :: l => match itemRuns l with
    | (b, n) :: rest => if b = a + 1 then (a, n + 1) :: rest else (a, 1) :: (b, n) :: rest
    | [] => [(a, 1)]

/-- Items leave a job's stock as they are dealt; what they need is read. -/
def dealItems (s : State) (w : Work) (t : Nat) (items : List Nat) : State :=
  match jobOf s w.jobid with
  | none => s
  | some j =>
    let s := updJob s j.jobid (fun j => { j with owed := j.owed.filter (fun i => !items.contains i) })
    match j.body with
    | .red _ => updRed s j.jobid (fun r => items.foldl (fun r i => r.assign t i) r)
    | .gather r =>
      let fresh := items.filter (fun i => decide (r.dealt ≤ i))
      let s := each (itemRuns fresh) (fun e s => askIndex s j r e.1 e.2) s
      updGather s j.jobid (fun r => { r with dealt := r.dealt + fresh.length })
    | .winnow x =>
      if x.src = 1 then s
      else
        let fresh := items.filter (fun i => decide (x.dealt ≤ i))
        let s := each (itemRuns fresh) (fun e s => askRecords s j x e.1 e.2) s
        updWinnow s j.jobid (fun x => { x with dealt := x.dealt + fresh.length })
    | _ => s

/-- Candidate of the dealing point. -/
def Work.cand (w : Work) (i size : Nat) : Cand := { idx := i, tc := w.tc, svc := w.svc, stall := w.stall, qp := w.qp, size := size }

/-- Deal one portion to an engine. -/
def dealTo (s : State) (q : Nat) (k : EngineKind) (i : Nat) : State :=
  let ws := workFor s q k i
  if ws.isEmpty then s
  else
    let size := portionSize s
    let cands := ws.zipIdx.map (fun e => e.1.cand e.2 (fitItems e.1 size).2)
    let tree := cands.foldl (fun t c => t.wake c) (Tab.getD s.sw.dealTrees q {})
    match tree.choose cands with
    | none => s
    | some c => match ws[c.idx]? with
      | none => s
      | some w =>
        let (items, aclk) := fitItems w size
        let tree := tree.granted (weightsOf s [8, 4, 4]) c (cands.filter (fun o => o.idx != c.idx))
        let s := { s with
          sw := { s.sw with dealTrees := Tab.set s.sw.dealTrees q tree }
          eng := { s.eng with portions := s.eng.portions ++ [{ quarter := q, kind := k, index := i, jobid := w.jobid, shard := w.shard, blocks := items, aclk := aclk }] } }
        if k = .macArray then s else dealItems s w i items

/-- Kinds of engine in the order they are dealt: arrays before the winnows that wait for them. -/
def dealKinds : List EngineKind := [.thresher, .gleaner, .macArray, .winnow, .searchEngine]

/-- Is a quarter dealt portions: not in reset. -/
def dealQuarter (s : State) (q : Nat) : State :=
  if quarterInReset s q then s
  else each dealKinds (fun k s => each (enginesIn s q k) (fun i s => dealTo s q k i) s) s

/-- Read what jobs need before their items can be dealt. -/
def askInputs (s : State) : State :=
  each (s.eng.jobs.map (·.jobid)) (fun n s => match jobOf s n with
    | some j => match j.body with
      | .red _ => askSources s n
      | .winnow w => askMatrix s j w
      | .search r => askQueries s j r
      | .gather _ => s
    | none => s) s

/-- Action 7 of a strike. -/
def dealPortions (s : State) : State := settleAll (each [0, 1, 2, 3] (fun q s => dealQuarter s q) (runEngines (askInputs s)))

/-! ### Closing (R43) -/

/-- Items of a portion that were not processed are owed to the next. -/
def owe (s : State) (jobid : Nat) (items : List Nat) : State := updJob s jobid (fun j => { j with owed := items ++ j.owed })

/-- The composition a portion works for: its job's, or that of the index for queries at a shard (R110, R332). -/
def portionComp (s : State) (p : Portion) : Option Nat :=
  match p.shard with
  | some n => (indexAt s n).map (·.comp)
  | none => (jobOf s p.jobid).map (·.comp)

/-- Engine work of a portion: its ACLK to the engine and to the composition, its steps to the job. -/
def chargePortion (s : State) (p : Portion) (comp : Option Nat) (aclk steps : Nat) : State :=
  let s := { s with eng := { s.eng with work := Tab.upd s.eng.work (engineTarget p.quarter p.kind p.index) 0 (· + aclk) } }
  let s := updJob s p.jobid (fun j => { j with steps := j.steps + steps })
  comp.elim s (fun c => meter s c (fun m => { m with engineAclk := m.engineAclk + word aclk }))

/-- One item of a query at a shard on an engine with some ACLK left that gets to so many steps; what is left of both. -/
def shardStep (p : Portion) (n item room most : Nat) (s : State) : Nat × Nat × State :=
  match indexAt s n, queryAt s (shardJob item) (shardQuery item) with
  | some x, some (_, y) => match p.kind with
    | .macArray =>
      if item % 512 = 0 then let (room, s) := buildTables s x y p.quarter room; (room, most, s)
      else refineQuery n y.jobid y.query (room + y.refine.length + y.eval + 4) room most s
    | .searchEngine =>
      scanProbe n y.jobid y.query (item % 512) (room + ((partAt x (((y.scans[item % 512]?).map (·.part)).getD 0)).elim 0 (·.npage)) + 1) room most s
    | .winnow => if most = 0 then (room, most, s) else let (room, s) := mergeQuery s x y room; (room, most - 1, s)
    | _ => (room, most, s)
  | _, _ => (room, most, s)

def shardSteps (p : Portion) (n : Nat) : List Nat → Nat → Nat → State → Nat × Nat × State
  | [], room, most, s => (room, most, s)
  | i :: l, room, most, s => let (room, most, s) := shardStep p n i room most s; shardSteps p n l room most s

/-- A portion closes: what its engine got to in the ACLK that it worked is done, as far as what it needs has come (R43); the rest goes
into later portions. -/
def closePortion (s : State) (p : Portion) (r : PortionReport) : State :=
  let comp := portionComp s p
  let s := { s with eng := { s.eng with portions := s.eng.portions.erase p } }
  let aclk := min r.aclk p.aclk
  let able := p.blocks.take r.done
  let rest := p.blocks.drop r.done
  match p.shard, p.kind with
  | some n, _ => let (room, _, s) := shardSteps p n p.blocks aclk r.done s; chargePortion s p comp (aclk - room) 0
  | none, .thresher =>
    let (room, most, s) := thresh p.jobid r.corrupt p.blocks (aclk * 512) r.done s
    chargePortion s p comp (aclk - room / 512) (r.done - most)
  | none, .gleaner =>
    let (n, s) := takeEntriesOf p.jobid p.index able (chargePortion s p comp aclk able.length)
    owe s p.jobid (able.drop n ++ rest)
  | none, .winnow =>
    let body : Option JobKind := (jobOf s p.jobid).map (·.body)
    let (n, s) := winnowItems p.jobid able (chargePortion s p comp aclk able.length)
    match body with
    | some (.winnow w) =>
      let s := comp.elim s (fun c => meterMacs s c (n * w.vdim * w.pdim))
      if w.src = 1 then s else owe s p.jobid (able.drop n ++ rest)
    | _ => s
  | none, .macArray =>
    if (jobOf s p.jobid).any (fun j => j.body.code == 4) then
      let (n, s) := coarseWork s p.jobid aclk
      chargePortion s p comp n (b2n (n != 0))
    else chargePortion s p comp aclk 0
  | none, .searchEngine => s
  | none, .expander => s

/-- Portions that no close has cut short are done whole when the strike comes (R25, R42). -/
def finishPortions (s : State) : State :=
  if s.eng.portions.isEmpty then s
  else runEngines (each s.eng.portions (fun p s => closePortion s p { done := p.aclk + p.blocks.length, corrupt := [], aclk := p.aclk }) (runEngines s))

def execPortionClose (q : Nat) (kind : EngineKind) (index : Nat) (r : PortionReport) (s : State) : Host.Outcome State Fault Refusal :=
  done s (match s.eng.portions.find? (fun p => p.quarter == q && p.kind == kind && p.index == index) with
    | some p => runEngines (closePortion (runEngines s) p r)
    | none => s)

/-! ### The query batch (R335, Table 1.7) -/

/-- Bytes of engine scratch that tables may take in a quarter: not what reductions retain, 16 MiB at most. -/
def tableRoom (s : State) (q : Nat) : Nat := min (16 * 2 ^ 20) (2 ^ 20 * (44 - retainedIn s q))

/-- Tables of queries, oldest first, as far as engine scratch holds them; the rest lie in HBM, where they stay (R335, Table 1.7). -/
def placeTables (s : State) : State :=
  let one := fun (x : Index) (acc : List Nat × List QueryTables) (t : QueryTables) =>
    let (used, l) := acc
    if t.hbm then (used, l ++ [t])
    else if tableRoom s t.quarter < nth used t.quarter + tableBytes x then (used, l ++ [{ t with hbm := true }])
    else (modNth used t.quarter (· + tableBytes x), l ++ [t])
  let step := fun (acc : List Nat × List Index) (x : Index) =>
    let (used, done) := acc
    let (used, qs) := x.queries.foldl (fun (a : List Nat × List ShardQuery) q =>
      let (used, ts) := q.tables.foldl (one x) (a.1, [])
      (used, a.2 ++ [{ q with tables := ts }])) (used, [])
    (used, done ++ [{ x with queries := qs }])
  { s with idx := { s.idx with indexes := (s.idx.indexes.foldl step ([0, 0, 0, 0], [])).2 } }

/-- At a strike the queries that have come since the last form the quarters' batches, and their tables get their places. -/
def buildBatch (s : State) : State :=
  placeTables (each s.idx.indexes (fun x s => each (x.queries.filter (fun q => !q.started && !q.held && !q.own)) (fun q s => startQuery s x q) s) s)

/-! ### The other engine events -/

/-- JOB_ADMISSION: a waiting submission entry finds its resources (R401). -/
def execJobAdmission (qp : Nat) (s : State) : Host.Outcome State Fault Refusal := done s (runEngines (takeSubmissions s qp))

/-- ROW_READ_COMPLETION: an outstanding row read is answered, and its row delivered (R305). -/
def execRowReadCompletion (jobid pos : Nat) (s : State) : Host.Outcome State Fault Refusal :=
  done s (match jobOf s jobid with
    | some j => match j.body with
      | .gather r => match r.rows.find? (fun e => e.1 == pos) with
        | some e => runEngines (rowRead s jobid e.2.1)
        | none => s
      | _ => s
    | none => s)

def execJobTimeout (jobid : Nat) (s : State) : Host.Outcome State Fault Refusal := done s (runEngines (jobTimeout s jobid))

def execWjobTimeout (jobid : Nat) (s : State) : Host.Outcome State Fault Refusal := done s (runEngines (wjobTimeout s jobid))

def execShardTimeout (jobid query rank : Nat) (s : State) : Host.Outcome State Fault Refusal := done s (runEngines (shardTimeout s jobid query rank))

def execQueryEpochHoldExpiry (index jobid query : Nat) (s : State) : Host.Outcome State Fault Refusal := done s (runEngines (holdExpiry s index jobid query))

def execCompactSwitch (index part : Nat) (s : State) : Host.Outcome State Fault Refusal := done s (settleAll (compactSwitch s index part))

/-! ### Doorbells (R397, R398) -/

/-- The operand unit of an ATOMIC_MAX of SIZE 1 and TYPE 0 (Table 5.5). -/
def maxUnit (value : Word) : List Byte := padTo 64 (wordBytes value ++ List.replicate 24 0 ++ wordBytes (pack [(0, 1)]))

/-- A doorbell slot of BAR0 is written: performed as ATOMIC_MAX on the matching word of the control line, whose home passes it to the
sequencer (R397); while the quarter is in reset it waits there (R410). -/
def doorbell (s : State) (fn lq : Nat) (isTail : Bool) (value : Word) : State :=
  match s.qps.find? (fun e => e.2.state != 0 && e.2.stall == fnStall fn && e.2.lq == lq) with
  | none => s
  | some (n, c) =>
    if quarterInReset s c.quarter then ring s n (if isTail then value.toNat else 0) (if isTail then 0 else value.toNat)
    else
      let h : ReqHdr := { stall := c.stall, qp := n, handle := c.ring, key := c.rkey, offset := c.control + (if isTail then 0 else 8), len := 1 }
      runEngines (takeSubmissions (settleAll (submit s (.ring n) 0x12 h (maxUnit value)).2) n)

def execSqtailDoorbell (fn lq : Nat) (value : Word) (s : State) : Host.Outcome State Fault Refusal := done s (doorbell s fn lq true value)

def execCqheadDoorbell (fn lq : Nat) (value : Word) (s : State) : Host.Outcome State Fault Refusal := done s (doorbell s fn lq false value)

/-- Every queue pair takes what a write of its control line rang for. -/
def afterDoorbell (s : State) (r : ReqHdr) : State :=
  each ((s.qps.filter (fun e => e.2.state != 0 && e.2.ring == r.handle)).map (·.1)) (fun n s => takeSubmissions s n) s

def execStoreMasked (p : Nat) (h : ReqHdr) (d : List Byte) (s : State) : Host.Outcome State Fault Refusal :=
  done s (afterDoorbell (releaseFences (arrive s p 3 h d)) h)

def execAtomicMax (p : Nat) (h : ReqHdr) (d : List Byte) (s : State) : Host.Outcome State Fault Refusal :=
  done s (afterDoorbell (releaseFences (arrive s p 0x12 h d)) h)

/-! ### ENGINE_ACCESS_RESPONSE -/

/-- A mailbox data area's page arrives (R416). -/
def areaAnswer (s : State) (a : Access) (n status : Nat) (d : List Byte) : State :=
  let s := dropAccess s (fun b => b.acc == a.acc)
  let s := updCmd s n (fun c =>
    match c.reads.find? (fun e => e.1 == a.acc) with
    | none => c
    | some e => { c with
        reads := c.reads.filter (fun e => e.1 != a.acc)
        area := if status = OK ∨ status = OK_COMBINED then Tab.set c.area e.2 d else c.area
        failed := if status = OK ∨ status = OK_COMBINED then c.failed else some (c.failed.getD status) })
  runMailboxes s

/-- An access has its final response: the engine, sequencer or mailbox that made it takes it. -/
def accessResponse (s : State) (acc : Nat) : State :=
  match s.eng.access.find? (fun a => a.acc == acc) with
  | none => s
  | some a => match a.answer with
    | none => s
    | some (status, _, d) =>
      let s := match a.use with
        | .admission n _ => takeSubmissions s n
        | .ring n => ringAnswer s a n status
        | .mailbox n => areaAnswer s a n status d
        | .lineRebuild _ _ _ => sheafStep s
        | .stalkPage _ _ _ => sheafStep s
        | _ => s
      runEngines s

def execEngineAccessResponse (acc : Nat) (s : State) : Host.Outcome State Fault Refusal := done s (accessResponse s acc)

end Sys2Proof.Machine
end

