-- ==== Sys2Proof/Machine/Power.lean ====
section
/-! DEFINITION. Power, temperature, lifetime counters, the journal and the checkpoint (R37, R516, R519 to R541). -/

namespace Sys2Proof.Machine

/-! ### The power controller -/

/-- A record of the power controller (R542). -/
def powerRecord (s : State) (code : Nat) (p0 p1 p2 p3 : Word) : State :=
  record s { code := code, kind := 0x0E, p0 := p0, p1 := p1, p2 := p2, p3 := p3 }

/-- Change the power registers. -/
def updPower (s : State) (f : PowerS → PowerS) : State := { s with pwr := f s.pwr }

/-- Is an input voltage inside 42 to 58 V (R530). -/
def vinInside (mv : Nat) : Bool := decide (42000 ≤ mv) && decide (mv ≤ 58000)

/-- STATUS_INPUT with its bits that follow the input now: bit 7 and bit 4 latch, bit 5 stands while the input is outside. -/
def statusWith (st : BitVec 8) (mv : Nat) : BitVec 8 :=
  let st := if 62000 < mv then st ||| 0x80#8 else st
  let st := if mv < 38000 then st ||| 0x10#8 else st
  if vinInside mv then st &&& 0xDF#8 else st ||| 0x20#8

/-- The input crosses 42 or 58 V, or returns (R530). -/
def vinCross (s : State) (mv : Nat) : State :=
  let out := !vinInside mv
  let cause := if mv < 42000 then 1 else if 58000 < mv then 2 else 0
  let s' := updPower s (fun p => { p with vin := mv, vinOut := out, statusInput := statusWith p.statusInput mv })
  if out == s.pwr.vinOut then s' else powerRecord s' 0x1607 (word mv) (word cause) 0 0

def execVinWarning (mv : Nat) (s : State) : Host.Outcome State Fault Refusal := done s (vinCross s mv)

/-- MFR_PCAP: an accepted value is used from the next telemetry period (R530). -/
def setPcap (s : State) (w : Nat) : State := if 1000 ≤ w ∧ w ≤ 3300 then updPower s (fun p => { p with pcap := w }) else s

def execMfrPcap (value : Nat) (s : State) : Host.Outcome State Fault Refusal := done s (setPcap s value)

/-- CLEAR_FAULTS: latched bits whose condition has ended (Table 21.1). -/
def clearFaults (s : State) : State :=
  updPower s (fun p =>
    let exceeds := decide (62000 < p.vin)
    let under := decide (p.vin < 38000)
    let mask (b : Bool) (m : BitVec 8) := if b then 0#8 else m
    { p with
      statusInput := p.statusInput &&& ~~~ (mask exceeds 0x80#8 ||| mask under 0x10#8)
      statusTemp := p.statusTemp &&& ~~~ (mask (!p.trip.isEmpty) 0x80#8 ||| mask (!p.alarm.isEmpty) 0x40#8 ||| mask (!p.warning.isEmpty) 0x20#8) })

def execClearFaults (s : State) : Host.Outcome State Fault Refusal := done s (clearFaults s)

/-! ### Thermal limits (Table 21.2), in 1/16 °C -/

/-- A threshold of a place: for a die, and 5 °C lower for a stack. -/
def limitOf (place : ThermalPlace) (die : Nat) : Nat :=
  match place with
  | .die _ => die * 16
  | .stack _ => (die - 5) * 16

/-- Quarter of a place: compute dies, then base dies, of Q0 to Q3; five stacks to a quarter. -/
def placeQuarter (place : ThermalPlace) : Nat :=
  match place with
  | .die i => i % 4
  | .stack i => i / 5

/-- PARAM0 of a thermal record. -/
def placeWord (place : ThermalPlace) : Word :=
  match place with
  | .die i => word (Config.placeUnit false i)
  | .stack i => word (Config.placeUnit true i)

/-- Change the lifetime counters of a die. -/
def lifeDie (s : State) (i : Nat) (f : DieLife → DieLife) : State :=
  updPower s (fun p => { p with life := { p.life with dies := Tab.upd p.life.dies i {} f } })

/-- Alarm: engines at level 14 from the next strike, THERMAL, ALERT_N (R535). -/
def alarmSet (s : State) (place : ThermalPlace) (temp : Nat) : State :=
  if temp < limitOf place 100 ∨ s.pwr.alarm.contains place then s
  else
    let s := updPower s (fun p => { p with alarm := p.alarm ++ [place], floor := 14, statusTemp := p.statusTemp ||| 0x40#8 })
    let s := match place with
      | .die i => lifeDie s i (fun d => { d with alarms := up32 d.alarms })
      | .stack _ => s
    alert (powerRecord s 0x1605 (placeWord place) (word temp) 1 0)

def execThermalAlarm (place : ThermalPlace) (temp : Nat) (s : State) : Host.Outcome State Fault Refusal := done s (alarmSet s place temp)

/-- A warning or an alarm clears once its sensors have stayed at or below the clear level (R535). -/
def thermalCleared (s : State) (place : ThermalPlace) (temp : Nat) : State :=
  let s := if temp ≤ limitOf place 90 then updPower s (fun p => { p with warning := p.warning.filter (· != place) }) else s
  if temp ≤ limitOf place 95 ∧ s.pwr.alarm.contains place then
    let s := updPower s (fun p =>
      let rest := p.alarm.filter (· != place)
      { p with alarm := rest, floor := if rest.isEmpty then 0 else p.floor })
    alert (powerRecord s 0x1605 (placeWord place) (word temp) 0 0)
  else s

def execThermalClear (place : ThermalPlace) (temp : Nat) (s : State) : Host.Outcome State Fault Refusal := done s (thermalCleared s place temp)

/-! ### The telemetry period (R531) -/

/-- Places of a reading, with their temperatures. -/
def placesOf (t : Telemetry) : List (ThermalPlace × Nat) :=
  t.dieTemps.zipIdx.map (fun e => (ThermalPlace.die e.2, e.1)) ++ t.stackTemps.zipIdx.map (fun e => (ThermalPlace.stack e.2, e.1))

/-- Warnings that a reading sets. -/
def warnings (s : State) (t : Telemetry) : State :=
  each (placesOf t) (fun e s =>
    if e.2 < limitOf e.1 95 ∨ s.pwr.warning.contains e.1 then s
    else powerRecord (updPower s (fun p => { p with warning := p.warning ++ [e.1], statusTemp := p.statusTemp ||| 0x20#8 })) 0x1604 (placeWord e.1) (word e.2) 0 0) s

/-- The thermal cap after a reading. -/
def nextThermalCap (p : PowerS) : Nat :=
  if !p.warning.isEmpty then p.thermalCap - 165
  else if p.thermalCap < p.pcap then min (p.thermalCap + 165) p.pcap else p.thermalCap

/-- The effective cap and its cause: 1 MFR_PCAP, 2 thermal, 3 VIN (R531); in a tie the lower number. -/
def effectiveCap (p : PowerS) (mv : Nat) : Nat × Nat :=
  let v := mv * 82 / 1000
  let c := min (min (min p.pcap 3300) p.thermalCap) v
  (c, if c = min p.pcap 3300 then 1 else if c = p.thermalCap then 2 else 3)

/-- A telemetry period ends. -/
def telemetry (s : State) (t : Telemetry) : State :=
  if bellN s % 1000 ≠ 0 then s
  else
    let s := updPower s (fun p => { p with last := t, vin := t.vinMv, lastThrottled := p.throttled, throttled := (0, 0) })
    let s := vinCross s t.vinMv
    let s := warnings s t
    let s := updPower s (fun p => { p with thermalCap := nextThermalCap p })
    let (c, cause) := effectiveCap s.pwr t.vinMv
    let old := s.pwr.cap
    let s := updPower s (fun p => { p with cap := c })
    if c = old then s else powerRecord s 0x1601 (word c) (word cause) s.time.bell 0

def execTelemetryPeriod (t : Telemetry) (s : State) : Host.Outcome State Fault Refusal := done s (telemetry s t)

/-! ### The throttle level (R532 to R534) -/

/-- Does a throttle level fit under the cap: eng_est ≤ (cap_eff − 50) × η − base_est, with η a quotient (R532). -/
def levelFits (s : State) (level : Nat) : Bool :=
  let b := bellN s
  let eta := Config.efficiency (b / 1000)
  decide ((Config.engineEstimate b level + Config.baseEstimate b) * max 1 eta.2 ≤ (s.pwr.cap - 50) * eta.1)

/-- The level that R532 chooses: the lowest at which the engines' estimate fits, 14 where none does, and not below thermal_floor. -/
def chosenLevel (s : State) : Nat := max (((List.range 14).find? (levelFits s)).getD 14) s.pwr.floor

/-- Does the estimate at level 14 exceed what there is. -/
def overCap (s : State) : Bool := !levelFits s 14

/-- Count a bell for MFR_THROTTLE and THROTTLED. -/
def countThrottle (s : State) (l : Nat) : State :=
  if l = 0 then s
  else
    let s := updPower s (fun p => { p with
      throttled := (max p.throttled.1 l, p.throttled.2 + 1)
      run := (max p.run.1 l, p.run.2.1 + 1, if p.run.2.1 = 0 then s.time.bell else p.run.2.2) })
    if s.pwr.lastThrottleRec.all (fun b => decide (1000 ≤ since s b)) then
      let r := s.pwr.run
      powerRecord (updPower s (fun p => { p with run := (0, 0, 0), lastThrottleRec := some s.time.bell })) 0x1602 (word r.1) (word r.2.1) r.2.2 0
    else s

/-- Action 10: the level for the next bell, and the bells over and within the cap (R532, R534). -/
def throttle (s : State) : State :=
  let l := chosenLevel s
  let exceeds := overCap s
  let s := updPower s (fun p =>
    let within := if exceeds then 0 else p.underBells + 1
    { p with
      level := l, overBells := if exceeds then p.overBells + 1 else 0, underBells := within
      statusInput := if within = 1000 then p.statusInput &&& 0xFE#8 else p.statusInput })
  countThrottle s l

/-- CAP_OVERRUN after 1,000 bells over the cap (R534). -/
def capOver (s : State) : State :=
  if s.pwr.overBells < 1000 || s.pwr.statusInput.getLsbD 0 then s
  else powerRecord (updPower s (fun p => { p with statusInput := p.statusInput ||| 1#8 })) 0x1603 (word s.pwr.cap) (word s.pwr.last.pinW) s.time.bell 0

def execCapOverrun (s : State) : Host.Outcome State Fault Refusal := done s (capOver s)

/-! ### Lifetime counters (R538 to R541, Table 21.3) -/

/-- A counter of n bits one higher, saturating. -/
def upN (bits n : Nat) : Nat := min (n + 1) (2 ^ bits - 1)

/-- A temperature reading of a die goes through the cycle count of R538: a rise of 30 °C above the last minimum, then a fall of
30 °C below the maximum of that rise. -/
def cycleStep (d : DieLife) (t : Nat) : DieLife :=
  let d := if d.low = 0 ∧ d.high = 0 then { d with low := t, high := t } else d
  if d.rising then
    let top := max d.high t
    if t + 480 ≤ top then { d with cycles := up32 d.cycles, rising := false, low := t, high := t } else { d with high := top }
  else
    let bottom := min d.low t
    if bottom + 480 ≤ t then { d with rising := true, low := bottom, high := t } else { d with low := bottom }

/-- A die at a lifetime tick. -/
def dieTick (d : DieLife) (t : Nat) : DieLife :=
  let d := cycleStep d t
  { d with above95 := if 95 * 16 < t then up32 d.above95 else d.above95, hottest := max d.hottest t }

/-- A stack at a lifetime tick. -/
def stackTick (l : StackLife) (t : Nat) : StackLife :=
  { l with above85 := if 85 * 16 < t then up32 l.above85 else l.above85, above90 := if 90 * 16 < t then up32 l.above90 else l.above90 }

/-- Is a margin below half the margin at manufacture. -/
def marginLow (lane m : Nat) : Bool := decide (2 * m < Config.laneMargin lane)

/-- A lane at a lifetime tick: MARGIN_LOW when its margin first falls below half (R539). -/
def laneTick (s : State) (lane margin : Nat) (bad : Bool) : State :=
  let old := Tab.getD s.pwr.life.lanes lane {}
  let fresh := !Tab.has s.pwr.life.lanes lane || old.lowest == 0
  let note := marginLow lane margin && !old.noted
  let s := updPower s (fun p => { p with life := { p.life with lanes := Tab.set p.life.lanes lane { old with
    current := margin, lowest := if fresh then margin else min old.lowest margin, badTicks := if bad then up32 old.badTicks else old.badTicks
    noted := old.noted || note } } })
  if note then powerRecord s 0x1608 (word lane) (pack [(16, Config.laneMargin lane), (0, margin)]) 0 0 else s

/-- Temperatures of what a rail feeds: VDD_C, VDD_B, VDD_H, VDD_S of each quarter, VDD_X, VDD_A. -/
def railTemps (t : Telemetry) (rail : Nat) : List Nat :=
  let q := rail / 4
  let base := nth t.dieTemps (4 + q)
  if rail = 17 then [nth t.dieTemps 4]
  else if rail = 16 then []
  else match rail % 4 with
    | 0 => [nth t.dieTemps q]
    | 2 => base :: (List.range 5).map (fun i => nth t.stackTemps (5 * q + i))
    | _ => [base]

/-- The stress bin of a rail: 2 × v + t (R540). -/
def stressBin (t : Telemetry) (rail : Nat) : Nat :=
  let v := nth t.rails rail
  let hot := (railTemps t rail).any (fun x => decide (85 * 16 < x))
  2 * (if v = 0 then 0 else if v ≤ 30 then 1 else if v ≤ 60 then 2 else 3) + b2n hot

/-- A lifetime tick (R54). -/
def lifeTick (s : State) (t : Telemetry) (margins bad : List Nat) : State :=
  if s.time.powered.toNat % 1000000 ≠ 0 ∨ s.time.powered = s.pwr.lastTick then s
  else
    let s := updPower s (fun p => { p with
      lastTick := s.time.powered
      life := { p.life with
        ticks := upN 64 p.life.ticks
        stackLife := t.stackTemps.zipIdx.foldl (fun l e => Tab.upd l e.2 {} (stackTick · e.1)) p.life.stackLife
        dies := t.dieTemps.zipIdx.foldl (fun l e => Tab.upd l e.2 {} (dieTick · e.1)) p.life.dies
        rails := (List.range 18).foldl (fun l r => Tab.upd l r (List.replicate 8 0) (fun b => modNth b (stressBin t r) up32)) p.life.rails } })
    let s := each margins.zipIdx (fun e s => laneTick s e.2 e.1 (bad.contains e.2)) s
    { s with tier := { s.tier with rowErrors := [] } }

def execLifetimeTick (t : Telemetry) (margins badBer : List Nat) (s : State) : Host.Outcome State Fault Refusal := done s (lifeTick s t margins badBer)

/-! ### The checkpoint (R37, R55, R523, R541) -/

/-- Sign the open audit segment with INTERIM (R523). -/
def signOpen (s : State) : State :=
  let n := (Tab.getD s.led.rings 0x10 {}).next
  if n % 4096 = 0 then s else { s with led := s.led.sign s.time.bell (stampAt s.time) s.sec.aliasGen (n - 1) true }

/-- LIFE_SUMMARY of the counters. -/
def lifeSummary (s : State) : State :=
  let l := s.pwr.life
  powerRecord s 0x1609 (word l.ticks) (word l.powerCycles) (word (l.stackLife.foldl (fun n e => n + e.2.repaired) 0))
    (word (l.lanes.filter (fun e => marginLow e.1 e.2.current)).length)

/-- Write a BELL checkpoint with the lifetime counters, and sign the open segment. -/
def checkpoint (s : State) : State :=
  let s := { s with pkg := { s.pkg with flash := { s.pkg.flash with bell := s.time.bell, life := s.pwr.life, powered := s.time.powered, fresh := false } } }
  signOpen (lifeSummary s)

def execBellCheckpoint (s : State) : Host.Outcome State Fault Refusal :=
  done s (if s.pkg.powered ∧ !s.pkg.cold ∧ bellN s % 2 ^ 30 = 0 ∧ s.time.bell ≠ s.pkg.flash.bell then checkpoint s else s)

/-! ### The flash journal (R519, R522, R524, Table 20.6) -/

/-- Records of an area's journal before its oldest erase block must go: reset and trust 4 MiB, general 12 MiB. -/
def areaSize (area : Nat) : Nat := if area = 1 then 65536 else 196608

/-- C after a run of audit records. -/
def chainOver (c : List Byte) (rs : List Rec) : List Byte := rs.foldl (fun c r => Config.shake256 (c ++ recBytes 0x10 r) 32) c

/-- The segment slot that an audit page needs still holds a segment not collected (R524). -/
def slotTaken (s : State) (page : List Rec) : Bool :=
  page.any (fun r => decide (64 ≤ r.count / 4096) && s.led.uncollected.contains (r.count / 4096 - 64))

/-- LEDGER_FULL stands from 56 uncollected segments on. -/
def checkFull (s : State) : State :=
  if s.led.full || decide (s.led.uncollected.length < segmentsFull) then s
  else
    let s := record { s with led := { s.led with full := true, fullSince := s.time.bell } } { code := 0x1702, kind := 0x0F, p0 := word s.led.uncollected.length }
    alert s

/-- Write one page of an area: up to 64 records, oldest first. -/
def journalPage (s : State) (area : Nat) : State :=
  let page := (s.led.pend.filter (fun e => ringArea e.1 == area)).take 64
  let recs := page.map (fun e => (e.1, e.2.2))
  if area = 0 ∧ slotTaken s (recs.map (·.2)) then s
  else
    let inPage := fun (e : Nat × Word × Rec) => recs.any (fun r => r.1 == e.1 && r.2.count == e.2.2.count)
    let old := Tab.getD s.led.journal area []
    let all := recs.reverse ++ old
    let kept := if area = 0 then
        all.filter (fun e => !recs.any (fun r => r.2.count / 4096 == e.2.count / 4096 + 64))
      else if areaSize area < all.length then all.take (areaSize area - 1024) else all
    let segs := if area = 0 then (recs.map (fun r => r.2.count / 4096)).foldl addOnce s.led.uncollected else s.led.uncollected
    let start := if s.led.chainJournalled.isEmpty then chainStart else s.led.chainJournalled
    let s := { s with led := { s.led with
      journal := Tab.set s.led.journal area kept
      pend := s.led.pend.filter (fun e => !inPage e)
      uncollected := segs
      chainJournalled := if area = 0 ∧ !recs.isEmpty then chainOver start (recs.map (·.2)) else s.led.chainJournalled } }
    checkFull s

/-- A firmware image is read from the flash, or the flash programs: at boot, while an update is staged, while a core that restarts
reloads (Table 1.7). -/
def flashTaken (s : State) : Bool :=
  s.pkg.phase == 3 || s.pkg.flash.busy || s.rst.cores.any (fun k => !k.failed.isEmpty)
    || s.mb.changes.any (fun e => match e.2 with | .fwStage _ => true | _ => false)

/-- A page is due: 64 records pend, or the oldest has waited 1,000 bells; image reads come first (Table 1.7). -/
def journalDue (s : State) (area : Nat) : Bool :=
  let mine := s.led.pend.filter (fun e => ringArea e.1 == area)
  !flashTaken s && (decide (64 ≤ mine.length) || mine.any (fun e => decide (1000 ≤ since s e.2.1)))

def execJournalWrite (area : Nat) (s : State) : Host.Outcome State Fault Refusal := done s (if journalDue s area then journalPage s area else s)

/-- Write everything that pends (R519, an orderly reset). -/
def journalAll : Nat → State → State
  | 0, s => s
  | n + 1, s =>
    let s' := each [0, 1, 2] (fun a s => if s.led.pend.any (fun e => ringArea e.1 == a) then journalPage s a else s) s
    if s'.led.pend.length < s.led.pend.length then journalAll n s' else s'

/-- RING_OVERRUN: records lost to the journal are reported at the next strike, at most once in 1,000 bells (R516). -/
def overruns (s : State) : State :=
  each s.led.rings (fun e s =>
    let g := Tab.getD s.led.rings e.1 {}
    if g.lost = 0 || g.lastOverrun.any (fun b => decide (since s b < 1000)) then s
    else
      let s := { s with led := { s.led with rings := Tab.set s.led.rings e.1 { g with lost := 0, lastOverrun := some s.time.bell } } }
      record s { code := 0x1701, kind := 0x0F, p0 := word e.1, p1 := word g.lost }) s

end Sys2Proof.Machine
end

