-- ==== Sys2Proof/Machine/Resets.lean ====
section
/-! DEFINITION. Resets: their levels, quench, capture and end, hangs, control cores, escalation, the orderly flush, power cycles (R20, R21, R410, R419, R458 to R478, R555, R560, R561). -/

namespace Sys2Proof

/-- Level code of a scope (Table 18.2). -/
def ResetScope.level : ResetScope → Nat
  | .context _ => 1
  | .engine _ _ _ => 2
  | .quarter _ => 3
  | .device => 4
  | .power => 5

/-- TARGET of a scope, as C3[31:16] of RESET. -/
def ResetScope.target : ResetScope → Nat
  | .context qp => qp
  | .engine q k i => engineTarget q k i
  | .quarter q => q
  | _ => 0

/-- Bound of a level in bells (Table 18.2). -/
def ResetScope.bound : ResetScope → Nat
  | .context _ => 40
  | .engine _ _ _ => 400
  | .quarter _ => 1500000
  | _ => 4500000

/-- UKIND of a unit: its row in Table 18.1. -/
def HangUnit.kind : HangUnit → Nat
  | .engine _ .expander _ => 2
  | .engine _ _ _ => 1
  | .job _ => 3
  | .sequencer _ _ => 4
  | .homeAgent _ => 5
  | .switchSlice _ => 6
  | .hbmController _ _ => 7
  | .controlCore _ _ => 8
  | .trustCore _ => 9

/-- Threshold of a unit in bells (Table 18.1). -/
def HangUnit.threshold : HangUnit → Nat
  | .engine _ .expander _ => 4
  | .engine _ _ _ => 2
  | .job _ => 16
  | .sequencer _ _ => 16
  | .homeAgent _ => 32
  | .switchSlice _ => 32
  | .hbmController _ _ => 8
  | .controlCore _ _ => 4
  | .trustCore _ => 4

end Sys2Proof

namespace Sys2Proof.Machine

/-! ### Scopes -/

/-- UNIT of a hang: its number, the queue pair for a job or a sequencer (Table 18.4). -/
def unitNumber (s : State) : HangUnit → Nat
  | .engine q k i => engineTarget q k i
  | .job j => (jobOf s j).elim 0 (·.qp)
  | .sequencer _ qp => qp
  | .homeAgent q => q
  | .switchSlice q => q
  | .hbmController q i => q * 5 + i
  | .controlCore q c => q * 8 + c
  | .trustCore standby => b2n standby

/-- Quarter of a scope inside one. -/
def scopeQuarter (s : State) : ResetScope → Option Nat
  | .context qp => some (Tab.getD s.qps qp {}).quarter
  | .engine q _ _ => some q
  | .quarter q => some q
  | _ => none

/-- Does a scope lie inside another. -/
def insideScope (s : State) (x y : ResetScope) : Bool :=
  x == y || (match y with
    | .power => true
    | .device => x != .power
    | .quarter q => decide (x.level < 3) && scopeQuarter s x == some q
    | _ => false)

/-- Is a scope inside a reset in progress (R464). -/
def suspended (s : State) (x : ResetScope) : Bool := s.rst.running.any (fun r => insideScope s x r.scope)

/-- Quarters of a scope as a mask (QMASK). -/
def scopeMask (s : State) (x : ResetScope) : Nat :=
  match scopeQuarter s x with
  | some q => 2 ^ q
  | none => 15

/-- A record of the reset controller (R478). -/
def resetRecord (s : State) (code : Nat) (p0 p1 p2 p3 : Word) : State :=
  record s { code := code, kind := 0x0C, p0 := p0, p1 := p1, p2 := p2, p3 := p3 }

/-- LEVEL and target (Table 20.9). -/
def levelTarget (x : ResetScope) : Word := pack [(16, x.level), (0, x.target)]

/-- RETRY of ABORTED_RESET (R462). -/
def abortRetry (level : Nat) : Nat := if level = 3 ∨ level = 4 then 255 else 0

/-! ### Quench (R466) -/

/-- Take a request out without an answer. -/
def removeReq (s : State) (r : Req) : State :=
  let s := leaveBuffer s r
  freeTallies { s with home := { s.home with reqs := s.home.reqs.filter (fun o => o.id != r.id) } }

/-- ABORTED_RESET for a request taken out: through its port, or another that leads to its requester. -/
def abortAnswer (s : State) (level : Nat) (r : Req) : State := respond s r ABORTED_RESET (word level) (abortRetry level) [] true

/-- Is a forwarded request still in its egress queue. -/
def stillQueued (s : State) (f : Relay) : Bool := (portOf s f.out).egress.any (carries f)

/-- Requests that a reset of a quarter aborts: those homed there, and those that wait in its buffer. -/
def quarterReqs (s : State) (q : Nat) : List Req :=
  s.home.reqs.filter (fun r => r.q == q || (!r.begun && decide (r.port < 256) && portQuarter r.port == q))

/-- Forwarded requests that wait in a quarter's buffer. -/
def quarterRelays (s : State) (q : Nat) : List Relay := s.fab.relays.filter (fun f => portQuarter f.out == q && stillQueued s f)

/-- ABORTED_RESET for a forwarded request. -/
def abortRelay (s : State) (level : Nat) (f : Relay) : State :=
  endRelay s f ABORTED_RESET (word level) (abortRetry level)

/-- Is there no port left for an answer to a request. -/
def unanswerable (s : State) (r : Req) : Bool :=
  match r.org with
  | .port => !portUp s r.port && (portsTo s r.h.src).isEmpty
  | .forwarded d => !portUp s r.port && (portsTo s d).isEmpty
  | _ => false

/-! ### Commands and claims (R32, R419) -/

/-- Commands not committed that a test picks complete with ABORTED_RESET. -/
def abortWaiting (s : State) (p : Cmd → Bool) : State :=
  each (s.mb.cmds.filter (fun c => c.waiting.isSome && p c)) (fun c s => refuseCmd s c ABORTED_RESET 0 [] true) s

/-- Release the claims that a test picks. -/
def releaseClaims (s : State) (p : ClaimRec → Bool) : State := each ((allClaims s).filter p) (fun r s => dropClaim s r.resource r.object) s

/-- The trust core that serves changes: signing and unsealing commands in flight, ATTEST and SEAL_INSTALL, end with ABORTED_RESET (R21). -/
def trustServes (s : State) (standby : Bool) : State :=
  if s.rst.standby == standby then s
  else abortWaiting { s with rst := { s.rst with standby := standby } } (fun c => c.opc == 0x60 || c.opc == 0x62)

/-! ### Capture (R468 to R470) -/

/-- A dump header. -/
def dumpHeader (s : State) (x : ResetScope) (cause : Nat) (unit : Option HangUnit) (slot : Nat) : Dump :=
  { dseq := s.rst.dseq + 1, bell := s.time.bell, tai := stampAt s.time, level := x.level, cause := cause
    ukind := unit.elim 0 (·.kind), unit := match x with | .context qp => qp | _ => unit.elim 0 (unitNumber s)
    qmask := scopeMask s x, len := min (Config.dumpLen (s.rst.dseq + 1)) slot, trunc := decide (slot < Config.dumpLen (s.rst.dseq + 1))
    fwver := s.sec.running.version }

/-- D4[4:0] of a dump. -/
def Dump.flags (d : Dump) : Nat := b2n d.discard * 16 + b2n d.orderly * 8 + b2n d.trunc * 4 + b2n d.inflash * 2 + b2n d.dirsaved

/-- DUMP_WRITTEN. -/
def dumpRecord (s : State) (d : Dump) (area : Nat) : State := resetRecord s 0x1405 (word d.dseq) (word area) (word d.len) (word d.flags)

/-- Write a quarter's dump: two slots, the newer first. -/
def dumpQuarter (s : State) (q : Nat) (d : Dump) : State :=
  let mine := (s.rst.dumps.filter (·.1 == q)).take 1
  dumpRecord { s with rst := { s.rst with dseq := d.dseq, dumps := (q, d) :: mine ++ s.rst.dumps.filter (·.1 != q) } } d (0x100 + q)

/-- Write the flash summary. -/
def dumpFlash (s : State) (d : Dump) : State :=
  let d := { d with inflash := true }
  dumpRecord { s with rst := { s.rst with dseq := d.dseq, flashDumps := (d :: s.rst.flashDumps).take 2 } } d 0x104

/-- RESET_BEGIN. -/
def resetBegin (s : State) (x : ResetScope) (cause dseq aborted : Nat) : State :=
  resetRecord s 0x1402 (levelTarget x) (word cause) (word dseq) (word aborted)

/-- A reset joins those in progress. -/
def addRun (s : State) (r : ResetRun) : State := { s with rst := { s.rst with running := s.rst.running ++ [r] } }

/-! ### Context and engine reset -/

/-- Jobs of a queue pair end with ABORTED_RESET (Table 18.2). -/
def beginContext (s : State) (qp cause : Nat) (unit : Option HangUnit) : State :=
  let x := ResetScope.context qp
  let jobs := s.eng.jobs.filter (fun j => j.qp == qp)
  let s := { s with rst := { s.rst with dseq := s.rst.dseq + 1 } }
  let s := resetBegin s x cause s.rst.dseq jobs.length
  let s := addRun s { scope := x, cause := cause, unit := unit, begun := s.time.bell, counted := s.time.bell }
  each (jobs.map (·.jobid)) (fun n s => endJob s n ABORTED_RESET 0 0 0) s

/-- Requests that an expander is decoding: expanded reads in service whose block it expands. -/
def decoding (s : State) (q i : Nat) : List Req :=
  s.home.reqs.filter (fun r => r.begun && r.q == q && (match regionOf s r.h.handle with
    | some g => isExpanded g r.opc r.h.raw && expanderOf s q (firstUnit s g (r.h.offset / 4096)) (r.filled.contains (firstOffset s g (r.h.offset / 4096))) == q * 9 + i
    | none => false))

/-- Queries whose work a reset ends leave their shards; the root knows of it by its timeout (R350). -/
def dropQueries (s : State) (p : Index → ShardQuery → Bool) : State :=
  each (s.idx.indexes.flatMap (fun x => (x.queries.filter (p x)).map (fun y => (x.number, y.jobid, y.query)))) (fun (n, j, q) s => dropQuery s n j q) s

/-- Jobs with a portion on an engine end with ABORTED_RESET; an expander's requests likewise (Table 18.2). -/
def beginEngine (s : State) (q : Nat) (k : EngineKind) (i cause : Nat) (unit : Option HangUnit) : State :=
  let x := ResetScope.engine q k i
  let mine := s.eng.portions.filter (fun p => p.quarter == q && p.kind == k && p.index == i)
  let jobs := ((mine.filter (·.shard.isNone)).map (·.jobid)).eraseDups
  let reqs := if k = .expander then decoding s q i else []
  let d := dumpHeader s x cause unit 524288
  let s := resetBegin s x cause d.dseq (jobs.length + reqs.length)
  let s := dumpQuarter s q d
  let s := addRun s { scope := x, cause := cause, unit := unit, begun := s.time.bell, counted := s.time.bell }
  let s := each jobs (fun n s => endJob s n ABORTED_RESET 0 0 0) s
  let s := dropQueries s (fun x y => mine.any (fun p => p.shard == some x.number && p.blocks.any (fun i => shardJob i == y.jobid && shardQuery i == y.query)))
  let s := { s with
    eng := { s.eng with portions := s.eng.portions.filter (fun p => !(p.quarter == q && p.kind == k && p.index == i)) }
    ecx := { s.ecx with held := if k = .expander then s.ecx.held.filter (fun b => b.exp != q * 9 + i) else s.ecx.held } }
  let s := each reqs (fun r s => removeReq s r) s
  each reqs (fun r s => abortAnswer s 2 r) s

/-! ### Quarter reset -/

/-- The dirty lines of a quarter's line cache were not saved: they are lost, and poisoned (R467). -/
def poisonUnsaved (s : State) (q : Nat) : State :=
  let lost := s.tier.lineCache.filter (fun e => e.q == q && e.dirty)
  each lost (fun e s => setPoison s (e.line * 64) 0) { s with tier := { s.tier with lineCache := s.tier.lineCache.filter (fun e => e.q != q) } }

/-- Region records that a quarter's record cache has changed come back from a peer's copy (R475). -/
def recordsSaved (s : State) (q : Nat) : State :=
  let changed := s.tier.recCache.filter (fun e => e.q == q && e.changed)
  { s with tier := { s.tier with
    recTable := changed.foldl (fun t e => match regionOf s e.handle with | some g => Tab.set t e.handle g | none => t) s.tier.recTable
    recCache := s.tier.recCache.filter (fun e => e.q != q) } }

/-- What a quarter's home agent loses: all but what R467 saves. -/
def homeDown (s : State) (q : Nat) (saved : Bool) : State :=
  let s := recordsSaved (if saved then s else poisonUnsaved s q) q
  let settled := fun (e : DirEntry) => if e.q = q ∧ 4 ≤ e.state then dirSettled { e with pend := 0 } else some e
  { s with
    home := { s.home with
      dir := if saved then s.home.dir.filterMap settled else s.home.dir.filter (fun e => e.q != q)
      snoops := s.home.snoops.filter (fun n => n.q != q)
      tallies := s.home.tallies.filter (fun t => t.q != q)
      groups := s.home.groups.filter (fun g => g.q != q)
      offers := s.home.offers.filter (fun e => (regionOf s e.1).all (fun g => g.homeq != q))
      unknown := if saved then s.home.unknown else (q, []) :: s.home.unknown.filter (fun e => e.1 != q) } }

/-- What a quarter's switch slice, expanders, engines and cores lose. -/
def blocksDown (s : State) (q : Nat) : State :=
  { s with
    ecx := { s.ecx with held := s.ecx.held.filter (fun b => b.exp / 9 != q) }
    eng := { s.eng with portions := s.eng.portions.filter (fun p => p.quarter != q), waiting := s.eng.waiting.filter (fun w => portQuarter w.port != q) }
    sw := { s.sw with
      shared := modNth s.sw.shared q (fun _ => []), lowSince := modNth s.sw.lowSince q (fun _ => none)
      refusing := s.sw.refusing.filter (fun e => e.q != q), full := s.sw.full.filter (fun e => e.q != q)
      homeTrees := Tab.erase s.sw.homeTrees q, engTrees := s.sw.engTrees.filter (fun e => e.1 / 3 != q), dealTrees := Tab.erase s.sw.dealTrees q }
    rst := { s.rst with cores := modNth s.rst.cores q (fun _ => {}) } }

/-- The ports of a quarter. -/
def quarterPorts (q : Nat) : List Nat := (List.range 64).map (64 * q + ·)

/-- Beypen ports and CXL links of a quarter go down. -/
def linksDown (s : State) (q : Nat) : State :=
  let s := each (quarterPorts q) (fun p s => if (portOf s p).st = .off then s else dropPort s p .off) s
  each [4 * q, 4 * q + 1, 4 * q + 2, 4 * q + 3] (fun c s => cxlDown s c) s

/-- A roll that was updating a quarter starts it again from its first step (R507). -/
def rollRestart (q : Nat) (r : Roll) : Roll :=
  if rollQuarter r = q ∧ !r.writing then { r with steps := 0, carrying := none, updated := r.updated.filter (fun c => c / 8 != q) } else r

/-- A quarter reset begins: quench, capture, and the quarter is down (R466 to R468). Whether the save of R467 completes is the
hardware's: a free value. -/
def beginQuarter (s : State) (q cause : Nat) (unit : Option HangUnit) (held : Bool) : State :=
  let x := ResetScope.quarter q
  let (w, s) := freeWord s
  let saved := bit w 0
  let s := abortWaiting s (fun c => (servingCore s c.iss.fn).1 == q)
  let s := if q = 0 then trustServes s true else if q = 2 then trustServes s false else s
  let jobs := s.eng.jobs.filter (fun j => j.quarter == q)
  let reqs := quarterReqs s q
  let relays := quarterRelays s q
  let d := { dumpHeader s x cause unit 524288 with dirsaved := saved }
  let s := resetBegin s x cause d.dseq (reqs.length + relays.length)
  -- the older resets inside the scope are part of this one
  let s := { s with rst := { s.rst with running := s.rst.running.filter (fun r => !insideScope s r.scope x) }
                    fab := { s.fab with front := if q = 0 then 2 else s.fab.front } }
  let s := addRun s { scope := x, cause := cause, unit := unit, begun := s.time.bell, counted := s.time.bell, held := held, saved := saved, jobs := jobs }
  let s := { s with eng := { s.eng with jobs := s.eng.jobs.filter (fun j => j.quarter != q) } }
  let s := dropUses s (fun u => jobs.any (fun j => usedBy j.jobid u))
  let s := each reqs (fun r s => removeReq s r) s
  let s := linksDown s q
  let d := { d with discard := reqs.any (unanswerable s) }
  let s := each reqs (fun r s => abortAnswer s 3 r) s
  let s := each relays (fun f s => abortRelay s 3 f) s
  let s := homeDown (blocksDown (dropQueries s (fun x y => mergeQuarter s x == q || (y.tablesIn q).isSome)) q) q saved
  let s := releaseClaims s (fun r => r.quarter == q)
  let s := dumpQuarter s q d
  let s := { s with sec := { s.sec with roll := s.sec.roll.map (rollRestart q) } }
  updPower s (fun p => { p with life := { p.life with quarterResets := up32 p.life.quarterResets } })

/-! ### Device reset -/

/-- What the state area of the flash gives back: identity, members, CSEQ, the map epoch; a device with DVALID starts fenced (R431, R473). -/
def restoreDomain (s : State) : State :=
  let f := s.pkg.flash
  { s with
    dom := { devid := f.devid, dvalid := f.dvalid, domain := f.domain, members := f.members, cseq := f.cseq, fenced := f.dvalid }
    maps := { cur := { epoch := f.epoch }, meters := s.maps.meters, closed := s.maps.closed }
    sec := { s.sec with aliasGen := f.aliasGen } }

/-- The device with its reset asserted: only the always-on block, the meters (R111), the flash, permanent repairs and what is to be
retired stay (Table 18.2, R191, R215, R473). -/
def assertDevice (s : State) : State :=
  restoreDomain { State.reset with
    time := s.time
    led := s.led
    pwr := { s.pwr with level := 0 }
    pkg := { s.pkg with ready := false, phase := 3, recovery := false, failChk := 0 }
    rst := { s.rst with cores := [{}, {}, {}, {}], watch := [0, 0, 0, 0], dumps := [], detectors := [], standby := false, due := none, flushing := none }
    tier := { repaired := s.tier.repaired, badBanks := s.tier.badBanks, retired := s.tier.retired
              held := s.tier.held ++ (s.tier.drains.filter (·.retire)).map (fun d => (d.q, d.stack, d.pc)) }
    maps := { meters := s.maps.meters, closed := s.maps.closed }
    sec := { minSvn := s.sec.minSvn, running := s.sec.running, era := s.sec.era + 1 }
    free := s.free
    pending := s.pending }

/-- Every request, job and command ends with ABORTED_RESET while ports are up (Table 18.2, R419, R466). -/
def quenchDevice (s : State) (level : Nat) : State :=
  let reqs := s.home.reqs
  let s := each reqs (fun r s => removeReq s r) s
  let s := each reqs (fun r s => abortAnswer s level r) s
  let s := each s.fab.relays (fun f s => abortRelay s level f) s
  let s := each (s.eng.jobs.map (·.jobid)) (fun n s => endJob s n ABORTED_RESET 0 0 0) s
  let s := each (s.rst.running.flatMap (·.jobs)) (fun j s => completeJob (endRecord s j ABORTED_RESET) j ABORTED_RESET true 0 0 0) s
  let s := abortWaiting s (fun _ => true)
  each (s.mb.cmds.filter (·.drain.isSome)) (fun c s => endCmd s c.number ABORTED_RESET s.time.bell []) s

/-- A power cycle answers nothing: requests, jobs and commands lapse (Table 18.2, R85). -/
def lapseAll (s : State) : State :=
  let s := each s.home.reqs (fun r s => removeReq s r) s
  { s with
    fab := { s.fab with relays := [] }
    eng := { s.eng with jobs := [], portions := [], access := [] }
    mb := { s.mb with cmds := [] } }

/-- Dumps of a device reset: each quarter's to HBM, a summary to the flash. -/
def captureDevice (s : State) (x : ResetScope) (cause : Nat) (unit : Option HangUnit) (discard : Bool) : State :=
  let s := each [0, 1, 2, 3] (fun q s => dumpQuarter s q (dumpHeader s x cause unit 524288)) s
  dumpFlash s { dumpHeader s x cause unit 16384 with discard := discard }

/-- The dump of a device reset says that its flush completed (D4[3]). -/
def markOrderly (s : State) : State :=
  { s with rst := { s.rst with
    running := s.rst.running.map (fun r => { r with orderly := true })
    flashDumps := match s.rst.flashDumps with | d :: rest => { d with orderly := true } :: rest | [] => [] } }

/-- Start a device reset or a power cycle: quench, which for a power cycle answers nothing, and capture; then the flush of an orderly one, or the reset itself. A reset that
meets a flash operation waits for it (R555). -/
def beginDevice (s : State) (x : ResetScope) (cause : Nat) (unit : Option HangUnit) (orderly : Bool) : State :=
  let reqs := s.home.reqs
  let discard := x != .power && reqs.any (unanswerable s)
  let n := if x = .power then 0 else reqs.length + s.fab.relays.length
  let s := if x = .power then lapseAll s else quenchDevice s 4
  let s := resetBegin s x cause (s.rst.dseq + 5) n
  let s := captureDevice s x cause unit discard
  let s := releaseClaims s (fun _ => true)
  let busy := s.pkg.flash.busy
  let s := { s with rst := { s.rst with running := [{ scope := x, cause := cause, unit := unit, begun := s.time.bell, counted := s.time.bell, held := busy }] } }
  let s := updPower s (fun p => { p with life := { p.life with deviceResets := up32 p.life.deviceResets } })
  if orderly then
    let s := { s with rst := { s.rst with flushing := some s.time.bell, due := none } }
    settleAll (each s.tier.frames (fun f s => each f.dirty (fun d s => writeBack s f d.1) s) s)
  else assertDevice s

/-- Regions of TIER 1 for the catalogues (R472). -/
def catalogue (s : State) : List Region := (s.regs.recs.map (·.2)).filter (fun g => g.tier == 1)

/-- The flush of an orderly reset has written every dirty line: journal, checkpoint and catalogues follow, and the reset (R472,
R499, R519, R523). -/
def flushEnds (s : State) : State :=
  if s.rst.flushing.isNone || s.tier.frames.any (fun f => !f.dirty.isEmpty) then s
  else
    let flash := { s.pkg.flash with
      catalogue := catalogue s, issued := s.regs.issued.filter (fun e => (catalogue s).any (fun g => g.handle == e.1))
      keysWrapped := (catalogue s).foldl (fun t g => Tab.set t g.comp (Tab.getD s.sec.memKeys g.comp (s.sec.era, 0))) [] }
    let s := { s with pkg := { s.pkg with flash := flash } }
    let s := checkpoint s
    let s := journalAll (s.led.pend.length + 1) s
    let s := markOrderly { s with rst := { s.rst with flushing := none, running := s.rst.running.map (fun r => { r with counted := s.time.bell }) } }
    if s.rst.running.any (fun r => r.scope == .power) then s else assertDevice s

/-- A flush unfinished after 10 s is abandoned: the reset proceeds as not orderly (R472). -/
def flushAbandoned (s : State) : State :=
  match s.rst.flushing with
  | some b =>
    if since s b < 10000000 then s
    else
      let s := { s with rst := { s.rst with flushing := none, running := s.rst.running.map (fun r => { r with counted := s.time.bell }) } }
      if s.rst.running.any (fun r => r.scope == .power) then s else assertDevice s
  | none => s

def execOrderlyFlushAbandoned (s : State) : Host.Outcome State Fault Refusal := done s (flushAbandoned s)

/-! ### Beginning a reset (R464) -/

/-- ESCALATED: level from and to, and 1 overrun, 2 recurrence, 3 second quarter. -/
def escalatedRecord (s : State) (x y : ResetScope) (cause : Nat) : State := resetRecord s 0x1404 (pack [(8, y.level), (0, x.level)]) (word cause) 0 0

/-- Begin a reset of a scope that no reset in progress covers. A second quarter brings the device down. -/
def beginReset (s : State) (x : ResetScope) (cause : Nat) (unit : Option HangUnit) (held : Bool) : State :=
  if suspended s x then s
  else match x with
    | .context qp => beginContext s qp cause unit
    | .engine q k i => beginEngine s q k i cause unit
    | .quarter q =>
      if s.rst.running.any (fun r => r.scope.level == 3) then beginDevice (escalatedRecord s x .device 3) .device 7 unit false
      else beginQuarter s q cause unit held
    | .device => beginDevice s .device cause unit false
    | .power => beginDevice s .power cause unit false

/-- The scope of the next level (R461): a context goes to the engine that has a portion of its jobs, else to its quarter. -/
def nextScope (s : State) (x : ResetScope) : ResetScope :=
  match x with
  | .context qp =>
    match s.eng.portions.find? (fun p => (jobOf s p.jobid).any (fun j => j.qp == qp)) with
    | some p => .engine p.quarter p.kind p.index
    | none => .quarter (Tab.getD s.qps qp {}).quarter
  | .engine q _ _ => .quarter q
  | .quarter _ => .device
  | _ => .power

/-! ### Power cycles (R474, R560, R561) -/

/-- Ask for a power cycle: PCYC is counted first; after two without READY no more is asked for. -/
def askPower (s : State) (cause : Nat) : State :=
  if s.pkg.pwrcycReq.isSome || s.pkg.halted then s
  else if 2 ≤ s.pkg.flash.pcyc then { s with pkg := { s.pkg with halted := true } }
  else
    let s := { s with pkg := { s.pkg with pwrcycReq := some s.time.bell, flash := { s.pkg.flash with pcyc := s.pkg.flash.pcyc + 1 } } }
    resetRecord s 0x1406 (word cause) (word s.pkg.flash.pcyc) 0 0

/-- Has a reset outlasted its bound. -/
def overrun (s : State) (r : ResetRun) : Bool := !r.held && decide (r.scope.bound < since s r.counted)

/-- PWRCYC_REQ: a device reset has not ended within its bound, or a power cycle has flushed. -/
def powerDue (s : State) : State :=
  match s.rst.running.find? (fun r => r.scope == .power || (r.scope == .device && overrun s r)) with
  | some r => if s.rst.flushing.isSome then s else askPower s (if r.scope = .power ∧ r.orderly then 1 else 2)
  | none => s

def execPwrcycReq (s : State) : Host.Outcome State Fault Refusal := done s (powerDue s)

/-- PWRCYC_TIMEOUT: the input has not fallen 10 s after the request (R561). -/
def powerTimeout (s : State) : State :=
  match s.pkg.pwrcycReq with
  | some b =>
    if since s b < 10000000 then s
    else resetRecord { s with pkg := { s.pkg with pwrcycReq := none, halted := true } } 0x1406 3 (word s.pkg.flash.pcyc) 0 0
  | none => s

def execPwrcycTimeout (s : State) : Host.Outcome State Fault Refusal := done s (powerTimeout s)

/-- ESCALATED: a reset has not ended within its bound and the next level takes over (R461). -/
def escalate (s : State) (x : ResetScope) : State :=
  match s.rst.running.find? (fun r => r.scope == x) with
  | none => s
  | some r =>
    if !overrun s r || 4 < x.level then s
    else
      let y := nextScope s x
      let s := escalatedRecord s x y 1
      if x = .device then
        askPower { s with rst := { s.rst with running := s.rst.running.map (fun e => if e.scope == x then { e with scope := .power } else e) } } 2
      else
        let s := { s with rst := { s.rst with running := s.rst.running.filter (fun e => e.scope != x || x.level == 3) } }
        match y with
        | .device => beginDevice s .device 4 r.unit false
        | y => beginReset s y 4 r.unit false

def execEscalated (scope : ResetScope) (s : State) : Host.Outcome State Fault Refusal := done s (escalate s scope)

/-! ### Control and trust cores (R20, R21, R579) -/

/-- Position of a core among the active ones. -/
def positionOf (k : CoreS) (core : Nat) : Option Nat := (List.range k.active.length).find? (fun i => nth k.active i == core)

/-- The trust cores change over: requests in flight end with ABORTED_RESET. -/
def trustChange (s : State) : State := trustServes s !s.rst.standby

/-- The spare core of a quarter is in use, or out of service, from now on: claim 0x0E. -/
def claimSpare (s : State) (q core : Nat) : State :=
  makeClaim s { resource := 0x0E, object := q * 8 + core, bell := s.time.bell, quarter := q }

/-- A quarter has a spare core again: its claim 0x0E is released. -/
def freeSpare (s : State) (q : Nat) : State := releaseClaims s (fun r => r.resource == 0x0E && r.object / 8 == q)

/-- A control core fails: its claims are released and its duties move to the spare, which is claimed; so is a spare that fails itself
(DESIGN CHOICE, log 166). With no spare to move to the quarter is reset, whatever has the spare in use: R20 names the case of a failed
core's duties only (DESIGN CHOICE, log 166). -/
def coreFails (s : State) (q core : Nat) (unit : Option HangUnit) : State :=
  let k := coresOf s q
  if quarterInReset s q || k.halted.any (fun h => h.1 == core) || k.failed.contains core then s
  else match positionOf k core, k.spare with
    | some pos, some sp =>
      let s := abortWaiting s (fun c => servingCore s c.iss.fn == (q, core))
      let s := releaseClaims s (fun r => r.quarter == q && r.core == core)
      claimSpare (updCores s q (fun k => { k with active := modNth k.active pos (fun _ => sp), spare := none, failed := k.failed ++ [core] })) q sp
    | some _, none => beginReset s (.quarter q) 1 unit false
    | none, some sp =>
      let s := updCores s q (fun k => { k with spare := if sp = core then none else some sp, failed := k.failed ++ [core] })
      if sp = core then claimSpare s q core else s
    | none, none => updCores s q (fun k => { k with failed := k.failed ++ [core] })

def execCoreHealthFail (q core : Nat) (s : State) : Host.Outcome State Fault Refusal := done s (coreFails s q core (some (.controlCore q core)))

/-- A core passes its health check: a core that was halted takes its duties back and frees the spare, one that failed becomes the
spare (R20, Table 1.7). -/
def corePasses (s : State) (q core : Nat) : State :=
  let k := coresOf s q
  if !k.failed.contains core then s
  else match k.halted.find? (fun h => h.1 == core) with
    | some (_, some sp) =>
      let s := updCores s q (fun k => { k with
        active := k.active.map (fun c => if c = sp then core else c), spare := some sp, failed := k.failed.filter (· != core)
        halted := k.halted.filter (fun h => h.1 != core) })
      freeSpare s q
    | _ =>
      let s := updCores s q (fun k => { k with
        spare := if k.spare.isNone then some core else k.spare, failed := k.failed.filter (· != core), halted := k.halted.filter (fun h => h.1 != core) })
      if k.spare.isNone then freeSpare s q else s

def execCoreHealthCheckPassed (q core : Nat) (s : State) : Host.Outcome State Fault Refusal := done s (corePasses s q core)

/-- A core is halted for debug, its duties on the spare; a resumed core restarts and waits for its check (Table 1.7). -/
def haltCore (s : State) (q core : Nat) (on : Bool) : State :=
  let k := coresOf s q
  if on then
    match positionOf k core with
    | some pos => updCores s q (fun k => { k with
        active := match k.spare with | some sp => modNth k.active pos (fun _ => sp) | none => k.active
        spare := none, halted := k.halted ++ [(core, k.spare)] })
    | none => updCores s q (fun k => { k with spare := if k.spare = some core then none else k.spare, halted := k.halted ++ [(core, none)] })
  else updCores s q (fun k => { k with failed := addOnce k.failed core })

/-! ### Hangs (R458 to R461) -/

/-- The reset that a hang of a unit calls for (Table 18.1); none for control and trust cores. -/
def hangScope (s : State) : HangUnit → Option ResetScope
  | .engine q k i => some (.engine q k i)
  | .job j => (jobOf s j).map (fun j => .context j.qp)
  | .sequencer _ qp => some (.context qp)
  | .homeAgent q => some (.quarter q)
  | .switchSlice q => some (.quarter q)
  | .hbmController q _ => some (.quarter q)
  | _ => none

/-- Does a unit exist, work and stand outside every reset in progress. -/
def hangable (s : State) (u : HangUnit) : Bool :=
  match u with
  | .controlCore q c => !suspended s (.quarter q) && !(coresOf s q).halted.any (fun h => h.1 == c)
  | .trustCore standby => !suspended s .device && !quarterInReset s (if standby then 2 else 0)
  | .sequencer q qp => let c := Tab.getD s.qps qp {}; c.state != 0 && c.quarter == q && !suspended s (.context qp)
  | u => (hangScope s u).any (fun x => !suspended s x)

/-- The progress counter of a unit (R458, Table 18.1). -/
def progressOf (s : State) : HangUnit → Word
  | .engine q .expander i => word (Tab.getD s.ecx.ended (q * 9 + i) 0)
  | .engine q k i => word (Tab.getD s.eng.work (engineTarget q k i) 0)
  | .job j => word ((jobOf s j).elim 0 (·.steps))
  | .sequencer _ qp => let c := Tab.getD s.qps qp {}; word (c.sqhead + c.cqtail)
  | .homeAgent q => word (Tab.getD s.home.served q 0)
  | .switchSlice q => word (Tab.getD s.sw.grants q 0)
  | .hbmController q i => word (Tab.getD s.tier.hbmOps (q * 5 + i) 0)
  | .controlCore q c => word (Tab.getD s.rst.beats (q * 8 + c) 0)
  | .trustCore standby => word (Tab.getD s.rst.beats (32 + b2n standby) 0)

/-- The pending flag of a unit: it holds work that it can go on with now, so that it waits on nothing outside itself (R458). An HBM
controller completes an operation in the step that asks for it, and a control core and a trust core are never done. -/
def pendingOf (s : State) : HangUnit → Bool
  | .engine q .expander i => (decoding s q i).any (fun r => (advance s r).isSome)
  | .engine q k i => s.eng.portions.any (fun p => p.quarter == q && p.kind == k && p.index == i)
  | .job j => s.eng.portions.any (fun p => p.jobid == j)
  | .sequencer _ qp => (takeOne s qp).1
  | .homeAgent q => s.home.reqs.any (fun r => r.begun && r.q == q && (advance s r).isSome) || (beginNext s q).isSome
  | .switchSlice q => s.ports.any (fun e => portQuarter e.1 == q && (pumpOne s e.1).isSome)
  | .hbmController _ _ => false
  | .controlCore q c => !(coresOf s q).halted.any (fun h => h.1 == c)
  | .trustCore _ => true

/-- The units of Table 18.1 that can have work. -/
def units (s : State) : List HangUnit :=
  (s.eng.portions.map (fun p => HangUnit.engine p.quarter p.kind p.index)).eraseDups ++ s.eng.jobs.map (fun j => .job j.jobid)
    ++ (s.qps.filter (fun e => e.2.state != 0)).map (fun e => .sequencer e.2.quarter e.1)
    ++ ([0, 1, 2, 3].flatMap (fun q => (List.range 9).map (fun i => HangUnit.engine q .expander i) ++ [.homeAgent q, .switchSlice q]
      ++ (List.range 5).map (fun i => .hbmController q i) ++ (List.range 8).map (fun c => .controlCore q c)))
    ++ [.trustCore false, .trustCore true]

/-- Action 2: the progress counters of the units that are pending are latched; the detectors of units inside a reset are suspended
(R458, R464). -/
def latchUnits (s : State) : State :=
  { s with rst := { s.rst with latched := ((units s).filter (fun u => hangable s u && pendingOf s u)).map (fun u => (u, progressOf s u)) } }

/-- HANG_DETECTED: recorded with the bells it has been stalled, and the unit's action begins; a unit that hangs again within 10,000
bells of the end of its reset brings the next level (R459, R461). -/
def hang (s : State) (u : HangUnit) (stalled : Nat) : State :=
  if !hangable s u then s
  else
    let s := resetRecord s 0x1401 (pack [(16, unitNumber s u), (8, u.kind)]) (word u.threshold) (progressOf s u) (word stalled)
    let s := { s with rst := { s.rst with detectors := s.rst.detectors.filter (fun d => d.unit != u) } }
    match u with
    | .controlCore q c => coreFails s q c (some u)
    | .trustCore standby => if standby == s.rst.standby then trustChange s else s
    | u => match hangScope s u with
      | none => s
      | some x =>
        if s.rst.ended.any (fun e => e.1 == u && decide (since s e.2 ≤ 10000)) then
          let y := nextScope s x
          beginReset (escalatedRecord s x y 2) y 6 (some u) false
        else beginReset s x 1 (some u) false

/-- The detector of a unit, as at the latest strike. -/
def detectorOf (s : State) (u : HangUnit) : Option Detector := s.rst.detectors.find? (fun d => d.unit == u)

/-- Action 8: a unit pending at both strikes whose counter did not change has been stalled one bell more (R458); at its threshold it is
hung (R459). -/
def compareUnits (s : State) : State :=
  let next := s.rst.latched.map (fun l => ({
    unit := l.1, progress := l.2
    stalled := match detectorOf s l.1 with | some d => if d.pending ∧ d.progress = l.2 then d.stalled + 1 else 0 | none => 0 } : Detector))
  let hung := next.filter (fun d => decide (d.unit.threshold ≤ d.stalled))
  each hung (fun d s => hang s d.unit d.stalled) { s with rst := { s.rst with detectors := next, latched := [] } }

/-- Action 8 is abandoned: the next comparison is with this strike's indicators, and no run of stalled bells grows or ends (R41, R459). -/
def skipCompare (s : State) : State :=
  let next := s.rst.latched.map (fun l => ({ unit := l.1, progress := l.2, stalled := (detectorOf s l.1).elim 0 (·.stalled) } : Detector))
  let idle := (s.rst.detectors.filter (fun d => !s.rst.latched.any (fun l => l.1 == d.unit))).map (fun d => { d with pending := false })
  { s with rst := { s.rst with detectors := next ++ idle, latched := [] } }

/-- HANG_DETECTED from outside: the unit has stopped with work in hand, for its threshold of bells (log 109). -/
def execHangDetected (u : HangUnit) (s : State) : Host.Outcome State Fault Refusal := done s (hang s u u.threshold)

/-- WATCHDOG_EXPIRY: 64 bells without a heartbeat of any active core reset the quarter (R460). -/
def execWatchdogExpiry (q : Nat) (s : State) : Host.Outcome State Fault Refusal := done s (if q < 4 then beginReset s (.quarter q) 5 none false else s)

/-! ### Trips (R536) -/

/-- A trip resets its quarter, which stays held until it has cooled; one in a second quarter resets the device. -/
def tripSet (s : State) (place : ThermalPlace) (temp : Nat) : State :=
  if temp < limitOf place 105 ∨ s.pwr.trip.contains place then s
  else
    let q := placeQuarter place
    let s := updPower s (fun p => { p with
      trip := p.trip ++ [place], statusTemp := p.statusTemp ||| 0x80#8, life := { p.life with trips := up32 p.life.trips } })
    let s := powerRecord s 0x1606 (placeWord place) (word temp) (word q) 0
    if s.rst.running.any (fun r => r.scope == .quarter q) then
      { s with rst := { s.rst with running := adjustWhere s.rst.running (fun r => r.scope == .quarter q) (fun r => { r with held := true }) } }
    else beginReset s (.quarter q) 3 none true

def execThermalTrip (place : ThermalPlace) (temp : Nat) (s : State) : Host.Outcome State Fault Refusal := done s (tripSet s place temp)

/-- Every sensor of a tripped quarter is below its clear level: the held reset proceeds, its bound counted from now. -/
def tripCleared (s : State) (q : Nat) : State :=
  if !s.pwr.trip.any (fun p => placeQuarter p == q) then s
  else
    let s := updPower s (fun p => { p with trip := p.trip.filter (fun x => placeQuarter x != q) })
    { s with rst := { s.rst with running := adjustWhere s.rst.running (fun r => r.scope == .quarter q) (fun r => { r with held := false, counted := s.time.bell }) } }

def execTripCleared (q : Nat) (s : State) : Host.Outcome State Fault Refusal := done s (tripCleared s q)

/-! ### The end of a reset (R462, R463, R473, R475) -/

/-- Ports of a quarter that the configuration enables go to DETECT. -/
def portsStart (s : State) (ports : List Nat) : State :=
  each ports (fun p s => if (portOf s p).enabled && (portOf s p).st == .off && !oddHalf s p then enterState s p .detect else s) s

/-- What a reset ended: its run goes, its cause is kept for R461, the drains of RESETs inside it complete. -/
def endRun (s : State) (r : ResetRun) (out : Nat) : State :=
  let s := { s with rst := { s.rst with
    running := s.rst.running.filter (fun e => e.scope != r.scope)
    detectors := s.rst.detectors.filter (fun d => some d.unit != r.unit)
    ended := (match r.unit with | some u => [(u, s.time.bell)] | none => []) ++ s.rst.ended.filter (fun e => some e.1 != r.unit) } }
  let s := resetRecord s 0x1403 (levelTarget r.scope) (word (since s r.begun)) (word out) 0
  endDrains s (fun d => match d with | .reset x => insideScope s x r.scope | _ => false) OK s.time.bell []

/-- A number of a self-test list: KIND × 64 + INDEX. -/
def testedEngine (n : Nat) : Option (EngineKind × Nat) :=
  (engineKind (n / 64)).bind (fun k => if n % 64 < k.count then some (k, n % 64) else none)

/-- An engine reset ends: an engine that fails its self-test stays out of service. -/
def endEngine (s : State) (r : ResetRun) (q : Nat) (k : EngineKind) (i : Nat) (failed : List Nat) : State :=
  let out := failed.contains (k.number * 64 + i)
  let s := endRun s r (b2n out)
  if out then { s with eng := { s.eng with failed := addOnce s.eng.failed (q, k, i) } } else s

/-- What the queue pairs of a quarter do when it is ready: FINAL for each job that was in progress, the doorbells rung meanwhile,
and on they go (R410). -/
def resumeQueues (s : State) (q : Nat) (jobs : List Job) : State :=
  let s := each jobs (fun j s => completeJob (endRecord s j ABORTED_RESET) j ABORTED_RESET true 0 0 0) s
  each ((s.qps.filter (fun e => e.2.quarter == q && e.2.state != 0)).map (fun e => (e.1, e.2.rung))) (fun e s =>
    takeSubmissions (ring (updQp s e.1 (fun c => { c with rung := (0, 0) })) e.1 e.2.1 e.2.2) e.1) s

/-- A quarter is ready. -/
def endQuarter (s : State) (r : ResetRun) (q : Nat) (failed : List Nat) : State :=
  let bad := failed.filterMap testedEngine
  let s := endRun s r bad.length
  let s := { s with
    eng := { s.eng with failed := s.eng.failed.filter (fun f => f.1 != q) ++ bad.map (fun e => (q, e.1, e.2)) }
    fab := { s.fab with front := if q = 0 then 0 else s.fab.front } }
  let s := if q = 0 then trustServes s false else s
  let s := portsStart s (quarterPorts q)
  runEngines (resumeQueues s q r.jobs)

/-- Failing check of R500 for the flash image, 0 for none. -/
def imageCheck (s : State) : Nat := if s.pkg.flash.image.fails ≠ 0 then s.pkg.flash.image.fails else if s.pkg.flash.image.svn < s.sec.minSvn then 5 else 0

/-- The flash image fails: the boot ROM records it and waits for an image from the host die (R501, R566). -/
def enterRecovery (s : State) : State :=
  let n := imageCheck s
  let s := { s with pkg := { s.pkg with recovery := true, failChk := n, rcvState := 0, rcvFail := 0, rcvProgress := 0, phase := 3 } }
  trustRecord s 0x1508 0 0 (word n) (word s.pkg.flash.image.version) 0 0

/-- A catalogued region as it is re-created: VALID, OWNER, OWNEP and VERSION kept, both key slots FREE (R473). -/
def recreated (s : State) (g : Region) : Region :=
  { g with slotA := {}, slotB := {}, fenced := s.dom.fenced, moving := false, dying := false, valid := true, created := s.time.bell, princ := 0 }

/-- Re-create the catalogued regions whose trays are up; the catalogues are then used up. -/
def readCatalogues (s : State) : State :=
  let gs := s.pkg.flash.catalogue.filter (fun g => g.place.all (fun r => (cxlOf s r.loc).up))
  let s := each gs (fun g s => putRegion s (recreated s g)) s
  { s with
    regs := { s.regs with issued := s.pkg.flash.issued }
    sec := { s.sec with memKeys := s.pkg.flash.keysWrapped }
    pkg := { s.pkg with flash := { s.pkg.flash with catalogue := [], issued := [], keysWrapped := [] } } }

/-- Ports as the state area has them; all enabled where it has none (R429, R565). -/
def restorePorts (s : State) : State :=
  each (List.range 256) (fun p s =>
    let c := Tab.getD s.pkg.flash.ports p (true, false, 10)
    updPort s p (fun ps => { ps with enabled := c.1, gang := c.2.1, setWindow := c.2.2, window := c.2.2, width := if c.2.1 then 8 else 4 })) s

/-- READY (R473, R563, R564): regions re-created, ports to DETECT, PCYC cleared, the older dump erased. -/
def becomeReady (s : State) : State :=
  let s := readCatalogues s
  let s := portsStart (restorePorts s) (List.range 256)
  { s with
    pkg := { s.pkg with ready := true, phase := 15, recovery := false, failChk := 0, hold := false, flash := { s.pkg.flash with pcyc := 0 } }
    rst := { s.rst with flashDumps := s.rst.flashDumps.take 1 } }

/-- Phase 4 of a cold start: the state area is restored and BELL set to the checkpoint plus 2^30; the new BELL is written as a
checkpoint, so that a loss of power soon after does not bring it back (R37, R55, R565; DEDUCED, log 25). -/
def restoreCold (s : State) : State :=
  if !s.pkg.cold then s
  else
    let f := s.pkg.flash
    let bell := f.bell + word (2 ^ 30)
    let life := { f.life with powerCycles := up32 f.life.powerCycles }
    let s := { s with
      time := { s.time with bell := bell, bellStrike := bell, taiStrike := stampAt { s.time with bell := bell, phase := 0 }, phase := 0, powered := f.powered + s.time.powered }
      pwr := { s.pwr with life := life, lastTick := f.powered }
      pkg := { s.pkg with cold := false, flash := { f with bell := bell, life := life, fresh := false } } }
    restoreDomain s

/-- A device reset ends: with an image that verifies the device is ready, else it recovers (R501). -/
def endDevice (s : State) (r : ResetRun) (failed : List Nat) : State :=
  let bad := failed.filterMap (fun n => (testedEngine (n % 1024)).map (fun e => (n / 1024, e.1, e.2)))
  if imageCheck s ≠ 0 then enterRecovery { s with rst := { s.rst with running := [] } }
  else
    let s := endRun (restoreCold s) r bad.length
    becomeReady { s with eng := { s.eng with failed := bad }, sec := { s.sec with running := s.pkg.flash.image } }

/-- RESET_END: a reset that is not held and within its bound is complete. -/
def resetEnds (s : State) (x : ResetScope) (failed : List Nat) : State :=
  match s.rst.running.find? (fun r => r.scope == x) with
  | none => s
  | some r =>
    if r.held || overrun s r || s.rst.flushing.isSome then s
    else match x with
      | .context _ => runEngines (endRun s r 0)
      | .engine q k i => settleAll (endEngine s r q k i failed)
      | .quarter q => settleAll (endQuarter s r q failed)
      | .device => if s.pkg.halted then s else endDevice s r failed
      | .power => s

def execResetEnd (scope : ResetScope) (selfTestFailed : List Nat) (s : State) : Host.Outcome State Fault Refusal := done s (resetEnds s scope selfTestFailed)

/-! ### RESET_N and the flash (R465, R555, R559) -/

/-- Release resets of the whole device that were held, their bound counted from now. -/
def releaseHeldResets (s : State) : State :=
  { s with rst := { s.rst with running := adjustWhere s.rst.running (fun r => decide (4 ≤ r.scope.level) && r.held) (fun r => { r with held := false, counted := s.time.bell }) } }

/-- RESET_N has been low for 10 µs: a device reset without quench, capture or flush, held while it stays low; during start-up the
device is held at the end of phase 2. -/
def resetPin (s : State) (us : Nat) : State :=
  if us < 10 ∨ !s.pkg.powered ∨ s.pkg.resetLow then s
  else
    let s := { s with pkg := { s.pkg with resetLow := true } }
    if !s.pkg.ready ∧ s.rst.running.isEmpty then
      if s.pkg.phase ≤ 2 then s else { s with pkg := { s.pkg with phase := 2, hold := true, recovery := false, failChk := 0 } }
    else
      let s := { s with rst := { s.rst with dseq := s.rst.dseq + 1 } }
      let s := resetBegin s .device 2 s.rst.dseq 0
      let s := releaseClaims s (fun _ => true)
      let s := { s with rst := { s.rst with running := [{ scope := .device, cause := 2, begun := s.time.bell, counted := s.time.bell, held := true }] } }
      let s := updPower s (fun p => { p with life := { p.life with deviceResets := up32 p.life.deviceResets } })
      assertDevice s

def execResetN (microseconds : Nat) (s : State) : Host.Outcome State Fault Refusal := done s (resetPin s microseconds)

/-- RESET_N rises: a held start-up resumes at phase 3, a held reset goes on, unless the flash is still at work. -/
def resetRelease (s : State) : State :=
  if !s.pkg.resetLow then s
  else
    let s := { s with pkg := { s.pkg with
      resetLow := false, hold := false, phase := if s.pkg.hold then 3 else s.pkg.phase, tap := if 1 ≤ s.pkg.tap ∧ s.pkg.tap ≤ 3 then 0 else s.pkg.tap } }
    if s.pkg.flash.busy then s else releaseHeldResets s

def execResetNRelease (s : State) : Host.Outcome State Fault Refusal := done s (resetRelease s)

/-- FLASH_OP_DONE: the operation that a reset waited for has finished (R555). A write that still has its roll or its recovery ends
with FW_FLASH_WRITE_DONE instead. -/
def flashDone (s : State) : State :=
  if !s.pkg.flash.busy ∨ s.sec.roll.any (·.writing) ∨ (s.pkg.recovery ∧ s.pkg.rcvState = 3) then s
  else
    let s := { s with pkg := { s.pkg with flash := { s.pkg.flash with busy := false } } }
    if s.pkg.resetLow then s else releaseHeldResets s

def execFlashOpDone (s : State) : Host.Outcome State Fault Refusal := done s (flashDone s)

end Sys2Proof.Machine
end

