-- ==== Sys2Proof/Machine/Package.lean ====
section
/-! DEFINITION. Start-up, loss of power, recovery, time sources, management buses and JTAG (R47 to R50, R526, R547 to R567). -/

namespace Sys2Proof.Machine

/-! ### Cold start (R521, R563) -/

/-- The rings of Table 20.4. -/
def allRings : List Nat := [0, 1, 2, 3, 0x10, 0x11, 0x12, 0x13]

/-- The count at which a ring resumes: the first multiple of 4,096 that lies more than 4,096 above its last journalled count. -/
def resumeCount (last : Nat) : Nat := ((last + 4096) / 4096 + 1) * 4096

/-- A ring resumes from the journal, with CHAIN_BREAK as its first record (R521). A ring of which nothing is journalled starts at 0,
or at 4,096 when it may have been used (DESIGN CHOICE, log 26). -/
def resumeRing (s : State) (ring : Nat) : State :=
  match (s.led.journalOf ring).foldl (fun m r => some (max r.count (m.getD 0))) (none : Option Nat) with
  | none => { s with led := { s.led with rings := Tab.set s.led.rings ring { next := if s.pkg.flash.fresh then 0 else 4096 } } }
  | some last =>
    let l := { s.led with rings := Tab.set s.led.rings ring { next := resumeCount last }
                          chain := if ring = 0x10 then s.led.chainJournalled else s.led.chain }
    { s with led := l.put s.time.bell ring {
        code := 0x1704, kind := 0x0F, quarter := if ring < 4 then ring else 0, sev := sevOf 0x1704, time := stampAt s.time
        p0 := word ring, p1 := word last, p2 := if ring = 0x10 then wordAt l.chainNow 0 else 0 } }

/-- COLD_START: the input enters range. -/
def coldBegin (s : State) : State :=
  if s.pkg.powered then s
  else checkFull (each allRings (fun r s => resumeRing s r) { s with pkg := { s.pkg with powered := true, cold := true, phase := 1 } })

def execColdStart (s : State) : Host.Outcome State Fault Refusal := done s (coldBegin s)

/-- Phase 2 ends: the straps are latched; RESET_N low holds the device here (R547, R559). -/
def latchStraps (s : State) (r : PhaseReport) : State :=
  let k := { s.pkg with addr := r.addr % 16, testMode := r.testMode }
  { s with pkg := if k.resetLow then { k with hold := true } else { k with phase := 3 } }

/-- Phase 3 ends: the image verifies, or recovery begins (R501, R566). -/
def bootImage (s : State) : State :=
  if imageCheck s ≠ 0 then enterRecovery s
  else { s with sec := { s.sec with running := s.pkg.flash.image }, pkg := { s.pkg with phase := 4, rcvState := 0 } }

/-- STARTUP_PHASE_END (Table 22.7). TESTMODE keeps the device in manufacturing test; recovery waits for its image. -/
def phaseEnds (s : State) (r : PhaseReport) : State :=
  let next := fun (s : State) => { s with pkg := { s.pkg with phase := s.pkg.phase + 1 } }
  if !s.pkg.powered ∨ s.pkg.ready ∨ !s.rst.running.isEmpty ∨ s.pkg.recovery ∨ s.pkg.hold ∨ (s.pkg.testMode ∧ 3 ≤ s.pkg.phase) then s
  else match s.pkg.phase with
    | 1 => next s
    | 2 => latchStraps s r
    | 3 => bootImage s
    | 4 => next (restoreCold s)
    | 6 => next { s with tier := { s.tier with split := [0, 0, 0, 0] } }
    | 10 => becomeReady s
    | _ => next s

def execStartupPhaseEnd (r : PhaseReport) (s : State) : Host.Outcome State Fault Refusal := done s (phaseEnds s r)

/-- STARTUP_PHASE_OVERRUN: the start ends with a device reset (R564). -/
def phaseOverrun (s : State) : State :=
  if !s.pkg.powered ∨ s.pkg.ready ∨ !s.rst.running.isEmpty ∨ s.pkg.recovery ∨ s.pkg.hold ∨ s.pkg.resetLow then s
  else beginDevice s .device 4 none false

def execStartupPhaseOverrun (s : State) : Host.Outcome State Fault Refusal := done s (phaseOverrun s)

/-- The device without power: the flash, the fuses and the permanent repairs of the stacks are what stays. Over 62 V the always-on
block still has its rail, and STATUS_INPUT shows what it saw (R526; DEDUCED, log 27). -/
def unpowered (s : State) (exceeds : Bool) : State :=
  { State.reset with
    pkg := { flash := { s.pkg.flash with busy := false } }
    led := { journal := s.led.journal, chainJournalled := s.led.chainJournalled, uncollected := s.led.uncollected, marksRead := s.led.marksRead }
    tier := { repaired := s.tier.repaired, badBanks := s.tier.badBanks, retired := s.tier.retired
              held := s.tier.held ++ (s.tier.drains.filter (·.retire)).map (fun d => (d.q, d.stack, d.pc)) }
    sec := { minSvn := s.sec.minSvn, era := s.sec.era + 1 }
    pwr := { statusInput := if exceeds then 0x80#8 else 0 }
    free := s.free
    pending := s.pending }

/-- INPUT_OUT_OF_RANGE: the input stage turns off. -/
def execInputOutOfRange (exceeds : Bool) (s : State) : Host.Outcome State Fault Refusal := done s (if s.pkg.powered then unpowered s exceeds else s)

/-! ### Boot recovery (R566, R567) -/

/-- RCV_GO: the boot ROM fetches and verifies the image; a verified one is written to the flash. -/
def recoveryGo (s : State) (value : Word) (image : List Byte) : State :=
  let k := s.pkg
  if !k.recovery ∨ !bit value 0 ∨ (k.rcvState ≠ 0 ∧ k.rcvState ≠ 5) then s
  else
    let img := imageOf s.sec.minSvn (image.take k.rcvLen)
    if img.fails ≠ 0 then { s with pkg := { k with rcvState := 5, rcvFail := img.fails } }
    else { s with pkg := { k with rcvState := 3, rcvFail := 0, rcvProgress := 0, rcvImage := img, flash := { k.flash with busy := true } } }

def execRcvGo (value : Word) (image : List Byte) (s : State) : Host.Outcome State Fault Refusal := done s (recoveryGo s value image)

/-! ### I3C and JTAG (R552, R556, R557) -/

/-- The I3C target answers from the end of phase 2. -/
def i3cAnswers (s : State) : Bool := decide (2 < s.pkg.phase)

/-- Take a dynamic address; a target that has one keeps it (PRESUMED, log 28). -/
def assignAddress (s : State) (dynamic : Nat) : State :=
  if i3cAnswers s && s.pkg.i3cDynamic.isNone then { s with pkg := { s.pkg with i3cDynamic := some (dynamic % 128) } } else s

def execSetdasa (addr dynamic : Nat) (s : State) : Host.Outcome State Fault Refusal :=
  done s (if addr = 0x30 + s.pkg.addr then assignAddress s dynamic else s)

def execEntdaa (dynamic : Nat) (s : State) : Host.Outcome State Fault Refusal := done s (assignAddress s dynamic)

/-- A boundary-scan instruction acts while RESET_N is held low, else as BYPASS. -/
def tapTest (s : State) (test : Nat) : State := { s with pkg := { s.pkg with tap := if s.pkg.resetLow then test else 0 } }

def execExtest (s : State) : Host.Outcome State Fault Refusal := done s (tapTest s 1)
def execExtestPulse (s : State) : Host.Outcome State Fault Refusal := done s (tapTest s 2)
def execExtestTrain (s : State) : Host.Outcome State Fault Refusal := done s (tapTest s 3)

/-- TRST_N resets the TAP: IDCODE is its instruction then (IEEE 1149.1). -/
def execTrstN (s : State) : Host.Outcome State Fault Refusal := done s { s with pkg := { s.pkg with tap := 4 } }

/-! ### Wall time (R47 to R50, R550) -/

/-- A record of the bell generator (Table 20.8). -/
def timeRecord (s : State) (code : Nat) (p0 p1 : Word) : State :=
  record s { code := code, quarter := masterQuarter s, kind := 0, p0 := p0, p1 := p1 }

/-- Change the time registers. -/
def updTime (s : State) (f : TimeS → TimeS) : State := { s with time := f s.time }

/-- A source is back: holdover ends with the offset found (R49). -/
def leaveHoldover (s : State) (offset : Int) : State :=
  if s.time.holdover then timeRecord (updTime s (fun t => { t with holdover := false })) 0x0104 s.time.bell (BitVec.ofInt 64 offset) else s

/-- Offset from TAI to the nearest second. -/
def secondOffset (t : TimeS) : Int :=
  let r := (taiNow t).toNat % 1000000000
  if r < 500000000 then - (r : Int) else 1000000000 - (r : Int)

/-- Is an edge accepted: 1 µs to 500 ms wide and within 1 s ± 100 µs of the last one; the first edge, and the first after the loss of
PPS, has none before it (DEDUCED, log 29). -/
def ppsAccepted (s : State) (width gap : Nat) : Bool :=
  decide (1000 ≤ width) && decide (width ≤ 500000000)
    && (!s.time.ppsOk || (decide (999900000 ≤ gap) && decide (gap ≤ 1000100000)))

/-- Local bells since the last edge, the rate of the local oscillator that holdover keeps (R49); with no edge a second before, the rate
known stays. -/
def measuredRate (t : TimeS) : Nat :=
  match t.lastPps with
  | some b => if t.ppsOk then max 1 (t.bell.toNat - b.toNat) else t.rateBells
  | none => t.rateBells

/-- PPS_EDGE. Where both sources give an offset, the later event's takes the place of what is still being slewed (DESIGN CHOICE,
log 164: R47 does not say which counts). -/
def ppsIn (s : State) (width gap : Nat) : State :=
  if !ppsAccepted s width gap then s
  else
    let s := updTime s (fun t => { t with ppsOk := true, lastPps := some t.bell, rateBells := measuredRate t })
    if s.time.valid then
      let o := secondOffset s.time
      leaveHoldover (updTime s (fun t => { t with slewLeft := o })) o
    else s

def execPpsEdge (widthNs sinceNs : Nat) (s : State) : Host.Outcome State Fault Refusal := done s (ppsIn s widthNs sinceNs)

/-- The part of the bell gone, as TAI counts it. -/
def phaseNs (t : TimeS) : Word := word (t.phase * 5 / 7)

/-- PTP_TIME: the first labels the second and makes TAI valid, without a PPS edge too (DESIGN CHOICE, log 164: R50 does not say what the
first synchronisation takes); a later one slews, or steps over more than 1 s ahead. -/
def ptpIn (s : State) (tai : Word) : State :=
  let was := taiNow s.time
  let s := updTime s (fun t => { t with ptpOk := true })
  if !s.time.valid then
    timeRecord (updTime s (fun t => { t with tai := tai - phaseNs t, valid := true, slewLeft := 0 })) 0x0105 s.time.bell tai
  else
    let o : Int := (tai.toNat : Int) - (was.toNat : Int)
    let s := if 1000000000 < o then
        timeRecord (updTime s (fun t => { t with tai := tai - phaseNs t, stepped := true, steppedAt := now s, slewLeft := 0 })) 0x0102 was tai
      else updTime s (fun t => { t with slewLeft := o })
    leaveHoldover s o

def execPtpTime (tai : Word) (s : State) : Host.Outcome State Fault Refusal := done s (ptpIn s tai)

/-- HOLDOVER: with PPS lost, IEEE 1588 time is lost too (R49). PTP_OK falls here alone: no event tells of a loss of IEEE 1588 time while
PPS holds (DESIGN CHOICE, log 164). TAI runs on at the last disciplined rate. -/
def holdoverIn (s : State) : State :=
  if s.time.ppsOk ∨ s.time.holdover ∨ !s.time.valid then s
  else timeRecord (updTime s (fun t => { t with ptpOk := false, holdover := true, slewLeft := 0 })) 0x0103 s.time.bell (BitVec.ofInt 64 s.time.slewLeft)

def execHoldover (s : State) : Host.Outcome State Fault Refusal := done s (holdoverIn s)

/-- REFCLK_F0 is lost, or back: the clocks follow REFCLK_F2, or it, with no bell missed (R548). -/
def execRefclkLoss (s : State) : Host.Outcome State Fault Refusal := done s (updTime s (fun t => { t with refclkLost := true }))
def execRefclkRestored (s : State) : Host.Outcome State Fault Refusal := done s (updTime s (fun t => { t with refclkLost := false }))

end Sys2Proof.Machine
end

