-- ==== Sys2Proof/Machine/Firmware.lean ====
section
/-! DEFINITION. The roll of a firmware image through the control cores, the flash write, and the rotation of memory keys (R503 to R510, R567). -/

namespace Sys2Proof.Machine

/-! ### The roll (R503 to R507) -/

/-- The command of a roll: stall and principal, for ORIGIN. -/
def rollOrigin (s : State) (r : Roll) : Nat × Nat :=
  (s.mb.cmds.find? (fun c => c.number == r.cmd)).elim (0, 0) (fun c => (c.stall, c.principal))

/-- FW_CORE of a core of the roll: 1 passed, 2 failed, 3 reverted. -/
def rollRecord (s : State) (r : Roll) (core version result : Nat) : State :=
  let o := rollOrigin s r
  trustRecord s 0x1505 o.1 o.2 (word core) (word version) (word result) 0

/-- FW_ROLL_END and the final response. -/
def rollEnd (s : State) (r : Roll) (version b3 b4 : Nat) (bell : Word) : State :=
  let o := rollOrigin s r
  let s := trustRecord s 0x1506 o.1 o.2 (word version) (word b3) (word b4) bell
  endDrains { s with sec := { s.sec with roll := none } } (· == .fwRoll) OK s.time.bell [word b3, word b4]

/-- VERSION of the staged image. -/
def stagedVersion (s : State) : Nat := s.sec.staged.elim 0 (·.version)

/-- The image the roll proved: while it is written, what the flash holds fails its digest (R506). -/
def startFlashWrite (s : State) (r : Roll) : State :=
  { s with
    sec := { s.sec with roll := some { r with writing := true } }
    pkg := { s.pkg with flash := { s.pkg.flash with busy := true, image := { s.pkg.flash.image with fails := 4 } } } }

/-- A core has passed: the next step begins, in the next quarter after the eighth; after the last quarter the image is written. -/
def corePassed (s : State) (r : Roll) (core : Nat) : State :=
  let n := rollQuarter r * 8 + core
  let s := rollRecord s r n (stagedVersion s) 1
  let r := { r with updated := n :: r.updated, carrying := none }
  let r := if r.steps = 7 then { r with quarters := r.quarters + 1, steps := 0 } else { r with steps := r.steps + 1 }
  if r.quarters = 4 then startFlashWrite s r else { s with sec := { s.sec with roll := some r } }

/-- A core has failed its check: it hands its duties, where it carries any, to the quarter's spare and restarts on the running image
(R20); every updated core reverts, and the staging areas are rewritten with the running image (R505). -/
def coreFailed (s : State) (r : Roll) (core : Nat) : State :=
  let q := rollQuarter r
  let version := stagedVersion s
  let s := rollRecord s r (q * 8 + core) version 2
  let s := coreFails s q core none
  let s := each r.updated (fun n s => rollRecord s r n s.sec.running.version 3) s
  rollEnd { s with sec := { s.sec with staged := some s.sec.running } } r version 0 (q * 8 + core) 0

/-- FW_CORE_CHECK of the core now under check. A quarter reset pauses the roll. -/
def coreChecked (s : State) (q core : Nat) (passed : Bool) : State :=
  match s.sec.roll with
  | some r =>
    if r.writing ∨ rollQuarter r ≠ q ∨ rollCore s r ≠ core ∨ s.sec.staged.isNone ∨ (r.steps < 7 ∧ passed ∧ r.carrying.isNone)
        ∨ s.rst.running.any (fun x => 3 ≤ x.scope.level) then s
    else if passed then corePassed s r core else coreFailed s r core
  | none => s

def execFwCoreCheck (q core : Nat) (passed : Bool) (s : State) : Host.Outcome State Fault Refusal := done s (coreChecked s q core passed)

/-- The swap of a step, at a strike: the spare, its load part passed, takes the duties of the next active position whose core has no
command in flight; the freed core is the spare (R503; the load part takes the rest of the bell, DESIGN CHOICE, log 30). -/
def rollSwap (s : State) : State :=
  match s.sec.roll with
  | some r =>
    let q := rollQuarter r
    let k := coresOf s q
    let old := nth k.active r.steps
    match k.spare with
    | some sp =>
      if r.writing ∨ r.carrying.isSome ∨ 7 ≤ r.steps ∨ s.rst.running.any (fun x => 3 ≤ x.scope.level)
          ∨ s.mb.cmds.any (fun c => c.waiting.isSome && servingCore s c.iss.fn == (q, old)) then s
      else
        let s := updCores s q (fun k => { k with active := modNth k.active r.steps (fun _ => sp), spare := some old })
        { s with sec := { s.sec with roll := some { r with carrying := some (sp, old) } } }
    | none => s
  | none => s

/-- FW_FLASH_WRITE_DONE: the image is in the flash. A roll raises the minimum, sets M1 and clears M2; a recovery restarts at phase 3. -/
def flashWritten (s : State) : State :=
  match s.sec.roll with
  | some r =>
    if !r.writing then s
    else match s.sec.staged with
      | none => s
      | some img =>
        let s := { s with
          sec := { s.sec with running := img, staged := none, minSvn := max s.sec.minSvn img.minsvn }
          pkg := { s.pkg with flash := { s.pkg.flash with image := img, busy := false } } }
        rollEnd s r img.version 32 0x1F s.time.bell
  | none =>
    let k := s.pkg
    if !k.recovery ∨ k.rcvState ≠ 3 then s
    else
      { s with pkg := { k with
        recovery := false, failChk := 0, rcvState := 4, rcvProgress := k.rcvImage.len / 2 ^ 20, phase := 3
        flash := { k.flash with image := k.rcvImage, busy := false } } }

def execFwFlashWriteDone (s : State) : Host.Outcome State Fault Refusal := done s (flashWritten s)

/-! ### Rotation of a memory key (R508, R509) -/

/-- The region whose units a rotation rewrites next: the composition's, in ascending handle order, from the cursor on, not one rotated
out of turn. -/
def rotationRegion (s : State) (m : MemRotation) : Option Region :=
  (s.regs.recs.find? (fun e => e.2.comp == m.comp && homeDevice s e.2 == s.dom.devid && decide (m.handle ≤ e.1) && !m.early.contains e.1)).map (·.2)

/-- Change the rotation of a composition. -/
def updRotation (s : State) (comp : Nat) (f : MemRotation → MemRotation) : State :=
  { s with sec := { s.sec with rotations := adjustWhere s.sec.rotations (fun m => m.comp == comp) f } }

/-- Stall and principal of the command that began a rotation, for ORIGIN (R511). -/
def rotateOrigin (s : State) (kind target : Nat) : Nat × Nat :=
  (s.mb.cmds.find? (fun c => match c.drain with | some (.rotate k t _) => k == kind && t == target | _ => false)).elim (0, 0) (fun c => (c.stall, c.principal))

/-- The rotation has passed the last unit: the old key is erased (R509). -/
def rotationEnd (s : State) (comp : Nat) : State :=
  match s.sec.rotations.find? (fun m => m.comp == comp) with
  | none => s
  | some m =>
    if (rotationRegion s m).isSome then s
    else
      let s := { s with sec := { s.sec with
        rotations := s.sec.rotations.filter (fun x => x.comp != comp), memKeys := Tab.upd s.sec.memKeys comp (s.sec.era, 0) (fun k => (k.1, k.2 + 1)) } }
      let o := rotateOrigin s 2 comp
      let s := trustRecord s 0x1507 o.1 o.2 2 (word comp) (word m.units) 0
      endDrains s (fun d => match d with | .rotate 2 c _ => c == comp | _ => false) OK s.time.bell []

/-- Frames of the tray unit at a place. -/
def unitFrames (s : State) (a : Nat) : List Frame :=
  s.tier.frames.filter (fun f => f.port == trayPort a && f.block / 512 == trayDpa a / 2 ^ 21)

/-- MEMORY_KEY_UNIT_DONE: the unit at the cursor is rewritten under the new key. A tray unit's dirty lines are written back first, and
its frames then dropped; a unit under drain, or of a tray that is down, waits. -/
def unitRotated (s : State) (comp : Nat) : State :=
  match s.sec.rotations.find? (fun m => m.comp == comp) with
  | none => s
  | some m => match rotationRegion s m with
    | none => rotationEnd s comp
    | some g =>
      let unit := if g.handle = m.handle then m.unit else 0
      let next := fun (s : State) => rotationEnd (updRotation s comp (fun m =>
        if unit + 1 < g.units then { m with handle := g.handle, unit := unit + 1, units := m.units + 1 }
        else { m with handle := g.handle + 1, unit := 0, units := m.units + 1 })) comp
      match placeOf g (2 ^ 21 * unit) with
      | none => next s
      | some a =>
        if isTray a then
          let fs := unitFrames s a
          if !(cxlOf s (trayPort a)).up then s
          else if fs.any (fun f => !f.dirty.isEmpty) then each fs (fun f s => each f.dirty (fun d s => writeBack s f d.1) s) s
          else next (each fs (fun f s => dropFrame s f) s)
        else if s.tier.drains.any (fun d => d.q == a / 2 ^ 38 && pageOn d.stack d.pc (a % 2 ^ 38 / 2 ^ 21)) then s
        else next s

def execMemoryKeyUnitDone (comp : Nat) (s : State) : Host.Outcome State Fault Refusal := done s (settleAll (unitRotated s comp))

end Sys2Proof.Machine
end

