-- ==== Sys2Proof/Machine/Strike.lean ====
section
/-! DEFINITION. The strike of the bell: the actions of Table 2.1 in their order (R34 to R46). -/

namespace Sys2Proof.Machine

/-! ### Action 1: BELL and TAI (R34, R37, R38, R48, R52) -/

/-- Nanoseconds slewed at a bell: 500 ppm is 1 ns in every second bell (R48). -/
def slewStep (t : TimeS) : Int :=
  if t.bell.toNat % 2 = 1 ∨ t.slewLeft = 0 then 0 else if 0 < t.slewLeft then 1 else -1

/-- Nanoseconds that a bell lasts at the last disciplined rate (R49), counted in whole ones. -/
def holdoverNs (t : TimeS) : Nat := (1000000000 + t.rateRem) / max 1 t.rateBells

/-- BELL and the powered-on count go up by one (R34, R38), TAI by 1,000 ns and what is slewed, in holdover by the last disciplined rate
(R49); PPS_OK ends 1,000,200 bells after the last edge. -/
def tick (t : TimeS) : TimeS :=
  let bell : Word := t.bell + 1
  let d : Int := slewStep t
  let t := { t with
    bell := bell, powered := t.powered + 1, phase := 0, slewLeft := t.slewLeft - d
    tai := t.tai + (if t.holdover then word (holdoverNs t) else 1000) + BitVec.ofInt 64 d
    rateRem := if t.holdover then (1000000000 + t.rateRem) % max 1 t.rateBells else 0
    ppsOk := t.ppsOk && t.lastPps.any (fun (b : Word) => decide (bell.toNat ≤ b.toNat + 1000200)) }
  { t with bellStrike := bell, taiStrike := stampAt t }

/-! ### Action 2: strike registers -/

/-- Admitted and unfinished requests by region and slot (R100). -/
def admitCounts (s : State) : Tab Nat := (s.home.reqs.filter (fun r => decide (r.slot < 2))).foldl (fun t r => Tab.upd t (r.h.handle * 2 + r.slot) 0 (· + 1)) []

/-- Every control core that runs its firmware advances its heartbeat once per bell, and so do the trust cores (Table 18.1); the watchdogs
count the bells without one (R460). -/
def heartbeats (s : State) : State :=
  let runs := fun (n : Nat) => !quarterInReset s (n / 8) && !(coresOf s (n / 8)).failed.contains (n % 8) && !(coresOf s (n / 8)).halted.any (fun h => h.1 == n % 8)
  let still := fun (q n : Nat) => if quarterInReset s q || (coresOf s q).active.any (fun c => runs (8 * q + c)) then 0 else n + 1
  { s with rst := { s.rst with
    watch := [0, 1, 2, 3].map (fun q => still q (nth s.rst.watch q))
    beats := ((List.range 34).filter (fun n => decide (32 ≤ n) || runs n)).foldl (fun t n => Tab.upd t n 0 (· + 1)) s.rst.beats } }

/-- Count bells without credit for the partner; 0x0D04 after 1,000 in a row (R370). -/
def countCredit (s : State) : State :=
  each ((s.ports.filter (fun e => e.2.st == .up)).map (·.1)) (fun p s =>
    let ps := portOf s p
    let n := (List.range 4).map (fun c => if nth (advertised ps) c ≤ nth ps.inUse c then nth ps.noCredit c + 1 else 0)
    let s := updPort s p (fun ps => { ps with noCredit := n })
    each ((List.range 4).filter (fun c => nth n c == 1000)) (fun c s =>
      recordRate s p { code := 0x0D04, quarter := portQuarter p, kind := 3, p0 := pack [(8, p), (0, c)], p1 := word (nth n c) }) s) s

/-! ### Action 3: changes (R40) -/

/-- Does the current map switch a home move: at the old home, it names the new home device; at the new home, this device, and for a move
between its quarters the quarter that it goes to (R15, R117). -/
def moveSwitches (s : State) (m : Move) : Bool :=
  !m.switched && (match Tab.get? s.maps.cur.handles m.handle with
    | some e =>
      if !m.new then e.homedev == m.other
      else e.homedev == s.dom.devid && (m.other != s.dom.devid || (if e.qauto then (regionOf s m.handle).any (fun g => g.homeq == m.homeq) else e.homeq == m.homeq))
    | none => false)

/-- Home moves that the current map itself starts: an entry with QAUTO = 0 names another quarter than the record (R15). Nothing has been
copied yet. A region for which the other quarter has no room stays where it is (DESIGN CHOICE, log 168). -/
def quarterMoves (s : State) : State :=
  each (s.maps.cur.handles.filter (fun e => e.2.homedev == s.dom.devid && !e.2.qauto)) (fun e s =>
    match regionOf s e.1 with
    | none => s
    | some g =>
      if g.homeq = e.2.homeq ∨ !g.valid ∨ s.regs.moves.any (fun m => m.handle == e.1) then s
      else match allocate s g.tier e.2.homeq g.units with
        | none => s
        | some p =>
          let m : Move := { handle := e.1, new := true, other := s.dom.devid, homeq := e.2.homeq, tier := g.tier, princ := g.princ, since := s.time.bell, place := p }
          updRegion { s with regs := { s.regs with moves := s.regs.moves ++ [m] } } e.1 (fun g => { g with moving := true })) s

/-- A map becomes current (R15, R112, R117, R164, R453): its epoch goes to the flash, moves that it switches go on and drop the offers of
their regions, shadows and the copies to them follow its role sets. -/
def mapSwitched (s : State) : State :=
  let s := quarterMoves s
  let cur := s.maps.cur
  let dev := s.dom.devid
  let switches := moveSwitches s
  let within := (s.regs.moves.filter (fun m => switches m && m.new && m.other == dev)).map (·.handle)
  let moved := (s.regs.moves.filter (fun m => switches m && (!m.new || m.other == dev))).map (·.handle)
  let s := { s with
    pkg := { s.pkg with flash := { s.pkg.flash with epoch := cur.epoch } }
    regs := { s.regs with moves := s.regs.moves.map (fun m => if switches m then { m with switched := true, struck := s.time.bell } else m) } }
  let s := each within (fun h s => updRegion s h (fun g => { g with valid := false })) s
  let s := each moved (fun h s => dropOffer s h) s
  let has := fun (d comp role : Nat) => Tab.getD cur.roles (2 ^ 20 * d + comp) 0 / 2 ^ role % 2 == 1
  let shadowed := ((cur.roles.filter (fun e => e.1 / 2 ^ 20 == dev && e.2 / 8 % 2 == 1)).map (fun e => e.1 % 2 ^ 20))
  let wanted := shadowed.flatMap (fun c => ((cur.roles.filter (fun e => e.1 % 2 ^ 20 == c && e.1 / 2 ^ 20 != dev && e.2 % 2 == 1)).map (fun e => (c, e.1 / 2 ^ 20))))
  let kept := s.dom.shadows.filter (fun x => wanted.contains (x.comp, x.home))
  let fresh := (wanted.filter (fun w => !kept.any (fun x => x.comp == w.1 && x.home == w.2))).map (fun w => ({ comp := w.1, home := w.2 } : Shadow))
  let mine := (s.regs.recs.map (·.2)).filter (fun g => homeDevice s g == dev && has dev g.comp 0)
  let copies := mine.flatMap (fun g => ((shadowsOf s g.comp).filter (· != dev)).map (fun d => ({ handle := g.handle, dev := d } : ShadowCopy)))
  let old := s.dom.copies.filter (fun c => copies.any (fun n => n.handle == c.handle && n.dev == c.dev))
  let new := copies.filter (fun c => !old.any (fun n => n.handle == c.handle && n.dev == c.dev))
  let s := { s with dom := { s.dom with shadows := kept ++ fresh, copies := old ++ new } }
  settleAll (each new (fun c s => copyPush s c) s)

/-- A region move to this device begins: pages are asked for, or come from the copy this device kept as a shadow (R455). -/
def moveBegins (s : State) (m : Move) : State :=
  if m.other = s.dom.devid then s
  else match regionOf s m.handle with
    | none => s
    | some g =>
      if s.dom.shadows.any (fun x => x.comp == g.comp && x.home == m.other && x.copied) then
        let s := each (List.range (g.size4k + 1)) (fun page s =>
          (putPage s g page (Memory.read s.tier.mem (shadowPlace g.handle (page * 4096)) 4096)).getD s) s
        updMove s m.handle (fun m => { m with cursor := g.size4k + 1 })
      else movePull s m

/-- The dirty lines of a port are dropped and poisoned, and their writes are given up (R205, R207). -/
def discardTray (s : State) (c : Nat) : State :=
  let seq := if (cxlOf s c).up then 0 else (cxlOf s c).downSeq
  let s := each (s.tier.frames.filter (fun f => f.port == c && !f.dirty.isEmpty)) (fun f s =>
    let lines := f.dirty.map (·.1)
    let s := each lines (fun i s =>
      let line := frameBase f / 64 + i
      setPoison { s with tier := { s.tier with
        mem := Memory.clear s.tier.mem (line * 64) 64, lineCache := s.tier.lineCache.filter (fun e => e.line != line) } } (line * 64) seq) s
    updFrame s f.q (trayPlace c (f.block * 64)) (fun f => { f with dirty := [], valid := f.valid.filter (fun i => !lines.contains i) })) s
  traySettle (updCxl s c (fun x => { x with ops := x.ops.filter (fun o => !o.write) })) c

/-- A device is expelled: its links go; this device itself fences until readmitted (R442). -/
def expelled (s : State) (d : Nat) : State :=
  if d = s.dom.devid then (if s.dom.fenced then s else fenceNow s)
  else
    let ports := (s.ports.filter (fun e => e.2.ptype == 1 && e.2.epid == d && e.2.st != .off)).map (·.1)
    settleAll (each ports (fun p s => dropPort s p .detect) s)

/-- The epoch of an index that INDEX_COMMIT has written is committed at this strike (R341). -/
def indexCommitted (s : State) (old : Index) (e : Nat) : State :=
  let s := updIndex s old.number (fun x => { x with stagedIns := [], stagedDel := [] })
  let s := engRecord s (mergeQuarter s old) 0x0C04 0 (word old.number) (word e) (pack [(32, old.stagedIns.length), (0, old.stagedDel.length)]) s.time.bell
  releaseHeld s

/-- A record of a code table slot (Table 8.11). -/
def tableEvent (s : State) (code slot : Nat) (p3 : Word) : State :=
  let t := Tab.getD s.ecx.tables slot {}
  record s { code := code, quarter := masterQuarter s, kind := 0x0B, p0 := word slot, p1 := word t.gen, p2 := word t.tdig, p3 := p3 }

/-- A sheaf's table is visible: a data home writes its record to the mirrors and starts to push (R444, R447). -/
def sheafSeen (s : State) (x : Sheaf) : State :=
  match regionOf s x.handle with
  | some g => if x.work = 1 then settleAll (pushPage (mirrorRecord s g 0) x g) else settleAll s
  | none => s

/-- A rotation of keys starts: ports rekey, or the memory key of a composition goes unit by unit (R508, R509). -/
def rotateBegins (s : State) (kind comp : Nat) : State :=
  if kind = 2 then
    if s.sec.rotations.any (fun m => m.comp == comp) then s else { s with sec := { s.sec with rotations := s.sec.rotations ++ [{ comp := comp }] } }
  else each (upPorts s) (fun p s => rekey s p.1) s

/-- What else a change does when it becomes visible; `old` is the state before it. -/
def changeSeen (old s : State) : Change → State
  | .regionAdd g => each ((shadowsOf s g.comp).filter (· != s.dom.devid)) (fun d s =>
      copyPush { s with dom := { s.dom with copies := s.dom.copies ++ [{ handle := g.handle, dev := d }] } } { handle := g.handle, dev := d }) s
  | .regionDying h _ => match regionOf s h with | some g => recallAll s g | none => s
  | .owner h _ => dropOffer s h
  | .mapSwitch _ => mapSwitched s
  | .moveStart m _ => moveBegins s m
  | .qpAssign n c => qpRecord s c 0x0F01 (pack [(16, n), (0, c.lq)]) (pack [(40, c.ring), (0, c.ringOff)]) (pack [(8, c.log2sq), (0, c.log2cq)]) 0
  | .tableLive n _ => tableEvent s 0x0810 n 0
  | .tableFence n => tableEvent s 0x0811 n s.time.bell
  | .indexEpoch n e => match indexAt old n with | some x => indexCommitted s x e | none => s
  | .join devid domain ms =>
    let s := { s with pkg := { s.pkg with flash := { s.pkg.flash with devid := devid, dvalid := true, domain := domain, members := ms } } }
    setFenced { s with dom := { s.dom with leaseOk := false } } true
  | .members ms => { s with pkg := { s.pkg with flash := { s.pkg.flash with members := ms } } }
  | .expel d => expelled s d
  | .sheaf x _ _ => sheafSeen s x
  | .trayDiscard c => discardTray s c
  | .halt q core on => haltCore s q core on
  | .register off size v => barWrite s off size v
  | .port p action w => setPort s p action w
  | .rotate kind comp => rotateBegins s kind comp
  | .reset x => if x.level < 4 then beginReset s x 2 none false else s
  | .regionValid _ | .key _ _ _ | .keyBell _ _ _ | .gateway _ | .split _ _ | .mapStaged _ _ | .stall _ _ _ | .bind _ _ _ _ | .quota _ _ _
  | .police _ _ _ _ _ | .tcw _ _ | .vw _ _ | .sw _ _ _ | .qw _ _ | .shaper _ _ _ _ _ | .allot _ _ _ _ _ _ | .qpRelease _
  | .thresherBack _ _ | .indexAdd _ | .indexPart _ _ | .indexQepoch _ _ | .indexDrop _ | .contentKey _ _ _ _ _ _ | .contentDrop _
  | .aliasGen _ | .readmit | .trayRelease _ _ _ | .claim _ | .unclaim _ _ | .loop _ _ | .batch _ _ _ | .compact _ _ _ | .fwStage _
  | .fwRoll => s

/-- A change to a data stalk's record waits for the mirrors' answers (R447). -/
def changeWaits (s : State) (c : Change) : Bool := (changedRecord c).any (mirrorPending s)

/-- Action 3: every change committed in the bell now ended becomes visible, in commit order. -/
def makeVisible (s : State) : State :=
  each s.mb.changes (fun e s =>
    if changeWaits s e.2 then { s with mb := { s.mb with changes := s.mb.changes ++ [e] } }
    else changeSeen s (applyChange s e.2) e.2) { s with mb := { s.mb with changes := [] } }

/-! ### Responses of the commands whose changes are visible (R418, R422) -/

/-- Bell that the PHASE 0 response names: of the first command with the same drain. -/
def drainBell (s : State) (c : Cmd) : Word :=
  match s.mb.cmds.find? (fun x => x.waiting.isNone && x.drain.isSome && x.drain == c.drain) with
  | some f => match c.drain with
    | some (.destroy _) => f.bell
    | some (.revoke _ _) => f.bell
    | _ => c.bell
  | none => c.bell

/-- B1 and the result of an immediate command: MAP_SWITCH names its strike, REGION_CREATE shows E0 as it stands. -/
def finalWords (s : State) (c : Cmd) : Word × List Word :=
  if c.opc = 0x21 then (s.time.bell, c.result)
  else if c.opc = 0x10 then
    match regionOf s (fld ((c.params[0]?).getD 0) 63 40) with
    | some g => (c.bell, (regionWords g (homeDevice s g) 0 0 false).take 1)
    | none => (c.bell, c.result)
  else (c.bell, c.result)

/-- Answer the commands that committed before this strike: the final response of an immediate one, PHASE 0 of a drain. -/
def answerCommands (s : State) : State :=
  each (s.mb.cmds.filter (fun c => c.waiting.isNone && !c.phase0)) (fun c s =>
    if s.mb.changes.any (fun e => e.1 == c.number) || !s.mb.cmds.any (fun x => x.number == c.number) then s
    else if c.drain.isSome then phaseZero s { c with bell := drainBell s c }
    else
      let w := finalWords s c
      mbAnswer (dropCmd s c.number) c.iss (responseWords c.opc c.seq OK true 0 w.1 c.lseq w.2)) s

/-! ### Drains that end at a strike -/

/-- A larger near-memory share is in force once the frames it takes are clean (R190). -/
def splitDrain (s : State) (c : Cmd) (q : Nat) : State :=
  let n := fld ((c.params[0]?).getD 0) 15 8
  if n ≤ nth s.tier.split q then endCmd s c.number OK s.time.bell []
  else
    let s := clearFrames s (cededFrames s q n)
    if !(cededFrames s q n).isEmpty then s else endCmd (applyChange s (.split q n)) c.number OK s.time.bell []

/-- Is a port of a rotation done: it has switched KEYID or is not UP. -/
def portRotated (s : State) (p : Nat × Nat) : Bool := (portOf s p.1).st != .up || (portOf s p.1).keyId != p.2

/-- Every port of a rotation is done: it ends, with every command that waits for it (R508). -/
def portsDrain (s : State) (kind : Nat) (ports : List (Nat × Nat)) : State :=
  if !ports.all (portRotated s) then s
  else
    let down := (ports.filter (fun p => (portOf s p.1).st != .up)).length
    let o := rotateOrigin s kind 0
    let s := trustRecord s 0x1507 o.1 o.2 (word kind) (word (if kind = 1 then s.sec.aliasGen else 0)) (word (ports.length - down)) (word down)
    endDrains s (fun d => match d with | .rotate k _ _ => k == kind | _ => false) OK s.time.bell []

/-- Every query that a dropped index had taken has sent its list: the drain ends, and the index goes once no search job uses it. -/
def unloadDrain (s : State) (n : Nat) : State :=
  match indexAt s n with
  | none => endDrains s (fun d => d == .unload n []) OK s.time.bell []
  | some x =>
    if !x.dropped || !x.queries.isEmpty then s
    else
      let s := endDrains s (fun d => d == .unload n []) OK s.time.bell []
      if s.eng.jobs.any (fun j => match j.body with | .search r => r.index == n | _ => false) then s
      else { s with idx := { s.idx with indexes := s.idx.indexes.filter (fun y => y.number != n) } }

/-- Does a drain end at this strike, where nothing else ends it, and with which bell. -/
def drainEnds (s : State) (c : Cmd) : DrainOn → Option Word
  | .revoke h slot => match regionOf s h with
    | some g => if (slotOf g slot).state = 3 then some s.time.bell else none
    | none => some s.time.bell
  | .gwBind h tags => if s.regs.gwXfers.any (fun x => x.handle == h && x.write && tags.contains x.tag) then none else some s.time.bell
  | .batch _ => some s.time.bell
  | .commit n _ => if (indexAt s n).any (fun x => x.parts.any (fun p => p.compacting.isSome)) then none else some (c.bell + 1)
  | .fwStage => some s.time.bell
  | .port p action => if action = 4 ∧ ((portOf s p).windowXid.isSome ∨ (portOf s p).window ≠ (portOf s p).setWindow) then none else some s.time.bell
  | .sheaf h => match sheafOf s h with
    | some x => if x.work = 0 ∨ x.work = 4 then some s.time.bell else none
    | none => some s.time.bell
  | .destroy _ | .split _ | .move _ | .qp _ | .table _ _ | .compact _ _ | .unload _ _ | .fwRoll | .rotate _ _ _ | .reset _ => none

/-- Look at the drain of a command at a strike. -/
def drainCommand (s : State) (c : Cmd) (d : DrainOn) : State :=
  match d with
  | .destroy h => destroyStep s h
  | .split q => splitDrain s c q
  | .unload n _ => unloadDrain s n
  | .rotate 2 comp _ => rotationEnd s comp
  | .rotate k _ ports => portsDrain s k ports
  | d => match drainEnds s c d with
    | some b => endCmd s c.number OK b []
    | none => s

/-- Drains whose changes are visible and whose event has come. -/
def drainCommands (s : State) : State :=
  each (s.mb.cmds.filter (fun c => c.waiting.isNone && c.phase0)) (fun c s =>
    if s.mb.cmds.any (fun x => x.number == c.number) then (match c.drain with | some d => drainCommand s c d | none => s) else s) s

/-! ### Actions 4 to 6: meters, quotas, policers -/

/-- GiB homed for a composition, rounded up (Table 4.5). -/
def capGib (s : State) (comp : Nat) : Nat :=
  ceilDiv ((s.regs.recs.filter (fun e => e.2.comp == comp && homeDevice s e.2 == s.dom.devid)).foldl (fun n e => n + e.2.bytes) 0) (2 ^ 30)

/-- Action 4: capacity is metered and the counters close (R110, R111). -/
def closeMeters (s : State) : State :=
  let comps := ((s.regs.recs.filter (fun e => homeDevice s e.2 == s.dom.devid)).map (fun e => e.2.comp)).eraseDups
  let s := each comps (fun c s => meter s c (fun m => { m with capGibBells := m.capGibBells + word (capGib s c) })) s
  { s with maps := { s.maps with closed := s.maps.meters } }

/-- Action 5: quotas start anew and policers refill (R208, R374). -/
def refill (s : State) : State :=
  { s with
    stalls := s.stalls.map (fun e => (e.1, { e.2 with hbmUsed := [0, 0, 0, 0], trayUsed := [0, 0, 0, 0] }))
    sw := { s.sw with policers := s.sw.policers.map (fun e => (e.1, if e.2.mode = 1 then { e.2 with tokens := min e.2.burst (e.2.tokens + e.2.rate) } else e.2)) } }

/-- Counts of requests at lines move on by a bell, and so do the tallies' (R134, R137, R140). The part of a bell left after a line's
promotion counts as one of its 4 consecutive bells (DESIGN CHOICE, log 169). -/
def rollCounts (s : State) : State :=
  { s with home := { s.home with
    counts := (s.home.counts.filter (fun e => !e.2.cur.isEmpty || e.2.wanted)).map (fun e => (e.1, { cur := [], last := e.2.cur, wanted := e.2.wanted }))
    tallies := s.home.tallies.map (fun t => { t with absorbed := 0, history := t.absorbed :: t.history.take 3 }) } }

/-! ### Tiers at a strike -/

/-- Capacity that a tray has added is open to placement (R202). -/
def openCapacity (s : State) : State :=
  { s with tier := { s.tier with cxl := s.tier.cxl.map (fun e => (e.1, { e.2 with extents := e.2.extents ++ e.2.arriving, arriving := [] })) } }

/-- Retirements held back go on once the cache share allows (R215). -/
def resumeRetirements (s : State) : State :=
  each s.tier.held (fun h s =>
    if cacheShare s h.1 < 4 * 2 ^ 30 + 768 * 2 ^ 20 then s
    else startDrain { s with tier := { s.tier with held := s.tier.held.filter (· != h) } } h.1 h.2.1 h.2.2 true) s

/-! ### Action 9: shadows (R454) -/

/-- Units of the request payload that a mirror carries. -/
def mirrorUnits (d : List Byte) : Nat :=
  let opc := fld (wordAt d 8) 63 56
  let len := fld (wordAt d 8) 47 40
  if opc = 3 ∨ isAtomic opc ∨ isOwnOp opc then 1 else if carriesData opc then len else 0

/-- Has a mirror come whole. -/
def mirrorWhole (d : List Byte) : Bool := decide (64 + 64 * mirrorUnits d ≤ d.length)

/-- Perform a mirrored request on the copy: the memory and the response data. A request that ended otherwise than OK, and one that only
the record of the region answers, is not performed (DESIGN CHOICE, log 31). -/
def performMirror (m : List Host.Cell) (d : List Byte) : List Host.Cell × Option (List Byte) :=
  let u1 := wordAt d 8
  let opc := fld u1 63 56
  let status := fld u1 55 48
  let a := shadowPlace (fld (wordAt d 16) 63 40) (fld (wordAt d 24) 63 16 / 64 * 64)
  let p := d.drop 64
  if status ≠ OK ∧ status ≠ OK_COMBINED then (m, none)
  else if isAtomic opc then
    let op := atomicOperand p
    let at_ := shadowPlace (fld (wordAt d 16) 63 40) (fld (wordAt d 24) 63 16)
    let old := leNat (Memory.read m at_ op.bytes)
    (Memory.write m at_ (natLe op.bytes (atomicNew opc op old)), some (atomicResult opc op old))
  else if opc = 3 then (Memory.write m a (maskedLine p (Memory.read m a 64)), some [])
  else if carriesData opc then (Memory.write m a p, some [])
  else if readsLines opc then (m, some (Memory.read m a (64 * fld u1 47 40)))
  else (m, none)

/-- Perform the mirrors of one home in SEQ order, up to the first that has not come whole, and compare the digests of the bell; an
abandoned comparison is no match, and no mismatch either (R41). -/
def shadowStep (s : State) (x : Shadow) (compare : Bool) : State :=
  let ready := (sortBy (fun a b => decide (a.1 < b.1)) x.waiting).takeWhile (fun e => mirrorWhole e.2)
  let rest := x.waiting.filter (fun e => !ready.any (fun r => r.1 == e.1))
  let (m, theirs, own) := ready.foldl (fun (acc : List Host.Cell × Word × Word) e =>
    let (m, theirs, own) := acc
    let (m, data) := performMirror m e.2
    let hash := wordAt e.2 32
    (m, theirs ^^^ hash, own ^^^ (match data with | some d => respHash (fld (wordAt e.2 8) 55 48) d | none => hash))) (s.tier.mem, 0, 0)
  let homed := (s.maps.cur.handles.filter (fun e => e.2.comp == x.comp && e.2.homedev == x.home)).map (·.1)
  let copied := x.copied || (!x.fresh && !x.pages.isEmpty && homed.all (x.pages.contains ·))
  let y := { x with theirs := theirs, own := own, waiting := rest, copied := copied, fresh := false, agreed := if !compare then x.agreed else if theirs = own then x.agreed + 1 else 0 }
  let s := { s with
    tier := { s.tier with mem := m }
    dom := { s.dom with shadows := s.dom.shadows.map (fun z => if z.comp = x.comp ∧ z.home = x.home then y else z) } }
  if theirs = own ∨ !compare then s
  else domainRecord s 0x1306 0 (word x.comp) (word x.home) s.time.bell (word x.agreed)

/-- Action 9. -/
def compareShadows (s : State) (compare : Bool) : State := each s.dom.shadows (fun x s => shadowStep s x compare) s

/-! ### Action 7: engines -/

/-- Threshers that a second disagreement took out, and the level set at action 10, count from now (R46, R262, R533, R535). -/
def engineSettings (s : State) : State :=
  { s with
    eng := { s.eng with out := s.eng.out ++ s.eng.outNext.filter (fun n => !s.eng.out.contains n), outNext := [] }
    pwr := { s.pwr with level := max s.pwr.level s.pwr.floor } }

/-- Action 7: queue pairs take what waits, and portions are dealt. -/
def dealEngines (s : State) : State :=
  let s := engineSettings s
  let s := each ((s.qps.filter (fun e => e.2.state != 0)).map (·.1)) (fun n s => takeSubmissions s n) s
  dealPortions (buildBatch s)

/-! ### The strike -/

/-- Resets of level 4 and 5 that RESET commanded begin; the flush of an orderly one may end (Table 16.16, R472). -/
def resetsDue (s : State) : State :=
  let s := match s.rst.due with
    | some (x, b) => if b.toNat ≤ bellN s then beginDevice { s with rst := { s.rst with due := none } } x 2 none true else s
    | none => s
  flushEnds s

/-- Copies between quarters of this device take a page, and the lease of the strike sets or lifts the fence (R435, R437, R438). -/
def domainStrike (s : State) : State :=
  let s := each (s.regs.moves.filter (fun m => m.new && m.other == s.dom.devid)) (fun m s => moveWithin s m) s
  leaseRegained (leaseLost { s with dom := { s.dom with leaseOk := leaseCurrent s } })

/-- A watchdog that has counted 64 bells resets its quarter (R460). -/
def watchdogs (s : State) : State :=
  each ([0, 1, 2, 3].filter (fun q => decide (64 ≤ nth s.rst.watch q))) (fun q s => beginReset s (.quarter q) 5 none false) s

/-- Messages whose shaper lets them go leave their ports. -/
def pumpAll (s : State) : State :=
  each ((s.ports.filter (fun e => !e.2.egress.isEmpty)).map (·.1)) (fun p s => pump s p) s

/-- STRIKE_ABANDONED for each action that the control cores could not finish in the bell now ended (R41). -/
def recordAbandoned (s : State) : State :=
  each s.time.abandoned (fun a s => record s { code := 0x0101, quarter := masterQuarter s, kind := 1, p0 := s.time.bell, p1 := word a })
    { s with time := { s.time with abandoned := [] } }

/-- Actions 1 to 3, and the count of requests in flight under the previous map (R113). -/
def strikeFirst (s : State) : State :=
  let s := recordAbandoned s
  let s := heartbeats { s with time := tick s.time }
  let s := makeVisible (countCredit (latchUnits { s with regs := { s.regs with strikeAdmits := admitCounts s } }))
  { s with maps := { s.maps with strikeFlight := inFlight s } }

/-- Actions 4 to 6. -/
def strikeWindows (s : State) : State := rollCounts (refill (closeMeters s))

/-- What commands, tiers, resets and the roll do at a strike. -/
def strikeUnits (s : State) : State :=
  let s := drainCommands (freeTables (drainSlots (retireMap (answerCommands s))))
  let s := drainSteps (resumeRetirements (openCapacity s))
  let s := each (s.tier.cxl.map (·.1)) (fun c s => traySettle s c) s
  let s := resetsDue (watchdogs (rollSwap (domainStrike s)))
  pumpAll (settleAll s)

/-- Actions 8 to 10, in the bell. Whether the control cores finish each before the next strike is the hardware's: a free value; what they
do not finish they abandon (R41). -/
def strikeCores (s : State) : State :=
  let (w, s) := freeWord s
  let gone := fun (a : Nat) => bit w a
  let s := { s with time := { s.time with abandoned := [8, 9, 10].filter gone } }
  let s := if gone 8 then skipCompare s else compareUnits s
  let s := compareShadows s !(gone 9)
  overruns (if gone 10 then s else throttle s)

/-- BELL_STRIKE: the portions of the bell end, then the actions of Table 2.1. Without power there is no bell. Action 10's telemetry is
the row TELEMETRY_PERIOD. -/
def strike (s : State) : State :=
  if !s.pkg.powered then s
  else strikeCores (dealEngines (strikeUnits (strikeWindows (strikeFirst (finishPortions s)))))

def execBellStrike (s : State) : Host.Outcome State Fault Refusal := done s (strike s)

end Sys2Proof.Machine
end

