-- ==== Sys2Proof/Machine/Dispatch.lean ====
section
/-! DEFINITION. The meaning of every command: one arm for each constructor of Instr. -/

namespace Sys2Proof.Machine

def exec (i : Instr) (s : State) : Host.Outcome State Fault Refusal :=
  match i with
  | .load p h d => Sys2Proof.Machine.execLoad p h d s
  | .store p h d => Sys2Proof.Machine.execStore p h d s
  | .storeMasked p h d => Sys2Proof.Machine.execStoreMasked p h d s
  | .loadShared p h d => Sys2Proof.Machine.execLoadShared p h d s
  | .loadExcl p h d => Sys2Proof.Machine.execLoadExcl p h d s
  | .writeback p h d => Sys2Proof.Machine.execWriteback p h d s
  | .evictClean p h d => Sys2Proof.Machine.execEvictClean p h d s
  | .atomicAdd p h d => Sys2Proof.Machine.execAtomicAdd p h d s
  | .atomicMin p h d => Sys2Proof.Machine.execAtomicMin p h d s
  | .atomicMax p h d => Sys2Proof.Machine.execAtomicMax p h d s
  | .atomicCas p h d => Sys2Proof.Machine.execAtomicCas p h d s
  | .atomicSwap p h d => Sys2Proof.Machine.execAtomicSwap p h d s
  | .atomicAnd p h d => Sys2Proof.Machine.execAtomicAnd p h d s
  | .atomicOr p h d => Sys2Proof.Machine.execAtomicOr p h d s
  | .atomicXor p h d => Sys2Proof.Machine.execAtomicXor p h d s
  | .fence p h d => Sys2Proof.Machine.execFence p h d s
  | .publish p h d => Sys2Proof.Machine.execPublish p h d s
  | .offer p h d => Sys2Proof.Machine.execOffer p h d s
  | .accept p h d => Sys2Proof.Machine.execAccept p h d s
  | .confirm p h d => Sys2Proof.Machine.execConfirm p h d s
  | .xferRead p h d => Sys2Proof.Machine.execXferRead p h d s
  | .xferWrite p h d => Sys2Proof.Machine.execXferWrite p h d s
  | .snoopResponse p h d => Sys2Proof.Machine.execSnoopResponse p h d s
  | .forwardedResponse p h d => Sys2Proof.Machine.execForwardedResponse p h d s
  | .parityDeltaResponse p h d => Sys2Proof.Machine.execParityDeltaResponse p h d s
  | .gatewayXferResponse p h d => Sys2Proof.Machine.execGatewayXferResponse p h d s
  | .linkFrame p f check m => Sys2Proof.Machine.execLinkFrame p f check m s
  | .hello p h d => Sys2Proof.Machine.execHello p h d s
  | .helloAck p h d => Sys2Proof.Machine.execHelloAck p h d s
  | .sessInit p h d => Sys2Proof.Machine.execSessInit p h d s
  | .sessResp p h d => Sys2Proof.Machine.execSessResp p h d s
  | .sessFin p h d => Sys2Proof.Machine.execSessFin p h d s
  | .sessAck p h d => Sys2Proof.Machine.execSessAck p h d s
  | .spareReq p h lane frame => Sys2Proof.Machine.execSpareReq p h lane frame s
  | .spareAck p h lane frame => Sys2Proof.Machine.execSpareAck p h lane frame s
  | .window p h d => Sys2Proof.Machine.execWindow p h d s
  | .windowAck p h d => Sys2Proof.Machine.execWindowAck p h d s
  | .mboxCmd p h d => Sys2Proof.Machine.execMboxCmd p h d s
  | .mboxRsp p h d => Sys2Proof.Machine.execMboxRsp p h d s
  | .leaseRenew p h d => Sys2Proof.Machine.execLeaseRenew p h d s
  | .leaseGrant p h d => Sys2Proof.Machine.execLeaseGrant p h d s
  | .quorum p h d => Sys2Proof.Machine.execQuorum p h d s
  | .contrib p h d => Sys2Proof.Machine.execContrib p h d s
  | .partialList p h d => Sys2Proof.Machine.execPartialList p h d s
  | .result p h d => Sys2Proof.Machine.execResult p h d s
  | .query p h d => Sys2Proof.Machine.execQuery p h d s
  | .cxlmemAccess fn handle slot offset len write => Sys2Proof.Machine.execCxlmemAccess fn handle slot offset len write s
  | .regionCreate iss e => Sys2Proof.Machine.execRegionCreate iss e s
  | .regionDestroy iss e => Sys2Proof.Machine.execRegionDestroy iss e s
  | .regionRead iss e => Sys2Proof.Machine.execRegionRead iss e s
  | .keyIssue iss e => Sys2Proof.Machine.execKeyIssue iss e s
  | .keyRevoke iss e => Sys2Proof.Machine.execKeyRevoke iss e s
  | .ownerSet iss e => Sys2Proof.Machine.execOwnerSet iss e s
  | .gwBind iss e => Sys2Proof.Machine.execGwBind iss e s
  | .hbmSplit iss e => Sys2Proof.Machine.execHbmSplit iss e s
  | .trayDiscard iss e => Sys2Proof.Machine.execTrayDiscard iss e s
  | .trayRelease iss e => Sys2Proof.Machine.execTrayRelease iss e s
  | .mapStage iss e => Sys2Proof.Machine.execMapStage iss e s
  | .mapSwitch iss e => Sys2Proof.Machine.execMapSwitch iss e s
  | .mapStatus iss e => Sys2Proof.Machine.execMapStatus iss e s
  | .movePrepare iss e => Sys2Proof.Machine.execMovePrepare iss e s
  | .stallSet iss e => Sys2Proof.Machine.execStallSet iss e s
  | .stallBind iss e => Sys2Proof.Machine.execStallBind iss e s
  | .quotaSet iss e => Sys2Proof.Machine.execQuotaSet iss e s
  | .policeSet iss e => Sys2Proof.Machine.execPoliceSet iss e s
  | .schedSet iss e => Sys2Proof.Machine.execSchedSet iss e s
  | .meterRead iss e => Sys2Proof.Machine.execMeterRead iss e s
  | .engineSet iss e => Sys2Proof.Machine.execEngineSet iss e s
  | .qpAssign iss e => Sys2Proof.Machine.execQpAssign iss e s
  | .qpRead iss e => Sys2Proof.Machine.execQpRead iss e s
  | .qpRelease iss e => Sys2Proof.Machine.execQpRelease iss e s
  | .thresherReturn iss e => Sys2Proof.Machine.execThresherReturn iss e s
  | .tableLoad iss e => Sys2Proof.Machine.execTableLoad iss e s
  | .tableRetire iss e => Sys2Proof.Machine.execTableRetire iss e s
  | .indexLoad iss e => Sys2Proof.Machine.execIndexLoad iss e s
  | .indexPart iss e => Sys2Proof.Machine.execIndexPart iss e s
  | .indexBatch iss e => Sys2Proof.Machine.execIndexBatch iss e s
  | .indexCommit iss e => Sys2Proof.Machine.execIndexCommit iss e s
  | .indexQepoch iss e => Sys2Proof.Machine.execIndexQepoch iss e s
  | .indexCompact iss e => Sys2Proof.Machine.execIndexCompact iss e s
  | .indexUnload iss e => Sys2Proof.Machine.execIndexUnload iss e s
  | .sealInstall iss e => Sys2Proof.Machine.execSealInstall iss e s
  | .sealRemove iss e => Sys2Proof.Machine.execSealRemove iss e s
  | .attest iss e => Sys2Proof.Machine.execAttest iss e s
  | .fwStage iss e => Sys2Proof.Machine.execFwStage iss e s
  | .fwRoll iss e => Sys2Proof.Machine.execFwRoll iss e s
  | .keyRotate iss e => Sys2Proof.Machine.execKeyRotate iss e s
  | .reset iss e => Sys2Proof.Machine.execReset iss e s
  | .debugHalt iss e => Sys2Proof.Machine.execDebugHalt iss e s
  | .loopback iss e => Sys2Proof.Machine.execLoopback iss e s
  | .dirRead iss e => Sys2Proof.Machine.execDirRead iss e s
  | .regRead iss e => Sys2Proof.Machine.execRegRead iss e s
  | .regWrite iss e => Sys2Proof.Machine.execRegWrite iss e s
  | .portSet iss e => Sys2Proof.Machine.execPortSet iss e s
  | .domainJoin iss e => Sys2Proof.Machine.execDomainJoin iss e s
  | .leaseStatus iss e => Sys2Proof.Machine.execLeaseStatus iss e s
  | .deviceExpel iss e => Sys2Proof.Machine.execDeviceExpel iss e s
  | .quorumSet iss e => Sys2Proof.Machine.execQuorumSet iss e s
  | .sheafSet iss e => Sys2Proof.Machine.execSheafSet iss e s
  | .claim iss e => Sys2Proof.Machine.execClaim iss e s
  | .release iss e => Sys2Proof.Machine.execRelease iss e s
  | .claimList iss e => Sys2Proof.Machine.execClaimList iss e s
  | .snap fn => Sys2Proof.Machine.execSnap fn s
  | .go fn => Sys2Proof.Machine.execGo fn s
  | .pop fn => Sys2Proof.Machine.execPop fn s
  | .sqtailDoorbell fn lq value => Sys2Proof.Machine.execSqtailDoorbell fn lq value s
  | .cqheadDoorbell fn lq value => Sys2Proof.Machine.execCqheadDoorbell fn lq value s
  | .lwSel fn offset size value => Sys2Proof.Machine.execLwSel fn offset size value s
  | .rcvGo value image => Sys2Proof.Machine.execRcvGo value image s
  | .registerWrite fn offset size value => Sys2Proof.Machine.execRegisterWrite fn offset size value s
  | .clearFaults => Sys2Proof.Machine.execClearFaults s
  | .mfrPcap value => Sys2Proof.Machine.execMfrPcap value s
  | .setdasa addr dynamic => Sys2Proof.Machine.execSetdasa addr dynamic s
  | .entdaa dynamic => Sys2Proof.Machine.execEntdaa dynamic s
  | .extest => Sys2Proof.Machine.execExtest s
  | .extestPulse => Sys2Proof.Machine.execExtestPulse s
  | .extestTrain => Sys2Proof.Machine.execExtestTrain s
  | .trstN => Sys2Proof.Machine.execTrstN s
  | .coldStart => Sys2Proof.Machine.execColdStart s
  | .startupPhaseEnd r => Sys2Proof.Machine.execStartupPhaseEnd r s
  | .startupPhaseOverrun => Sys2Proof.Machine.execStartupPhaseOverrun s
  | .inputOutOfRange exceeds => Sys2Proof.Machine.execInputOutOfRange exceeds s
  | .resetN microseconds => Sys2Proof.Machine.execResetN microseconds s
  | .resetNRelease => Sys2Proof.Machine.execResetNRelease s
  | .ppsEdge widthNs sinceNs => Sys2Proof.Machine.execPpsEdge widthNs sinceNs s
  | .ptpTime tai => Sys2Proof.Machine.execPtpTime tai s
  | .holdover => Sys2Proof.Machine.execHoldover s
  | .refclkLoss => Sys2Proof.Machine.execRefclkLoss s
  | .thermalAlarm place temp => Sys2Proof.Machine.execThermalAlarm place temp s
  | .thermalTrip place temp => Sys2Proof.Machine.execThermalTrip place temp s
  | .thermalClear place temp => Sys2Proof.Machine.execThermalClear place temp s
  | .laneFault p lane cause => Sys2Proof.Machine.execLaneFault p lane cause s
  | .signalDetected p => Sys2Proof.Machine.execSignalDetected p s
  | .trainingDone p => Sys2Proof.Machine.execTrainingDone p s
  | .alignDone p => Sys2Proof.Machine.execAlignDone p s
  | .portStateTimeout p => Sys2Proof.Machine.execPortStateTimeout p s
  | .authRetry p => Sys2Proof.Machine.execAuthRetry p s
  | .linkDown p => Sys2Proof.Machine.execLinkDown p s
  | .rekeyDue p => Sys2Proof.Machine.execRekeyDue p s
  | .rekeyRetry p => Sys2Proof.Machine.execRekeyRetry p s
  | .sessionKeysExpired p => Sys2Proof.Machine.execSessionKeysExpired p s
  | .cxlPortUp c link => Sys2Proof.Machine.execCxlPortUp c link s
  | .cxlPortDown c => Sys2Proof.Machine.execCxlPortDown c s
  | .dynamicCapacityAdd c dpa units => Sys2Proof.Machine.execDynamicCapacityAdd c dpa units s
  | .trayReadCompletion c line answer => Sys2Proof.Machine.execTrayReadCompletion c line answer s
  | .trayReadTimeout c line => Sys2Proof.Machine.execTrayReadTimeout c line s
  | .trayWriteCompletion c line answer => Sys2Proof.Machine.execTrayWriteCompletion c line answer s
  | .trayWriteTimeout c line => Sys2Proof.Machine.execTrayWriteTimeout c line s
  | .trayTableEntryFree c => Sys2Proof.Machine.execTrayTableEntryFree c s
  | .hbmCorrectableError q stack pc row => Sys2Proof.Machine.execHbmCorrectableError q stack pc row s
  | .hbmUncorrectableError q stack pc bank line => Sys2Proof.Machine.execHbmUncorrectableError q stack pc bank line s
  | .pcDrainDone q stack pc => Sys2Proof.Machine.execPcDrainDone q stack pc s
  | .bellStrike => Sys2Proof.Machine.execBellStrike s
  | .portionClose q kind index r => Sys2Proof.Machine.execPortionClose q kind index r s
  | .hangDetected u => Sys2Proof.Machine.execHangDetected u s
  | .watchdogExpiry q => Sys2Proof.Machine.execWatchdogExpiry q s
  | .coreHealthFail q core => Sys2Proof.Machine.execCoreHealthFail q core s
  | .resetEnd scope selfTestFailed => Sys2Proof.Machine.execResetEnd scope selfTestFailed s
  | .escalated scope => Sys2Proof.Machine.execEscalated scope s
  | .orderlyFlushAbandoned => Sys2Proof.Machine.execOrderlyFlushAbandoned s
  | .pwrcycReq => Sys2Proof.Machine.execPwrcycReq s
  | .pwrcycTimeout => Sys2Proof.Machine.execPwrcycTimeout s
  | .flashOpDone => Sys2Proof.Machine.execFlashOpDone s
  | .leaseRenewalDue => Sys2Proof.Machine.execLeaseRenewalDue s
  | .leaseLost => Sys2Proof.Machine.execLeaseLost s
  | .leaseRegained => Sys2Proof.Machine.execLeaseRegained s
  | .telemetryPeriod t => Sys2Proof.Machine.execTelemetryPeriod t s
  | .capOverrun => Sys2Proof.Machine.execCapOverrun s
  | .lifetimeTick t margins badBer => Sys2Proof.Machine.execLifetimeTick t margins badBer s
  | .bellCheckpoint => Sys2Proof.Machine.execBellCheckpoint s
  | .deferredDue p src tag => Sys2Proof.Machine.execDeferredDue p src tag s
  | .aged p src tag => Sys2Proof.Machine.execAged p src tag s
  | .requestExpired p src tag => Sys2Proof.Machine.execRequestExpired p src tag s
  | .snoopTimeout q agent tag => Sys2Proof.Machine.execSnoopTimeout q agent tag s
  | .offerLapsed handle => Sys2Proof.Machine.execOfferLapsed handle s
  | .offerTableEntryFree q => Sys2Proof.Machine.execOfferTableEntryFree q s
  | .keyDrained handle slot => Sys2Proof.Machine.execKeyDrained handle slot s
  | .mapRetired => Sys2Proof.Machine.execMapRetired s
  | .moveCopyDone handle => Sys2Proof.Machine.execMoveCopyDone handle s
  | .moveComplete handle => Sys2Proof.Machine.execMoveComplete handle s
  | .tableFreed slot => Sys2Proof.Machine.execTableFreed slot s
  | .combiningGroupClose q line => Sys2Proof.Machine.execCombiningGroupClose q line s
  | .tallyAbsorb q line => Sys2Proof.Machine.execTallyAbsorb q line s
  | .tallyDemote q line => Sys2Proof.Machine.execTallyDemote q line s
  | .lineQueuePresentation p src tag => Sys2Proof.Machine.execLineQueuePresentation p src tag s
  | .frameAvailable q set => Sys2Proof.Machine.execFrameAvailable q set s
  | .dirtyWritebackDue q line => Sys2Proof.Machine.execDirtyWritebackDue q line s
  | .refusingStateTimeout q point src stall svc qp => Sys2Proof.Machine.execRefusingStateTimeout q point src stall svc qp s
  | .refuseTableClear q point => Sys2Proof.Machine.execRefuseTableClear q point s
  | .gatewayFlush handle block => Sys2Proof.Machine.execGatewayFlush handle block s
  | .scrubPage handle => Sys2Proof.Machine.execScrubPage handle s
  | .sheafPushDone handle => Sys2Proof.Machine.execSheafPushDone handle s
  | .rebuildDone handle => Sys2Proof.Machine.execRebuildDone handle s
  | .reencodeDone handle => Sys2Proof.Machine.execReencodeDone handle s
  | .jobAdmission qp => Sys2Proof.Machine.execJobAdmission qp s
  | .rowReadCompletion jobid pos => Sys2Proof.Machine.execRowReadCompletion jobid pos s
  | .jobTimeout jobid => Sys2Proof.Machine.execJobTimeout jobid s
  | .wjobTimeout jobid => Sys2Proof.Machine.execWjobTimeout jobid s
  | .shardTimeout jobid query rank => Sys2Proof.Machine.execShardTimeout jobid query rank s
  | .queryEpochHoldExpiry index jobid query => Sys2Proof.Machine.execQueryEpochHoldExpiry index jobid query s
  | .compactSwitch index part => Sys2Proof.Machine.execCompactSwitch index part s
  | .qpReleased qp => Sys2Proof.Machine.execQpReleased qp s
  | .interruptDelayExpiry qp => Sys2Proof.Machine.execInterruptDelayExpiry qp s
  | .fwCoreCheck q core passed => Sys2Proof.Machine.execFwCoreCheck q core passed s
  | .fwFlashWriteDone => Sys2Proof.Machine.execFwFlashWriteDone s
  | .memoryKeyUnitDone comp => Sys2Proof.Machine.execMemoryKeyUnitDone comp s
  | .journalWrite area => Sys2Proof.Machine.execJournalWrite area s
  | .hostDieReply xid mstat d => Sys2Proof.Machine.execHostDieReply xid mstat d s
  | .refclkRestored => Sys2Proof.Machine.execRefclkRestored s
  | .tripCleared q => Sys2Proof.Machine.execTripCleared q s
  | .sessionStepTimeout p => Sys2Proof.Machine.execSessionStepTimeout p s
  | .vinWarning mv => Sys2Proof.Machine.execVinWarning mv s
  | .ledgerWindowRead fn slots => Sys2Proof.Machine.execLedgerWindowRead fn slots s
  | .engineAccessResponse acc => Sys2Proof.Machine.execEngineAccessResponse acc s
  | .fineWheelSlot q slot => Sys2Proof.Machine.execFineWheelSlot q slot s
  | .coreHealthCheckPassed q core => Sys2Proof.Machine.execCoreHealthCheckPassed q core s
  | .lineQueueAgeing p src tag => Sys2Proof.Machine.execLineQueueAgeing p src tag s

end Sys2Proof.Machine
end

