-- ==== Sys2Proof/Machine/Step.lean ====
section
/-! DEFINITION. One step: the command at the front of the queue, or one SCLK when nothing waits. -/

namespace Sys2Proof.Machine

/-- One step. With a command waiting, the front one has its effect on the device with the queue's rest. With none,
one SCLK of the bell passes; the strike itself is a command (DESIGN CHOICE, log 1). -/
def step (s : State) : Host.Outcome State Fault Refusal :=
  match s.pending with
  | c :: rest => exec c { s with pending := rest }
  | [] => .next { s with time := { s.time with phase := min (s.time.phase + 1) 1399 } }

/-- The state with the command a table word spells at the front of its queue. -/
def State.withFetchWord (s : State) (nbits w : Nat) : State :=
  match decodeTableWord nbits w with
  | some c => { s with pending := c :: s.pending }
  | none => s

end Sys2Proof.Machine
end

