-- ==== Sys2Proof/Safety.lean ====
section
/-! DEFINITION. What the statements say of a state and of a command: the invariant that every step keeps, and the state a command gives. -/

namespace Sys2Proof.Machine

/-- What holds in every state that the machine can be in: memory is in its canonical form (addresses rising, no entry that says what
an unlisted byte reads as), and the SCLK of the bell is one of its 1,400 (R34). -/
def Inv (s : State) : Prop := Memory.wf s.tier.mem = true ∧ s.time.phase < 1400

/-- The command i, run on s, answers a next state: t, with the queue of waiting commands as s has it. -/
def Gives (i : Instr) (s t : State) : Prop := exec i s = .next { t with pending := s.pending }

/-- The rows of Table 3.6: the OPC of each request and the command that it is. -/
def requestRows : List (Nat × (Nat → ReqHdr → List Byte → Instr)) :=
  [(0x01, .load), (0x02, .store), (0x03, .storeMasked), (0x04, .loadShared), (0x05, .loadExcl), (0x06, .writeback), (0x07, .evictClean)
  , (0x10, .atomicAdd), (0x11, .atomicMin), (0x12, .atomicMax), (0x13, .atomicCas), (0x14, .atomicSwap), (0x15, .atomicAnd)
  , (0x16, .atomicOr), (0x17, .atomicXor), (0x20, .fence), (0x30, .publish), (0x31, .offer), (0x32, .accept), (0x33, .confirm)
  , (0x60, .xferRead), (0x61, .xferWrite)]

/-- What follows a request's arrival: answers to FENCEs go on, and a write that may have rung a doorbell (a STORE_MASKED, an ATOMIC_MAX) lets
the queue pairs of its region take what waits. -/
def afterRequest (opc : Nat) (h : ReqHdr) (s : State) : State :=
  if opc = 0x03 ∨ opc = 0x12 then afterDoorbell (releaseFences s) h else releaseFences s

/-- A request on an endpoint's or a gateway's port passes steps 1 to 3 of Table 1.2: the port is UP, the source is its own, the header and
payload are in form, the tag is free, no refusal point, limit, policer or buffer turns it away, the stall is bound to the source. -/
def entersDevice (s : State) (p opc : Nat) (h : ReqHdr) (d : List Byte) : Bool :=
  let ps := portOf s p
  portUp s p && ps.ptype != 1 && h.src == ps.epid && formOk opc h d && !isDuplicate s h.src h.tag
    && (if isXfer opc then ps.ptype != 2 else ps.ptype != 3 || opc == 0x20)
    && s.sw.refusing.isEmpty && s.sw.full.isEmpty && decide (outstanding s p < 8192)
    && (Tab.getD s.sw.policers (policerKey (portQuarter p) h.stall h.svc) {}).mode == 0 && isBound s h.stall h.src

/-- A request that has entered is one for the home agent of this device: the map its MEPOCH selects (m, and whether that is the previous one)
has its handle with this device as home, the region g is in service and not moved away, the buffer has room, the checks of Table 4.2
pass, no reset is in progress, the region takes the operation, and expanded data of a SEALED region may go to the port. -/
def comesHome (s : State) (p opc : Nat) (h : ReqHdr) (d : List Byte) (m : CompMap) (prev : Bool) (e : MapEntry) (g : Region) : Bool :=
  selectMap s h.mepoch == some (m, prev) && h.handle != 0 && h.handle != 0xFFFFFF && Tab.get? m.handles h.handle == some e
    && e.homedev == s.dom.devid && (movedTo s h.handle).isNone && inService s h.handle == some g
    && !bufferRefuses s p h d.length (0x100 + g.homeq % 4) && (!isXfer opc || hasRole s s.maps.cur g.comp 2)
    && (homeCheck s opc h (isXfer opc)).1 == OK && !deviceInReset s && !quarterInReset s g.homeq && !modeRefuses s g opc h false true
    && (!(g.sealed && isExpanded g opc h.raw) || policyOk s p g.handle)

/-- The request as the home agent is given it. -/
def arrivedReq (s : State) (p opc : Nat) (h : ReqHdr) (d : List Byte) (prev : Bool) (g : Region) : Req :=
  { org := .port, port := p, opc := opc, h := h, data := d, win := (portOf s p).window, prev := prev, q := g.homeq, comp := g.comp }

/-- The rows of Tables 16.9 to 16.16: the OPC of each mailbox command and the command that it is. -/
def mailboxRows : List (Nat × (Issuer → CmdEntry → Instr)) :=
  [(0x10, .regionCreate), (0x11, .regionDestroy), (0x12, .regionRead), (0x13, .keyIssue), (0x14, .keyRevoke), (0x15, .ownerSet)
  , (0x16, .gwBind), (0x17, .hbmSplit), (0x18, .trayDiscard), (0x19, .trayRelease), (0x20, .mapStage), (0x21, .mapSwitch)
  , (0x22, .mapStatus), (0x23, .movePrepare), (0x30, .stallSet), (0x31, .stallBind), (0x32, .quotaSet), (0x33, .policeSet)
  , (0x34, .schedSet), (0x35, .meterRead), (0x36, .engineSet), (0x40, .qpAssign), (0x41, .qpRead), (0x42, .qpRelease)
  , (0x43, .thresherReturn), (0x50, .tableLoad), (0x51, .tableRetire), (0x52, .indexLoad), (0x53, .indexPart), (0x54, .indexBatch)
  , (0x55, .indexCommit), (0x56, .indexQepoch), (0x57, .indexCompact), (0x58, .indexUnload), (0x60, .sealInstall), (0x61, .sealRemove)
  , (0x62, .attest), (0x63, .fwStage), (0x64, .fwRoll), (0x65, .keyRotate), (0x70, .reset), (0x71, .debugHalt), (0x72, .loopback)
  , (0x73, .dirRead), (0x74, .regRead), (0x75, .regWrite), (0x76, .portSet), (0x80, .domainJoin), (0x81, .leaseStatus)
  , (0x82, .deviceExpel), (0x83, .quorumSet), (0x84, .sheafSet), (0x90, .claim), (0x91, .release), (0x92, .claimList)]

/-- The state in which a mailbox command has just been taken and is the only one. -/
def taken (s : State) (i : Issuer) (opc : Nat) (e : CmdEntry) : State := takeCmd s i opc e

/-- A mailbox command is taken and passes the checks that every command passes first: no other command is outstanding anywhere, its issuer
reaches the device, its mailbox has room, and privilege, reserved fields and the audit limit allow it. -/
def mailboxTakes (s : State) (i : Issuer) (opc : Nat) (e : CmdEntry) : Bool :=
  s.mb.cmds.isEmpty && reaches s i && decide (mbOut s i.fn < 16) && (preCheck (taken s i opc e) (newCmd s i opc e) e).isNone

/-- The commands that set BELL anew, where they complete a start: the end of a phase of a cold start, the end of a reset. -/
def startsBell : Instr → Bool
  | .startupPhaseEnd _ => true
  | .resetEnd _ _ => true
  | _ => false

/-- The command in which the module may lose its power. -/
def losesPower : Instr → Bool
  | .inputOutOfRange _ => true
  | _ => false

/-- The commands whose own effect writes no byte of memory and lets no waiting request go on: messages that set up a link, time, power,
temperature, pins, and the times that fall due without a request's service. -/
def storesNothing : Instr → Bool
  | .spareReq .. | .spareAck .. | .window .. | .windowAck .. | .mboxRsp .. | .leaseRenew .. | .leaseGrant .. | .snap .. | .pop .. | .lwSel ..
  | .rcvGo .. | .registerWrite .. | .clearFaults | .mfrPcap .. | .setdasa .. | .entdaa .. | .extest | .extestPulse | .extestTrain | .trstN
  | .coldStart | .startupPhaseEnd .. | .resetNRelease | .ppsEdge .. | .ptpTime .. | .holdover | .refclkLoss | .thermalAlarm .. | .thermalClear ..
  | .signalDetected .. | .trainingDone .. | .alignDone .. | .rekeyDue .. | .rekeyRetry .. | .dynamicCapacityAdd .. | .trayWriteTimeout ..
  | .trayTableEntryFree .. | .pwrcycReq | .pwrcycTimeout | .flashOpDone | .leaseRenewalDue
  | .telemetryPeriod .. | .capOverrun | .lifetimeTick .. | .bellCheckpoint | .deferredDue .. | .mapRetired | .moveCopyDone .. | .tableFreed ..
  | .refusingStateTimeout .. | .refuseTableClear .. | .gatewayFlush .. | .qpReleased .. | .interruptDelayExpiry ..
  | .fwFlashWriteDone | .journalWrite .. | .hostDieReply .. | .refclkRestored | .tripCleared .. | .vinWarning ..
  | .ledgerWindowRead .. | .fineWheelSlot .. | .coreHealthCheckPassed .. => true
  | _ => false

/-- An engine message on an UP port that leads to no other domain: in form, on its traffic class, from the port's own source, and with no
earlier message of its sender and job waiting before it. -/
def engOpen (s : State) (p opc : Nat) (h : EngHdr) (d : List Byte) : Bool :=
  let ps := portOf s p
  portUp s p && h.ver == 1 && decide (h.len ≤ 64) && d.length == 64 * h.len && h.rsv == 0 && engTcOk opc h.tc && ps.ptype != 3
    && (ps.ptype == 1 || h.src == ps.epid) && !isMirror s opc h && !engBehind s p h

/-- A tray read that is answered: it leaves the port's table, and its latency is noted for the mean of Table 7.2. -/
def readTaken (s : State) (c line t : Nat) : State :=
  updCxl (updOps s c (·.filter (fun o => !isOp line false o))) c (fun x => { x with
    latencies := (s.time.bell, (now s - t) / 140) :: x.latencies.filter (fun l => decide (since s l.1 < 1000)) })

/-- The parts of a state that few commands write: memory, the lines of the line cache, BELL, the SCLK of the bell, the fuse minimum. -/
structure View where
  mem : List Host.Cell
  cache : List CacheLine
  bell : Word
  phase : Nat
  minSvn : Nat

/-- A state's view. -/
abbrev State.view (s : State) : View := { mem := s.tier.mem, cache := s.tier.lineCache, bell := s.time.bell, phase := s.time.phase, minSvn := s.sec.minSvn }

end Sys2Proof.Machine
end

