-- ==== Sys2Proof/Certificates/Slice0/Obligations.lean ====
section
/-! DEFINITION. The statements for the provers. `Gives i s t` (Safety.lean) says that exec i s answers the next state t with the queue of s:
each such conclusion says that the command completes, and, as t is an update of s, that everything the update does not name is as it
was. A clause that follows a choice of the model names the log entry. -/

open Sys2Proof Sys2Proof.Machine

/-! ### The machine -/

/-- With a command at the front of the queue, a step is that command's effect with the queue's rest (log 1). -/
def Obligations.StepRunsTheFrontCommand : Prop :=
  ∀ (c : Instr) (rest : List Instr) (s : State), s.pending = c :: rest → step s = exec c { s with pending := rest }

/-- With nothing waiting a step lets one SCLK of the bell pass and changes nothing else, up to the last SCLK before the strike, which is
a command of its own (the model's choice, log 1). -/
def Obligations.IdleStepPassesOneSclk : Prop :=
  ∀ s : State, s.pending = [] →
    ∃ t, step s = .next t ∧ t = { s with time := { s.time with phase := t.time.phase } }
      ∧ (s.time.phase < 1399 → t.time.phase = s.time.phase + 1) ∧ (1399 ≤ s.time.phase → t.time.phase = 1399)

/-- Every command answers a next state and takes nothing from the queue and adds nothing to it. -/
def Obligations.EveryCommandCompletes : Prop :=
  ∀ (i : Instr) (s : State), ∃ t, exec i s = .next t ∧ t.pending = s.pending

/-- The invariant holds at reset. -/
def Obligations.ResetMeetsInvariant : Prop := Machine.Inv State.reset

/-- Every step keeps the invariant: memory stays in its canonical form, and the SCLK of the bell stays one of its 1,400. -/
def Obligations.StepKeepsInvariant : Prop :=
  ∀ s t : State, Machine.Inv s → step s = .next t → Machine.Inv t

/-- After reset: no bell has struck, TAI is not valid, no port or function has left its reset values, the interrupt vector of every
mailbox is 0x1FF, every memory byte reads the value of an unlisted byte (the model's choice, log 4), and nothing waits. -/
def Obligations.ResetState : Prop :=
  State.reset.time.bell = 0 ∧ State.reset.time.valid = false ∧ State.reset.pkg.powered = false ∧ State.reset.pkg.ready = false
    ∧ (∀ p, (portOf State.reset p).st = .off) ∧ (∀ fn, (funcOf State.reset fn).ivec = 0x1FF)
    ∧ (∀ a, Memory.get State.reset.tier.mem a = Memory.blank) ∧ State.reset.home.reqs = [] ∧ State.reset.mb.cmds = []
    ∧ State.reset.pending = []

/-- BELL goes up by exactly one at a strike of a powered device, and the SCLK of the bell starts again; no other command changes BELL, but for the commands that
complete a start (which set it to the checkpoint plus 2^30 after a cold start, and leave it else) and a loss of power. -/
def Obligations.BellAdvancesAtStrikesAlone : Prop :=
  (∀ s : State, s.pkg.powered = true → ∃ t, Gives .bellStrike s t ∧ t.time.bell = s.time.bell + 1 ∧ t.time.phase = 0)
  ∧ (∀ s : State, s.pkg.powered = false → Gives .bellStrike s s)
  ∧ (∀ (i : Instr) (s t : State), exec i s = .next t → i ≠ .bellStrike → startsBell i = false → losesPower i = false →
      t.time.bell = s.time.bell ∧ t.time.phase = s.time.phase)
  ∧ (∀ (i : Instr) (s t : State), exec i s = .next t → startsBell i = true → s.pkg.cold = false →
      t.time.bell = s.time.bell ∧ t.time.phase = s.time.phase)

/-- The fuse minimum of the firmware's security version never falls, whatever the command, and the end of a roll's write raises it to the
minimum of the new image. -/
def Obligations.FuseMinimumNeverFalls : Prop :=
  (∀ (i : Instr) (s t : State), exec i s = .next t → s.sec.minSvn ≤ t.sec.minSvn)
  ∧ (∀ (s : State) (r : Roll) (img : FwImage), s.sec.roll = some r → r.writing = true → s.sec.staged = some img →
      ∃ t, Gives .fwFlashWriteDone s t ∧ t.sec.minSvn = max s.sec.minSvn img.minsvn)

/-! ### Memory -/

/-- Bytes written are the bytes read, at every address and of every length. A write leaves every byte outside it as it was. -/
def Obligations.BytesWrittenAreTheBytesRead : Prop :=
  (∀ (m : List Host.Cell) (a : Nat) (d : List Byte), Memory.wf m = true → Memory.read (Memory.write m a d) a d.length = d)
  ∧ (∀ (m : List Host.Cell) (a : Nat) (d : List Byte) (x : Nat), Memory.wf m = true → (x < a ∨ a + d.length ≤ x) →
      Memory.get (Memory.write m a d) x = Memory.get m x)

/-- Memories in canonical form that read alike everywhere are one memory. -/
def Obligations.MemoryIsWhatItReads : Prop :=
  ∀ m n : List Host.Cell, Memory.wf m = true → Memory.wf n = true → (∀ a, Memory.get m a = Memory.get n a) → m = n

/-- The commands of `storesNothing` leave every byte of memory as it was, and every line that the line cache holds: a line reads after
them as it read before, in the cache and below it. -/
def Obligations.CommandsThatStoreNothing : Prop :=
  ∀ (i : Instr) (s t : State), storesNothing i = true → exec i s = .next t →
    (∀ a, Memory.get t.tier.mem a = Memory.get s.tier.mem a) ∧ t.tier.lineCache = s.tier.lineCache

/-! ### Registers of BAR0 -/

/-- SNAP latches BELL, TAI (its time stamp while TAI is not valid) and the SCLK of the bell into the registers of its own function, and
changes no other function's (R51). -/
def Obligations.SnapLatchesOneFunction : Prop :=
  ∀ (fn : Nat) (s : State), ∃ t, Gives (.snap fn) s t
    ∧ (funcOf t fn) = { funcOf s fn with bellSnap := s.time.bell, taiSnap := stampAt s.time, phaseSnap := s.time.phase }
    ∧ (∀ g, g ≠ fn → funcOf t g = funcOf s g) ∧ t = { s with funcs := t.funcs }

/-- POP removes the oldest response of its function's FIFO, and no other function's. LW_SEL holds PAGE in bits 59:13 and SOURCE in bits 8:0 of the
bits written; its other bits read 0. GO hands the words of MB_CMD to the mailbox of its function as one command, with the OPC and the entry they
spell (R414). -/
def Obligations.MailboxRegisters : Prop :=
  (∀ (fn : Nat) (s : State), ∃ t, Gives (.pop fn) s t
      ∧ (funcOf t fn) = { funcOf s fn with fifo := (funcOf s fn).fifo.drop 1 }
      ∧ (∀ g, g ≠ fn → funcOf t g = funcOf s g) ∧ t = { s with funcs := t.funcs })
  ∧ (∀ (fn offset size : Nat) (value : Word) (s : State), ∃ t, Gives (.lwSel fn offset size value) s t
      ∧ (funcOf t fn).lwSel = merged (funcOf s fn).lwSel (writeBits offset size value) &&& 0x0FFFFFFFFFFFE1FF#64
      ∧ t = { s with funcs := t.funcs } ∧ (∀ g, g ≠ fn → funcOf t g = funcOf s g))
  ∧ (∀ (fn : Nat) (s : State), mbOut s fn < 16 → fn ≤ 128 →
      Gives (.go fn) s (settleAll (runMailboxes (takeCmd s (issuerOf fn) (entryOf (funcOf s fn).cmd).1 (entryOf (funcOf s fn).cmd).2))))

/-- REGISTER_WRITE outside recovery, whole words and halves (only the bits written change): word i of MB_CMD, at 0x410 and up, takes the
value and no other word does; the register at 0x400 keeps bits 17:9; bit 1 written as 1 at 0x408 clears OVERRUN, unless the device set
it in the same SCLK (R10); bit 37 of the PF's register at 0x100 written as 1 clears STEPPED likewise; from 0x20000 on a write reaches the function's MSI-X table in BAR2 (the model's choice,
log 151); what has no such effect changes nothing. -/
def Obligations.PlainRegistersTakeWrites : Prop :=
  ∀ (fn offset size : Nat) (value : Word) (s : State), s.pkg.recovery = false →
    (∀ i, i < 14 → offset / 8 * 8 = 0x410 + 8 * i → ∃ t, Gives (.registerWrite fn offset size value) s t ∧ t = { s with funcs := t.funcs }
      ∧ (∀ k, k < 14 → (funcOf t fn).cmd.getD k 0 =
          if k = i then merged ((funcOf s fn).cmd.getD k 0) (writeBits offset size value) else (funcOf s fn).cmd.getD k 0)
      ∧ (funcOf t fn) = { funcOf s fn with cmd := (funcOf t fn).cmd } ∧ (∀ g, g ≠ fn → funcOf t g = funcOf s g))
    ∧ (offset / 8 * 8 = 0x400 → ∃ t, Gives (.registerWrite fn offset size value) s t ∧ t = { s with funcs := t.funcs }
      ∧ (funcOf t fn) = { funcOf s fn with ivec := fld (merged (pack [(9, (funcOf s fn).ivec)]) (writeBits offset size value)) 17 9 }
      ∧ (∀ g, g ≠ fn → funcOf t g = funcOf s g))
    ∧ (offset / 8 * 8 = 0x408 → bit (writeBits offset size value).1 1 = true →
      ∃ t, Gives (.registerWrite fn offset size value) s t ∧ t = { s with funcs := t.funcs }
      ∧ (funcOf t fn) = { funcOf s fn with overrun := (funcOf s fn).overrun && (funcOf s fn).overrunAt == now s } ∧ (∀ g, g ≠ fn → funcOf t g = funcOf s g))
    ∧ (offset / 8 * 8 = 0x408 → bit (writeBits offset size value).1 1 = false → Gives (.registerWrite fn offset size value) s s)
    ∧ (offset / 8 * 8 = 0x100 → fn = 0 → bit (writeBits offset size value).1 37 = true →
      Gives (.registerWrite fn offset size value) s { s with time := { s.time with stepped := s.time.stepped && s.time.steppedAt == now s } })
    ∧ (offset / 8 * 8 = 0x100 → (fn ≠ 0 ∨ bit (writeBits offset size value).1 37 = false) → Gives (.registerWrite fn offset size value) s s)
    ∧ (0x20000 ≤ offset → offset / 8 * 8 < 0x20000 + 16 * msixVectors fn →
      ∃ t, Gives (.registerWrite fn offset size value) s t ∧ t = { s with funcs := t.funcs }
      ∧ funcOf t fn = (funcOf s fn).msixWrite s.fab.front (s.fab.sriov.routingId fn) (offset / 8 * 8 - 0x20000) (writeBits offset size value) ∧ (∀ g, g ≠ fn → funcOf t g = funcOf s g))
    ∧ ((offset / 8 * 8 < 0x400 ∨ 0x480 ≤ offset / 8 * 8) → offset / 8 * 8 ≠ 0x100 →
      (offset < 0x20000 ∨ 0x20000 + 16 * msixVectors fn ≤ offset / 8 * 8) → Gives (.registerWrite fn offset size value) s s)

/-- In recovery the PF's writes reach RCV_ADDR and the low half of RCV_LEN, and RCV_GO with GO set in STATE 0 or 5 fetches the image: one
that fails leaves STATE 5 with its failing check and the flash as it was; one that verifies puts the flash to work in STATE 3. RCV_GO in
another STATE, without GO, or outside recovery has no effect. -/
def Obligations.RecoveryTakesAnImage : Prop :=
  ∀ (offset size : Nat) (value : Word) (image : List Byte) (s : State),
    (s.pkg.recovery = true → offset / 8 * 8 = 0x408 →
      Gives (.registerWrite 0 offset size value) s { s with pkg := { s.pkg with rcvAddr := merged s.pkg.rcvAddr (writeBits offset size value) } })
    ∧ (s.pkg.recovery = true → offset / 8 * 8 = 0x410 →
      Gives (.registerWrite 0 offset size value) s { s with pkg := { s.pkg with
        rcvLen := (merged (word s.pkg.rcvLen) (writeBits offset size value)).toNat % 2 ^ 32 } })
    ∧ (s.pkg.recovery = true → bit value 0 = true → (s.pkg.rcvState = 0 ∨ s.pkg.rcvState = 5) →
      let img := imageOf s.sec.minSvn (image.take s.pkg.rcvLen)
      Gives (.rcvGo value image) s { s with pkg :=
        if img.fails = 0 then { s.pkg with rcvState := 3, rcvFail := 0, rcvProgress := 0, rcvImage := img, flash := { s.pkg.flash with busy := true } }
        else { s.pkg with rcvState := 5, rcvFail := img.fails } })
    ∧ ((s.pkg.recovery = false ∨ bit value 0 = false ∨ (1 ≤ s.pkg.rcvState ∧ s.pkg.rcvState ≤ 4)) → Gives (.rcvGo value image) s s)

/-! ### Pins, buses, boundary scan and time -/

/-- EXTEST, EXTEST_PULSE and EXTEST_TRAIN act while RESET_N is held low, and as BYPASS at any other time. -/
def Obligations.BoundaryScanNeedsResetLow : Prop :=
  ∀ s : State,
    Gives .extest s { s with pkg := { s.pkg with tap := if s.pkg.resetLow then 1 else 0 } }
    ∧ Gives .extestPulse s { s with pkg := { s.pkg with tap := if s.pkg.resetLow then 2 else 0 } }
    ∧ Gives .extestTrain s { s with pkg := { s.pkg with tap := if s.pkg.resetLow then 3 else 0 } }

/-- TRST_N brings the TAP to its reset state, with IDCODE selected, and nothing else. SETDASA to the static address 0x30 + ADDR, and ENTDAA, give a
target that answers (from the end of phase 2) and has no dynamic address that address; SETDASA to another address changes nothing. The loss of
REFCLK_F0 and its return move the clock source, and leave everything else as it is: no bell is lost. -/
def Obligations.PinsAndManagementBuses : Prop :=
  (∀ s : State, Gives .trstN s { s with pkg := { s.pkg with tap := 4 } })
  ∧ (∀ (addr dynamic : Nat) (s : State), 2 < s.pkg.phase → s.pkg.i3cDynamic = none → dynamic < 128 →
      (addr = 0x30 + s.pkg.addr → Gives (.setdasa addr dynamic) s { s with pkg := { s.pkg with i3cDynamic := some dynamic } })
      ∧ (addr ≠ 0x30 + s.pkg.addr → Gives (.setdasa addr dynamic) s s)
      ∧ Gives (.entdaa dynamic) s { s with pkg := { s.pkg with i3cDynamic := some dynamic } })
  ∧ (∀ s : State, Gives .refclkLoss s { s with time := { s.time with refclkLost := true } }
      ∧ Gives .refclkRestored s { s with time := { s.time with refclkLost := false } })

/-- A PPS edge 1 µs to 500 ms wide and within 1 s ± 100 µs of the last accepted one is accepted: PPS_OK is set, the bell and the rate of the local oscillator noted, and with valid TAI
outside holdover the offset to the nearest second is slewed out. An edge out of width, or at another distance while PPS_OK is set, is ignored.
(The first edge has none before it: log 29.) IEEE 1588 time: the first labels the second and makes TAI valid, with a record; later a time up to 1
s ahead is slewed to and TAI does not jump; more than 1 s ahead it is stepped to and STEPPED is set, with a record. HOLDOVER without PPS enters
holdover, with a record. -/
def Obligations.TimeFollowsItsSources : Prop :=
  (∀ (widthNs sinceNs : Nat) (s : State),
      (1000 ≤ widthNs → widthNs ≤ 500000000 → 999900000 ≤ sinceNs → sinceNs ≤ 1000100000 → s.time.valid = true → s.time.holdover = false →
        Gives (.ppsEdge widthNs sinceNs) s { s with time := { s.time with
          ppsOk := true, lastPps := some s.time.bell, rateBells := measuredRate s.time, slewLeft := secondOffset s.time } })
      ∧ (1000 ≤ widthNs → widthNs ≤ 500000000 → 999900000 ≤ sinceNs → sinceNs ≤ 1000100000 → s.time.valid = false →
        Gives (.ppsEdge widthNs sinceNs) s { s with time := { s.time with
          ppsOk := true, lastPps := some s.time.bell, rateBells := measuredRate s.time } })
      ∧ ((widthNs < 1000 ∨ 500000000 < widthNs ∨ (s.time.ppsOk = true ∧ (sinceNs < 999900000 ∨ 1000100000 < sinceNs))) →
        Gives (.ppsEdge widthNs sinceNs) s s))
  ∧ (∀ (tai : Word) (s : State),
      (s.time.valid = false → Gives (.ptpTime tai) s (timeRecord { s with time := { s.time with
        ptpOk := true, tai := tai - phaseNs s.time, valid := true, slewLeft := 0 } } 0x0105 s.time.bell tai))
      ∧ (s.time.valid = true → s.time.holdover = false → (tai.toNat : Int) - ((taiNow s.time).toNat : Int) ≤ 1000000000 →
        Gives (.ptpTime tai) s { s with time := { s.time with
          ptpOk := true, slewLeft := (tai.toNat : Int) - ((taiNow s.time).toNat : Int) } })
      ∧ (s.time.valid = true → s.time.holdover = false → 1000000000 < (tai.toNat : Int) - ((taiNow s.time).toNat : Int) →
        Gives (.ptpTime tai) s (timeRecord { s with time := { s.time with
          ptpOk := true, tai := tai - phaseNs s.time, stepped := true, steppedAt := now s, slewLeft := 0 } } 0x0102 (taiNow s.time) tai))
      ∧ (s.time.valid = true → s.time.holdover = false → s.time.ppsOk = false →
        Gives .holdover s (timeRecord { s with time := { s.time with ptpOk := false, holdover := true, slewLeft := 0 } } 0x0103 s.time.bell
          (BitVec.ofInt 64 s.time.slewLeft))))

/-! ### Power, temperature, lifetime and the ledger -/

/-- CLEAR_FAULTS clears the latched bits whose condition has ended: STATUS_INPUT bit 7 unless the input is over 62 V and bit 4 unless it is under 38
V; STATUS_TEMPERATURE bits 7, 6 and 5 unless a place is at trip, alarm or warning. Every other bit stays. A write to MFR_PCAP from 1,000 to 3,300
is taken, and the effective cap stays until the next telemetry period; another value is refused and changes nothing. A telemetry period at a bell
that is a multiple of 1,000: the effective cap is the minimum of MFR_PCAP, 3,300 W, VIN × 82 W and the thermal cap, and STATUS_INPUT bit 5 stands
while VIN lies below 42 V or above 58 V. Only the power registers and the ledger change. VIN_WARNING takes the input voltage: STATUS_INPUT bit 5
stands while VIN lies below 42 V or above 58 V, and a crossing is recorded. CAP_OVERRUN after 1,000 bells over the cap sets STATUS_INPUT bit 0 and
writes one record; where the bit stands, or fewer bells have passed, nothing changes. -/
def Obligations.PowerRegistersFollowTheInput : Prop :=
  (∀ s : State, ∃ t, Gives .clearFaults s t
      ∧ t = { s with pwr := { s.pwr with statusInput := t.pwr.statusInput, statusTemp := t.pwr.statusTemp } }
      ∧ (∀ i, i < 8 → t.pwr.statusInput.getLsbD i =
          (s.pwr.statusInput.getLsbD i && (i != 7 || decide (62000 < s.pwr.vin)) && (i != 4 || decide (s.pwr.vin < 38000))))
      ∧ (∀ i, i < 8 → t.pwr.statusTemp.getLsbD i = (s.pwr.statusTemp.getLsbD i && (i != 7 || !s.pwr.trip.isEmpty)
          && (i != 6 || !s.pwr.alarm.isEmpty) && (i != 5 || !s.pwr.warning.isEmpty))))
  ∧ (∀ (value : Nat) (s : State),
      (1000 ≤ value → value ≤ 3300 → Gives (.mfrPcap value) s { s with pwr := { s.pwr with pcap := value } })
      ∧ ((value < 1000 ∨ 3300 < value) → Gives (.mfrPcap value) s s))
  ∧ (∀ (r : Telemetry) (s : State), bellN s % 1000 = 0 →
      ∃ t, Gives (.telemetryPeriod r) s t ∧ t = { s with pwr := t.pwr, led := t.led }
        ∧ t.pwr.cap = min (min (min t.pwr.pcap 3300) t.pwr.thermalCap) (r.vinMv * 82 / 1000) ∧ t.pwr.pcap = s.pwr.pcap
        ∧ t.pwr.vin = r.vinMv ∧ t.pwr.statusInput.getLsbD 5 = !(decide (42000 ≤ r.vinMv) && decide (r.vinMv ≤ 58000)))
  ∧ (∀ (mv : Nat) (s : State), ∃ t, Gives (.vinWarning mv) s t ∧ t = { s with pwr := t.pwr, led := t.led } ∧ t.pwr.vin = mv
      ∧ t.pwr.statusInput.getLsbD 5 = !(decide (42000 ≤ mv) && decide (mv ≤ 58000))
      ∧ (s.pwr.vinOut = !(decide (42000 ≤ mv) && decide (mv ≤ 58000)) → t.led = s.led))
  ∧ (∀ s : State,
      (1000 ≤ s.pwr.overBells → s.pwr.statusInput.getLsbD 0 = false →
        Gives .capOverrun s (record { s with pwr := { s.pwr with statusInput := s.pwr.statusInput ||| 1#8 } }
          { code := 0x1603, kind := 0x0E, p0 := word s.pwr.cap, p1 := word s.pwr.last.pinW, p2 := s.time.bell }))
      ∧ ((s.pwr.overBells < 1000 ∨ s.pwr.statusInput.getLsbD 0 = true) → Gives .capOverrun s s))

/-- A thermal alarm of a place not at alarm: engines are held at level 14 from the next strike, STATUS_TEMPERATURE bit 6 is set, ALERT_N
is asserted (low), the place is at alarm. A place that is at alarm and has cooled leaves it, and the hold ends with the last place. -/
def Obligations.ThermalAlarmAndClear : Prop :=
  ∀ (place : ThermalPlace) (temp : Nat) (s : State),
    (limitOf place 100 ≤ temp → place ∉ s.pwr.alarm → ∃ t, Gives (.thermalAlarm place temp) s t
      ∧ t = { s with pwr := t.pwr, led := t.led } ∧ t.pwr.alarm = s.pwr.alarm ++ [place] ∧ t.pwr.floor = 14 ∧ t.pwr.alertN = false
      ∧ t.pwr.statusTemp = s.pwr.statusTemp ||| 0x40#8)
    ∧ (temp ≤ limitOf place 95 → place ∈ s.pwr.alarm → ∃ t, Gives (.thermalClear place temp) s t
      ∧ t = { s with pwr := t.pwr, led := t.led } ∧ t.pwr.alarm = s.pwr.alarm.filter (· != place)
      ∧ (t.pwr.alarm = [] → t.pwr.floor = 0) ∧ t.pwr.statusTemp = s.pwr.statusTemp)

/-- A lifetime tick at a multiple of 1,000,000 of the powered-on count: counted once, each stack and die of the report counts its hot tick, and the
correctable errors counted per row start again. Only the power registers, the ledger and those counts change. BELL_CHECKPOINT at a multiple of
2^30 bells writes BELL, the lifetime counters and the powered-on count to the flash. JOURNAL_WRITE of an area of which a page is due (for the
audit area, only where no segment slot it needs is uncollected) takes up to 64 of its pending records, the oldest, into the area; the journals of
other areas stay as they are. Reading the MARK words of records through the PF's window marks them read and takes the segments now read whole off
the list of segments not collected; while LEDGER_FULL does not stand nothing else changes. -/
def Obligations.LedgerAndLifetime : Prop :=
  (∀ (r : Telemetry) (margins badBer : List Nat) (s : State), s.time.powered.toNat % 1000000 = 0 → s.time.powered ≠ s.pwr.lastTick →
      ∃ t, Gives (.lifetimeTick r margins badBer) s t ∧ t = { s with pwr := t.pwr, led := t.led, tier := { s.tier with rowErrors := [] } }
        ∧ t.pwr.lastTick = s.time.powered ∧ t.pwr.life.ticks = upN 64 s.pwr.life.ticks)
  ∧ (∀ s : State, s.pkg.powered = true → s.pkg.cold = false → bellN s % 2 ^ 30 = 0 → s.time.bell ≠ s.pkg.flash.bell →
      ∃ t, Gives .bellCheckpoint s t ∧ t = { s with led := t.led, pkg := { s.pkg with flash := { s.pkg.flash with
        bell := s.time.bell, life := s.pwr.life, powered := s.time.powered, fresh := false } } })
  ∧ (∀ (area : Nat) (s : State), journalDue s area = true →
      (area = 0 → slotTaken s (((s.led.pend.filter (fun e => ringArea e.1 == area)).take 64).map (·.2.2)) = false) →
      ∃ t, Gives (.journalWrite area) s t ∧ t = { s with led := t.led, pwr := { s.pwr with alertN := t.pwr.alertN } }
        ∧ (∀ other, other ≠ area → Tab.getD t.led.journal other [] = Tab.getD s.led.journal other [])
        ∧ (area ≠ 0 → ∀ e ∈ (s.led.pend.filter (fun e => ringArea e.1 == area)).take 64, (e.1, e.2.2) ∈ Tab.getD t.led.journal area []))
  ∧ (∀ (slots : List Nat) (s : State), fld (funcOf s 0).lwSel 8 0 = 0x10 → s.led.full = false →
      ∃ t, Gives (.ledgerWindowRead 0 slots) s t
        ∧ t = { s with led := { s.led with marksRead := t.led.marksRead, uncollected := t.led.uncollected } }
        ∧ (∀ n, n ∈ t.led.uncollected ↔ n ∈ s.led.uncollected ∧ segmentRead ((slots.map (fun i => 512 * fld (funcOf s 0).lwSel 59 13 + i)).filter
            (fun n => decide (n < (Tab.getD s.led.rings 0x10 {}).next)) |>.foldl addOnce s.led.marksRead) n = false))

/-! ### Requests -/

/-- A request that enters the device and comes home here is admitted by the home agent, with its port, window, map and quarter, and served
as far as it goes. -/
def Obligations.RequestsAreAdmitted : Prop :=
  ∀ (row : Nat × (Nat → ReqHdr → List Byte → Instr)) (p : Nat) (h : ReqHdr) (d : List Byte) (s : State) (m : CompMap) (prev : Bool)
    (e : MapEntry) (g : Region), row ∈ requestRows → entersDevice s p row.1 h d = true → comesHome s p row.1 h d m prev e g = true →
    Gives (row.2 p h d) s (afterRequest row.1 h (admitReq s (arrivedReq s p row.1 h d prev g) g))

/-- A request that enters the device and whose handle another device is home of goes on to that device on a port that leads there, and is remembered
until the answer. Its own bytes go on unchanged. The answer to a forwarded request, found by its home, source and tag, goes to the requester with
ORIGID 0 and the request is forgotten; a DEFERRED goes on and is counted. An answer that matches none is recorded. -/
def Obligations.RequestsForOtherHomesAreForwarded : Prop :=
  (∀ (row : Nat × (Nat → ReqHdr → List Byte → Instr)) (p out : Nat) (h : ReqHdr) (d : List Byte) (s : State) (m : CompMap) (prev : Bool)
      (e : MapEntry), row ∈ requestRows → entersDevice s p row.1 h d = true → selectMap s h.mepoch = some (m, prev) →
      h.handle ≠ 0 → h.handle ≠ 0xFFFFFF → Tab.get? m.handles h.handle = some e → e.homedev ≠ s.dom.devid → movedTo s h.handle = none →
      bufferRefuses s p h d.length (0x100 + homeKey s m h.handle % 4) = false → (isXfer row.1 = true → hasRole s s.maps.cur e.comp 2 = true) →
      e.homedev ∉ s.dom.expelled → pickPort (portsToDevice s e.homedev) h.src h.stall h.svc h.qp = some out →
      Gives (row.2 p h d) s (afterRequest row.1 h (send { s with
        home := { s.home with nextId := s.home.nextId + 1 }
        fab := { s.fab with relays := s.fab.relays ++ [{ order := s.home.nextId, home := e.homedev, port := p, out := out, opc := row.1, h := h
                                                         prev := prev, bell := s.time.bell, win := (portOf s p).window, comp := e.comp }] } }
        out (.req row.1 h d))))
  ∧ (∀ (p : Nat) (h : RspHdr) (d : List Byte) (s : State), portUp s p = true →
      (∀ r, s.fab.relays.find? (fun r => r.home == h.src && r.h.src == h.origid && r.h.tag == h.tag && r.held.isNone) = some r →
        r.acc = none → r.cxl = none → r.opc ≠ 0x20 →
        (h.status ≠ DEFERRED → Gives (.forwardedResponse p h d) s (settleAll (sendResponse
          { s with fab := { s.fab with relays := s.fab.relays.filter (fun e => e.order != r.order) } } r.port r.h.src { h with origid := 0 } d 0)))
        ∧ (h.status = DEFERRED → Gives (.forwardedResponse p h d) s (sendResponse { s with fab := { s.fab with
            relays := adjustWhere s.fab.relays (fun e => e.order == r.order) (fun e => { e with deferrals := e.deferrals + 1, lastDefer := s.time.bell }) } }
            r.port r.h.src { h with origid := 0 } d 0)))
      ∧ (s.fab.relays.find? (fun r => r.home == h.src && r.h.src == h.origid && r.h.tag == h.tag && r.held.isNone) = none →
        Gives (.forwardedResponse p h d) s (recordRate s p
          { code := 0x0305, quarter := portQuarter p, kind := 2, inst := portInst p, p0 := pack [(16, h.src), (0, h.tag)], p1 := word p })))

/-- A request on a port that is not UP has no effect but to let what already waits go on; one with the wrong source is discarded and
recorded; one out of form, or with a TAG of its source still outstanding, is answered UNSUPPORTED. None reaches a home. -/
def Obligations.BadRequestsAreTurnedAway : Prop :=
  ∀ (row : Nat × (Nat → ReqHdr → List Byte → Instr)) (p : Nat) (h : ReqHdr) (d : List Byte) (s : State), row ∈ requestRows →
    (portUp s p = false → Gives (row.2 p h d) s (afterRequest row.1 h s))
    ∧ (portUp s p = true → (portOf s p).ptype ≠ 1 → h.src ≠ (portOf s p).epid →
      Gives (row.2 p h d) s (afterRequest row.1 h (discardMessage s p h.src 0 2)))
    ∧ (portUp s p = true → (portOf s p).ptype ≠ 1 → h.src = (portOf s p).epid →
      (formOk row.1 h d = false ∨ isDuplicate s h.src h.tag = true) →
      Gives (row.2 p h d) s (afterRequest row.1 h (refuse s p row.1 h UNSUPPORTED 0 0)))

/-- The checks of Table 4.2 at the home, in their order: the region, the key, the bounds, coherence, the fence; the first that fails
decides. While the keys of a region that moves here have not come, what arrives is held, and checked when they come (log 162). -/
def Obligations.HomeChecksInOrder : Prop :=
  ∀ (s : State) (opc : Nat) (h : ReqHdr) (nonCaching : Bool),
    (inService s h.handle = none → homeCheck s opc h nonCaching = (NO_REGION, 0))
    ∧ (∀ g, inService s h.handle = some g → awaitsKeys s h.handle = true → homeCheck s opc h nonCaching = (OK, 0))
    ∧ (∀ g, inService s h.handle = some g → awaitsKeys s h.handle = false →
      (keyTest s g h.key h.stall (rightsNeeded opc) ≠ OK →
        homeCheck s opc h nonCaching = (keyTest s g h.key h.stall (rightsNeeded opc), 0))
      ∧ (keyTest s g h.key h.stall (rightsNeeded opc) = OK → viewBytes s g opc h.raw < h.offset + max h.len 1 * 64 →
        homeCheck s opc h nonCaching = (OUT_OF_BOUNDS, 0))
      ∧ (keyTest s g h.key h.stall (rightsNeeded opc) = OK → h.offset + max h.len 1 * 64 ≤ viewBytes s g opc h.raw → g.mode = 1 →
        (nonCaching = true ∨ h.src ∉ s.dom.caching) → homeCheck s opc h nonCaching = (NOT_COHERENT, 0))
      ∧ (keyTest s g h.key h.stall (rightsNeeded opc) = OK → h.offset + max h.len 1 * 64 ≤ viewBytes s g opc h.raw →
        (g.mode ≠ 1 ∨ (nonCaching = false ∧ h.src ∈ s.dom.caching)) → g.fenced = true → 2 ≤ rightsNeeded opc →
        homeCheck s opc h nonCaching = (READ_ONLY, s.dom.devid))
      ∧ (keyTest s g h.key h.stall (rightsNeeded opc) = OK → h.offset + max h.len 1 * 64 ≤ viewBytes s g opc h.raw →
        (g.mode ≠ 1 ∨ (nonCaching = false ∧ h.src ∈ s.dom.caching)) → (g.fenced = false ∨ rightsNeeded opc < 2) →
        homeCheck s opc h nonCaching = (OK, 0)))

/-- Service of one line of a STORE, a STORE_MASKED or an XFER_WRITE of an OWNED region whose line is in near memory, not poisoned, held by nothing and
under no parity: the line reads as the new bytes whole (for STORE_MASKED, only the bytes that MASK enables differ), and every other line reads as
before. The bytes go to the line cache (R576); where its set is full, the dirty line that it gives up is written to its own place, and no other byte
of memory changes. Service of one line of a LOAD or an XFER_READ that needs no fill and takes no way from another line leaves every line as it was. -/
def Obligations.LinesChangeOnlyWhereStored : Prop :=
  (∀ (s : State) (r : Req) (g : Region) (a off : Nat), placeOf g off = some a → framed a = false → a % 64 = 0 → gwOf s g.handle = none →
      sheafOf s g.handle = none → g.mode = 0 → g.sheaf = false → r.org = .port → (r.opc = 2 ∨ r.opc = 3 ∨ r.opc = 0x61) → poisonOf s a = none →
      (r.opc = 3 → maskEmpty (slice r.data (off - r.h.offset) 64) = false) → chunkHeld s g.homeq a = false → sourceHeld s r = false →
      (displaced s g.homeq (a / 64) (keptLines s) = none →
        ∃ t, serveLine s r g off = some t ∧ lineBytes t a = newLine s r off (lineBytes s a) ∧ t.tier.mem = s.tier.mem
          ∧ (∀ x, x / 64 ≠ a / 64 → lineBytes t x = lineBytes s x))
      ∧ (∀ o e, displaced s g.homeq (a / 64) (keptLines s) = some (some o) → cacheLine s o.line = some e → e.data.length = 64 →
        displaced s g.homeq (a / 64) (keptLines (dropHeld s g.handle off)) = some (some o) → Memory.wf s.tier.mem = true →
        ∃ t, serveLine s r g off = some t ∧ lineBytes t a = newLine s r off (lineBytes s a)
          ∧ t.tier.mem = (if e.dirty then Memory.write s.tier.mem (e.line * 64) e.data else s.tier.mem)
          ∧ (∀ x, x % 64 = 0 → x / 64 ≠ a / 64 → x / 64 ≠ o.line → lineBytes t x = lineBytes s x)
          ∧ (e.dirty = true → lineBytes t (o.line * 64) = lineBytes s (o.line * 64))))
  ∧ (∀ (s t : State) (r : Req) (g : Region) (a off : Nat), (r.opc = 1 ∨ r.opc = 0x60) → linePlace s g off = some a → a % 64 = 0 →
      gwOf s g.handle = none → lineNeed s g.sheaf g.homeq a ≠ .fill → displaced s g.homeq (a / 64) (keptLines s) = none →
      serveLine s r g off = some t → t.tier.mem = s.tier.mem ∧ ∀ x, x % 64 = 0 → lineBytes t x = lineBytes s x)

/-- The atomics of Table 5.5a on words of 4, 8 or 16 bytes: ADD wraps at the word; CAS replaces what equals the compare value and nothing
else; SWAP, AND, OR and XOR as they say; MIN and MAX of unsigned (TYPE 0) and of two's complement numbers (TYPE 1); with TYPE 2, of binary32 (4
bytes) or binary64 (8 bytes) as R125 has it: by sign and magnitude, −0 below +0; a NaN operand leaves the line, a NaN in the line gives way to an
operand that is none. -/
def Obligations.AtomicsCompute : Prop :=
  ∀ (a : AtomicOp) (old : Nat), old < 2 ^ (8 * a.bytes) → a.operand < 2 ^ (8 * a.bytes) → (a.bytes = 4 ∨ a.bytes = 8 ∨ a.bytes = 16) →
    atomicNew 0x10 a old = (old + a.operand) % 2 ^ (8 * a.bytes)
    ∧ (a.type = 0 → atomicNew 0x11 a old = min old a.operand ∧ atomicNew 0x12 a old = max old a.operand)
    ∧ (a.type = 1 → (BitVec.ofNat (8 * a.bytes) (atomicNew 0x11 a old)).toInt =
          min (BitVec.ofNat (8 * a.bytes) old).toInt (BitVec.ofNat (8 * a.bytes) a.operand).toInt
        ∧ (BitVec.ofNat (8 * a.bytes) (atomicNew 0x12 a old)).toInt =
          max (BitVec.ofNat (8 * a.bytes) old).toInt (BitVec.ofNat (8 * a.bytes) a.operand).toInt)
    ∧ (a.type = 2 → (a.bytes = 4 ∨ a.bytes = 8) →
      let inf := if a.bytes = 4 then 0x7F800000 else 0x7FF0000000000000
      let nan := fun (v : Nat) => inf < v % 2 ^ (8 * a.bytes - 1)
      let negative := fun (v : Nat) => 2 ^ (8 * a.bytes - 1) ≤ v
      let below := fun (v w : Nat) => (negative v ∧ ¬negative w) ∨ (negative v ∧ negative w ∧ w < v) ∨ (¬negative v ∧ ¬negative w ∧ v < w)
      (nan a.operand → atomicNew 0x11 a old = old ∧ atomicNew 0x12 a old = old)
      ∧ (nan old → ¬nan a.operand → atomicNew 0x11 a old = a.operand ∧ atomicNew 0x12 a old = a.operand)
      ∧ (¬nan old → ¬nan a.operand → below a.operand old → atomicNew 0x11 a old = a.operand ∧ atomicNew 0x12 a old = old)
      ∧ (¬nan old → ¬nan a.operand → below old a.operand → atomicNew 0x11 a old = old ∧ atomicNew 0x12 a old = a.operand))
    ∧ atomicNew 0x13 a old = (if old = a.compare then a.operand else old)
    ∧ atomicNew 0x14 a old = a.operand ∧ atomicNew 0x15 a old = old &&& a.operand ∧ atomicNew 0x16 a old = old ||| a.operand
    ∧ atomicNew 0x17 a old = old ^^^ a.operand

/-- A masked unit with BASE at most 8 changes line byte BASE + j to its data byte j exactly where MASK bit j is set, and no other byte; MASK 0
leaves the line as it was. -/
def Obligations.MaskSelectsBytes : Prop :=
  ∀ (u old : List Byte), u.length = 64 → old.length = 64 → maskBase u ≤ 8 →
    (maskedLine u old).length = 64
    ∧ (∀ j, j < 56 → bit (wordAt u 56) j = true → (maskedLine u old)[maskBase u + j]? = u[j]?)
    ∧ (∀ i, i < 64 → (i < maskBase u ∨ maskBase u + 56 ≤ i ∨ bit (wordAt u 56) (i - maskBase u) = false) → (maskedLine u old)[i]? = old[i]?)
    ∧ (maskEmpty u = true → maskedLine u old = old)

/-- The policer of a stall and service (R375): off, every request passes; on, a request passes as its tokens cover the charge and pays it;
refusing, or short of tokens, it does not pass, and the drop is counted. -/
def Obligations.PolicerTakesTokens : Prop :=
  ∀ (s : State) (q c : Nat) (h : ReqHdr),
    let po := Tab.getD s.sw.policers (policerKey q h.stall h.svc) {}
    (po.mode = 0 → policer s q h c = (true, s))
    ∧ (po.mode = 1 → c ≤ po.tokens → (policer s q h c).1 = true
      ∧ (policer s q h c).2 = { s with sw := { s.sw with
          policers := Tab.set s.sw.policers (policerKey q h.stall h.svc) { po with tokens := po.tokens - c } } })
    ∧ ((po.mode = 2 ∨ (po.mode = 1 ∧ po.tokens < c)) → (policer s q h c).1 = false
      ∧ (Tab.getD (policer s q h c).2.sw.policers (policerKey q h.stall h.svc) {}).drops = (po.drops + 1) % 2 ^ 40
      ∧ (Tab.getD (policer s q h c).2.sw.policers (policerKey q h.stall h.svc) {}).tokens = po.tokens)

/-- A CXL.mem access to a window bound to a region in service whose check passes is admitted like a request, from the function's stall, with
the key of the window's slot; one whose check fails completes with poison, and the status is recorded; one to a region that has moved away goes on
to its new home. -/
def Obligations.CxlAccessesAreChecked : Prop :=
  ∀ (fn handle slot offset len : Nat) (write : Option (List Byte)) (s : State) (e : MapEntry) (g : Region),
    handle ≠ 0 → handle ≠ 0xFFFFFF → Tab.get? s.maps.cur.handles handle = some e → inService s handle = some g →
    quarterInReset s g.homeq = false → deviceInReset s = false →
    let opc := if write.isSome then 2 else 1
    let h : ReqHdr := { src := 0xFFFF, stall := fnStall fn, handle := handle, len := len / 64, offset := offset
                        key := (if slot = 0 then g.slotA else g.slotB).key, raw := write.isSome }
    (movedTo s handle = none → (homeCheck s opc h true).1 = OK → formOk opc h (write.getD []) = true → modeRefuses s g opc h false true = false →
      Gives (.cxlmemAccess fn handle slot offset len write) s
        (admitReq s { org := .cxl fn, port := 256, opc := opc, h := h, data := write.getD [], win := 40 } g))
    ∧ (movedTo s handle = none → (homeCheck s opc h true).1 ≠ OK →
      Gives (.cxlmemAccess fn handle slot offset len write) s
        (cxlPoison s fn handle g.homeq (homeCheck s opc h true).1 (some g.comp) true))
    ∧ (∀ dev, movedTo s handle = some dev → Gives (.cxlmemAccess fn handle slot offset len write) s
        (relay s { org := .cxl fn, port := 256, opc := opc, h := { h with mepoch := s.maps.cur.epoch % 256, tag := ownTag s 0xFFFF }
                   data := write.getD [], win := 40 } dev g.comp false))

/-- An answer to a snoop outstanding for its agent, tag and kind ends it: with data of an OK answer written first; a repetition, or an answer to no
snoop, changes nothing. The OK of a parity home acknowledges its delta: one of a request in service is marked and the request goes on; one of no
request is taken off, and the next page of a push follows. A peer's answer to an XFER of a gateway: OK to a read fills the block; OK to a write
ends it; EPOCH_STALE copies DETAIL[7:0] into RMEPOCH and the transfer is sent again, with no answer to a requester (R151); BUSY_RETRY and POLICED have it sent
again after RETRY tenths of a bell (R89). -/
def Obligations.AnswersComeHome : Prop :=
  (∀ (p : Nat) (h : RspHdr) (d : List Byte) (s : State), portUp s p = true →
      (∀ n, s.home.snoops.find? (fun n => n.agent == h.src && n.tag == h.tag && h.opc == (if n.inv then 0x50 else 0x51)) = some n →
        let t := { s with home := { s.home with snoops := s.home.snoops.filter (fun m => !(m.agent == n.agent && m.tag == n.tag)) } }
        Gives (.snoopResponse p h d) s (settleAll (snoopEnd (if h.len = 1 ∧ h.status = OK then snoopWrite t n d else t) n)))
      ∧ (s.home.snoops.find? (fun n => n.agent == h.src && n.tag == h.tag && h.opc == (if n.inv then 0x50 else 0x51)) = none →
        Gives (.snoopResponse p h d) s s))
  ∧ (∀ (p : Nat) (h : RspHdr) (d : List Byte) (s : State) (x : Delta), portUp s p = true → h.status = OK →
      s.dom.deltas.find? (fun d => d.dev == h.src && d.tag == h.tag && !d.acked) = some x →
      (x.req ≠ 0 → s.home.reqs.any (fun r => r.id == x.req) = true →
        Gives (.parityDeltaResponse p h d) s (settleAll { s with dom := { s.dom with
          deltas := adjustWhere s.dom.deltas (fun e => e.dev == x.dev && e.tag == x.tag) (fun e => { e with acked := true }) } }))
      ∧ (x.req = 0 → x.page = false →
        Gives (.parityDeltaResponse p h d) s (settleAll (pushNext { s with dom := { s.dom with
          deltas := s.dom.deltas.filter (fun e => !(e.dev == x.dev && e.tag == x.tag)) } } x.handle))))
  ∧ (∀ (p : Nat) (h : RspHdr) (d : List Byte) (s : State) (x : GwXfer) (g : GwBinding), portUp s p = true →
      s.regs.gwXfers.find? (fun x => x.tag == h.tag) = some x → gwOf s x.handle = some g →
      let t := { s with regs := { s.regs with gwXfers := s.regs.gwXfers.filter (fun y => y.tag != x.tag) } }
      (h.status = OK → x.write = false → Gives (.gatewayXferResponse p h d) s (settleAll (fillBlock t g x d)))
      ∧ (h.status = OK → x.write = true → Gives (.gatewayXferResponse p h d) s (settleAll t))
      ∧ (h.status = EPOCH_STALE → Gives (.gatewayXferResponse p h d) s (reissue
          { s with regs := { s.regs with gw := Tab.adjust s.regs.gw x.handle (fun g => { g with rmepoch := fld h.detail 7 0 }) } } x))
      ∧ ((h.status = BUSY_RETRY ∨ h.status = POLICED) → Gives (.gatewayXferResponse p h d) s (settleAll { s with regs := { s.regs with
          gwXfers := adjustWhere s.regs.gwXfers (fun y => y.tag == x.tag) (fun y => { y with retryAt := some (now s + 140 * h.retry) }) } })))

/-! ### Links and sessions -/

/-- A good frame with the SEQ expected is acknowledged and its credits taken; a frame with an uncorrectable codeword, a failed tag or another
SEQ is discarded with a NAK and nothing of it is taken. -/
def Obligations.FramesAreSequenced : Prop :=
  ∀ (p : Nat) (f : FrameHdr) (check : FrameCheck) (m : FrameMsg) (s : State), frameCarries (portOf s p).st = true →
    (check = .good → (f.keyid = (portOf s p).keyId ∨ (portOf s p).prevKeyId = some f.keyid) → extendSeq (portOf s p).seqIn f.seq = (portOf s p).seqIn → f.idle = true →
      Gives (.linkFrame p f check m) s (frameHeader s p f))
    ∧ (check = .good → (f.keyid = (portOf s p).keyId ∨ (portOf s p).prevKeyId = some f.keyid) → extendSeq (portOf s p).seqIn f.seq = (portOf s p).seqIn → f.idle = false →
      Gives (.linkFrame p f check m) s (unknownMessage (frameHeader s p f) p m))
    ∧ ((check ≠ .good ∨ extendSeq (portOf s p).seqIn f.seq ≠ (portOf s p).seqIn) → ∃ c, Gives (.linkFrame p f check m) s (frameFails s p f.seq c) ∧ (check ≠ .good → c = check))

/-- A port leaves DETECT, TRAIN and ALIGN as the line does: signal found, trained, aligned (with HELLO sent); TRAIN longer than 100,000 bells, ALIGN
than 1,000 and HELLO than 100 bring it back to DETECT. A lost link brings any port that is past DETECT back there. HELLO in state HELLO, of a
partner that is compatible and neither this device nor expelled, sets the partner's identity, type, window and credits and is answered HELLO_ACK;
HELLO_ACK completes the other half; with both there the port goes on to AUTH. One with a reserved bit set is discarded and recorded. -/
def Obligations.PortsComeUpStepByStep : Prop :=
  (∀ (p : Nat) (s : State),
      ((portOf s p).st = .detect → s.dom.dvalid = true → oddHalf s p = false →
        Gives (.signalDetected p) s (updPort s p (fun ps => { ps with st := .train, since := s.time.bell })))
      ∧ ((portOf s p).st = .train → Gives (.trainingDone p) s (updPort s p (fun ps => { ps with st := .align, since := s.time.bell })))
      ∧ ((portOf s p).st = .align → Gives (.alignDone p) s (sendMgmt (updPort (updPort s p (fun ps => { ps with st := .hello, since := s.time.bell })) p
          (fun ps => { ps with helloSent := helloBytes s p })) p 1 { xid := 0 } (helloBytes s p)))
      ∧ (((portOf s p).st = .train ∧ 100000 ≤ since s (portOf s p).since) ∨ ((portOf s p).st = .align ∧ 1000 ≤ since s (portOf s p).since)
          ∨ ((portOf s p).st = .hello ∧ 100 ≤ since s (portOf s p).since) →
        ∃ t, Gives (.portStateTimeout p) s t ∧ (portOf t p).st = .detect)
      ∧ ((portOf s p).st = .auth → retryDue s (portOf s p) = true → ∃ t, Gives (.authRetry p) s t ∧ (portOf t p).st = .detect)
      ∧ (((portOf s p).st = .train ∨ (portOf s p).st = .align ∨ (portOf s p).st = .hello ∨ (portOf s p).st = .auth) → oddHalf s p = false →
        ∃ t, Gives (.linkDown p) s t ∧ (portOf t p).st = .detect)
      ∧ ((portOf s p).st = .up → oddHalf s p = false → Gives (.linkDown p) s (dropPort s p .detect)))
  ∧ (∀ (p : Nat) (h : MgmtHdr) (d : List Byte) (s : State), (portOf s p).st = .hello → mgmtOk h = true → helloFits (portOf s p) d = true →
      (helloClash s d = false → helloBarred s d = false → helloForm d = true →
        let t := updPort s p (fun ps => { ps with
          helloIn := true, helloGot := d, epid := natAt d 0 2, ptype := natAt d 2 1, caps := natAt d 3 1, partnerWindow := natAt d 4 1
          creditsHeld := (List.range 4).map (fun i => natAt d (8 + 4 * i) 4), partnerPort := natAt d 0x18 2, iddig := slice d 0x20 32 })
        Gives (.hello p h d) s (helloDone (sendMgmt t p 2 { xid := h.xid } (helloBytes t p)) p))
      ∧ (helloForm d = true → Gives (.helloAck p h d) s (helloDone (updPort s p (fun ps => { ps with helloAckIn := true, ackGot := d })) p))
      ∧ (helloClash s d = false → helloForm d = false → Gives (.hello p h d) s (discardMessage s p h.src 3 1))
      ∧ (helloForm d = false → Gives (.helloAck p h d) s (discardMessage s p h.src 3 1))
      ∧ (helloClash s d = false → helloForm d = true → helloBarred s d = true → Gives (.hello p h d) s (dropPort s p .detect)))

/-- A failed lane of a port that carries frames: in a protected group with its spare lane free of sparing the spare is claimed and the partner is
asked to move it there (the frame that carries the request names the frame 64 on); without, the port goes on with the lanes that are left. SPARE_REQ
on an UP port claims the spare and is acknowledged with its lane, frame and XID; SPARE_ACK answers the request outstanding. Either end moves the
lane when the frame named has come, counts the sparing and records it, and not before. -/
def Obligations.LanesAreSpared : Prop :=
  (∀ (p lane cause : Nat) (s : State), frameCarries (portOf s p).st = true → oddHalf s p = false → lane ∉ (portOf s p).badLanes →
      onSpare (portOf s p) lane = false → ((portOf s p).gang = true ∨ lane < 4) →
      ((groupProtected s p = false ∨ (claimHeld s 0x0B (spareLane p)).isSome = true) → Gives (.laneFault p lane cause) s (degrade s p lane))
      ∧ (groupProtected s p = true → claimHeld s 0x0B (spareLane p) = none → Gives (.laneFault p lane cause) s
        (send (updPort (takeSpare s p) p (fun ps => { ps with spareAsked := some (lane, 0, cause) })) p (.spare 0x10 (bellN s % 2 ^ 24) lane 0))))
  ∧ (∀ (p lane frame cause f : Nat) (h : MgmtHdr) (s : State), portUp s p = true → mgmtOk h = true →
      (claimHeld s 0x0B (spareLane p) = none → Gives (.spareReq p h lane frame) s (moveLane (send (updPort (takeSpare s p) p (fun ps =>
        { ps with sparing := some (lane, extendSeq (portOf s p).seqIn frame, true, 0) })) p (.spare 0x11 h.xid lane frame)) p))
      ∧ ((portOf s p).spareAsked = some (lane, f, cause) → f % 65536 = frame → Gives (.spareAck p h lane frame) s
        (moveLane (updPort s p (fun ps => { ps with spareAsked := none, sparing := some (lane, f, false, cause) })) p)))
  ∧ (∀ (p lane frame cause : Nat) (partner : Bool) (s : State), (portOf s p).sparing = some (lane, frame, partner, cause) →
      ((if partner then (portOf s p).seqIn else (portOf s p).seqOut) < frame → moveLane s p = s)
      ∧ (frame ≤ (if partner then (portOf s p).seqIn else (portOf s p).seqOut) →
        portOf (moveLane s p) p = { portOf s p with sparing := none, sparedLane := some lane }
        ∧ moveLane s p = { s with ports := (moveLane s p).ports, pwr := (moveLane s p).pwr, led := (moveLane s p).led }))

/-- WINDOW with LEN 1, byte 0 from 4 to 40 and every other byte zero sets the partner's window and is answered WINDOW_ACK with its XID; one whose byte 0
lies outside is answered MSTAT UNSUPPORTED and changes nothing. WINDOW_ACK with OK of the WINDOW outstanding puts the port's window in force. -/
def Obligations.WindowsAreAnnounced : Prop :=
  ∀ (p : Nat) (h : MgmtHdr) (d : List Byte) (s : State), portUp s p = true → mgmtOk h = true →
    (h.len = 1 → d.length = 64 → 4 ≤ natAt d 0 1 → natAt d 0 1 ≤ 40 → allZero (d.drop 1) = true →
      Gives (.window p h d) s (sendMgmt (updPort s p (fun ps => { ps with partnerWindow := natAt d 0 1 })) p 0x13 { mstat := OK, xid := h.xid } []))
    ∧ ((natAt d 0 1 < 4 ∨ 40 < natAt d 0 1) →
      Gives (.window p h d) s (sendMgmt s p 0x13 { mstat := UNSUPPORTED, xid := h.xid } []))
    ∧ ((portOf s p).windowXid = some h.xid → h.mstat = OK →
      Gives (.windowAck p h d) s (endDrains (updPort s p (fun ps => { ps with window := ps.setWindow, windowXid := none })) (· == .port p 4) OK s.time.bell []))

/-- The steps of a session (Table 3.16). SESS_INIT at a responder: its sender's chain and evidence are judged; judged good it is answered SESS_RESP
with a nonce, a ciphertext, this device's chain and evidence and its signature over T, and the keys of R91 are noted; judged bad the attempt fails at
step 1 with the cause. SESS_RESP likewise at the initiator, with the signature over T verified: it is answered SESS_FIN with this device's signature
and finish value, and else fails at step 2. SESS_FIN with a good signature and finish value is answered SESS_ACK and the exchange is complete; else it
fails at step 3 with cause 1 (signature) or 3 (finish value). SESS_ACK with the right value completes the exchange; else it fails at step 4. -/
def Obligations.SessionsAreSetUpInSteps : Prop :=
  ∀ (p : Nat) (h : MgmtHdr) (d : List Byte) (s : State), sessOpen (portOf s p) = true → mgmtOk h = true →
    (¬((portOf s p).st = .auth ∧ initiates s (portOf s p) = true) → (portOf s p).step = .idle → ∃ t, Gives (.sessInit p h d) s t ∧
      (match judge s (portOf s p) d with
      | .error cause => t = sessionFails s p 1 cause
      | .ok (key, ev) =>
        let u := { s with free := s.free + 5 }
        let nonce := wordsBytes ((List.range 4).map (fun i => Config.drbg (s.free + i)))
        let k := Config.kemEncaps (slice d 32 1568) (s.free + 4)
        let body := (nonce ++ padTo 1568 (k.1.take 1568)) ++ deviceChain u ++ padTo evidenceBytes ((evidence u nonce).take evidenceBytes)
        let T := transcriptOf (portOf s p).helloGot (portOf s p).helloSent (d.take bodyBytes) body
        t = sendMgmt (updPort u p (fun ps => { ps with
              rekeying := ps.st == .up, nonce := nonce, transcript := T, finishKey := finishKeyOf k.2 T, partnerKey := key, partnerNext := ev
              keysNext := linkKeysOf k.2 T false, step := .sentResp, stepBell := s.time.bell }))
            p 9 { xid := h.xid } (padUnits (body ++ signT u T))))
    ∧ ((portOf s p).step = .sentInit → ∃ t, Gives (.sessResp p h d) s t ∧
      (match judge s (portOf s p) d with
      | .error cause => t = sessionFails s p 2 cause
      | .ok (key, ev) =>
        let T := transcriptOf (portOf s p).helloSent (portOf s p).ackGot (portOf s p).transcript (d.take bodyBytes)
        let ss := Config.kemDecaps (portOf s p).kemDraw (slice d 32 1568)
        if Config.mldsaVerify key T (slice d bodyBytes 3309) = true
        then t = sendMgmt (updPort s p (fun ps => { ps with
              transcript := T, finishKey := finishKeyOf ss T, partnerKey := key, partnerNext := ev, keysNext := linkKeysOf ss T true
              step := .sentFin, stepBell := s.time.bell })) p 0x0A { xid := h.xid } (padUnits (signT s T ++ finishValue (finishKeyOf ss T) T))
        else t = sessionFails s p 2 1))
    ∧ ((portOf s p).step = .sentResp → Gives (.sessFin p h d) s
      (if Config.mldsaVerify (portOf s p).partnerKey (portOf s p).transcript (slice d 0 3309) = false then sessionFails s p 3 1
       else if slice d 3309 32 ≠ finishValue (portOf s p).finishKey (portOf s p).transcript then sessionFails s p 3 3
       else sessionDone (sendMgmt s p 0x0B { xid := h.xid } (padUnits (ackValue (portOf s p).finishKey (portOf s p).transcript))) p))
    ∧ ((portOf s p).step = .sentFin → Gives (.sessAck p h d) s
      (if slice d 0 32 = ackValue (portOf s p).finishKey (portOf s p).transcript then sessionDone s p else sessionFails s p 4 3))

/-- Session timers. A step 100 bells late fails the attempt with step 5. At 2^36 frames or 2^31 bells of a key (R93), or at the time set for a retry
after a failed rekey, SESS_INIT goes out over the live session with a fresh nonce and key, and the exchange is a rekey. At 2^38 frames or 2^33 bells
the port leaves for DETECT. A failed attempt of an UP port keeps the session's keys and sets the retry 10,000 bells on; one of a port in AUTH counts,
waits 10,000 bells likewise, and the third in a row brings the port to AUTH_FAIL. -/
def Obligations.SessionTimers : Prop :=
  ∀ (p step cause : Nat) (s : State),
    (sessOpen (portOf s p) = true → (portOf s p).step ≠ .idle → 100 ≤ since s (portOf s p).stepBell →
      Gives (.sessionStepTimeout p) s (sessionFails s p 5 0))
    ∧ (let nonce := wordsBytes ((List.range 4).map (fun i => Config.drbg (s.free + i)))
       let u := updPort { s with free := s.free + 5 } p (fun ps => { ps with rekeying := true })
       let d := (nonce ++ padTo 1568 ((Config.kemPublic (s.free + 4)).take 1568)) ++ deviceChain u
         ++ padTo evidenceBytes ((evidence u nonce).take evidenceBytes)
       let t := sendMgmt (updPort u p (fun ps => { ps with
         nonce := nonce, kemDraw := s.free + 4, transcript := d, retryAt := none, step := .sentInit, stepBell := s.time.bell }))
         p 8 { xid := bellN s % 2 ^ 24 } d
       (portOf s p).st = .up → (portOf s p).rekeying = false →
        (((portOf s p).retryAt = none → (2 ^ 36 ≤ (portOf s p).framesIn ∨ 2 ^ 36 ≤ (portOf s p).framesOut ∨ 2 ^ 31 ≤ since s (portOf s p).keyBell) →
          Gives (.rekeyDue p) s t)
        ∧ (∀ b, (portOf s p).retryAt = some b → b.toNat ≤ bellN s → Gives (.rekeyRetry p) s t)))
    ∧ ((portOf s p).st = .up → (2 ^ 38 ≤ (portOf s p).framesIn ∨ 2 ^ 38 ≤ (portOf s p).framesOut ∨ 2 ^ 33 ≤ since s (portOf s p).keyBell) →
        Gives (.sessionKeysExpired p) s (dropPort s p .detect))
    ∧ ((portOf s p).st = .up → portOf (sessionFails s p step cause) p
        = { portOf s p with step := .idle, rekeying := false, retryAt := some (s.time.bell + 10000) })
    ∧ ((portOf s p).st = .auth → (portOf s p).failures < 2 → portOf (sessionFails s p step cause) p
        = { portOf s p with failures := (portOf s p).failures + 1, step := .idle, retryAt := some (s.time.bell + 10000) })
    ∧ ((portOf s p).st = .auth → 2 ≤ (portOf s p).failures → (portOf (sessionFails s p step cause) p).st = .authFail)

/-! ### The domain -/

/-- Messages of the domain on an UP port that leads to no other domain: LEASE_RENEW and QUORUM for this device's host die are passed to it and
remembered; a LEASE_GRANT of a member, OK, for a renewal of this device and with a good signature, counts for that member, and with a bad one does
not; QUORUM for every device carries a command, which is taken with its data area there. At a multiple of 500 bells LEASE_RENEW, which names BELL,
goes to every member, and to this device's own host die directly. A device whose lease is not current, or that is cast out, fences, with a record; at
a strike at which the lease is current and the map's epoch the granted one the fence lifts, with a record. Either sets FENCED accordingly in
every record that the device homes. -/
def Obligations.DomainMessagesAndLeases : Prop :=
  (∀ (p : Nat) (h : MgmtHdr) (d : List Byte) (s : State), portUp s p = true → (portOf s p).ptype ≠ 3 → mgmtOk h = true →
      (h.dst = s.dom.devid → Gives (.leaseRenew p h d) s { s with fab := { s.fab with hostAsked := s.fab.hostAsked ++ [(h.xid, p, h.src, 0x30)] } })
      ∧ (h.dst = s.dom.devid → Gives (.quorum p h d) s { s with fab := { s.fab with hostAsked := s.fab.hostAsked ++ [(h.xid, p, h.src, 0x38)] } })
      ∧ (h.dst ≠ s.dom.devid → h.dst = 0xFFFF → mbOut s 0 < 16 → Gives (.quorum p h d) s (settleAll (runMailboxes (updCmd
          (takeCmd s (.quorum p h.src h.xid) (entryOf (bytesWords d 16)).1 (entryOf (bytesWords d 16)).2) s.mb.nextCmd (fun c => { c with
            asked := true
            area := (List.range (ceilDiv (d.drop 128).length 4096)).map (fun i => (i, slice (d.drop 128) (4096 * i) 4096)) })))))
      ∧ (∀ e, s.dom.members[natAt d 0x0C 1]? = some e → h.mstat = OK → wordAt d 0 ∈ s.dom.renewals → Gives (.leaseGrant p h d) s
        (if Config.mldsaVerify e.2 (slice d 0 0x40) (slice d 0x40 3309) = true then { s with dom := { s.dom with
          grants := Tab.upd s.dom.grants (natAt d 0x0C 1) (0, 0) (fun g =>
            (if g.1.toNat < (wordAt d 0).toNat then wordAt d 0 else g.1, max g.2 (natAt d 8 4))) } } else s)))
  ∧ (∀ s : State,
      (s.dom.dvalid = true → s.dom.members ≠ [] → bellN s % 500 = 0 → s.time.bell ∉ s.dom.renewals → Gives .leaseRenewalDue s
        (each s.dom.members (fun m v =>
            if m.1 = v.dom.devid then { v with fab := { v.fab with hostAsked := v.fab.hostAsked ++ [(bellN s % 2 ^ 24, ownPort, v.dom.devid, 0x30)] } }
            else match pickPort (portsToDevice v m.1) v.dom.devid 0 0 0 with
              | some p => sendMgmt v p 0x30 { dst := m.1, xid := bellN s % 2 ^ 24 }
                  (wordBytes v.time.bell ++ natLe 4 v.maps.cur.epoch ++ natLe 1 v.dom.devid ++ List.replicate 51 0)
              | none => v)
          { s with dom := { s.dom with renewals := s.time.bell :: s.dom.renewals, lastRenewal := s.time.bell } }))
      ∧ (s.dom.dvalid = true → s.dom.fenced = false → (s.dom.outcast = true ∨ leaseCurrent s = false) → Gives .leaseLost s
          (let u := dropHeldStores (setFenced { s with dom := { s.dom with leaseOk := leaseCurrent s } } true)
           settleAll (domainRecord u 0x1301 0 u.time.bell ((majorityRbell u).getD 0) (word (grantMask u)) 0)))
      ∧ (s.time.phase = 0 → s.dom.fenced = true → s.dom.outcast = false → leaseCurrent s = true → s.maps.cur.epoch = grantedEpoch s →
        Gives .leaseRegained s (let u := setFenced { s with dom := { s.dom with leaseOk := true } } false
          settleAll (domainRecord u 0x1302 0 u.time.bell (word (grantedEpoch u)) (word (grantMask u)) 0)))
      ∧ (s.dom.fenced = true → Gives .leaseLost s s) ∧ (s.dom.fenced = false → Gives .leaseRegained s s)
      ∧ (∀ b : Bool, (setFenced s b).dom = { s.dom with fenced := b }
        ∧ setFenced s b = { s with dom := { s.dom with fenced := b }, regs := { s.regs with recs := (setFenced s b).regs.recs } }
        ∧ ∀ e ∈ s.regs.recs, (if homeDevice s e.2 = s.dom.devid then (e.1, { e.2 with fenced := b }) else e) ∈ (setFenced s b).regs.recs))

/-- MBOX_CMD for this device is a command of the operator mailbox from its sender; for another device it goes on there and is remembered, and the MBOX_RSP
that comes back goes to the sender. The host die's answer to a message goes back on the port it came from (mgmtPort: while that is UP and its partner the
sender, else on another that leads to the sender). -/
def Obligations.MailboxMessagesAreCarried : Prop :=
  ∀ (p o : Nat) (h : MgmtHdr) (d : List Byte) (s : State), portUp s p = true → mgmtOk h = true →
    (h.stall = 0 → h.len = 2 → d.length = 128 → ((portOf s p).ptype = 1 ∨ h.src = (portOf s p).epid) → (h.dst = 0xFFFF ∨ h.dst = s.dom.devid) →
      Gives (.mboxCmd p h d) s (mailbox s (.fabric p h.src h.xid) (entryOf (bytesWords d 16)).1 (entryOf (bytesWords d 16)).2))
    ∧ (h.stall = 0 → h.len = 2 → d.length = 128 → h.dst ≠ s.dom.devid → h.dst < 0x40 → (portOf s p).ptype ≠ 1 →
      pickPort (portsToDevice s h.dst) h.src h.stall h.svc 0 = some o →
      Gives (.mboxCmd p h d) s (send { s with fab := { s.fab with mbox := s.fab.mbox ++ [{ port := p, src := h.src, xid := h.xid, dst := h.dst }] } }
        o (.mgmt 0x20 h d)))
    ∧ (∀ r, s.fab.mbox.find? (fun r => r.dst == (portOf s p).epid && r.xid == h.xid) = some r → mgmtPort s r.port r.src = some o → h.mstat ≠ OK →
      Gives (.mboxRsp p h d) s (send { s with fab := { s.fab with
        mbox := s.fab.mbox.filter (fun x => !(x.dst == r.dst && x.xid == r.xid && x.src == r.src)) } } o (.mgmt 0x21 { h with dst := r.src } d)))
    ∧ (∀ src opc, s.fab.hostAsked.find? (fun a => a.1 == h.xid) = some (h.xid, p, src, opc) → p ≠ ownPort → mgmtPort s p src = some o →
      Gives (.hostDieReply h.xid h.mstat d) s (sendMgmt { s with fab := { s.fab with hostAsked := s.fab.hostAsked.eraseP (fun a => a.1 == h.xid) } } o
        (if opc = 0x30 then 0x31 else 0x38) { dst := src, mstat := h.mstat, xid := h.xid } (padUnits d)))

/-- A revoking key slot whose admitted count was zero at the latest strike is found drained: REVOKED is committed and KEY_REVOKE ends; the previous map
retires, with its record, when nothing was in flight under it at the latest strike; a copied region ends its MOVE_PREPARE, and a moved one comes into
service at its new home with the keys that came, or sends its last pages from its old home; a retiring table slot is freed at a strike 257 bells after
its fence when nothing refers to it. A sheaf's page work ends its
command when its last page is done: after a push, after a rebuild (the stalk is valid, with a record), after a recomputation (the stalk is not
STALE any more). A parity home at rest takes the next page to scrub. -/
def Obligations.LongWorkOfTheDomainEnds : Prop :=
  (∀ (h slot : Nat) (s : State) (g : Region),
      (regionOf s h = some g → slotHeld s g slot = true → strikeAdmit s h slot = 0 →
        let c : Change := .key h slot { slotOf g slot with state := 3 }
        Gives (.keyDrained h slot) s (settleAll (destroyStep (endDrains (mirrorChanges { s with mb := { s.mb with changes := s.mb.changes ++ [(0, c)] } } [c])
          (· == .revoke h slot) OK s.time.bell []) h)))
      ∧ (regionOf s h = some g → 0 < strikeAdmit s h slot → Gives (.keyDrained h slot) s (settleAll s))
      ∧ (∀ m, s.maps.strikeFlight = 0 → s.maps.prev = some m → maxWindow s ≤ since s s.maps.switchBell → ∃ u, Gives .mapRetired s (freeMoved u)
          ∧ u.maps = { s.maps with prev := none, retireBell := s.time.bell } ∧ u.regs = s.regs)
      ∧ (0 < s.maps.strikeFlight → Gives .mapRetired s s)
      ∧ (∀ m, s.regs.moves.find? (fun m => m.handle == h && m.new) = some m → regionOf s h = some g → m.copied = false → g.size4k < m.cursor →
        Gives (.moveCopyDone h) s (endDrains (updMove s h (fun m => { m with copied := true })) (· == .move h) OK s.time.bell []))
      ∧ (∀ m, s.regs.moves.find? (fun m => m.handle == h) = some m → regionOf s h = some g → m.switched = true → stillServing s m = false → m.new = true →
        m.other ≠ s.dom.devid → m.copied = true → Gives (.moveComplete h) s (settleAll (recheckHeld (keysIssued { s with regs := { s.regs with
          recs := Tab.set s.regs.recs g.handle (takeRecord s g m), moves := s.regs.moves.filter (fun x => !(x.handle == g.handle && x.new)) } }
          g.handle) g.handle)))
      ∧ (∀ m, s.regs.moves.find? (fun m => m.handle == h) = some m → regionOf s h = some g → m.switched = true → stillServing s m = false → m.new = false →
        hasLines s g.handle = false → Gives (.moveComplete h) s (sendPages s g m))
      ∧ (∀ t, Tab.get? s.ecx.tables slot = some t → t.state = 2 → s.time.phase = 0 → 257 ≤ since s t.fence → tableRefs s slot t = 0 → ∃ u,
        Gives (.tableFreed slot) s (endDrains u (· == .table slot t.gen) OK s.time.bell [])
        ∧ u.ecx = { s.ecx with tables := Tab.set s.ecx.tables slot { state := 0, gen := t.gen } } ∧ u.home = s.home ∧ u.mb = s.mb))
  ∧ (∀ (h : Nat) (s : State) (x : Sheaf) (g : Region),
      (∀ y, workDone s h 1 = some y → s.dom.deltas.any (fun d => d.handle == h && d.req == 0 && !d.acked) = false → Gives (.sheafPushDone h) s
        (settleAll (endDrains (updSheaf s h (fun y => { y with work := 0 })) (· == .sheaf h) OK s.time.bell [])))
      ∧ (workDone s h 2 = some (x, g) →
        let u := updRegion (updSheaf s h (fun y => { y with work := 0, ahead := [], current := none })) h (fun g => { g with valid := true, moving := false })
        Gives (.rebuildDone h) s (settleAll (endDrains (domainRecord (keysIssued u h) 0x1305 (drainPrincipal u (.sheaf h))
          (word h) (pack [(16, x.self), (0, x.avail)]) (word (stalkPages x g)) s.time.bell) (· == .sheaf h) OK s.time.bell [])))
      ∧ (workDone s h 3 = some (x, g) → Gives (.reencodeDone h) s (settleAll (endDrains
          (updSheaf s h (fun y => { y with work := 0, stale := y.stale.filter (· != y.self) })) (· == .sheaf h) OK s.time.bell [])))
      ∧ (sheafOf s h = some x → x.k ≤ x.self → x.work = 0 → x.self ∉ x.stale → Gives (.scrubPage h) s (settleAll (askPage
          (updSheaf s h (fun y => { y with work := 4, cursor := y.scrub })) { x with work := 4, cursor := x.scrub } x.scrub)))
      ∧ (sheafOf s h = some x → (x.self < x.k ∨ x.work ≠ 0 ∨ x.self ∈ x.stale) → Gives (.scrubPage h) s s))

/-! ### Mailbox commands -/

/-- A mailbox command that is taken, needs no data area and no line of an index from a tray, and passes the check of its row commits: the check's own state, its changes queued for the
next strike, its result and its drain (commitCmd), and then what waits goes on. -/
def Obligations.MailboxCommandsCommit : Prop :=
  ∀ (row : Nat × (Issuer → CmdEntry → Instr)) (i : Issuer) (e : CmdEntry) (s u : State) (changes : List Change) (result : List Word)
    (drain : Option DrainOn), row ∈ mailboxRows → mailboxTakes s i row.1 e = true → row.1 ≠ 0x62 → (hasArea row.1 = false ∨ e.dlen = 0) →
    missingNeeds (taken s i row.1 e) (indexCmdNeeds (taken s i row.1 e) (committed (taken s i row.1 e)) row.1 e []) = [] →
    checkCmd (taken s i row.1 e) (committed (taken s i row.1 e)) (newCmd s i row.1 e) e [] = .commit u changes result drain →
    Gives (row.2 i e) s (settleAll (commitCmd u (newCmd s i row.1 e) changes result drain))

/-- A mailbox command with a data area is taken and asks for the pages of its area; ATTEST writes its evidence to its area. When the last page
has come (ENGINE_ACCESS_RESPONSE), the command commits or is refused by its check, once the lines of an index that the device itself reads for it
are there; where a page could not be read it is refused with that status. -/
def Obligations.DataAreasComeFirst : Prop :=
  (∀ (row : Nat × (Issuer → CmdEntry → Instr)) (i : Issuer) (e : CmdEntry) (s : State), row ∈ mailboxRows → mailboxTakes s i row.1 e = true →
    (hasArea row.1 = true → 0 < e.dlen → Gives (row.2 i e) s (settleAll (askArea (taken s i row.1 e) (newCmd s i row.1 e) e)))
    ∧ (row.1 = 0x62 → Gives (row.2 i e) s (settleAll (match attestBytes (taken s i row.1 e) e with
      | .ok d => writeArea (updCmd (taken s i row.1 e) s.mb.nextCmd (fun c => { c with result := [word d.length] })) (newCmd s i row.1 e) e d
      | .error r => refuseCmd (taken s i row.1 e) (newCmd s i row.1 e) r.1 r.2 [] false))))
  ∧ (∀ (s : State) (c : Cmd) (e : CmdEntry), c.waiting = some e → preCheck s c e = none → hasArea c.opc = true → 0 < e.dlen → c.asked = true →
    c.reads = [] →
    (c.failed = none → mirrorNeeded s c e = none → missingNeeds s (indexCmdNeeds s (committed s) c.opc e (areaBytes c e)) = [] →
      stepCmd s c e = (match checkCmd s (committed s) c e (areaBytes c e) with
      | .commit u changes result drain => commitCmd u c changes result drain
      | .refuse status cause words => refuseCmd (if status = RESOURCE_HELD then claimRefused s c e words else s) c status cause words true))
    ∧ (∀ missing, c.failed = none → mirrorNeeded s c e = none → missingNeeds s (indexCmdNeeds s (committed s) c.opc e (areaBytes c e)) = missing →
      missing ≠ [] → stepCmd s c e = askNeeds s missing)
    ∧ (∀ status, c.failed = some status → stepCmd s c e = refuseCmd s c status 0 [] true))

/-- A mailbox command is refused in this order: during a reset, a command of a VF that only the operator may give, a reserved field or a principal
from a VF, a full audit limit; then by the check of its row. It ends with one response, and commits nothing. -/
def Obligations.MailboxRefusals : Prop :=
  ∀ (row : Nat × (Issuer → CmdEntry → Instr)) (i : Issuer) (e : CmdEntry) (s : State), row ∈ mailboxRows →
    s.mb.cmds = [] → reaches s i = true → mbOut s i.fn < 16 → resetRefuses s = false →
    (i.operator = false → classOf row.1 ≠ .stall →
      Gives (row.2 i e) s (settleAll (refuseCmd (taken s i row.1 e) (newCmd s i row.1 e) UNSUPPORTED 1 [] true)))
    ∧ ((i.operator = true ∨ classOf row.1 = .stall) → (e.rsv ≠ 0 ∨ (i.operator = false ∧ e.principal ≠ 0) ∨ reservedSet row.1 e = true) →
      Gives (row.2 i e) s (settleAll (refuseCmd (taken s i row.1 e) (newCmd s i row.1 e) UNSUPPORTED 3 [] true)))
    ∧ (∀ status cause words, mailboxTakes s i row.1 e = true → row.1 ≠ 0x62 → (hasArea row.1 = false ∨ e.dlen = 0) → status ≠ RESOURCE_HELD →
      missingNeeds (taken s i row.1 e) (indexCmdNeeds (taken s i row.1 e) (committed (taken s i row.1 e)) row.1 e []) = [] →
      checkCmd (taken s i row.1 e) (committed (taken s i row.1 e)) (newCmd s i row.1 e) e [] = .refuse status cause words →
      Gives (row.2 i e) s (settleAll (refuseCmd (taken s i row.1 e) (newCmd s i row.1 e) status cause words true)))

/-- What the checks of stall commands come to: STALL_SET, QUOTA_SET, POLICE_SET and ENGINE_SET with their reserved bits zero and their values in range
commit the change that their words spell; METER_READ answers the composition's last closed meter; CLAIM of a free resource takes it, and RELEASE by its
holder gives it back. -/
def Obligations.StallCommandsSpellTheirChanges : Prop :=
  ∀ (s v : State) (c : Cmd) (e : CmdEntry) (d : List Byte),
    (c.opc = 0x30 → onlyBits (e.c 3) [(63, 44), (32, 12), (11, 0)] = true → zeroFrom e 4 = true → busyQp v (fld (e.c 3) 11 0) = none →
      checkCmd s v c e d = .commit s [.stall (fld (e.c 3) 11 0) (fld (e.c 3) 63 44) (if bit (e.c 3) 32 then some (fld (e.c 3) 31 12) else none)] [] none)
    ∧ (c.opc = 0x32 → onlyBits (e.c 3) [(63, 16), (11, 0)] = true → zeroFrom e 4 = true →
      checkCmd s v c e d = .commit s [.quota (fld (e.c 3) 11 0) (fld (e.c 3) 63 40) (fld (e.c 3) 39 16)] [] none)
    ∧ (c.opc = 0x33 → onlyBits (e.c 3) [(14, 0)] = true → onlyBits (e.c 4) [(63, 62), (55, 12)] = true → zeroFrom e 5 = true → fld (e.c 4) 63 62 ≠ 3 →
      (fld (e.c 4) 63 62 = 1 → 66 ≤ fld (e.c 4) 55 32 ∧ fld (e.c 4) 31 12 ≠ 0) → checkCmd s v c e d = .commit s
        [.police (fld (e.c 3) 11 0) (fld (e.c 3) 14 12) (fld (e.c 4) 63 62) (fld (e.c 4) 55 32) (fld (e.c 4) 31 12)] [] none)
    ∧ (c.opc = 0x36 → onlyBits (e.c 3) [(13, 0)] = true → onlyBits (e.c 4) [(63, 38)] = true → zeroFrom e 5 = true → fld (e.c 4) 47 42 ≤ 44 →
      fld (e.c 4) 41 38 ≤ 12 → checkCmd s v c e d = .commit s [.allot (fld (e.c 3) 11 0) (fld (e.c 3) 13 12) (fld (e.c 4) 63 60) (fld (e.c 4) 59 48)
        (fld (e.c 4) 47 42) (fld (e.c 4) 41 38)] [] none)
    ∧ (c.opc = 0x35 → onlyBits (e.c 3) [(19, 0)] = true → zeroFrom e 4 = true → (c.iss.operator = true ∨ stallComp s c.stall = some (fld (e.c 3) 19 0)) →
      checkCmd s v c e d = .commit s [] ((Tab.getD s.maps.closed (fld (e.c 3) 19 0) {}).words ++ [s.time.bellStrike, s.time.taiStrike]) none)
    ∧ (c.opc = 0x90 → onlyBits (e.c 3) [(47, 0)] = true → zeroFrom e 4 = true → 0x100 ≤ fld (e.c 3) 15 0 → fld (e.c 3) 15 0 ≤ 0x1FF →
      claimOf v (fld (e.c 3) 15 0) (fld (e.c 3) 47 16) = none → ∃ u r, checkCmd s v c e d = .commit u [.claim r] [] none
        ∧ r.resource = fld (e.c 3) 15 0 ∧ r.object = fld (e.c 3) 47 16 ∧ r.stall = c.stall ∧ r.principal = c.principal ∧ r.bell = s.time.bell)
    ∧ (∀ r, c.opc = 0x91 → onlyBits (e.c 3) [(47, 0)] = true → zeroFrom e 4 = true → 0x100 ≤ fld (e.c 3) 15 0 → fld (e.c 3) 15 0 ≤ 0x1FF →
      claimOf v (fld (e.c 3) 15 0) (fld (e.c 3) 47 16) = some r → (r.stall = c.stall ∧ r.principal = c.principal →
        ∃ u, checkCmd s v c e d = .commit u [.unclaim (fld (e.c 3) 15 0) (fld (e.c 3) 47 16)] [] none)
      ∧ (¬(r.stall = c.stall ∧ r.principal = c.principal) → checkCmd s v c e d = .refuse UNSUPPORTED 4 []))

/-- Changes committed in a bell are in force after the strike that ends it, in commit order, unless they wait for a stalk's mirrors; the ones
made here are those of QUOTA_SET, POLICE_SET and STALL_SET: quotas, the policers of all four quarters (one that turns on starts with a full
bucket, one that stays on keeps its tokens up to the burst), a stall's principal and composition. -/
def Obligations.ChangesTakeEffectAtTheStrike : Prop :=
  ∀ s : State,
    (∀ l, s.mb.changes = l → (∀ e ∈ l, changeWaits s e.2 = false) → (∀ e ∈ l, ∃ n a b, e.2 = .quota n a b) →
      makeVisible s = l.foldl (fun s e => applyChange s e.2) { s with mb := { s.mb with changes := [] } })
    ∧ (∀ n near tray, (Tab.getD (applyChange s (.quota n near tray)).stalls n {}) = { Tab.getD s.stalls n {} with hbmQuota := near, trayQuota := tray })
    ∧ (∀ n svc mode burst rate q, q < 4 → n < 4096 → svc < 8 →
      let po := Tab.getD s.sw.policers (policerKey q n svc) {}
      Tab.getD (applyChange s (.police n svc mode burst rate)).sw.policers (policerKey q n svc) {}
        = { po with mode := mode, burst := burst, rate := rate, tokens := if mode = 1 ∧ po.mode ≠ 1 then burst else min po.tokens burst })
    ∧ (∀ n principal comp, Tab.getD (applyChange s (.stall n principal comp)).stalls n {} = { Tab.getD s.stalls n {} with principal := principal, comp := comp })

/-! ### Trays and near memory -/

/-- CXL_PORT_UP of a tray with every mode of Table 7.4 (a Type-3 device, x16 or x8, 64 or 32 GT/s, 68-byte flits at 32 GT/s only, and so on), in L0
and with IDE active, opens its capacity under fresh keys and starts to write back the dirty lines held for it; one that lacks a mode is recorded with
the first row that it lacks, and stays down. CXL_PORT_DOWN ends its operations and fails the reads. DYNAMIC_CAPACITY_ADD notes an extent for the
next strike. TRAY_TABLE_ENTRY_FREE lets waiting operations of an up port take the free entries. -/
def Obligations.TrayPortsComeAndGo : Prop :=
  ∀ (c dpa units : Nat) (link : CxlLink) (s : State),
    (c < 16 → missingFeature link = 0 → link.l0 = true → link.ide = true → link.units ≠ 0 → (cxlOf s c).up = false →
      Gives (.cxlPortUp c link) s (settleAll (each (s.tier.frames.filter (·.port == c)) (fun f s => each f.dirty (fun d s => writeBack s f d.1) s)
        (updCxl { s with free := s.free + 8 } c (fun x => { x with
          up := true, link := link, ideKeys := (List.range 8).map (fun i => Config.drbg (s.free + i))
          extents := [(0, min link.units (2 ^ 25))], arriving := [] })))))
    ∧ (c < 16 → missingFeature link ≠ 0 → Gives (.cxlPortUp c link) s
        (record s { code := 0x0701, quarter := cxlQuarter c, kind := 7, inst := c % 4, p0 := word c, p1 := word (missingFeature link) }))
    ∧ ((missingFeature link = 0 ↔ link.type3 = true ∧ (link.lanes = 16 ∨ link.lanes = 8) ∧ (link.rate = 64 ∨ link.rate = 32)
        ∧ (link.flit = 256 ∨ (link.flit = 68 ∧ link.rate = 32)) ∧ link.io = true ∧ link.mem = true ∧ link.interleave = false
        ∧ link.addEvents = true ∧ link.poison = true ∧ link.ideOffered = true ∧ link.unsupported = false))
    ∧ ((cxlOf s c).up = true → fillsOut s c = [] → ∃ u, Gives (.cxlPortDown c) s (settleAll u) ∧ (cxlOf u c).up = false ∧ (cxlOf u c).ops = []
        ∧ u.tier.frames = s.tier.frames ∧ u.tier.mem = s.tier.mem ∧ u.home = s.home)
    ∧ ((cxlOf s c).up = true → 0 < units → dpa + units ≤ 2 ^ 25 → Gives (.dynamicCapacityAdd c dpa units) s
        (updCxl s c (fun x => { x with arriving := x.arriving ++ [(dpa, units)] })))
    ∧ ((cxlOf s c).up = false → Gives (.dynamicCapacityAdd c dpa units) s s ∧ Gives (.trayTableEntryFree c) s s ∧ Gives (.cxlPortDown c) s s)
    ∧ ((cxlOf s c).up = true → Gives (.trayTableEntryFree c) s
        (updCxl s c (fun x => { x with ops := issueOps (now s) (trayLimit - trayBusy s c) x.ops })))

/-- The answer to a tray read fills its line, unless the line has been written meanwhile; an error fails the requests that wait, with a record. A read
unanswered for 64 bells is issued once more, and fails after 64 more. The answer to a write makes the line clean, unless it has been written again; a
write that fails, or is unanswered for 128 bells, is tried again 1,000 bells later. -/
def Obligations.TrayAccessesEnd : Prop :=
  ∀ (c line : Nat) (s : State) (o : TrayOp),
    (∀ t, trayOpOf s c line false = some o → o.issued = some t →
      (∀ d, Gives (.trayReadCompletion c line (.data d)) s (settleAll (fillLine (readTaken s c line t) c line d)))
      ∧ Gives (.trayReadCompletion c line .error) s (settleAll
        (failFill (readFailed (readTaken s c line t) c line 3).1 (trayPlace c line) (readFailed (readTaken s c line t) c line 3).2)))
    ∧ (trayOpOf s c line false = some o → opLate s o = true → o.reissued = false → Gives (.trayReadTimeout c line) s
        (updOps s c (fun l => adjustWhere l (isOp line false) (fun o => { o with issued := some (now s), reissued := true }))))
    ∧ (trayOpOf s c line false = some o → opLate s o = true → o.reissued = true →
      let u := updOps s c (·.filter (fun o => !isOp line false o))
      Gives (.trayReadTimeout c line) s (settleAll (failFill (readFailed u c line 1).1 (trayPlace c line) (readFailed u c line 1).2)))
    ∧ (∀ d, trayOpOf s c line true = some o → o.issued.isSome = true → o.again = false →
      let u := updOps s c (·.filter (fun o => !isOp line true o))
      Gives (.trayWriteCompletion c line (.data d)) s (settleAll { u with tier := { u.tier with
        frames := adjustWhere u.tier.frames (holdsLine c line) (fun f => { f with dirty := Tab.erase f.dirty (line % 64) }) } }))
    ∧ (trayOpOf s c line true = some o → o.issued.isSome = true → Gives (.trayWriteCompletion c line .error) s (writeFailed s c line 3 o))
    ∧ (trayOpOf s c line true = some o → o.retryAt = none → opLate s o = true → o.reissued = false → Gives (.trayWriteTimeout c line) s
        (updOps s c (fun l => adjustWhere l (isOp line true) (fun o => { o with issued := some (now s), reissued := true }))))
    ∧ (trayOpOf s c line true = some o → o.retryAt = none → opLate s o = true → o.reissued = true →
      Gives (.trayWriteTimeout c line) s (writeFailed s c line 1 o))
    ∧ (∀ b, trayOpOf s c line true = some o → o.retryAt = some b → b.toNat ≤ bellN s → Gives (.trayWriteTimeout c line) s
        (traySettle (updOps s c (fun l => adjustWhere l (isOp line true) (fun o => { o with retryAt := none }))) c))

/-- Correctable errors of a row are counted within a lifetime tick, and the fourth schedules the row's repair (the channel drains), or the channel's
retirement once more than 16 rows are repaired (a drain for repair where the retirement is held back); an uncorrectable error poisons its line, and errors in a second bank retire the channel; the end of a
drain opens the channel again, or leaves it retired. -/
def Obligations.NearMemoryErrors : Prop :=
  ∀ (q stack pc row bank line : Nat) (s : State),
    let n := ((s.tier.rowErrors.find? (fun e => e.1 == (q, stack, pc, row))).map (·.2)).getD 0 + 1
    let counted : State := { s with
      tier := { s.tier with rowErrors := ((q, stack, pc, row), n) :: s.tier.rowErrors.filter (fun e => e.1 != (q, stack, pc, row)) }
      pwr := { s.pwr with life := { s.pwr.life with
        stackLife := Tab.upd s.pwr.life.stackLife (q * 5 + stack) {} (fun l => { l with correctable := up32 l.correctable }) } } }
    (n ≠ 4 → Gives (.hbmCorrectableError q stack pc row) s counted)
    ∧ (n = 4 → (q, stack, pc, row) ∉ s.tier.repaired → ∃ u, u.tier = { counted.tier with repaired := s.tier.repaired ++ [(q, stack, pc, row)] }
      ∧ u.home = s.home ∧ u.time = s.time
      ∧ (((s.tier.repaired ++ [(q, stack, pc, row)]).filter (fun k => k.1 == q && k.2.1 == stack && k.2.2.1 == pc)).length ≤ 16 →
        Gives (.hbmCorrectableError q stack pc row) s (startDrain u q stack pc false))
      ∧ (16 < ((s.tier.repaired ++ [(q, stack, pc, row)]).filter (fun k => k.1 == q && k.2.1 == stack && k.2.2.1 == pc)).length →
        let v := scheduleRetire u q stack pc
        Gives (.hbmCorrectableError q stack pc row) s (if v.tier.held.contains (q, stack, pc) = true then startDrain v q stack pc false else v)))
    ∧ (n = 4 → (q, stack, pc, row) ∈ s.tier.repaired → Gives (.hbmCorrectableError q stack pc row) s counted)
    ∧ (∀ l, l = addOnce s.tier.badBanks (q, stack, pc, bank) → ∃ u, u = { s with
        tier := { s.tier with badBanks := l }, pwr := u.pwr, home := { s.home with poison := Tab.set s.home.poison line 0 } }
      ∧ ((l.filter (fun k => k.1 == q && k.2.1 == stack && k.2.2.1 == pc)).length < 2 → Gives (.hbmUncorrectableError q stack pc bank line) s u)
      ∧ (2 ≤ (l.filter (fun k => k.1 == q && k.2.1 == stack && k.2.2.1 == pc)).length →
        Gives (.hbmUncorrectableError q stack pc bank line) s (scheduleRetire u q stack pc)))
    ∧ (∀ x, s.tier.drains.find? (fun d => d.q == q && d.stack == stack && d.pc == pc) = some x →
      (s.tier.frames.filter (fun f => f.q == q && setChannel f.set == (stack, pc))) = [] → x.page = none → pagesOn s q stack pc = [] →
      ∃ u, Gives (.pcDrainDone q stack pc) s (settleAll u) ∧ u.tier.drains = s.tier.drains.filter (fun d => !(d.q == q && d.stack == stack && d.pc == pc))
        ∧ u.tier.retired = (if x.retire then s.tier.retired ++ [(q, stack, pc)] else s.tier.retired) ∧ u.tier.mem = s.tier.mem)

/-! ### What falls due -/

/-- A request in service whose response is due gets DEFERRED; one not begun W − 2 bells after its admission ends with AGED; one 256 bells old ends with
MEDIA_ERROR and a record. A request kept out of its line's queue is tried again, and aged at its eighth try, or 4 bells after its first. -/
def Obligations.RequestsFallDue : Prop :=
  ∀ (p src tag : Nat) (s : State) (r : Req),
    (reqOf s p src tag = some r → r.begun = true → isDue s r.bell r.lastDefer r.deferrals r.win = true → Gives (.deferredDue p src tag) s (defer s r))
    ∧ (reqOf s p src tag = some r → r.org = .port → r.begun = false → r.bell.toNat + r.win - 2 ≤ bellN s → Gives (.aged p src tag) s (settleAll (finish s r AGED 0 [])))
    ∧ (reqOf s p src tag = some r → (r.begun = true ∨ bellN s < r.bell.toNat + r.win - 2) → Gives (.aged p src tag) s s)
    ∧ (reqOf s p src tag = some r → 256 ≤ since s r.bell → Gives (.requestExpired p src tag) s (settleAll (finish
        (cancelDeltas (record s { code := 0x0307, quarter := portQuarter p, kind := 2, inst := portInst p, stall := r.h.stall, principal := stallPrincipal s r.h.stall
                                  p0 := pack [(16, src), (0, tag)], p1 := word r.h.handle, p2 := r.bell }) r.id MEDIA_ERROR)
        r MEDIA_ERROR (nextSeq s 0x0307 (portQuarter p)) [])))
    ∧ (reqOf s p src tag = some r → since s r.bell < 256 → Gives (.requestExpired p src tag) s s)
    ∧ (reqOf (settleAll s) p src tag = some r → r.begun = false → queueFull (settleAll s) r = true →
      let u := updReq (settleAll s) r.id (fun r => { r with retries := r.retries + 1, firstTry := some (r.firstTry.getD (settleAll s).time.bell) })
      Gives (.lineQueuePresentation p src tag) s (if 8 ≤ r.retries + 1 then ageReq u r else u))
    ∧ (∀ b, reqOf s p src tag = some r → r.firstTry = some b → r.begun = false → 4 ≤ since s b →
      Gives (.lineQueueAgeing p src tag) s (settleAll (ageReq s r)))

/-- A snoop unanswered for 8 bells is recorded and its agent dropped, and an owner's line is poisoned and the requests waiting for it end POISONED; an offer is removed and recorded at its 64th bell;
a combining group closes 64 SCLK after its first member; a line dirty for 1,000 bells is written back; a stream 300 bells without a request leaves the
refusing state, and a full point W_max bells after its last refusal the full state; a gateway's block is flushed FLUSH bells after its first dirty line. -/
def Obligations.TimesOfLinesAndPoints : Prop :=
  ∀ (q a b c d e : Nat) (s : State),
    (∀ n : Snoop, s.home.snoops.find? (fun n => n.q == q && n.agent == a && n.tag == b) = some n → 8 ≤ since s n.bell →
      let t := record s { code := 0x0602, quarter := q, kind := 5, p0 := word n.handle, p1 := word (n.line * 64), p2 := word a, p3 := word (b2n n.owner) }
      let u := { t with home := { t.home with
        snoops := t.home.snoops.filter (fun m => !(m.agent == a && m.tag == b))
        dir := adjustWhere t.home.dir (fun o => o.handle == n.handle && o.line == n.line) (fun e => { e with ptrs := e.ptrs.filter (· != a) }) } }
      (n.owner = false → Gives (.snoopTimeout q a b) s (settleAll (snoopEnd u n)))
      ∧ (∀ g x, n.owner = true → regionOf s n.handle = some g → placeOf g (n.line * 64) = some x → Gives (.snoopTimeout q a b) s
        (settleAll (snoopEnd (each (s.home.reqs.filter (fun r => r.begun && r.h.handle == n.handle
            && (reqLines (setPoison u x (nextSeq s 0x0602 q)) r).contains (n.line * 64) && !r.done.contains (n.line * 64)))
          (fun r s' => finish s' r POISONED (nextSeq s 0x0602 q) []) (setPoison u x (nextSeq s 0x0602 q))) n))))
    ∧ (∀ o, Tab.get? s.home.offers a = some o → 64 ≤ since s o.bell → Gives (.offerLapsed a) s (settleAll (dropOffer
        (record s { code := 0x0601, quarter := (regionOf s a).elim 0 (·.homeq), kind := 5, p0 := word a, p1 := word o.toward, p2 := word o.ownep }) a)))
    ∧ (∀ o, Tab.get? s.home.offers a = some o → since s o.bell < 64 → Gives (.offerLapsed a) s s)
    ∧ Gives (.offerTableEntryFree q) s (settleAll s) ∧ Gives (.frameAvailable q a) s (settleAll s)
    ∧ (∀ g, s.home.groups.find? (fun g => g.q == q && lineKey g.handle (g.line * 64) == a) = some g → g.bell.toNat * 1400 + g.phase + 64 ≤ now s →
      Gives (.combiningGroupClose q a) s (settleAll (closeGroup s g)))
    ∧ (∀ f at_, isTray (a * 64) = true → frameOf s q (a * 64) = some f → Tab.get? f.dirty (lineIdx (a * 64)) = some at_ → 1000 ≤ since s at_ →
      Gives (.dirtyWritebackDue q a) s (writeBack s f (lineIdx (a * 64))))
    ∧ (Gives (.refusingStateTimeout q a b c d e) s { s with sw := { s.sw with refusing := s.sw.refusing.filter (fun x =>
        !(x.q == q && x.point == a && x.src == b && x.stall == c && x.svc == d && x.qp == e && decide (300 ≤ since s x.last))) } })
    ∧ (∀ f, s.sw.full.find? (fun f => f.q == q && f.point == a) = some f → refusingCount s q a < 65536 → wMax s ≤ since s f.last →
      Gives (.refuseTableClear q a) s (record { s with sw := { s.sw with full := s.sw.full.filter (fun e => !(e.q == q && e.point == a)) } }
        { code := 0x0502, quarter := q, kind := 5, p0 := pack [(8, q), (0, a)], p1 := word f.count }))
    ∧ (∀ g x, gwOf s a = some g → gwBlockOf s a b = some x → x.dirty ≠ [] → g.flush ≤ since s x.dirtySince →
      Gives (.gatewayFlush a b) s (gwFlushBlock s g b))

/-- A tally that takes entries absorbs the first; one that is empty and has absorbed fewer than 16 entries in each of four bells, or is closing, gives up its
slot, and its line is written back from the line cache. The shapers parked in a fine slot become eligible when the slot begins, and their ports send what may go. -/
def Obligations.TalliesAndShapers : Prop :=
  ∀ (q line slot : Nat) (s : State) (t : Tally),
    (tallyAt s q line = some t → t.closing = false → Gives (.tallyAbsorb q line) s (settleAll (absorb s t)))
    ∧ (tallyAt s q line = some t → tallyDepth s t = 0 → (t.closing = true ∨ (4 ≤ t.history.length ∧ (t.history.take 4).all (· < 16) = true)) →
      Gives (.tallyDemote q line) s (settleAll (tallyFlush
        { s with home := { s.home with tallies := s.home.tallies.filter (fun x => !(x.handle == t.handle && x.line == t.line)) } } t.handle t.line)))
    ∧ (tallyAt s q line = some t → t.closing = false → t.history.length < 4 → Gives (.tallyDemote q line) s s)
    ∧ (∃ u ports, Gives (.fineWheelSlot q slot) s (each ports (fun p s => pump s p) u) ∧ u = { s with sw := u.sw }
      ∧ u.sw.shapers.map (·.1) = s.sw.shapers.map (·.1)
      ∧ (∀ e ∈ s.sw.shapers, ∀ at_, e.2.parked = some at_ → portQuarter (e.1 / 32768) = q → at_ < now s + 2048 → at_ / 8 % 256 = slot →
        (e.1, { e.2 with parked := none }) ∈ u.sw.shapers ∧ e.1 / 32768 ∈ ports)
      ∧ (∀ e ∈ s.sw.shapers, e.2.parked = none → e ∈ u.sw.shapers))

/-! ### Engines and queue pairs -/

/-- An engine message in form crosses the switch to its engine and is judged by its job. One judged good is taken: a CONTRIB is retained as the input of
its rank and block, a PARTIAL as the input of its child (its second half completes it), a RESULT is passed on, a QUERY joins the queries of its index (and
ends at once where its epoch lies below the index's floor), a list joins its merge; then the engines go on. A duplicate is counted, and one that its job
refuses is counted and recorded with the cause. One out of form, or not from the port's own source, is discarded and recorded. -/
def Obligations.EngineMessagesAreTaken : Prop :=
  (∀ (p : Nat) (h : EngHdr) (d : List Byte) (s : State) (j : Job),
    let u (opc : Nat) := engGranted s { port := p, entered := now s, opc := opc, h := h, data := d }
    (∀ r, engOpen s p 1 h d = true → jobOf s h.jobid = some j → j.body = .red r →
      (judgeContrib j r s.dom.devid h = .take →
        Gives (.contrib p h d) s (runEngines (retain (u 1) h.jobid { block := h.block, rank := h.rank, fmt := r.infmt, bytes := d })))
      ∧ (judgeContrib j r s.dom.devid h = .dup → Gives (.contrib p h d) s (runEngines (countDup (u 1) h.jobid)))
      ∧ (∀ c, judgeContrib j r s.dom.devid h = .discard c →
        Gives (.contrib p h d) s (runEngines (discardRed (countDiscard (u 1) j.jobid) j.quarter h c))))
    ∧ (∀ r, engOpen s p 4 h d = true → h.tc = 2 → jobOf s h.jobid = some j → j.body = .red r → judgePartial j r s.dom.devid h = .take →
      Gives (.partialList p h d) s (runEngines (takePartial (u 4) r h d)))
    ∧ (∀ w, engOpen s p 4 h d = true → h.tc = 2 → jobOf s h.jobid = some j → j.body = .winnow w → judgeList j w h = .take →
      Gives (.partialList p h d) s (runEngines (takeList (u 4) h d)))
    ∧ (engOpen s p 4 h d = true → h.tc = 3 → judgeSearchPart s h = .take → Gives (.partialList p h d) s (runEngines (takeSearchPart (u 4) h d)))
    ∧ (∀ r, engOpen s p 2 h d = true → h.tc = 2 → jobOf s h.jobid = some j → j.body = .red r → judgeResult j r h = .take →
      Gives (.result p h d) s (runEngines (takeResult (u 2) j r h d)))
    ∧ (engOpen s p 3 h d = true → judgeQuery s h d = .take → Gives (.query p h d) s (runEngines (takeQuery (u 3) h d)))
    ∧ (portUp s p = true → (h.ver ≠ 1 ∨ 64 < h.len ∨ d.length ≠ 64 * h.len ∨ h.rsv ≠ 0) →
      Gives (.contrib p h d) s (discardMessage s p h.src 2 1) ∧ Gives (.result p h d) s (discardMessage s p h.src 2 1)
      ∧ Gives (.query p h d) s (discardMessage s p h.src 2 1) ∧ Gives (.partialList p h d) s (discardMessage s p h.src 2 1))
    ∧ (portUp s p = true → h.ver = 1 → h.len ≤ 64 → d.length = 64 * h.len → h.rsv = 0 → (portOf s p).ptype = 2 → h.src ≠ (portOf s p).epid →
      (h.tc = 2 → Gives (.contrib p h d) s (discardMessage s p h.src 2 2) ∧ Gives (.result p h d) s (discardMessage s p h.src 2 2)
        ∧ Gives (.partialList p h d) s (discardMessage s p h.src 2 2))
      ∧ (h.tc = 3 → Gives (.query p h d) s (discardMessage s p h.src 2 2))))
  ∧ (∀ (s : State) (jobid : Nat) (j : Job) (r : RedJob) (i : Input), jobOf s jobid = some j → j.body = .red r →
      jobOf (retain s jobid i) jobid = some { j with heard := s.time.bell, body := .red { r with
        inputs := r.inputs ++ [i]
        firstInput := if Tab.has r.firstInput i.block = true then r.firstInput else Tab.set r.firstInput i.block s.time.bell } })

/-- A doorbell of a queue pair is an ATOMIC_MAX on its word of the control line, under the ring's key, whose home rings the queue pair; the queue pair then
takes what waits. While the pair's quarter is in reset the value waits; a doorbell of no queue pair changes nothing. JOB_ADMISSION lets a queue pair
take what waits. At the strike set for it the interrupt of a queue pair is raised, and before it nothing changes; a RELEASING queue pair with nothing
in flight or held is freed at a strike, with a record, and before that stays. -/
def Obligations.QueuePairsAndEnginesMove : Prop :=
  (∀ (fn lq n : Nat) (value : Word) (s : State) (c : Qp),
      (s.qps.find? (fun e => e.2.state != 0 && e.2.stall == fnStall fn && e.2.lq == lq) = some (n, c) → quarterInReset s c.quarter = false →
        let h : ReqHdr := { stall := c.stall, qp := n, handle := c.ring, key := c.rkey, len := 1 }
        Gives (.sqtailDoorbell fn lq value) s
            (runEngines (takeSubmissions (settleAll (submit s (.ring n) 0x12 { h with offset := c.control } (maxUnit value)).2) n))
        ∧ Gives (.cqheadDoorbell fn lq value) s
            (runEngines (takeSubmissions (settleAll (submit s (.ring n) 0x12 { h with offset := c.control + 8 } (maxUnit value)).2) n)))
      ∧ (s.qps.find? (fun e => e.2.state != 0 && e.2.stall == fnStall fn && e.2.lq == lq) = some (n, c) → quarterInReset s c.quarter = true →
        Gives (.sqtailDoorbell fn lq value) s (ring s n value.toNat 0) ∧ Gives (.cqheadDoorbell fn lq value) s (ring s n 0 value.toNat))
      ∧ (s.qps.find? (fun e => e.2.state != 0 && e.2.stall == fnStall fn && e.2.lq == lq) = none →
        Gives (.sqtailDoorbell fn lq value) s s ∧ Gives (.cqheadDoorbell fn lq value) s s)
      ∧ Gives (.jobAdmission n) s (runEngines (takeSubmissions s n))
      ∧ (∀ b, Tab.get? s.qps n = some c → c.state ≠ 0 → c.irqAt = some b →
        (b.toNat ≤ bellN s → Gives (.interruptDelayExpiry n) s (qpInterrupt s n c)) ∧ (bellN s < b.toNat → Gives (.interruptDelayExpiry n) s s))
      ∧ (Tab.get? s.qps n = some c → c.state = 3 → s.time.phase = 0 → inflight s n = 0 → c.held = [] → Gives (.qpReleased n) s
          (endDrains (qpRecord { s with qps := Tab.erase s.qps n } c 0x0F04 (word n) s.time.bell 0 0) (fun d => d == .qp n) OK s.time.bell []))
      ∧ (Tab.get? s.qps n = some c → (c.state ≠ 3 ∨ s.time.phase ≠ 0 ∨ inflight s n ≠ 0 ∨ c.held ≠ []) → Gives (.qpReleased n) s s))
  ∧ (∀ (value : Word), (maxUnit value).length = 64 ∧ (atomicOperand (maxUnit value)).bytes = 8 ∧ (atomicOperand (maxUnit value)).type = 0
      ∧ (atomicOperand (maxUnit value)).operand = value.toNat)

/-- A portion that closes leaves its engine, and what the engine got to is done, after the engines have gone as far as they go; no portion, no effect. An
access with its final response goes to what made it: a queue pair's submission entry, its ring, a mailbox command's data area, a stalk's page work, or the
engines; one without stays. A row read of a gather with its answers leaves the reads outstanding and its row is delivered to every position that it
serves, as DELIVER has it; a row that reads bad counts as a bad row at each. -/
def Obligations.EnginesTakeTheirAnswers : Prop :=
  ∀ (q i jobid pos acc : Nat) (kind : EngineKind) (rep : PortionReport) (s : State),
    (∀ p, s.eng.portions.find? (fun p => p.quarter == q && p.kind == kind && p.index == i) = some p →
      Gives (.portionClose q kind i rep) s (runEngines (closePortion (runEngines s) p rep)))
    ∧ (s.eng.portions.find? (fun p => p.quarter == q && p.kind == kind && p.index == i) = none → Gives (.portionClose q kind i rep) s s)
    ∧ (∀ a status lines d, s.eng.access.find? (fun a => a.acc == acc) = some a → a.answer = some (status, lines, d) →
      Gives (.engineAccessResponse acc) s (runEngines (match a.use with
        | .admission n _ => takeSubmissions s n
        | .ring n => ringAnswer s a n status
        | .mailbox n => areaAnswer s a n status d
        | .lineRebuild _ _ _ => sheafStep s
        | .stalkPage _ _ _ => sheafStep s
        | _ => s)))
    ∧ (∀ a, s.eng.access.find? (fun a => a.acc == acc) = some a → a.answer = none → Gives (.engineAccessResponse acc) s s)
    ∧ (s.eng.access.find? (fun a => a.acc == acc) = none → Gives (.engineAccessResponse acc) s s)
    ∧ (∀ j r e, jobOf s jobid = some j → j.body = .gather r → r.rows.find? (fun e => e.1 == pos) = some e →
      let reads := takeReads s (.row jobid e.2.1) (r.rowOff e.2.1) (r.rowb * 64)
      let mine := (r.rows.filter (fun x => x.2.1 == e.2.1)).map (·.1)
      let t := updGather (updJob reads.2 jobid (fun j => { j with heard := s.time.bell })) jobid
        (fun r => { r with rows := r.rows.filter (fun x => x.2.1 != e.2.1) })
      (reads.1 = .waiting → Gives (.rowReadCompletion jobid pos) s (runEngines reads.2))
      ∧ (∀ d, reads.1 = .data d → Gives (.rowReadCompletion jobid pos) s (runEngines (each mine (fun i v =>
          let o := deliverRow v j r i e.2.1 d
          if o.1 = true then o.2 else badRow o.2 j i POISONED 0) t)))
      ∧ (∀ status seq, reads.1 = .failed status seq → (status = POISONED ∨ status = MEDIA_ERROR) →
        Gives (.rowReadCompletion jobid pos) s (runEngines (each mine (fun i v => badRow v j i status seq) t))))

/-- A job that has waited TMO bells ends with MEDIA_ERROR and a record: a reduction (which block, what is missing), a gather or winnow that still expects
input. The root of a search goes on without a shard that has not ended its list, which counts as ended with MEDIA_ERROR, with a record; a query held 4
bells for its epoch ends with EPOCH_STALE; a compaction whose lines are there switches at a strike and raises the index's floor to its epoch, and one
that still lacks lines asks for them. -/
def Obligations.JobsTimeOut : Prop :=
  ∀ (jobid n query rank part : Nat) (s : State) (j : Job),
    (∀ r which b mkind miss, jobOf s jobid = some j → j.body = .red r → redTimeout s j r = some (which, b, mkind, miss) → Gives (.jobTimeout jobid) s
      (runEngines (endJob (engRecord s j.quarter 0x0A02 j.stall (word jobid) (pack [(16, mkind), (0, miss)]) (word b) (word which)) jobid MEDIA_ERROR mkind miss b)))
    ∧ (∀ miss, jobOf s jobid = some j → wjobLate s j = some miss → Gives (.wjobTimeout jobid) s
      (runEngines (endJob (engRecord s j.quarter 0x0B03 j.stall (word jobid) (word miss) (word (since s j.heard)) 0) jobid MEDIA_ERROR 0 miss 0)))
    ∧ (∀ r m x, jobOf s jobid = some j → j.body = .search r → r.merges.find? (fun m => m.query == query) = some m → indexAt s r.index = some x →
      m.delivered = false → rank ∉ m.ended → rank ∈ x.tops → j.tmo ≤ since s m.sent → Gives (.shardTimeout jobid query rank) s (runEngines (deliverReady
        (updSearch (engRecord s j.quarter 0x0C02 j.stall (word jobid) (word query) (word rank) 0) jobid (fun r => { r with
          merges := adjustWhere r.merges (fun m => m.query == query) (fun m => { m with
            ended := addOnce m.ended rank, sum := addSummary m.sum { status := MEDIA_ERROR, failrank := rank } }) })) jobid)))
    ∧ (∀ x y, indexAt s n = some x → x.queries.find? (fun y => y.jobid == jobid && y.query == query) = some y → y.held = true → 4 ≤ since s y.bell →
      Gives (.queryEpochHoldExpiry n jobid query) s (runEngines (failList s x y EPOCH_STALE)))
    ∧ (∀ x y cepoch b, indexAt s n = some x → partAt x part = some y → y.compacting = some (cepoch, b) → missingNeeds s (compactNeeds s x y) = [] →
      s.time.phase = 0 → y.oldPages = [] → y.oldSlots = [] →
      ∃ u, Gives (.compactSwitch n part) s (settleAll (endDrains (freeOld u n) (fun d => d == .compact n part) OK s.time.bell []))
        ∧ ∀ x', indexAt u n = some x' → x'.floor = cepoch)
    ∧ (∀ x y c missing, indexAt s n = some x → partAt x part = some y → y.compacting = some c → missingNeeds s (compactNeeds s x y) = missing →
      missing ≠ [] → Gives (.compactSwitch n part) s (settleAll (askNeeds s missing)))
    ∧ (∀ x y, indexAt s n = some x → partAt x part = some y → y.compacting = none → Gives (.compactSwitch n part) s (settleAll s))

/-! ### Start-up, resets and firmware -/

/-- A cold start goes phase by phase: the input in range begins phase 1; phase 2 latches the straps and phase 3 verifies the image; phase 4 sets
BELL to the checkpoint plus 2^30 and writes it as a checkpoint (log 25); phase 10 makes the device ready. An overrun ends the start with a
device reset. The loss of the input leaves the flash and the fuses. -/
def Obligations.StartUpGoesPhaseByPhase : Prop :=
  ∀ (s : State) (r : PhaseReport),
    (s.pkg.powered = false → ∃ t, Gives .coldStart s t ∧ t.pkg = { s.pkg with powered := true, cold := true, phase := 1 })
    ∧ (s.pkg.powered = true → s.pkg.ready = false → s.rst.running = [] → s.pkg.recovery = false → s.pkg.hold = false → s.pkg.testMode = false →
      (s.pkg.phase = 1 → Gives (.startupPhaseEnd r) s { s with pkg := { s.pkg with phase := 2 } })
      ∧ (s.pkg.phase = 2 → s.pkg.resetLow = false →
        Gives (.startupPhaseEnd r) s { s with pkg := { s.pkg with addr := r.addr % 16, testMode := r.testMode, phase := 3 } })
      ∧ (s.pkg.phase = 3 → imageCheck s = 0 → Gives (.startupPhaseEnd r) s
        { s with sec := { s.sec with running := s.pkg.flash.image }, pkg := { s.pkg with phase := 4, rcvState := 0 } })
      ∧ (s.pkg.phase = 3 → imageCheck s ≠ 0 → ∃ t, Gives (.startupPhaseEnd r) s t ∧ t.pkg.recovery = true ∧ t.pkg.failChk = imageCheck s)
      ∧ (s.pkg.phase = 4 → s.pkg.cold = true → ∃ t, Gives (.startupPhaseEnd r) s t ∧ t.time.bell = s.pkg.flash.bell + word (2 ^ 30)
        ∧ t.time.powered = s.pkg.flash.powered + s.time.powered ∧ t.pkg.flash.bell = s.pkg.flash.bell + word (2 ^ 30) ∧ t.pkg.phase = 5)
      ∧ (s.pkg.phase = 10 → ∃ t, Gives (.startupPhaseEnd r) s t ∧ t.pkg.ready = true ∧ t.pkg.flash.pcyc = 0)
      ∧ (s.pkg.resetLow = false → Gives .startupPhaseOverrun s (beginDevice s .device 4 none false)))
    ∧ (∀ exceeds, s.pkg.powered = true → ∃ t, Gives (.inputOutOfRange exceeds) s t ∧ t.pkg = { flash := { s.pkg.flash with busy := false } }
      ∧ t.time = State.reset.time ∧ t.tier.mem = [] ∧ t.sec.minSvn = s.sec.minSvn)

/-- RESET_N low for 10 µs resets a ready device, and holds the reset while it stays low; in a start past phase 2 it brings the start back to the end
of phase 2. Its rise lets a held start go on at phase 3 and a held reset count its bound from then on. Less than 10 µs does nothing. An orderly
flush unfinished after 10 s is abandoned and the device reset goes on; PWRCYC_REQ counts PCYC and asks for a power cycle, and no more after two
without READY; a request that has not been met 10 s later leaves the device halted; the end of a flash operation lets the resets that it held go
on. -/
def Obligations.ResetPinAndPowerCycles : Prop :=
  (∀ (us : Nat) (s : State),
      (us < 10 → Gives (.resetN us) s s)
      ∧ (10 ≤ us → s.pkg.powered = true → s.pkg.resetLow = false → s.pkg.ready = false → s.rst.running = [] → 2 < s.pkg.phase →
        Gives (.resetN us) s { s with pkg := { s.pkg with resetLow := true, phase := 2, hold := true, recovery := false, failChk := 0 } })
      ∧ (10 ≤ us → s.pkg.powered = true → s.pkg.resetLow = false → s.pkg.ready = true → ∃ t, Gives (.resetN us) s t
        ∧ t.pkg.resetLow = true ∧ t.pkg.ready = false ∧ t.tier.mem = []
        ∧ t.rst.running = [{ scope := .device, cause := 2, begun := s.time.bell, counted := s.time.bell, held := true }])
      ∧ (s.pkg.resetLow = true → s.pkg.flash.busy = false → Gives .resetNRelease s (releaseHeldResets { s with pkg := { s.pkg with
        resetLow := false, hold := false, phase := if s.pkg.hold then 3 else s.pkg.phase
        tap := if 1 ≤ s.pkg.tap ∧ s.pkg.tap ≤ 3 then 0 else s.pkg.tap } }))
      ∧ (s.pkg.resetLow = false → Gives .resetNRelease s s))
  ∧ (∀ (s : State) (r : ResetRun) (b : Word),
      (s.rst.flushing = some b → 10000000 ≤ since s b → s.rst.running = [r] → r.scope = .device → Gives .orderlyFlushAbandoned s
        (assertDevice { s with rst := { s.rst with flushing := none, running := [{ r with counted := s.time.bell }] } }))
      ∧ (s.rst.running = [r] → r.scope = .power → r.orderly = false → s.rst.flushing = none → s.pkg.pwrcycReq = none → s.pkg.halted = false →
        (s.pkg.flash.pcyc < 2 → ∃ t, Gives .pwrcycReq s t ∧ t = { s with pkg := t.pkg, led := t.led, pwr := t.pwr }
          ∧ t.pkg = { s.pkg with pwrcycReq := some s.time.bell, flash := { s.pkg.flash with pcyc := s.pkg.flash.pcyc + 1 } })
        ∧ (2 ≤ s.pkg.flash.pcyc → Gives .pwrcycReq s { s with pkg := { s.pkg with halted := true } }))
      ∧ (s.pkg.pwrcycReq = some b → 10000000 ≤ since s b → ∃ t, Gives .pwrcycTimeout s t ∧ t = { s with pkg := t.pkg, led := t.led, pwr := t.pwr }
          ∧ t.pkg = { s.pkg with pwrcycReq := none, halted := true })
      ∧ (s.pkg.flash.busy = true → s.sec.roll = none → s.pkg.recovery = false → s.pkg.resetLow = false → Gives .flashOpDone s
        (releaseHeldResets { s with pkg := { s.pkg with flash := { s.pkg.flash with busy := false } } })))

/-- A place at 105 °C (a stack: 100 °C) resets its quarter and holds the reset; when the quarter has cooled the reset goes on, its bound counted
from then. A watchdog's 64 bells reset the quarter. -/
def Obligations.TripsResetTheirQuarter : Prop :=
  ∀ (place : ThermalPlace) (temp q : Nat) (s : State),
    (limitOf place 105 ≤ temp → place ∉ s.pwr.trip → s.rst.running = [] → Gives (.thermalTrip place temp) s
      (beginQuarter (powerRecord (updPower s (fun p => { p with trip := p.trip ++ [place], statusTemp := p.statusTemp ||| 0x80#8
                                                                life := { p.life with trips := up32 p.life.trips } }))
        0x1606 (placeWord place) (word temp) (word (placeQuarter place)) 0) (placeQuarter place) 3 none true))
    ∧ ((temp < limitOf place 105 ∨ place ∈ s.pwr.trip) → Gives (.thermalTrip place temp) s s)
    ∧ (s.pwr.trip.any (fun p => placeQuarter p == q) = true → Gives (.tripCleared q) s { s with
        pwr := { s.pwr with trip := s.pwr.trip.filter (fun x => placeQuarter x != q) }
        rst := { s.rst with running := adjustWhere s.rst.running (fun r => r.scope == .quarter q) (fun r => { r with held := false, counted := s.time.bell }) } })
    ∧ (q < 4 → s.rst.running = [] → Gives (.watchdogExpiry q) s (beginQuarter s q 5 none false))

/-- A hang is noted with its record and resets what hangs; a control core that fails its check hands its duties to the quarter's spare, which is claimed,
or resets the quarter where there is none; one that passes becomes the spare again where there is none, and the claim ends; a reset not held and within its bound ends, and one that
has outlasted its bound goes on at the next level. -/
def Obligations.ResetsBeginAndEnd : Prop :=
  ∀ (q core pos sp : Nat) (x : ResetScope) (failed : List Nat) (r : ResetRun) (s : State),
    (∀ k i, hangable s (.engine q k i) = true → s.rst.ended = [] → s.rst.running = [] →
      let u := resetRecord s 0x1401 (pack [(16, unitNumber s (.engine q k i)), (8, HangUnit.kind (.engine q k i))])
        (word (HangUnit.threshold (.engine q k i))) (progressOf s (.engine q k i)) (word (HangUnit.threshold (.engine q k i)))
      Gives (.hangDetected (.engine q k i)) s (beginEngine { u with rst := { u.rst with
        detectors := u.rst.detectors.filter (fun d => d.unit != .engine q k i) } } q k i 1 (some (.engine q k i))))
    ∧ (quarterInReset s q = false → (coresOf s q).halted = [] → core ∉ (coresOf s q).failed → positionOf (coresOf s q) core = some pos →
      (coresOf s q).spare = none → s.rst.running = [] → Gives (.coreHealthFail q core) s (beginQuarter s q 1 (some (.controlCore q core)) false))
    ∧ (quarterInReset s q = false → (coresOf s q).halted = [] → core ∉ (coresOf s q).failed → positionOf (coresOf s q) core = some pos →
      (coresOf s q).spare = some sp → Gives (.coreHealthFail q core) s
        (claimSpare (updCores (releaseClaims (abortWaiting s (fun c => servingCore s c.iss.fn == (q, core))) (fun r => r.quarter == q && r.core == core)) q
          (fun k => { k with active := modNth k.active pos (fun _ => sp), spare := none, failed := k.failed ++ [core] })) q sp))
    ∧ (core ∈ (coresOf s q).failed → (coresOf s q).halted = [] → Gives (.coreHealthCheckPassed q core) s
        (let u := updCores s q (fun k => { k with
          spare := if k.spare.isNone then some core else k.spare, failed := k.failed.filter (· != core), halted := k.halted.filter (fun h => h.1 != core) })
         if (coresOf s q).spare = none then freeSpare u q else u))
    ∧ (s.rst.running.find? (fun r => r.scope == x) = some r → r.held = false → since s r.counted ≤ r.scope.bound → s.rst.flushing = none →
      (∀ qp, x = .context qp → Gives (.resetEnd x failed) s (runEngines (endRun s r 0)))
      ∧ (∀ q k i, x = .engine q k i → Gives (.resetEnd x failed) s (settleAll (endEngine s r q k i failed)))
      ∧ (x = .quarter q → Gives (.resetEnd x failed) s (settleAll (endQuarter s r q failed)))
      ∧ (x = .device → s.pkg.halted = false → imageCheck s = 0 → ∃ t, Gives (.resetEnd x failed) s t ∧ t.pkg.ready = true ∧ t.pkg.flash.pcyc = 0))
    ∧ (s.rst.running.find? (fun r => r.scope == .quarter q) = some r → r.held = false → r.scope.bound < since s r.counted →
      ∃ t, Gives (.escalated (.quarter q)) s (beginDevice t .device 4 r.unit false) ∧ t.home = s.home ∧ t.eng = s.eng)
    ∧ (s.rst.running = [] → Gives (.resetEnd x failed) s s ∧ Gives (.escalated x) s s)

/-- A roll goes core by core: one that passes is counted and the next begins; one that fails ends the roll with everything reverted to the running
image. Outside a roll the end of a flash write in STATE 3 of a recovery restarts the start at phase 3 with the new image. The memory key of a
composition whose last unit has been rewritten moves on by one generation; a near unit not being drained counts as rewritten. -/
def Obligations.FirmwareAndKeysGoStepByStep : Prop :=
  ∀ (q core comp : Nat) (s : State) (r : Roll) (m : MemRotation) (g : Region),
    (s.sec.roll = some r → r.writing = false → rollQuarter r = q → rollCore s r = core → s.sec.staged.isSome = true →
      (r.steps = 7 ∨ r.carrying.isSome = true) → s.rst.running = [] →
      Gives (.fwCoreCheck q core true) s (corePassed s r core) ∧ Gives (.fwCoreCheck q core false) s (coreFailed s r core))
    ∧ (s.sec.roll = none → s.pkg.recovery = true → s.pkg.rcvState = 3 → Gives .fwFlashWriteDone s { s with pkg := { s.pkg with
        recovery := false, failChk := 0, rcvState := 4, rcvProgress := s.pkg.rcvImage.len / 2 ^ 20, phase := 3
        flash := { s.pkg.flash with image := s.pkg.rcvImage, busy := false } } })
    ∧ (s.sec.rotations.find? (fun m => m.comp == comp) = some m → rotationRegion s m = none → s.mb.cmds = [] → ∃ t u,
      Gives (.memoryKeyUnitDone comp) s (settleAll t) ∧ t.sec.memKeys = Tab.upd s.sec.memKeys comp (s.sec.era, 0) (fun k => (k.1, k.2 + 1))
      ∧ t = { s with sec := { s.sec with rotations := s.sec.rotations.filter (fun x => x.comp != comp), memKeys := t.sec.memKeys }, led := u, pwr := t.pwr })
    ∧ (s.sec.rotations.find? (fun m => m.comp == comp) = some m → rotationRegion s m = some g → g.handle = m.handle → m.unit + 1 < g.units →
      (∃ a, placeOf g (2 ^ 21 * m.unit) = some a ∧ isTray a = false) → s.tier.drains = [] → ∃ t, Gives (.memoryKeyUnitDone comp) s (settleAll t)
      ∧ t.tier = s.tier ∧ t.sec.rotations.find? (fun m => m.comp == comp) = some { m with unit := m.unit + 1, units := m.units + 1 })
end

