-- ==== Sys2Proof/Laws/KeepsBase.lean ====
section
/-! SUPPORT. What it means that a result keeps a property of the View of Safety.lean, for each kind of result, and the memory operations
that keep the canonical form. The Keeps files have one lemma for each function: it keeps every property that the memory operations keep. -/

namespace Sys2Proof.Machine

/-! ### Memory -/

theorem Memory.above_mono {b b' : Option Nat} {m : List Host.Cell} (h : Memory.above b m = true)
    (hb : ∀ c, c ∈ b' → ∀ d, (match b with | none => True | some x => x < d) → c < d) : Memory.above b' m = true := by
  cases m with
  | nil => rfl
  | cons c m =>
    simp only [Memory.above, Bool.and_eq_true] at h ⊢
    refine ⟨⟨?_, h.1.2⟩, h.2⟩
    cases b' with
    | none => rfl
    | some x =>
      have := hb x rfl c.1 (by cases b with | none => trivial | some y => simpa using h.1.1)
      simpa using this

theorem Memory.above_set {b : Option Nat} {m : List Host.Cell} {a : Nat} {x : Byte} (h : Memory.above b m = true)
    (hb : ∀ c, c ∈ b → c < a) : Memory.above b (Memory.set m a x) = true := by
  induction m generalizing b with
  | nil =>
    unfold Memory.set
    split
    · rfl
    · rename_i hx
      cases b with
      | none => simp [Memory.above, hx]
      | some y => simp [Memory.above, hx, hb y rfl]
  | cons c m ih =>
    simp only [Memory.above, Bool.and_eq_true, bne_iff_ne] at h
    unfold Memory.set
    split
    · rename_i hlt
      simp only [Memory.above, Bool.and_eq_true, bne_iff_ne]
      exact ⟨h.1, ih h.2 (by intro y hy; cases hy; exact hlt)⟩
    · split
      · rename_i hlt heq
        split
        · refine Memory.above_mono h.2 ?_
          intro y hy d hd
          have := hb y hy
          simp only at hd
          omega
        · rename_i hx
          simp only [Memory.above, Bool.and_eq_true, bne_iff_ne]
          refine ⟨⟨?_, hx⟩, by rw [← heq]; exact h.2⟩
          cases b with
          | none => rfl
          | some y => simpa using hb y rfl
      · rename_i hlt hne
        split
        · simp only [Memory.above, Bool.and_eq_true, bne_iff_ne]; exact h
        · rename_i hx
          simp only [Memory.above, Bool.and_eq_true, bne_iff_ne, decide_eq_true_eq]
          refine ⟨⟨?_, hx⟩, ⟨by omega, h.1.2⟩, h.2⟩
          cases b with
          | none => rfl
          | some y => simpa using hb y rfl

/-- Writing one byte keeps the canonical form. -/
theorem Memory.set_wf {m : List Host.Cell} (a : Nat) (x : Byte) (h : Memory.wf m = true) : Memory.wf (Memory.set m a x) = true :=
  Memory.above_set h (by intro c hc; cases hc)

/-- Writing bytes keeps the canonical form. -/
theorem Memory.write_wf {m : List Host.Cell} (a : Nat) (d : List Byte) (h : Memory.wf m = true) :
    Memory.wf (Memory.write m a d) = true := by
  induction d generalizing m a with
  | nil => exact h
  | cons b d ih => exact ih _ (Memory.set_wf a b h)

theorem Memory.above_filter {b : Option Nat} {m : List Host.Cell} (f : Host.Cell → Bool) (h : Memory.above b m = true) :
    Memory.above b (m.filter f) = true := by
  induction m generalizing b with
  | nil => rfl
  | cons c m ih =>
    simp only [Memory.above, Bool.and_eq_true] at h
    rw [List.filter_cons]
    split
    · simp only [Memory.above, Bool.and_eq_true]; exact ⟨h.1, ih h.2⟩
    · refine ih (Memory.above_mono h.2 ?_)
      intro y hy d hd
      cases b with
      | none => cases hy
      | some z =>
        cases hy
        have h1 : y < c.1 := by simpa using h.1.1
        simp only at hd
        omega

/-- Clearing bytes keeps the canonical form. -/
theorem Memory.clear_wf {m : List Host.Cell} (a n : Nat) (h : Memory.wf m = true) : Memory.wf (Memory.clear m a n) = true :=
  Memory.above_filter _ h

/-! ### Properties of the view -/

/-- A property that writing, clearing and emptying the memory keep, and any change of the line cache. -/
structure Closed (P : View → Prop) : Prop where
  write : ∀ v a d c, P v → P { v with mem := Memory.write v.mem a d, cache := c }
  clear : ∀ v a n c, P v → P { v with mem := Memory.clear v.mem a n, cache := c }
  empty : ∀ v c, P v → P { v with mem := [], cache := c }
  cache : ∀ v c, P v → P { v with cache := c }

/-- A property that a strike keeps: BELL goes up by one and the SCLK of the bell starts again. -/
def Struck (P : View → Prop) : Prop := ∀ v, P v → P { v with bell := v.bell + 1, phase := 0 }

/-- A property that a cold start keeps: BELL is set anew. -/
def Started (P : View → Prop) : Prop := ∀ v b, P v → P { v with bell := b, phase := 0 }

/-- A property that a loss of power keeps. -/
def Unpowered (P : View → Prop) : Prop := ∀ v, P v → P { mem := [], cache := [], bell := 0, phase := 0, minSvn := v.minSvn }

/-- A property that a rise of the fuse minimum keeps. -/
def Rolled (P : View → Prop) : Prop := ∀ v n, P v → P { v with minSvn := max v.minSvn n }

/-- A state has a property of the view. -/
def Kept (P : View → Prop) (s : State) : Prop := P s.view

theorem Kept.congr {P : View → Prop} {s t : State} (h : Kept P s) (e : t.view = s.view) : Kept P t := by
  unfold Kept at *
  rw [e]
  exact h

theorem Kept.mk {P : View → Prop} {s : State} (h : P s.view) : Kept P s := h

theorem Kept.write {P : View → Prop} (hP : Closed P) {s t : State} {a : Nat} {d : List Byte} {c : List CacheLine} (h : Kept P s)
    (e : t.view = { s.view with mem := Memory.write s.view.mem a d, cache := c }) : Kept P t := by
  unfold Kept at *
  rw [e]
  exact hP.write _ _ _ _ h

theorem Kept.clear {P : View → Prop} (hP : Closed P) {s t : State} {a n : Nat} {c : List CacheLine} (h : Kept P s)
    (e : t.view = { s.view with mem := Memory.clear s.view.mem a n, cache := c }) : Kept P t := by
  unfold Kept at *
  rw [e]
  exact hP.clear _ _ _ _ h

theorem Kept.cache {P : View → Prop} (hP : Closed P) {s t : State} {c : List CacheLine} (h : Kept P s)
    (e : t.view = { s.view with cache := c }) : Kept P t := by
  unfold Kept at *
  rw [e]
  exact hP.cache _ _ h

theorem Closed.clears {P : View → Prop} (hP : Closed P) {α : Type} (l : List α) (f g : α → Nat) (v : View) (h : P v) :
    P { v with mem := l.foldl (fun m x => Memory.clear m (f x) (g x)) v.mem } := by
  induction l generalizing v with
  | nil => exact h
  | cons x l ih => exact ih { v with mem := Memory.clear v.mem (f x) (g x) } (hP.clear v _ _ _ h)

theorem Kept.clears {P : View → Prop} (hP : Closed P) {α : Type} {s t : State} {l : List α} {f g : α → Nat} {c : List CacheLine} (h : Kept P s)
    (e : t.view = { s.view with mem := l.foldl (fun m x => Memory.clear m (f x) (g x)) s.view.mem, cache := c }) : Kept P t := by
  unfold Kept at *
  rw [e]
  exact hP.cache _ _ (hP.clears _ _ _ _ h)

/-- The canonical form of memory with the SCLK of the bell is such a property. -/
theorem closed_wf : Closed (fun v => Memory.wf v.mem = true ∧ v.phase < 1400) :=
  ⟨fun _ a d _ h => ⟨Memory.write_wf a d h.1, h.2⟩, fun _ a n _ h => ⟨Memory.clear_wf a n h.1, h.2⟩, fun _ _ h => ⟨rfl, h.2⟩, fun _ _ h => h⟩

/-! ### Results -/

variable {P : View → Prop}

def OptInv {α : Type} (Q : α → Prop) : Option α → Prop
  | none => True
  | some t => Q t

def ExcInv {ε α : Type} (Q : α → Prop) : Except ε α → Prop
  | .error _ => True
  | .ok t => Q t

def OutInv (P : View → Prop) : Host.Outcome State Fault Refusal → Prop
  | .next t => (Kept P) t
  | _ => True

theorem OptInv.mk_some {α : Type} {Q : α → Prop} {t : α} (h : Q t) : OptInv Q (some t) := h

theorem OptInv.mk_none {α : Type} {Q : α → Prop} : OptInv Q none := trivial

theorem ExcInv.mk_ok {ε α : Type} {Q : α → Prop} {t : α} (h : Q t) : ExcInv Q (.ok t : Except ε α) := h

theorem ExcInv.mk_error {ε α : Type} {Q : α → Prop} {e : ε} : ExcInv Q (.error e : Except ε α) := trivial

theorem ExcInv.of_eq {ε α : Type} {Q : α → Prop} {o : Except ε α} {t : α} (e : o = .ok t) (h : ExcInv Q o) : Q t := by
  subst e; exact h

theorem OutInv.mk_next {t : State} (h : Kept P t) : OutInv P (.next t) := h

theorem pair_mk {α : Type} {a : α} {t : State} (h : Kept P t) : Kept P (a, t).2 := h

def CmdInv (P : View → Prop) : CmdResult → Prop
  | .commit s _ _ _ => (Kept P) s
  | _ => True

def DirInv (P : View → Prop) : DirStep → Prop
  | .sent s => (Kept P) s
  | _ => True

def DirRoomInv (P : View → Prop) : DirRoom → Prop
  | .freeing s => (Kept P) s
  | _ => True

theorem DirRoomInv.mk_freeing {t : State} (h : Kept P t) : DirRoomInv P (.freeing t) := h

theorem DirRoomInv.of_eq {o : DirRoom} {t : State} (e : o = .freeing t) (h : DirRoomInv P o) : Kept P t := by subst e; exact h

theorem CmdInv.mk_commit {s : State} {c r d} (h : Kept P s) : CmdInv P (.commit s c r d) := h

theorem CmdInv.of_eq {o : CmdResult} {s : State} {c r d} (e : o = .commit s c r d) (h : CmdInv P o) : Kept P s := by subst e; exact h

theorem DirInv.mk_sent {t : State} (h : Kept P t) : DirInv P (.sent t) := h

theorem DirInv.of_eq {o : DirStep} {t : State} (e : o = .sent t) (h : DirInv P o) : Kept P t := by subst e; exact h

theorem OptInv.of_eq {α : Type} {Q : α → Prop} {o : Option α} {t : α} (e : o = some t) (h : OptInv Q o) : Q t := by
  subst e; exact h

theorem pair_of_eq {α : Type} {p : α × State} {a : α} {t : State} (e : p = (a, t)) (h : Kept P p.2) : Kept P t := by
  subst e; exact h

theorem pair_of_eq' {α : Type} {p : State × α} {a : α} {t : State} (e : p = (t, a)) (h : Kept P p.1) : Kept P t := by
  subst e; exact h

theorem ite_inv {c : Prop} {d : Decidable c} {a b : State} (h1 : c → Kept P a) (h2 : ¬c → Kept P b) : Kept P (@ite _ c d a b) := by
  split
  · exact h1 ‹_›
  · exact h2 ‹_›

theorem ite_snd {α : Type} {c : Prop} {d : Decidable c} {a b : α × State} (h1 : c → Kept P a.2) (h2 : ¬c → Kept P b.2) :
    (Kept P) (@ite _ c d a b).2 := by
  split
  · exact h1 ‹_›
  · exact h2 ‹_›

theorem bind_inv {α β : Type} {Q : β → Prop} {o : Option α} {f : α → Option β} (h : ∀ a, OptInv Q (f a)) : OptInv Q (o.bind f) := by
  cases o with
  | none => trivial
  | some a => exact h a

theorem foldl_bind_inv {α : Type} (f : State → α → Option State) (l : List α) (o : Option State)
    (hf : ∀ s a, (Kept P) s → OptInv (Kept P) (f s a)) (h : OptInv (Kept P) o) : OptInv (Kept P) (l.foldl (fun o a => o.bind (fun s => f s a)) o) := by
  induction l generalizing o with
  | nil => exact h
  | cons a l ih =>
    refine ih _ ?_
    cases o with
    | none => trivial
    | some s => exact hf s a h

theorem ite_opt {α : Type} {Q : α → Prop} {c : Prop} {d : Decidable c} {a b : Option α} (h1 : c → OptInv Q a) (h2 : ¬c → OptInv Q b) :
    OptInv Q (@ite _ c d a b) := by
  split
  · exact h1 ‹_›
  · exact h2 ‹_›

theorem ite_cmd {c : Prop} {d : Decidable c} {a b : CmdResult} (h1 : c → (CmdInv P) a) (h2 : ¬c → (CmdInv P) b) : CmdInv P (@ite _ c d a b) := by
  split
  · exact h1 ‹_›
  · exact h2 ‹_›

theorem ite_out {c : Prop} {d : Decidable c} {a b : Host.Outcome State Fault Refusal} (h1 : c → (OutInv P) a) (h2 : ¬c → (OutInv P) b) :
    (OutInv P) (@ite _ c d a b) := by
  split
  · exact h1 ‹_›
  · exact h2 ‹_›

theorem each_inv {α : Type} (l : List α) (f : α → State → State) (hf : ∀ a s, (Kept P) s → Kept P (f a s)) (s : State) (h : Kept P s) :
    (Kept P) (each l f s) := by
  unfold each
  induction l generalizing s with
  | nil => exact h
  | cons a l ih => exact ih _ (hf a s h)

theorem iter_inv (f : State → State) (hf : ∀ s, (Kept P) s → Kept P (f s)) (n : Nat) (s : State) (h : Kept P s) : Kept P (iter f n s) := by
  induction n generalizing s with
  | zero => exact h
  | succ n ih => exact ih _ (hf s h)

theorem foldl_inv {α : Type} (f : State → α → State) (l : List α) (s : State) (hf : ∀ s a, (Kept P) s → Kept P (f s a)) (h : Kept P s) :
    (Kept P) (l.foldl f s) := by
  induction l generalizing s with
  | nil => exact h
  | cons a l ih => exact ih _ (hf s a h)

theorem foldl_inv2 {α β : Type} (f : β × State → α → β × State) (l : List α) (p : β × State)
    (hf : ∀ p a, (Kept P) p.2 → Kept P (f p a).2) (h : Kept P p.2) : Kept P (l.foldl f p).2 := by
  induction l generalizing p with
  | nil => exact h
  | cons a l ih => exact ih _ (hf p a h)

theorem findSome_inv {α : Type} (f : α → Option State) (l : List α) (hf : ∀ a, OptInv (Kept P) (f a)) : OptInv (Kept P) (l.findSome? f) := by
  induction l with
  | nil => trivial
  | cons a l ih =>
    rw [List.findSome?_cons]
    split
    · rename_i h; exact OptInv.of_eq (Q := (Kept P)) h (hf a)
    · exact ih

theorem getD_inv {o : Option State} {d : State} (h : OptInv (Kept P) o) (hd : Kept P d) : Kept P (o.getD d) := by
  cases o with
  | none => exact hd
  | some t => exact h

theorem elim_inv {α : Type} {o : Option α} {d : State} {f : α → State} (hd : Kept P d) (h : ∀ a, (Kept P) (f a)) : Kept P (o.elim d f) := by
  cases o with
  | none => exact hd
  | some t => exact h t
end Sys2Proof.Machine
end

