-- ==== Sys2Proof/Laws/KeepsHome.lean ====
section
/-! SUPPORT. The shared operations, the lines, the directory and the home agent keep every property of the view that memory operations keep: one lemma for each function, citing those of the
functions it calls. A function that does not write memory keeps every property of the view: its lemma asks nothing of the property. -/

namespace Sys2Proof.Machine

set_option linter.all false

variable {P : View → Prop}

/-! ### Ops -/

theorem done_inv (s : State) (s' : State) (h_s : Kept P s) (h_s' : Kept P s') : OutInv P (done s s') := by
  unfold done
  repeat' first
    | with_reducible (first
        | assumption | intro _ | apply ite_inv | apply OutInv.mk_next)
    | exact Kept.congr ‹Kept P _› rfl | assumption | split

theorem freeWord_inv (s : State) (h_s : Kept P s) : Kept P (freeWord s).2 := by
  unfold freeWord
  repeat' first
    | with_reducible (first
        | assumption | intro _ | apply ite_inv | apply ite_snd)
    | exact Kept.congr ‹Kept P _› rfl | assumption | split

theorem drawWord_inv (s : State) (h_s : Kept P s) : Kept P (drawWord s).2 := by
  unfold drawWord
  repeat' first
    | with_reducible (first
        | assumption | intro _ | apply ite_inv | apply ite_snd)
    | exact Kept.congr ‹Kept P _› rfl | assumption | split

theorem record_inv (s : State) (r : Rec) (h_s : Kept P s) : Kept P (record s r) := by
  unfold record
  repeat' first
    | with_reducible (first
        | assumption | intro _ | apply ite_inv)
    | exact Kept.congr ‹Kept P _› rfl | assumption | split

theorem recordRate_inv (s : State) (key : Nat) (r : Rec) (h_s : Kept P s) : Kept P (recordRate s key r) := by
  unfold recordRate
  repeat' first
    | with_reducible (first
        | assumption | intro _ | apply record_inv | apply ite_inv)
    | exact Kept.congr ‹Kept P _› rfl | assumption | split

theorem poolWatch_inv (s : State) (q : Nat) (h_s : Kept P s) : Kept P (poolWatch s q) := by
  unfold poolWatch
  repeat' first
    | with_reducible (first
        | assumption | intro _ | apply recordRate_inv | apply ite_inv)
    | exact Kept.congr ‹Kept P _› rfl | assumption | split

theorem poolTake_inv (s : State) (q : Nat) (key : Nat) (g : Nat) (h_s : Kept P s) : Kept P (poolTake s q key g) := by
  unfold poolTake
  repeat' first
    | with_reducible (first
        | assumption | intro _ | apply poolWatch_inv | apply ite_inv)
    | exact Kept.congr ‹Kept P _› rfl | assumption | split

theorem poolGive_inv (s : State) (q : Nat) (key : Nat) (g : Nat) (h_s : Kept P s) : Kept P (poolGive s q key g) := by
  unfold poolGive
  repeat' first
    | with_reducible (first
        | assumption | intro _ | apply poolWatch_inv | apply ite_inv)
    | exact Kept.congr ‹Kept P _› rfl | assumption | split

theorem updPort_inv (s : State) (p : Nat) (f : PortS → PortS) (h_s : Kept P s) : Kept P (updPort s p f) := by
  unfold updPort
  repeat' first
    | with_reducible (first
        | assumption | intro _ | apply ite_inv)
    | exact Kept.congr ‹Kept P _› rfl | assumption | split

theorem shaperGrant_inv (s : State) (p : Nat) (c : Cand) (h_s : Kept P s) : Kept P (shaperGrant s p c) := by
  unfold shaperGrant
  repeat' first
    | with_reducible (first
        | assumption | intro _ | apply ite_inv)
    | exact Kept.congr ‹Kept P _› rfl | assumption | split

theorem crossCells_inv (s : State) (dest : Nat) (g : Nat) (h_s : Kept P s) : Kept P (crossCells s dest g) := by
  unfold crossCells
  repeat' first
    | with_reducible (first
        | assumption | intro _ | apply ite_inv)
    | exact Kept.congr ‹Kept P _› rfl | assumption | split

theorem moveLane_inv (s : State) (p : Nat) (h_s : Kept P s) : Kept P (moveLane s p) := by
  unfold moveLane
  repeat' first
    | with_reducible (first
        | assumption | intro _)
    | exact True.intro | exact ⟨rfl, rfl⟩
    | with_reducible (first
        | apply updPort_inv | apply record_inv | apply foldl_bind_inv | apply bind_inv | apply ite_snd | apply ite_inv | apply ite_opt | apply ite_cmd
        | apply ite_out | apply findSome_inv | apply each_inv | apply iter_inv | apply foldl_inv | apply foldl_inv2 | apply getD_inv | apply elim_inv
        | apply JudgedInv.mk | apply JudgedInv.take | apply JudgedInv.discard | apply ite_judged | apply OptInv.mk_some | apply OptInv.mk_none
        | apply ExcInv.mk_ok | apply ExcInv.mk_error | apply OutInv.mk_next | apply CmdInv.mk_commit | apply DirInv.mk_sent | apply DirRoomInv.mk_freeing)
    | exact Kept.congr ‹Kept P _› rfl | assumption | split | dsimp only

theorem resendOne_inv (s : State) (p : Nat) (h_s : Kept P s) : Kept P (resendOne s p) := by
  unfold resendOne
  repeat' first
    | with_reducible (first
        | assumption | intro _ | apply updPort_inv | apply ite_inv)
    | exact Kept.congr ‹Kept P _› rfl | assumption | split

theorem granted_inv (s : State) (q : Nat) (h_s : Kept P s) : Kept P (granted s q) := by
  unfold granted
  repeat' first
    | with_reducible (first
        | assumption | intro _ | apply ite_inv)
    | exact Kept.congr ‹Kept P _› rfl | assumption | split

theorem pumpOne_inv (s : State) (p : Nat) (h_s : Kept P s) : OptInv (Kept P) (pumpOne s p) := by
  unfold pumpOne
  repeat' first
    | with_reducible (first
        | assumption | intro _)
    | exact True.intro | exact ⟨rfl, rfl⟩
    | with_reducible (first
        | apply resendOne_inv | apply updPort_inv | apply poolGive_inv | apply granted_inv | apply moveLane_inv | apply shaperGrant_inv | apply foldl_bind_inv
        | apply bind_inv | apply ite_snd | apply ite_inv | apply ite_opt | apply ite_cmd | apply ite_out | apply findSome_inv | apply each_inv
        | apply iter_inv | apply foldl_inv | apply foldl_inv2 | apply getD_inv | apply elim_inv | apply JudgedInv.mk | apply JudgedInv.take
        | apply JudgedInv.discard | apply ite_judged | apply OptInv.mk_some | apply OptInv.mk_none | apply ExcInv.mk_ok | apply ExcInv.mk_error
        | apply OutInv.mk_next | apply CmdInv.mk_commit | apply DirInv.mk_sent | apply DirRoomInv.mk_freeing)
    | exact Kept.congr ‹Kept P _› rfl | assumption | split | dsimp only

theorem pumpN_inv (a0 : Nat) (s : State) (p : Nat) (h_s : Kept P s) : Kept P (pumpN a0 s p) := by
  induction a0 generalizing s with
  | zero => exact h_s
  | succ n ih =>
    unfold pumpN
    split
    · exact h_s
    · exact ih _ (OptInv.of_eq (Q := (Kept P)) ‹_ = some _› (pumpOne_inv _ _ h_s))

theorem pump_inv (s : State) (p : Nat) (h_s : Kept P s) : Kept P (pump s p) := by
  unfold pump
  repeat' first
    | with_reducible (first
        | assumption | intro _ | apply pumpN_inv | apply ite_inv)
    | exact Kept.congr ‹Kept P _› rfl | assumption | split

theorem enqueue_inv (s : State) (p : Nat) (m : Msg) (h_s : Kept P s) : Kept P (enqueue s p m) := by
  unfold enqueue
  repeat' first
    | with_reducible (first
        | assumption | intro _ | apply updPort_inv | apply crossCells_inv | apply poolTake_inv | apply ite_inv)
    | exact Kept.congr ‹Kept P _› rfl | assumption | split

theorem send_inv (s : State) (p : Nat) (m : Msg) (h_s : Kept P s) : Kept P (send s p m) := by
  unfold send
  repeat' first
    | with_reducible (first
        | assumption | intro _ | apply pump_inv | apply enqueue_inv | apply ite_inv)
    | exact Kept.congr ‹Kept P _› rfl | assumption | split

theorem sendResponse_inv (s : State) (p : Nat) (dst : Nat) (h : RspHdr) (d : List Byte) (sealOf : Nat) (h_s : Kept P s) : Kept P (sendResponse s p dst h d sealOf) := by
  unfold sendResponse
  repeat' first
    | with_reducible (first
        | assumption | intro _)
    | exact True.intro | exact ⟨rfl, rfl⟩
    | with_reducible (first
        | apply send_inv | apply recordRate_inv | apply foldl_bind_inv | apply bind_inv | apply ite_snd | apply ite_inv | apply ite_opt | apply ite_cmd
        | apply ite_out | apply findSome_inv | apply each_inv | apply iter_inv | apply foldl_inv | apply foldl_inv2 | apply getD_inv | apply elim_inv
        | apply JudgedInv.mk | apply JudgedInv.take | apply JudgedInv.discard | apply ite_judged | apply OptInv.mk_some | apply OptInv.mk_none
        | apply ExcInv.mk_ok | apply ExcInv.mk_error | apply OutInv.mk_next | apply CmdInv.mk_commit | apply DirInv.mk_sent | apply DirRoomInv.mk_freeing)
    | exact Kept.congr ‹Kept P _› rfl | assumption | split | dsimp only

theorem discardMessage_inv (s : State) (p : Nat) (src : Nat) (kind : Nat) (cause : Nat) (h_s : Kept P s) : Kept P (discardMessage s p src kind cause) := by
  unfold discardMessage
  repeat' first
    | with_reducible (first
        | assumption | intro _ | apply recordRate_inv | apply ite_inv)
    | exact Kept.congr ‹Kept P _› rfl | assumption | split

theorem interrupt_inv (s : State) (fn : Nat) (vec : Nat) (h_s : Kept P s) : Kept P (interrupt s fn vec) := by
  unfold interrupt
  repeat' first
    | with_reducible (first
        | assumption | intro _ | apply ite_inv)
    | exact Kept.congr ‹Kept P _› rfl | assumption | split

/-! ### Lines -/

theorem touchRec_inv (s : State) (h : Nat) (changed : Bool) (h_s : Kept P s) : Kept P (touchRec s h changed) := by
  unfold touchRec
  repeat' first
    | with_reducible (first
        | assumption | intro _ | apply ite_inv)
    | exact Kept.congr ‹Kept P _› rfl | assumption | split

theorem updRegion_inv (s : State) (h : Nat) (f : Region → Region) (h_s : Kept P s) : Kept P (updRegion s h f) := by
  unfold updRegion
  repeat' first
    | with_reducible (first
        | assumption | intro _ | apply touchRec_inv | apply ite_inv)
    | exact Kept.congr ‹Kept P _› rfl | assumption | split

theorem layChain_inv (s : State) (q : Nat) (place : List Run) (h_s : Kept P s) : Kept P (layChain s q place).2 := by
  unfold layChain
  repeat' first
    | with_reducible (first
        | assumption | intro _)
    | exact True.intro | exact ⟨rfl, rfl⟩
    | with_reducible (first
        | apply foldl_bind_inv | apply bind_inv | apply ite_snd | apply ite_inv | apply ite_opt | apply ite_cmd | apply ite_out | apply findSome_inv
        | apply each_inv | apply iter_inv | apply foldl_inv | apply foldl_inv2 | apply getD_inv | apply elim_inv | apply JudgedInv.mk | apply JudgedInv.take
        | apply JudgedInv.discard | apply ite_judged | apply OptInv.mk_some | apply OptInv.mk_none | apply ExcInv.mk_ok | apply ExcInv.mk_error
        | apply OutInv.mk_next | apply CmdInv.mk_commit | apply DirInv.mk_sent | apply DirRoomInv.mk_freeing)
    | exact Kept.congr ‹Kept P _› rfl | assumption | split | dsimp only

theorem dropChain_inv (s : State) (g : Region) (h_s : Kept P s) : Kept P (dropChain s g) := by
  unfold dropChain
  repeat' first
    | with_reducible (first
        | assumption | intro _ | apply ite_inv)
    | exact Kept.congr ‹Kept P _› rfl | assumption | split

theorem putRegion_inv (s : State) (g : Region) (h_s : Kept P s) : Kept P (putRegion s g) := by
  unfold putRegion
  repeat' first
    | with_reducible (first
        | assumption | intro _)
    | exact True.intro | exact ⟨rfl, rfl⟩
    | (extract_lets +onlyGivenNames x
       first
       | (refine ((fun (hx : Kept P x) => ?_) ?_) <;> [clear_value x; (revert x; change (Kept P) _)])
       | (refine ((fun (hx : Kept P x.2) => ?_) ?_) <;> [clear_value x; (revert x; change (Kept P) (Prod.snd _))])
       | (have _ := (x : List _); clear_value x)
       | skip)
    | with_reducible (first
        | apply dropChain_inv | apply layChain_inv | apply touchRec_inv | apply foldl_bind_inv | apply bind_inv | apply ite_snd | apply ite_inv
        | apply ite_opt | apply ite_cmd | apply ite_out | apply findSome_inv | apply each_inv | apply iter_inv | apply foldl_inv | apply foldl_inv2
        | apply getD_inv | apply elim_inv | apply JudgedInv.mk | apply JudgedInv.take | apply JudgedInv.discard | apply ite_judged | apply OptInv.mk_some
        | apply OptInv.mk_none | apply ExcInv.mk_ok | apply ExcInv.mk_error | apply OutInv.mk_next | apply CmdInv.mk_commit | apply DirInv.mk_sent
        | apply DirRoomInv.mk_freeing)
    | exact Kept.congr ‹Kept P _› rfl | assumption | split | (refine OptInv.of_eq (Q := (Kept P)) ‹_ = some _› ?_) | (refine pair_of_eq ‹_ = (_, _)› ?_)
    | (refine pair_of_eq' ‹_ = (_, _)› ?_) | (refine DirInv.of_eq ‹_ = DirStep.sent _› ?_) | (refine DirRoomInv.of_eq ‹_ = DirRoom.freeing _› ?_)
    | dsimp only

theorem removeRegion_inv (s : State) (h : Nat) (h_s : Kept P s) : Kept P (removeRegion s h) := by
  unfold removeRegion
  repeat' first
    | with_reducible (first
        | assumption | intro _ | apply dropChain_inv | apply ite_inv)
    | exact Kept.congr ‹Kept P _› rfl | assumption | split

theorem hbmDone_inv (s : State) (a : Nat) (h_s : Kept P s) : Kept P (hbmDone s a) := by
  unfold hbmDone
  repeat' first
    | with_reducible (first
        | assumption | intro _ | apply ite_inv)
    | exact Kept.congr ‹Kept P _› rfl | assumption | split

theorem flushLine_inv (hP : Closed P) (s : State) (a : Nat) (h_s : Kept P s) : Kept P (flushLine s a) := by
  unfold flushLine
  repeat' first
    | with_reducible (first
        | assumption | intro _)
    | exact True.intro | exact ⟨rfl, rfl⟩
    | (extract_lets +onlyGivenNames x
       first
       | (refine ((fun (hx : Kept P x) => ?_) ?_) <;> [clear_value x; (revert x; change (Kept P) _)])
       | (refine ((fun (hx : Kept P x.2) => ?_) ?_) <;> [clear_value x; (revert x; change (Kept P) (Prod.snd _))])
       | (refine ((fun (hx : OptInv (Kept P) x) => ?_) ?_) <;> [clear_value x; (revert x; change OptInv (Kept P) _)])
       | (refine ((fun (hx : CmdInv P x) => ?_) ?_) <;> [clear_value x; (revert x; change (CmdInv P) _)])
       | (have _ := (x : List _); clear_value x)
       | skip)
    | with_reducible (first
        | apply hbmDone_inv | apply foldl_bind_inv | apply bind_inv | apply ite_snd | apply ite_inv | apply ite_opt | apply ite_cmd | apply ite_out
        | apply findSome_inv | apply each_inv | apply iter_inv | apply foldl_inv | apply foldl_inv2 | apply getD_inv | apply elim_inv | apply JudgedInv.mk
        | apply JudgedInv.take | apply JudgedInv.discard | apply ite_judged | apply OptInv.mk_some | apply OptInv.mk_none | apply ExcInv.mk_ok
        | apply ExcInv.mk_error | apply OutInv.mk_next | apply CmdInv.mk_commit | apply DirInv.mk_sent | apply DirRoomInv.mk_freeing)
    | exact Kept.congr ‹Kept P _› rfl | assumption | refine Inv.congr (hbmDone_inv _ _ ?_ ) rfl | split | (refine OptInv.of_eq (Q := (Kept P)) ‹_ = some _› ?_)
    | (refine OptInv.of_eq (Q := (CmdInv P)) ‹_ = some _› ?_) | (refine pair_of_eq ‹_ = (_, _)› ?_) | (refine pair_of_eq' ‹_ = (_, _)› ?_)
    | (refine DirInv.of_eq ‹_ = DirStep.sent _› ?_) | (refine DirRoomInv.of_eq ‹_ = DirRoom.freeing _› ?_)
    | (refine CmdInv.of_eq ‹_ = CmdResult.commit _ _ _ _› ?_) | (refine ExcInv.of_eq ‹_ = Except.ok _› ?_) | dsimp only
    | exact Kept.write hP ‹Kept P _› rfl | exact Kept.cache hP ‹Kept P _› rfl | exact Kept.clear hP ‹Kept P _› rfl
    | exact Kept.clears hP ‹Kept P _› rfl | dsimp +zetaDelta only
    | (refine OptInv.of_eq (Q := fun (t : _ × State) => (Kept P) t.2) ‹_ = some _› ?_)
    | (refine OptInv.of_eq (Q := fun (t : _ × State) => (Kept P) t.2) (t := (_, _)) ‹_ = some (_, _)› ?_)
    | (refine ExcInv.of_eq (Q := fun (t : _ × State) => (Kept P) t.2) (t := (_, _)) ‹_ = Except.ok (_, _)› ?_)

theorem dropLine_inv (hP : Closed P) (s : State) (a : Nat) (h_s : Kept P s) : Kept P (dropLine s a) := by
  unfold dropLine
  repeat' first
    | with_reducible (first
        | assumption | intro _)
    | exact True.intro | exact ⟨rfl, rfl⟩
    | (extract_lets +onlyGivenNames x
       first
       | (refine ((fun (hx : Kept P x) => ?_) ?_) <;> [clear_value x; (revert x; change (Kept P) _)])
       | (refine ((fun (hx : Kept P x.2) => ?_) ?_) <;> [clear_value x; (revert x; change (Kept P) (Prod.snd _))])
       | (refine ((fun (hx : OptInv (Kept P) x) => ?_) ?_) <;> [clear_value x; (revert x; change OptInv (Kept P) _)])
       | (refine ((fun (hx : CmdInv P x) => ?_) ?_) <;> [clear_value x; (revert x; change (CmdInv P) _)])
       | (have _ := (x : List _); clear_value x)
       | skip)
    | with_reducible (first
        | apply (flushLine_inv hP) | apply foldl_bind_inv | apply bind_inv | apply ite_snd | apply ite_inv | apply ite_opt | apply ite_cmd | apply ite_out
        | apply findSome_inv | apply each_inv | apply iter_inv | apply foldl_inv | apply foldl_inv2 | apply getD_inv | apply elim_inv | apply JudgedInv.mk
        | apply JudgedInv.take | apply JudgedInv.discard | apply ite_judged | apply OptInv.mk_some | apply OptInv.mk_none | apply ExcInv.mk_ok
        | apply ExcInv.mk_error | apply OutInv.mk_next | apply CmdInv.mk_commit | apply DirInv.mk_sent | apply DirRoomInv.mk_freeing)
    | exact Kept.congr ‹Kept P _› rfl | assumption | refine Inv.congr ((flushLine_inv hP) _ _ ?_ ) rfl | split
    | (refine OptInv.of_eq (Q := (Kept P)) ‹_ = some _› ?_) | (refine OptInv.of_eq (Q := (CmdInv P)) ‹_ = some _› ?_) | (refine pair_of_eq ‹_ = (_, _)› ?_)
    | (refine pair_of_eq' ‹_ = (_, _)› ?_) | (refine DirInv.of_eq ‹_ = DirStep.sent _› ?_) | (refine DirRoomInv.of_eq ‹_ = DirRoom.freeing _› ?_)
    | (refine CmdInv.of_eq ‹_ = CmdResult.commit _ _ _ _› ?_) | (refine ExcInv.of_eq ‹_ = Except.ok _› ?_) | dsimp only
    | exact Kept.write hP ‹Kept P _› rfl | exact Kept.cache hP ‹Kept P _› rfl | exact Kept.clear hP ‹Kept P _› rfl
    | exact Kept.clears hP ‹Kept P _› rfl | dsimp +zetaDelta only
    | (refine OptInv.of_eq (Q := fun (t : _ × State) => (Kept P) t.2) ‹_ = some _› ?_)
    | (refine OptInv.of_eq (Q := fun (t : _ × State) => (Kept P) t.2) (t := (_, _)) ‹_ = some (_, _)› ?_)
    | (refine ExcInv.of_eq (Q := fun (t : _ × State) => (Kept P) t.2) (t := (_, _)) ‹_ = Except.ok (_, _)› ?_)

theorem touchLine_inv (hP : Closed P) (s : State) (q : Nat) (a : Nat) (dirty : Bool) (d : List Byte) (inUse : Nat → Bool) (h_s : Kept P s) : Kept P (touchLine s q a dirty d inUse) := by
  unfold touchLine
  repeat' first
    | with_reducible (first
        | assumption | intro _)
    | exact True.intro | exact ⟨rfl, rfl⟩
    | (extract_lets +onlyGivenNames x
       first
       | (refine ((fun (hx : Kept P x) => ?_) ?_) <;> [clear_value x; (revert x; change (Kept P) _)])
       | (refine ((fun (hx : Kept P x.2) => ?_) ?_) <;> [clear_value x; (revert x; change (Kept P) (Prod.snd _))])
       | (refine ((fun (hx : OptInv (Kept P) x) => ?_) ?_) <;> [clear_value x; (revert x; change OptInv (Kept P) _)])
       | (refine ((fun (hx : CmdInv P x) => ?_) ?_) <;> [clear_value x; (revert x; change (CmdInv P) _)])
       | (have _ := (x : List _); clear_value x)
       | skip)
    | with_reducible (first
        | apply hbmDone_inv | apply (dropLine_inv hP) | apply foldl_bind_inv | apply bind_inv | apply ite_snd | apply ite_inv | apply ite_opt | apply ite_cmd
        | apply ite_out | apply findSome_inv | apply each_inv | apply iter_inv | apply foldl_inv | apply foldl_inv2 | apply getD_inv | apply elim_inv
        | apply JudgedInv.mk | apply JudgedInv.take | apply JudgedInv.discard | apply ite_judged | apply OptInv.mk_some | apply OptInv.mk_none
        | apply ExcInv.mk_ok | apply ExcInv.mk_error | apply OutInv.mk_next | apply CmdInv.mk_commit | apply DirInv.mk_sent | apply DirRoomInv.mk_freeing)
    | exact Kept.congr ‹Kept P _› rfl | assumption | refine Inv.congr (hbmDone_inv _ _ ?_ ) rfl | refine Inv.congr ((dropLine_inv hP) _ _ ?_ ) rfl | split
    | (refine OptInv.of_eq (Q := (Kept P)) ‹_ = some _› ?_) | (refine OptInv.of_eq (Q := (CmdInv P)) ‹_ = some _› ?_) | (refine pair_of_eq ‹_ = (_, _)› ?_)
    | (refine pair_of_eq' ‹_ = (_, _)› ?_) | (refine DirInv.of_eq ‹_ = DirStep.sent _› ?_) | (refine DirRoomInv.of_eq ‹_ = DirRoom.freeing _› ?_)
    | (refine CmdInv.of_eq ‹_ = CmdResult.commit _ _ _ _› ?_) | (refine ExcInv.of_eq ‹_ = Except.ok _› ?_) | dsimp only
    | exact Kept.write hP ‹Kept P _› rfl | exact Kept.cache hP ‹Kept P _› rfl | exact Kept.clear hP ‹Kept P _› rfl
    | exact Kept.clears hP ‹Kept P _› rfl | dsimp +zetaDelta only
    | (refine OptInv.of_eq (Q := fun (t : _ × State) => (Kept P) t.2) ‹_ = some _› ?_)
    | (refine OptInv.of_eq (Q := fun (t : _ × State) => (Kept P) t.2) (t := (_, _)) ‹_ = some (_, _)› ?_)
    | (refine ExcInv.of_eq (Q := fun (t : _ × State) => (Kept P) t.2) (t := (_, _)) ‹_ = Except.ok (_, _)› ?_)

theorem placeLine_inv (hP : Closed P) (s : State) (a : Nat) (d : List Byte) (h_s : Kept P s) : Kept P (placeLine s a d) := by
  unfold placeLine
  repeat' first
    | with_reducible (first
        | assumption | intro _)
    | exact True.intro | exact ⟨rfl, rfl⟩
    | (extract_lets +onlyGivenNames x
       first
       | (refine ((fun (hx : Kept P x) => ?_) ?_) <;> [clear_value x; (revert x; change (Kept P) _)])
       | (refine ((fun (hx : Kept P x.2) => ?_) ?_) <;> [clear_value x; (revert x; change (Kept P) (Prod.snd _))])
       | (refine ((fun (hx : OptInv (Kept P) x) => ?_) ?_) <;> [clear_value x; (revert x; change OptInv (Kept P) _)])
       | (refine ((fun (hx : CmdInv P x) => ?_) ?_) <;> [clear_value x; (revert x; change (CmdInv P) _)])
       | (have _ := (x : List _); clear_value x)
       | skip)
    | with_reducible (first
        | apply send_inv | apply foldl_bind_inv | apply bind_inv | apply ite_snd | apply ite_inv | apply ite_opt | apply ite_cmd | apply ite_out
        | apply findSome_inv | apply each_inv | apply iter_inv | apply foldl_inv | apply foldl_inv2 | apply getD_inv | apply elim_inv | apply JudgedInv.mk
        | apply JudgedInv.take | apply JudgedInv.discard | apply ite_judged | apply OptInv.mk_some | apply OptInv.mk_none | apply ExcInv.mk_ok
        | apply ExcInv.mk_error | apply OutInv.mk_next | apply CmdInv.mk_commit | apply DirInv.mk_sent | apply DirRoomInv.mk_freeing)
    | exact Kept.congr ‹Kept P _› rfl | assumption | refine Inv.congr (send_inv _ _ _ ?_ ) rfl | split | (refine OptInv.of_eq (Q := (Kept P)) ‹_ = some _› ?_)
    | (refine OptInv.of_eq (Q := (CmdInv P)) ‹_ = some _› ?_) | (refine pair_of_eq ‹_ = (_, _)› ?_) | (refine pair_of_eq' ‹_ = (_, _)› ?_)
    | (refine DirInv.of_eq ‹_ = DirStep.sent _› ?_) | (refine DirRoomInv.of_eq ‹_ = DirRoom.freeing _› ?_)
    | (refine CmdInv.of_eq ‹_ = CmdResult.commit _ _ _ _› ?_) | (refine ExcInv.of_eq ‹_ = Except.ok _› ?_) | dsimp only
    | exact Kept.write hP ‹Kept P _› rfl | exact Kept.cache hP ‹Kept P _› rfl | exact Kept.clear hP ‹Kept P _› rfl
    | exact Kept.clears hP ‹Kept P _› rfl | dsimp +zetaDelta only
    | (refine OptInv.of_eq (Q := fun (t : _ × State) => (Kept P) t.2) ‹_ = some _› ?_)
    | (refine OptInv.of_eq (Q := fun (t : _ × State) => (Kept P) t.2) (t := (_, _)) ‹_ = some (_, _)› ?_)
    | (refine ExcInv.of_eq (Q := fun (t : _ × State) => (Kept P) t.2) (t := (_, _)) ‹_ = Except.ok (_, _)› ?_)

theorem updBlock_inv (s : State) (h : Nat) (b : Nat) (f : GwBlock → GwBlock) (h_s : Kept P s) : Kept P (updBlock s h b f) := by
  unfold updBlock
  repeat' first
    | with_reducible (first
        | assumption | intro _ | apply ite_inv)
    | exact Kept.congr ‹Kept P _› rfl | assumption | split

theorem issueXfer_inv (s : State) (g : GwBinding) (x : GwXfer) (h_s : Kept P s) : Kept P (issueXfer s g x) := by
  unfold issueXfer
  repeat' first
    | with_reducible (first
        | assumption | intro _)
    | exact True.intro | exact ⟨rfl, rfl⟩
    | with_reducible (first
        | apply send_inv | apply foldl_bind_inv | apply bind_inv | apply ite_snd | apply ite_inv | apply ite_opt | apply ite_cmd | apply ite_out
        | apply findSome_inv | apply each_inv | apply iter_inv | apply foldl_inv | apply foldl_inv2 | apply getD_inv | apply elim_inv | apply JudgedInv.mk
        | apply JudgedInv.take | apply JudgedInv.discard | apply ite_judged | apply OptInv.mk_some | apply OptInv.mk_none | apply ExcInv.mk_ok
        | apply ExcInv.mk_error | apply OutInv.mk_next | apply CmdInv.mk_commit | apply DirInv.mk_sent | apply DirRoomInv.mk_freeing)
    | exact Kept.congr ‹Kept P _› rfl | assumption | split | dsimp only

theorem sendXfer_inv (s : State) (g : GwBinding) (line : Nat) (count : Nat) (write : Bool) (h_s : Kept P s) : Kept P (sendXfer s g line count write) := by
  unfold sendXfer
  repeat' first
    | with_reducible (first
        | assumption | intro _)
    | exact True.intro | exact ⟨rfl, rfl⟩
    | with_reducible (first
        | apply issueXfer_inv | apply foldl_bind_inv | apply bind_inv | apply ite_snd | apply ite_inv | apply ite_opt | apply ite_cmd | apply ite_out
        | apply findSome_inv | apply each_inv | apply iter_inv | apply foldl_inv | apply foldl_inv2 | apply getD_inv | apply elim_inv | apply JudgedInv.mk
        | apply JudgedInv.take | apply JudgedInv.discard | apply ite_judged | apply OptInv.mk_some | apply OptInv.mk_none | apply ExcInv.mk_ok
        | apply ExcInv.mk_error | apply OutInv.mk_next | apply CmdInv.mk_commit | apply DirInv.mk_sent | apply DirRoomInv.mk_freeing)
    | exact Kept.congr ‹Kept P _› rfl | assumption | split | dsimp only

theorem gwFlushBlock_inv (s : State) (g : GwBinding) (b : Nat) (h_s : Kept P s) : Kept P (gwFlushBlock s g b) := by
  unfold gwFlushBlock
  repeat' first
    | with_reducible (first
        | assumption | intro _)
    | exact True.intro | exact ⟨rfl, rfl⟩
    | with_reducible (first
        | apply updBlock_inv | apply sendXfer_inv | apply foldl_bind_inv | apply bind_inv | apply ite_snd | apply ite_inv | apply ite_opt | apply ite_cmd
        | apply ite_out | apply findSome_inv | apply each_inv | apply iter_inv | apply foldl_inv | apply foldl_inv2 | apply getD_inv | apply elim_inv
        | apply JudgedInv.mk | apply JudgedInv.take | apply JudgedInv.discard | apply ite_judged | apply OptInv.mk_some | apply OptInv.mk_none
        | apply ExcInv.mk_ok | apply ExcInv.mk_error | apply OutInv.mk_next | apply CmdInv.mk_commit | apply DirInv.mk_sent | apply DirRoomInv.mk_freeing)
    | exact Kept.congr ‹Kept P _› rfl | assumption | split | dsimp only

theorem updCxl_inv (s : State) (c : Nat) (f : CxlS → CxlS) (h_s : Kept P s) : Kept P (updCxl s c f) := by
  unfold updCxl
  repeat' first
    | with_reducible (first
        | assumption | intro _ | apply ite_inv)
    | exact Kept.congr ‹Kept P _› rfl | assumption | split

theorem traySettle_inv (s : State) (c : Nat) (h_s : Kept P s) : Kept P (traySettle s c) := by
  unfold traySettle
  repeat' first
    | with_reducible (first
        | assumption | intro _ | apply updCxl_inv | apply ite_inv)
    | exact Kept.congr ‹Kept P _› rfl | assumption | split

theorem trayAdd_inv (s : State) (c : Nat) (line : Nat) (write : Bool) (h_s : Kept P s) : Kept P (trayAdd s c line write) := by
  unfold trayAdd
  repeat' first
    | with_reducible (first
        | assumption | intro _ | apply traySettle_inv | apply updCxl_inv | apply ite_inv)
    | exact Kept.congr ‹Kept P _› rfl | assumption | split

theorem writeBack_inv (hP : Closed P) (s : State) (f : Frame) (i : Nat) (h_s : Kept P s) : Kept P (writeBack s f i) := by
  unfold writeBack
  repeat' first
    | with_reducible (first
        | assumption | intro _ | apply trayAdd_inv | apply (flushLine_inv hP) | apply ite_inv)
    | exact Kept.congr ‹Kept P _› rfl | assumption | split

theorem dropFrame_inv (hP : Closed P) (s : State) (f : Frame) (h_s : Kept P s) : Kept P (dropFrame s f) := by
  unfold dropFrame
  repeat' first
    | with_reducible (first
        | assumption | intro _)
    | exact True.intro | exact ⟨rfl, rfl⟩
    | (extract_lets +onlyGivenNames x
       first
       | (refine ((fun (hx : Kept P x) => ?_) ?_) <;> [clear_value x; (revert x; change (Kept P) _)])
       | (refine ((fun (hx : Kept P x.2) => ?_) ?_) <;> [clear_value x; (revert x; change (Kept P) (Prod.snd _))])
       | (refine ((fun (hx : OptInv (Kept P) x) => ?_) ?_) <;> [clear_value x; (revert x; change OptInv (Kept P) _)])
       | (refine ((fun (hx : CmdInv P x) => ?_) ?_) <;> [clear_value x; (revert x; change (CmdInv P) _)])
       | (have _ := (x : List _); clear_value x)
       | skip)
    | with_reducible (first
        | apply foldl_bind_inv | apply bind_inv | apply ite_snd | apply ite_inv | apply ite_opt | apply ite_cmd | apply ite_out | apply findSome_inv
        | apply each_inv | apply iter_inv | apply foldl_inv | apply foldl_inv2 | apply getD_inv | apply elim_inv | apply JudgedInv.mk | apply JudgedInv.take
        | apply JudgedInv.discard | apply ite_judged | apply OptInv.mk_some | apply OptInv.mk_none | apply ExcInv.mk_ok | apply ExcInv.mk_error
        | apply OutInv.mk_next | apply CmdInv.mk_commit | apply DirInv.mk_sent | apply DirRoomInv.mk_freeing)
    | exact Kept.congr ‹Kept P _› rfl | assumption | split | (refine OptInv.of_eq (Q := (Kept P)) ‹_ = some _› ?_)
    | (refine OptInv.of_eq (Q := (CmdInv P)) ‹_ = some _› ?_) | (refine pair_of_eq ‹_ = (_, _)› ?_) | (refine pair_of_eq' ‹_ = (_, _)› ?_)
    | (refine DirInv.of_eq ‹_ = DirStep.sent _› ?_) | (refine DirRoomInv.of_eq ‹_ = DirRoom.freeing _› ?_)
    | (refine CmdInv.of_eq ‹_ = CmdResult.commit _ _ _ _› ?_) | (refine ExcInv.of_eq ‹_ = Except.ok _› ?_) | dsimp only
    | exact Kept.write hP ‹Kept P _› rfl | exact Kept.cache hP ‹Kept P _› rfl | exact Kept.clear hP ‹Kept P _› rfl
    | exact Kept.clears hP ‹Kept P _› rfl | dsimp +zetaDelta only
    | (refine OptInv.of_eq (Q := fun (t : _ × State) => (Kept P) t.2) ‹_ = some _› ?_)
    | (refine OptInv.of_eq (Q := fun (t : _ × State) => (Kept P) t.2) (t := (_, _)) ‹_ = some (_, _)› ?_)
    | (refine ExcInv.of_eq (Q := fun (t : _ × State) => (Kept P) t.2) (t := (_, _)) ‹_ = Except.ok (_, _)› ?_)

theorem dropBlockFrames_inv (hP : Closed P) (s : State) (g : GwBinding) (b : Nat) (h_s : Kept P s) : Kept P (dropBlockFrames s g b) := by
  unfold dropBlockFrames
  repeat' first
    | with_reducible (first
        | assumption | intro _)
    | exact True.intro | exact ⟨rfl, rfl⟩
    | with_reducible (first
        | apply (dropFrame_inv hP) | apply foldl_bind_inv | apply bind_inv | apply ite_snd | apply ite_inv | apply ite_opt | apply ite_cmd | apply ite_out
        | apply findSome_inv | apply each_inv | apply iter_inv | apply foldl_inv | apply foldl_inv2 | apply getD_inv | apply elim_inv | apply JudgedInv.mk
        | apply JudgedInv.take | apply JudgedInv.discard | apply ite_judged | apply OptInv.mk_some | apply OptInv.mk_none | apply ExcInv.mk_ok
        | apply ExcInv.mk_error | apply OutInv.mk_next | apply CmdInv.mk_commit | apply DirInv.mk_sent | apply DirRoomInv.mk_freeing)
    | exact Kept.congr ‹Kept P _› rfl | assumption | split | dsimp only

theorem forgetBlock_inv (s : State) (g : GwBinding) (b : Nat) (h_s : Kept P s) : Kept P (forgetBlock s g b) := by
  unfold forgetBlock
  repeat' first
    | with_reducible (first
        | assumption | intro _ | apply ite_inv)
    | exact Kept.congr ‹Kept P _› rfl | assumption | split

theorem evictFrame_inv (hP : Closed P) (s : State) (f : Frame) (h_s : Kept P s) : Kept P (evictFrame s f) := by
  unfold evictFrame
  split
  · exact forgetBlock_inv _ _ _ ((dropBlockFrames_inv hP) _ _ _ (gwFlushBlock_inv s _ _ h_s))
  · exact (dropFrame_inv hP) _ _ h_s

theorem addFrame_inv (s : State) (q : Nat) (set : Nat) (a : Nat) (way : Nat) (h_s : Kept P s) : Kept P (addFrame s q set a way) := by
  unfold addFrame
  repeat' first
    | with_reducible (first
        | assumption | intro _ | apply ite_inv)
    | exact Kept.congr ‹Kept P _› rfl | assumption | split

theorem allocFrame_inv (hP : Closed P) (s : State) (q : Nat) (a : Nat) (h_s : Kept P s) : Kept P (allocFrame s q a).2 := by
  unfold allocFrame
  repeat' first
    | with_reducible (first
        | assumption | intro _)
    | exact True.intro | exact ⟨rfl, rfl⟩
    | (extract_lets +onlyGivenNames x
       first
       | (refine ((fun (hx : Kept P x) => ?_) ?_) <;> [clear_value x; (revert x; change (Kept P) _)])
       | (refine ((fun (hx : Kept P x.2) => ?_) ?_) <;> [clear_value x; (revert x; change (Kept P) (Prod.snd _))])
       | (have _ := (x : List _); clear_value x)
       | skip)
    | with_reducible (first
        | apply addFrame_inv | apply (dropFrame_inv hP) | apply (evictFrame_inv hP) | apply (writeBack_inv hP) | apply foldl_bind_inv | apply bind_inv | apply ite_snd
        | apply ite_inv | apply ite_opt | apply ite_cmd | apply ite_out | apply findSome_inv | apply each_inv | apply iter_inv | apply foldl_inv
        | apply foldl_inv2 | apply getD_inv | apply elim_inv | apply JudgedInv.mk | apply JudgedInv.take | apply JudgedInv.discard | apply ite_judged
        | apply OptInv.mk_some | apply OptInv.mk_none | apply ExcInv.mk_ok | apply ExcInv.mk_error | apply OutInv.mk_next | apply CmdInv.mk_commit
        | apply DirInv.mk_sent | apply DirRoomInv.mk_freeing)
    | exact Kept.congr ‹Kept P _› rfl | assumption | split | (refine OptInv.of_eq (Q := (Kept P)) ‹_ = some _› ?_) | (refine pair_of_eq ‹_ = (_, _)› ?_)
    | (refine pair_of_eq' ‹_ = (_, _)› ?_) | (refine DirInv.of_eq ‹_ = DirStep.sent _› ?_) | (refine DirRoomInv.of_eq ‹_ = DirRoom.freeing _› ?_)
    | dsimp only

theorem limitDirty_inv (hP : Closed P) (s : State) (q : Nat) (h_s : Kept P s) : Kept P (limitDirty s q) := by
  unfold limitDirty
  repeat' first
    | with_reducible (first
        | assumption | intro _)
    | exact True.intro | exact ⟨rfl, rfl⟩
    | with_reducible (first
        | apply (writeBack_inv hP) | apply foldl_bind_inv | apply bind_inv | apply ite_snd | apply ite_inv | apply ite_opt | apply ite_cmd | apply ite_out
        | apply findSome_inv | apply each_inv | apply iter_inv | apply foldl_inv | apply foldl_inv2 | apply getD_inv | apply elim_inv | apply JudgedInv.mk
        | apply JudgedInv.take | apply JudgedInv.discard | apply ite_judged | apply OptInv.mk_some | apply OptInv.mk_none | apply ExcInv.mk_ok
        | apply ExcInv.mk_error | apply OutInv.mk_next | apply CmdInv.mk_commit | apply DirInv.mk_sent | apply DirRoomInv.mk_freeing)
    | exact Kept.congr ‹Kept P _› rfl | assumption | split | dsimp only

theorem updFrame_inv (s : State) (q : Nat) (a : Nat) (f : Frame → Frame) (h_s : Kept P s) : Kept P (updFrame s q a f) := by
  unfold updFrame
  repeat' first
    | with_reducible (first
        | assumption | intro _ | apply ite_inv)
    | exact Kept.congr ‹Kept P _› rfl | assumption | split

theorem startFill_inv (hP : Closed P) (s : State) (q : Nat) (a : Nat) (full : Bool) (h_s : Kept P s) : Kept P (startFill s q a full).2 := by
  unfold startFill
  repeat' first
    | with_reducible (first
        | assumption | intro _ | apply trayAdd_inv | apply (allocFrame_inv hP) | apply ite_inv | apply ite_snd)
    | exact Kept.congr ‹Kept P _› rfl | assumption | split

theorem setPoison_inv (s : State) (a : Nat) (seq : Word) (h_s : Kept P s) : Kept P (setPoison s a seq) := by
  unfold setPoison
  repeat' first
    | with_reducible (first
        | assumption | intro _ | apply ite_inv)
    | exact Kept.congr ‹Kept P _› rfl | assumption | split

theorem clearPoison_inv (s : State) (a : Nat) (h_s : Kept P s) : Kept P (clearPoison s a) := by
  unfold clearPoison
  repeat' first
    | with_reducible (first
        | assumption | intro _ | apply ite_inv)
    | exact Kept.congr ‹Kept P _› rfl | assumption | split

theorem markFrame_inv (hP : Closed P) (s : State) (q : Nat) (a : Nat) (hit : Bool) (h_s : Kept P s) : Kept P (markFrame s q a hit) := by
  unfold markFrame
  repeat' first
    | with_reducible (first
        | assumption | intro _ | apply updCxl_inv | apply (limitDirty_inv hP) | apply updFrame_inv | apply ite_inv)
    | exact Kept.congr ‹Kept P _› rfl | assumption | split

theorem putLine_inv (hP : Closed P) (s : State) (q : Nat) (a : Nat) (d : List Byte) (h_s : Kept P s) : Kept P (putLine s q a d) := by
  unfold putLine
  repeat' first
    | with_reducible (first
        | assumption | intro _)
    | exact True.intro | exact ⟨rfl, rfl⟩
    | (extract_lets +onlyGivenNames x
       first
       | (refine ((fun (hx : Kept P x) => ?_) ?_) <;> [clear_value x; (revert x; change (Kept P) _)])
       | (refine ((fun (hx : Kept P x.2) => ?_) ?_) <;> [clear_value x; (revert x; change (Kept P) (Prod.snd _))])
       | (refine ((fun (hx : OptInv (Kept P) x) => ?_) ?_) <;> [clear_value x; (revert x; change OptInv (Kept P) _)])
       | (refine ((fun (hx : CmdInv P x) => ?_) ?_) <;> [clear_value x; (revert x; change (CmdInv P) _)])
       | (have _ := (x : List _); clear_value x)
       | skip)
    | with_reducible (first
        | apply (markFrame_inv hP) | apply (placeLine_inv hP) | apply held_inv | apply foldl_bind_inv | apply bind_inv | apply ite_snd | apply ite_inv | apply ite_opt
        | apply ite_cmd | apply ite_out | apply findSome_inv | apply each_inv | apply iter_inv | apply foldl_inv | apply foldl_inv2 | apply getD_inv
        | apply elim_inv | apply JudgedInv.mk | apply JudgedInv.take | apply JudgedInv.discard | apply ite_judged | apply OptInv.mk_some
        | apply OptInv.mk_none | apply ExcInv.mk_ok | apply ExcInv.mk_error | apply OutInv.mk_next | apply CmdInv.mk_commit | apply DirInv.mk_sent
        | apply DirRoomInv.mk_freeing)
    | exact Kept.congr ‹Kept P _› rfl | assumption | refine Inv.congr ((markFrame_inv hP) _ _ _ _ ?_ ) rfl | refine Inv.congr ((placeLine_inv hP) _ _ _ ?_ ) rfl
    | split | (refine OptInv.of_eq (Q := (Kept P)) ‹_ = some _› ?_) | (refine OptInv.of_eq (Q := (CmdInv P)) ‹_ = some _› ?_) | (refine pair_of_eq ‹_ = (_, _)› ?_)
    | (refine pair_of_eq' ‹_ = (_, _)› ?_) | (refine DirInv.of_eq ‹_ = DirStep.sent _› ?_) | (refine DirRoomInv.of_eq ‹_ = DirRoom.freeing _› ?_)
    | (refine CmdInv.of_eq ‹_ = CmdResult.commit _ _ _ _› ?_) | (refine ExcInv.of_eq ‹_ = Except.ok _› ?_) | dsimp only
    | exact Kept.write hP ‹Kept P _› rfl | exact Kept.cache hP ‹Kept P _› rfl | exact Kept.clear hP ‹Kept P _› rfl
    | exact Kept.clears hP ‹Kept P _› rfl | dsimp +zetaDelta only
    | (refine OptInv.of_eq (Q := fun (t : _ × State) => (Kept P) t.2) ‹_ = some _› ?_)
    | (refine OptInv.of_eq (Q := fun (t : _ × State) => (Kept P) t.2) (t := (_, _)) ‹_ = some (_, _)› ?_)
    | (refine ExcInv.of_eq (Q := fun (t : _ × State) => (Kept P) t.2) (t := (_, _)) ‹_ = Except.ok (_, _)› ?_)

theorem dropHeld_inv (s : State) (handle : Nat) (off : Nat) (h_s : Kept P s) : Kept P (dropHeld s handle off) := by
  unfold dropHeld
  repeat' first
    | with_reducible (first
        | assumption | intro _ | apply held_inv | apply ite_inv)
    | exact Kept.congr ‹Kept P _› rfl | assumption | split

theorem dropHeldOf_inv (s : State) (handle : Nat) (h_s : Kept P s) : Kept P (dropHeldOf s handle) := by
  unfold dropHeldOf
  repeat' first
    | with_reducible (first
        | assumption | intro _ | apply held_inv | apply ite_inv)
    | exact Kept.congr ‹Kept P _› rfl | assumption | split

/-! ### Expander -/

theorem blockEnded_inv (s : State) (exp : Nat) (h_s : Kept P s) : Kept P (blockEnded s exp) := by
  unfold blockEnded
  repeat' first
    | with_reducible (first
        | assumption | intro _ | apply ite_inv)
    | exact Kept.congr ‹Kept P _› rfl | assumption | split

theorem holdBlock_inv (s : State) (exp : Nat) (reg : Region) (block : Nat) (bytes : List Byte) (slot : Nat) (literal : Bool) (first : Nat) (lines : Nat) (h_s : Kept P s) : Kept P (holdBlock s exp reg block bytes slot literal first lines) := by
  unfold holdBlock
  repeat' first
    | with_reducible (first
        | assumption | intro _ | apply held_inv | apply ite_inv)
    | exact Kept.congr ‹Kept P _› rfl | assumption | split

theorem ecxFail_inv (s : State) (exp : Nat) (handle : Nat) (block : Nat) (stall : Nat) (principal : Nat) (code : Nat) (p1 : Word) (p2 : Word) (p3 : Word) (h_s : Kept P s) : Kept P (ecxFail s exp handle block stall principal code p1 p2 p3).1 := by
  unfold ecxFail
  repeat' first
    | with_reducible (first
        | assumption | intro _ | apply record_inv | apply ite_inv | apply ite_snd)
    | exact Kept.congr ‹Kept P _› rfl | assumption | split

/-! ### Requests -/

theorem meter_inv (s : State) (comp : Nat) (f : Meter → Meter) (h_s : Kept P s) : Kept P (meter s comp f) := by
  unfold meter
  repeat' first
    | with_reducible (first
        | assumption | intro _ | apply ite_inv)
    | exact Kept.congr ‹Kept P _› rfl | assumption | split

theorem meterRefused_inv (s : State) (comp : Option Nat) (h_s : Kept P s) : Kept P (meterRefused s comp) := by
  unfold meterRefused
  repeat' first
    | with_reducible (first
        | assumption | intro _ | apply meter_inv | apply ite_inv)
    | exact Kept.congr ‹Kept P _› rfl | assumption | split

theorem refuse_inv (s : State) (p : Nat) (opc : Nat) (h : ReqHdr) (status : Nat) (detail : Nat) (retry : Nat) (h_s : Kept P s) : Kept P (refuse s p opc h status detail retry) := by
  unfold refuse
  repeat' first
    | with_reducible (first
        | assumption | intro _ | apply sendResponse_inv | apply ite_inv)
    | exact Kept.congr ‹Kept P _› rfl | assumption | split

theorem respond_inv (s : State) (r : Req) (status : Nat) (detail : Word) (retry : Nat) (d : List Byte) (final : Bool) (h_s : Kept P s) : Kept P (respond s r status detail retry d final) := by
  unfold respond
  repeat' first
    | with_reducible (first
        | assumption | intro _ | apply sendResponse_inv | apply ite_inv)
    | exact Kept.congr ‹Kept P _› rfl | assumption | split

theorem meterDone_inv (s : State) (r : Req) (d : List Byte) (h_s : Kept P s) : Kept P (meterDone s r d) := by
  unfold meterDone
  repeat' first
    | with_reducible (first
        | assumption | intro _ | apply meter_inv | apply ite_inv)
    | exact Kept.congr ‹Kept P _› rfl | assumption | split

theorem sendMirror_inv (s : State) (r : Req) (status : Nat) (d : List Byte) (dev : Nat) (h_s : Kept P s) : Kept P (sendMirror s r status d dev) := by
  unfold sendMirror
  repeat' first
    | with_reducible (first
        | assumption | intro _ | apply send_inv | apply ite_inv)
    | exact Kept.congr ‹Kept P _› rfl | assumption | split

theorem leaveBuffer_inv (s : State) (r : Req) (h_s : Kept P s) : Kept P (leaveBuffer s r) := by
  unfold leaveBuffer
  repeat' first
    | with_reducible (first
        | assumption | intro _ | apply poolGive_inv | apply updPort_inv | apply ite_inv)
    | exact Kept.congr ‹Kept P _› rfl | assumption | split

theorem freeTallies_inv (s : State) (h_s : Kept P s) : Kept P (freeTallies s) := by
  unfold freeTallies
  repeat' first
    | with_reducible (first
        | assumption | intro _ | apply ite_inv)
    | exact Kept.congr ‹Kept P _› rfl | assumption | split

theorem passLead_inv (s : State) (r : Req) (h_s : Kept P s) : Kept P (passLead s r) := by
  unfold passLead
  repeat' first
    | with_reducible (first
        | assumption | intro _ | apply ite_inv)
    | exact Kept.congr ‹Kept P _› rfl | assumption | split

theorem settleDir_inv (s : State) (h_s : Kept P s) : Kept P (settleDir s) := by
  unfold settleDir
  repeat' first
    | with_reducible (first
        | assumption | intro _ | apply ite_inv)
    | exact Kept.congr ‹Kept P _› rfl | assumption | split

theorem finish_inv (s : State) (r : Req) (status : Nat) (detail : Word) (d : List Byte) (h_s : Kept P s) : Kept P (finish s r status detail d) := by
  unfold finish
  repeat' first
    | with_reducible (first
        | assumption | intro _)
    | exact True.intro | exact ⟨rfl, rfl⟩
    | (extract_lets +onlyGivenNames x
       first
       | (refine ((fun (hx : Kept P x) => ?_) ?_) <;> [clear_value x; (revert x; change (Kept P) _)])
       | (refine ((fun (hx : Kept P x.2) => ?_) ?_) <;> [clear_value x; (revert x; change (Kept P) (Prod.snd _))])
       | (have _ := (x : List _); clear_value x)
       | skip)
    | with_reducible (first
        | apply passLead_inv | apply leaveBuffer_inv | apply settleDir_inv | apply freeTallies_inv | apply meterDone_inv | apply meterRefused_inv
        | apply sendMirror_inv | apply respond_inv | apply foldl_bind_inv | apply bind_inv | apply ite_snd | apply ite_inv | apply ite_opt | apply ite_cmd
        | apply ite_out | apply findSome_inv | apply each_inv | apply iter_inv | apply foldl_inv | apply foldl_inv2 | apply getD_inv | apply elim_inv
        | apply JudgedInv.mk | apply JudgedInv.take | apply JudgedInv.discard | apply ite_judged | apply OptInv.mk_some | apply OptInv.mk_none
        | apply ExcInv.mk_ok | apply ExcInv.mk_error | apply OutInv.mk_next | apply CmdInv.mk_commit | apply DirInv.mk_sent | apply DirRoomInv.mk_freeing)
    | exact Kept.congr ‹Kept P _› rfl | assumption | split | (refine OptInv.of_eq (Q := (Kept P)) ‹_ = some _› ?_) | (refine pair_of_eq ‹_ = (_, _)› ?_)
    | (refine pair_of_eq' ‹_ = (_, _)› ?_) | (refine DirInv.of_eq ‹_ = DirStep.sent _› ?_) | (refine DirRoomInv.of_eq ‹_ = DirRoom.freeing _› ?_)
    | dsimp only

theorem updReq_inv (s : State) (id : Nat) (f : Req → Req) (h_s : Kept P s) : Kept P (updReq s id f) := by
  unfold updReq
  repeat' first
    | with_reducible (first
        | assumption | intro _ | apply ite_inv)
    | exact Kept.congr ‹Kept P _› rfl | assumption | split

theorem defer_inv (s : State) (r : Req) (h_s : Kept P s) : Kept P (defer s r) := by
  unfold defer
  repeat' first
    | with_reducible (first
        | assumption | intro _ | apply respond_inv | apply updReq_inv | apply ite_inv)
    | exact Kept.congr ‹Kept P _› rfl | assumption | split

theorem meetPoint_inv (s : State) (q : Nat) (point : Nat) (home : Nat) (p : Nat) (opc : Nat) (h : ReqHdr) (id : Nat) (h_s : Kept P s) : Kept P (meetPoint s q point home p opc h id).2 := by
  unfold meetPoint
  repeat' first
    | with_reducible (first
        | assumption | intro _ | apply ite_inv | apply ite_snd)
    | exact Kept.congr ‹Kept P _› rfl | assumption | split

theorem enterRefusing_inv (s : State) (q : Nat) (point : Nat) (home : Nat) (p : Nat) (opc : Nat) (h : ReqHdr) (after : Nat) (h_s : Kept P s) : Kept P (enterRefusing s q point home p opc h after) := by
  unfold enterRefusing
  repeat' first
    | with_reducible (first
        | assumption | intro _ | apply record_inv | apply ite_inv)
    | exact Kept.congr ‹Kept P _› rfl | assumption | split

/-! ### Doorbell -/

theorem updQp_inv (s : State) (n : Nat) (f : Qp → Qp) (h_s : Kept P s) : Kept P (updQp s n f) := by
  unfold updQp
  repeat' first
    | with_reducible (first
        | assumption | intro _ | apply ite_inv)
    | exact Kept.congr ‹Kept P _› rfl | assumption | split

theorem qpRecord_inv (s : State) (c : Qp) (code : Nat) (p0 : Word) (p1 : Word) (p2 : Word) (p3 : Word) (h_s : Kept P s) : Kept P (qpRecord s c code p0 p1 p2 p3) := by
  unfold qpRecord
  repeat' first
    | with_reducible (first
        | assumption | intro _ | apply record_inv | apply ite_inv)
    | exact Kept.congr ‹Kept P _› rfl | assumption | split

theorem qpError_inv (s : State) (n : Nat) (cause : Nat) (value : Nat) (h_s : Kept P s) : Kept P (qpError s n cause value) := by
  unfold qpError
  repeat' first
    | with_reducible (first
        | assumption | intro _ | apply qpRecord_inv | apply updQp_inv | apply ite_inv)
    | exact Kept.congr ‹Kept P _› rfl | assumption | split

theorem ring_inv (s : State) (n : Nat) (tail : Nat) (head : Nat) (h_s : Kept P s) : Kept P (ring s n tail head) := by
  unfold ring
  repeat' first
    | with_reducible (first
        | assumption | intro _ | apply updQp_inv | apply qpError_inv | apply ite_inv)
    | exact Kept.congr ‹Kept P _› rfl | assumption | split

theorem passDoorbell_inv (s : State) (r : Req) (off : Nat) (new : List Byte) (h_s : Kept P s) : Kept P (passDoorbell s r off new) := by
  unfold passDoorbell
  repeat' first
    | with_reducible (first
        | assumption | intro _ | apply ring_inv | apply ite_inv)
    | exact Kept.congr ‹Kept P _› rfl | assumption | split

/-! ### Coherence -/

theorem dirPut_inv (s : State) (e : DirEntry) (h_s : Kept P s) : Kept P (dirPut s e) := by
  unfold dirPut
  repeat' first
    | with_reducible (first
        | assumption | intro _ | apply ite_inv)
    | exact Kept.congr ‹Kept P _› rfl | assumption | split

theorem dirDrop_inv (s : State) (h : Nat) (line : Nat) (h_s : Kept P s) : Kept P (dirDrop s h line) := by
  unfold dirDrop
  repeat' first
    | with_reducible (first
        | assumption | intro _ | apply ite_inv)
    | exact Kept.congr ‹Kept P _› rfl | assumption | split

theorem sendSnoop_inv (s : State) (e : DirEntry) (inv : Bool) (owner : Bool) (a : Nat) (h_s : Kept P s) : Kept P (sendSnoop s e inv owner a) := by
  unfold sendSnoop
  repeat' first
    | with_reducible (first
        | assumption | intro _)
    | exact True.intro | exact ⟨rfl, rfl⟩
    | with_reducible (first
        | apply send_inv | apply foldl_bind_inv | apply bind_inv | apply ite_snd | apply ite_inv | apply ite_opt | apply ite_cmd | apply ite_out
        | apply findSome_inv | apply each_inv | apply iter_inv | apply foldl_inv | apply foldl_inv2 | apply getD_inv | apply elim_inv | apply JudgedInv.mk
        | apply JudgedInv.take | apply JudgedInv.discard | apply ite_judged | apply OptInv.mk_some | apply OptInv.mk_none | apply ExcInv.mk_ok
        | apply ExcInv.mk_error | apply OutInv.mk_next | apply CmdInv.mk_commit | apply DirInv.mk_sent | apply DirRoomInv.mk_freeing)
    | exact Kept.congr ‹Kept P _› rfl | assumption | split | dsimp only

theorem snoopAll_inv (s : State) (e : DirEntry) (waiter : Nat) (wait : Nat) (inv : Bool) (agents : List Nat) (h_s : Kept P s) : Kept P (snoopAll s e waiter wait inv agents) := by
  unfold snoopAll
  repeat' first
    | with_reducible (first
        | assumption | intro _)
    | exact True.intro | exact ⟨rfl, rfl⟩
    | with_reducible (first
        | apply dirPut_inv | apply sendSnoop_inv | apply foldl_bind_inv | apply bind_inv | apply ite_snd | apply ite_inv | apply ite_opt | apply ite_cmd
        | apply ite_out | apply findSome_inv | apply each_inv | apply iter_inv | apply foldl_inv | apply foldl_inv2 | apply getD_inv | apply elim_inv
        | apply JudgedInv.mk | apply JudgedInv.take | apply JudgedInv.discard | apply ite_judged | apply OptInv.mk_some | apply OptInv.mk_none
        | apply ExcInv.mk_ok | apply ExcInv.mk_error | apply OutInv.mk_next | apply CmdInv.mk_commit | apply DirInv.mk_sent | apply DirRoomInv.mk_freeing)
    | exact Kept.congr ‹Kept P _› rfl | assumption | split | dsimp only

theorem recallLine_inv (s : State) (comp : Nat) (e : DirEntry) (h_s : Kept P s) : Kept P (recallLine s comp e) := by
  unfold recallLine
  repeat' first
    | with_reducible (first
        | assumption | intro _ | apply dirDrop_inv | apply snoopAll_inv | apply ite_inv)
    | exact Kept.congr ‹Kept P _› rfl | assumption | split

theorem dirSnoop_inv (s : State) (comp : Nat) (e : DirEntry) (waiter : Nat) (opc : Nat) (src : Nat) (h_s : Kept P s) : DirInv P (dirSnoop s comp e waiter opc src) := by
  unfold dirSnoop
  repeat' first
    | with_reducible (first
        | assumption | intro _)
    | exact True.intro | exact ⟨rfl, rfl⟩
    | (extract_lets +onlyGivenNames x
       first
       | (refine ((fun (hx : Kept P x) => ?_) ?_) <;> [clear_value x; (revert x; change (Kept P) _)])
       | (refine ((fun (hx : Kept P x.2) => ?_) ?_) <;> [clear_value x; (revert x; change (Kept P) (Prod.snd _))])
       | (have _ := (x : List _); clear_value x)
       | skip)
    | with_reducible (first
        | apply snoopAll_inv | apply foldl_bind_inv | apply bind_inv | apply ite_snd | apply ite_inv | apply ite_opt | apply ite_cmd | apply ite_out
        | apply findSome_inv | apply each_inv | apply iter_inv | apply foldl_inv | apply foldl_inv2 | apply getD_inv | apply elim_inv | apply JudgedInv.mk
        | apply JudgedInv.take | apply JudgedInv.discard | apply ite_judged | apply OptInv.mk_some | apply OptInv.mk_none | apply ExcInv.mk_ok
        | apply ExcInv.mk_error | apply OutInv.mk_next | apply CmdInv.mk_commit | apply DirInv.mk_sent | apply DirRoomInv.mk_freeing)
    | exact Kept.congr ‹Kept P _› rfl | assumption | split | (refine OptInv.of_eq (Q := (Kept P)) ‹_ = some _› ?_) | (refine pair_of_eq ‹_ = (_, _)› ?_)
    | (refine pair_of_eq' ‹_ = (_, _)› ?_) | (refine DirInv.of_eq ‹_ = DirStep.sent _› ?_) | (refine DirRoomInv.of_eq ‹_ = DirRoom.freeing _› ?_)
    | dsimp only

theorem recallUnknown_inv (s : State) (comp : Nat) (id : Nat) (opc : Nat) (h : Nat) (line : Nat) (h_s : Kept P s) : DirInv P (recallUnknown s comp id opc h line) := by
  unfold recallUnknown
  repeat' first
    | with_reducible (first
        | assumption | intro _)
    | exact True.intro | exact ⟨rfl, rfl⟩
    | (extract_lets +onlyGivenNames x
       first
       | (refine ((fun (hx : Kept P x) => ?_) ?_) <;> [clear_value x; (revert x; change (Kept P) _)])
       | (refine ((fun (hx : Kept P x.2) => ?_) ?_) <;> [clear_value x; (revert x; change (Kept P) (Prod.snd _))])
       | (have _ := (x : List _); clear_value x)
       | skip)
    | with_reducible (first
        | apply snoopAll_inv | apply foldl_bind_inv | apply bind_inv | apply ite_snd | apply ite_inv | apply ite_opt | apply ite_cmd | apply ite_out
        | apply findSome_inv | apply each_inv | apply iter_inv | apply foldl_inv | apply foldl_inv2 | apply getD_inv | apply elim_inv | apply JudgedInv.mk
        | apply JudgedInv.take | apply JudgedInv.discard | apply ite_judged | apply OptInv.mk_some | apply OptInv.mk_none | apply ExcInv.mk_ok
        | apply ExcInv.mk_error | apply OutInv.mk_next | apply CmdInv.mk_commit | apply DirInv.mk_sent | apply DirRoomInv.mk_freeing)
    | exact Kept.congr ‹Kept P _› rfl | assumption | split | (refine OptInv.of_eq (Q := (Kept P)) ‹_ = some _› ?_) | (refine pair_of_eq ‹_ = (_, _)› ?_)
    | (refine pair_of_eq' ‹_ = (_, _)› ?_) | (refine DirInv.of_eq ‹_ = DirStep.sent _› ?_) | (refine DirRoomInv.of_eq ‹_ = DirRoom.freeing _› ?_)
    | dsimp only

theorem dirStep_inv (s : State) (comp : Nat) (id : Nat) (opc : Nat) (src : Nat) (h : Nat) (line : Nat) (h_s : Kept P s) : DirInv P (dirStep s comp id opc src h line) := by
  unfold dirStep
  repeat' first
    | with_reducible (first
        | assumption | intro _)
    | exact True.intro | exact ⟨rfl, rfl⟩
    | (extract_lets +onlyGivenNames x
       first
       | (refine ((fun (hx : Kept P x) => ?_) ?_) <;> [clear_value x; (revert x; change (Kept P) _)])
       | (refine ((fun (hx : Kept P x.2) => ?_) ?_) <;> [clear_value x; (revert x; change (Kept P) (Prod.snd _))])
       | (have _ := (x : List _); clear_value x)
       | skip)
    | with_reducible (first
        | apply recallUnknown_inv | apply dirSnoop_inv | apply foldl_bind_inv | apply bind_inv | apply ite_snd | apply ite_inv | apply ite_opt | apply ite_cmd
        | apply ite_out | apply findSome_inv | apply each_inv | apply iter_inv | apply foldl_inv | apply foldl_inv2 | apply getD_inv | apply elim_inv
        | apply JudgedInv.mk | apply JudgedInv.take | apply JudgedInv.discard | apply ite_judged | apply OptInv.mk_some | apply OptInv.mk_none
        | apply ExcInv.mk_ok | apply ExcInv.mk_error | apply OutInv.mk_next | apply CmdInv.mk_commit | apply DirInv.mk_sent | apply DirRoomInv.mk_freeing)
    | exact Kept.congr ‹Kept P _› rfl | assumption | split | (refine OptInv.of_eq (Q := (Kept P)) ‹_ = some _› ?_) | (refine pair_of_eq ‹_ = (_, _)› ?_)
    | (refine pair_of_eq' ‹_ = (_, _)› ?_) | (refine DirInv.of_eq ‹_ = DirStep.sent _› ?_) | (refine DirRoomInv.of_eq ‹_ = DirRoom.freeing _› ?_)
    | dsimp only

theorem dirDone_inv (s : State) (q : Nat) (opc : Nat) (src : Nat) (port : Nat) (h : Nat) (line : Nat) (h_s : Kept P s) : Kept P (dirDone s q opc src port h line) := by
  unfold dirDone
  repeat' first
    | with_reducible (first
        | assumption | intro _ | apply dirDrop_inv | apply dirPut_inv | apply ite_inv)
    | exact Kept.congr ‹Kept P _› rfl | assumption | split

theorem dirRoom_inv (s : State) (q : Nat) (comp : Nat) (h : Nat) (line : Nat) (h_s : Kept P s) : DirRoomInv P (dirRoom s q comp h line) := by
  unfold dirRoom
  repeat' first
    | with_reducible (first
        | assumption | intro _)
    | exact True.intro | exact ⟨rfl, rfl⟩
    | with_reducible (first
        | apply recallLine_inv | apply foldl_bind_inv | apply bind_inv | apply ite_snd | apply ite_inv | apply ite_opt | apply ite_cmd | apply ite_out
        | apply findSome_inv | apply each_inv | apply iter_inv | apply foldl_inv | apply foldl_inv2 | apply getD_inv | apply elim_inv | apply JudgedInv.mk
        | apply JudgedInv.take | apply JudgedInv.discard | apply ite_judged | apply OptInv.mk_some | apply OptInv.mk_none | apply ExcInv.mk_ok
        | apply ExcInv.mk_error | apply OutInv.mk_next | apply CmdInv.mk_commit | apply DirInv.mk_sent | apply DirRoomInv.mk_freeing)
    | exact Kept.congr ‹Kept P _› rfl | assumption | split | dsimp only

theorem dirHold_inv (s : State) (q : Nat) (id : Nat) (opc : Nat) (h : Nat) (line : Nat) (h_s : Kept P s) : Kept P (dirHold s q id opc h line) := by
  unfold dirHold
  repeat' first
    | with_reducible (first
        | assumption | intro _ | apply dirPut_inv | apply ite_inv)
    | exact Kept.congr ‹Kept P _› rfl | assumption | split

/-! ### Gateway -/

theorem gwPump_inv (hP : Closed P) (s : State) (g : GwBinding) (reg : Region) (b : Nat) (h_s : Kept P s) : Kept P (gwPump s g reg b) := by
  unfold gwPump
  repeat' first
    | with_reducible (first
        | assumption | intro _)
    | exact True.intro | exact ⟨rfl, rfl⟩
    | with_reducible (first
        | apply (allocFrame_inv hP) | apply sendXfer_inv | apply updBlock_inv | apply foldl_bind_inv | apply bind_inv | apply ite_snd | apply ite_inv
        | apply ite_opt | apply ite_cmd | apply ite_out | apply findSome_inv | apply each_inv | apply iter_inv | apply foldl_inv | apply foldl_inv2
        | apply getD_inv | apply elim_inv | apply JudgedInv.mk | apply JudgedInv.take | apply JudgedInv.discard | apply ite_judged | apply OptInv.mk_some
        | apply OptInv.mk_none | apply ExcInv.mk_ok | apply ExcInv.mk_error | apply OutInv.mk_next | apply CmdInv.mk_commit | apply DirInv.mk_sent
        | apply DirRoomInv.mk_freeing)
    | exact Kept.congr ‹Kept P _› rfl | assumption | split | dsimp only

theorem gwFetch_inv (hP : Closed P) (s : State) (g : GwBinding) (reg : Region) (b : Nat) (h_s : Kept P s) : Kept P (gwFetch s g reg b) := by
  unfold gwFetch
  repeat' first
    | with_reducible (first
        | assumption | intro _)
    | exact True.intro | exact ⟨rfl, rfl⟩
    | with_reducible (first
        | apply (gwPump_inv hP) | apply foldl_bind_inv | apply bind_inv | apply ite_snd | apply ite_inv | apply ite_opt | apply ite_cmd | apply ite_out
        | apply findSome_inv | apply each_inv | apply iter_inv | apply foldl_inv | apply foldl_inv2 | apply getD_inv | apply elim_inv | apply JudgedInv.mk
        | apply JudgedInv.take | apply JudgedInv.discard | apply ite_judged | apply OptInv.mk_some | apply OptInv.mk_none | apply ExcInv.mk_ok
        | apply ExcInv.mk_error | apply OutInv.mk_next | apply CmdInv.mk_commit | apply DirInv.mk_sent | apply DirRoomInv.mk_freeing)
    | exact Kept.congr ‹Kept P _› rfl | assumption | split | dsimp only

theorem gwFlushAll_inv (s : State) (g : GwBinding) (h_s : Kept P s) : Kept P (gwFlushAll s g) := by
  unfold gwFlushAll
  repeat' first
    | with_reducible (first
        | assumption | intro _)
    | exact True.intro | exact ⟨rfl, rfl⟩
    | with_reducible (first
        | apply gwFlushBlock_inv | apply foldl_bind_inv | apply bind_inv | apply ite_snd | apply ite_inv | apply ite_opt | apply ite_cmd | apply ite_out
        | apply findSome_inv | apply each_inv | apply iter_inv | apply foldl_inv | apply foldl_inv2 | apply getD_inv | apply elim_inv | apply JudgedInv.mk
        | apply JudgedInv.take | apply JudgedInv.discard | apply ite_judged | apply OptInv.mk_some | apply OptInv.mk_none | apply ExcInv.mk_ok
        | apply ExcInv.mk_error | apply OutInv.mk_next | apply CmdInv.mk_commit | apply DirInv.mk_sent | apply DirRoomInv.mk_freeing)
    | exact Kept.congr ‹Kept P _› rfl | assumption | split | dsimp only

theorem gwMarkDirty_inv (s : State) (g : GwBinding) (line : Nat) (h_s : Kept P s) : Kept P (gwMarkDirty s g line) := by
  unfold gwMarkDirty
  repeat' first
    | with_reducible (first
        | assumption | intro _ | apply updBlock_inv | apply ite_inv)
    | exact Kept.congr ‹Kept P _› rfl | assumption | split

/-! ### Home -/

theorem markStale_inv (s : State) (h : Nat) (n : Nat) (status : Nat) (h_s : Kept P s) : Kept P (markStale s h n status) := by
  unfold markStale
  repeat' first
    | with_reducible (first
        | assumption | intro _ | apply record_inv | apply ite_inv)
    | exact Kept.congr ‹Kept P _› rfl | assumption | split

theorem sendDelta_inv (s : State) (x : Sheaf) (req : Nat) (n : Nat) (off : Nat) (mirror : Bool) (d : List Byte) (h_s : Kept P s) : Kept P (sendDelta s x req n off mirror d) := by
  unfold sendDelta
  repeat' first
    | with_reducible (first
        | assumption | intro _)
    | exact True.intro | exact ⟨rfl, rfl⟩
    | with_reducible (first
        | apply send_inv | apply markStale_inv | apply foldl_bind_inv | apply bind_inv | apply ite_snd | apply ite_inv | apply ite_opt | apply ite_cmd
        | apply ite_out | apply findSome_inv | apply each_inv | apply iter_inv | apply foldl_inv | apply foldl_inv2 | apply getD_inv | apply elim_inv
        | apply JudgedInv.mk | apply JudgedInv.take | apply JudgedInv.discard | apply ite_judged | apply OptInv.mk_some | apply OptInv.mk_none
        | apply ExcInv.mk_ok | apply ExcInv.mk_error | apply OutInv.mk_next | apply CmdInv.mk_commit | apply DirInv.mk_sent | apply DirRoomInv.mk_freeing)
    | exact Kept.congr ‹Kept P _› rfl | assumption | split | dsimp only

theorem mirrorRecord_inv (s : State) (r : Region) (req : Nat) (h_s : Kept P s) : Kept P (mirrorRecord s r req) := by
  unfold mirrorRecord
  repeat' first
    | with_reducible (first
        | assumption | intro _)
    | exact True.intro | exact ⟨rfl, rfl⟩
    | with_reducible (first
        | apply sendDelta_inv | apply foldl_bind_inv | apply bind_inv | apply ite_snd | apply ite_inv | apply ite_opt | apply ite_cmd | apply ite_out
        | apply findSome_inv | apply each_inv | apply iter_inv | apply foldl_inv | apply foldl_inv2 | apply getD_inv | apply elim_inv | apply JudgedInv.mk
        | apply JudgedInv.take | apply JudgedInv.discard | apply ite_judged | apply OptInv.mk_some | apply OptInv.mk_none | apply ExcInv.mk_ok
        | apply ExcInv.mk_error | apply OutInv.mk_next | apply CmdInv.mk_commit | apply DirInv.mk_sent | apply DirRoomInv.mk_freeing)
    | exact Kept.congr ‹Kept P _› rfl | assumption | split | dsimp only

theorem readStalk_inv (s : State) (x : Sheaf) (use : AccUse) (n : Nat) (off : Nat) (units : Nat) (h_s : Kept P s) : Kept P (readStalk s x use n off units) := by
  unfold readStalk
  repeat' first
    | with_reducible (first
        | assumption | intro _)
    | exact True.intro | exact ⟨rfl, rfl⟩
    | with_reducible (first
        | apply send_inv | apply foldl_bind_inv | apply bind_inv | apply ite_snd | apply ite_inv | apply ite_opt | apply ite_cmd | apply ite_out
        | apply findSome_inv | apply each_inv | apply iter_inv | apply foldl_inv | apply foldl_inv2 | apply getD_inv | apply elim_inv | apply JudgedInv.mk
        | apply JudgedInv.take | apply JudgedInv.discard | apply ite_judged | apply OptInv.mk_some | apply OptInv.mk_none | apply ExcInv.mk_ok
        | apply ExcInv.mk_error | apply OutInv.mk_next | apply CmdInv.mk_commit | apply DirInv.mk_sent | apply DirRoomInv.mk_freeing)
    | exact Kept.congr ‹Kept P _› rfl | assumption | split | dsimp only

theorem startRebuild_inv (s : State) (g : Region) (off : Nat) (h_s : Kept P s) : Kept P (startRebuild s g off) := by
  unfold startRebuild
  repeat' first
    | with_reducible (first
        | assumption | intro _)
    | exact True.intro | exact ⟨rfl, rfl⟩
    | with_reducible (first
        | apply readStalk_inv | apply foldl_bind_inv | apply bind_inv | apply ite_snd | apply ite_inv | apply ite_opt | apply ite_cmd | apply ite_out
        | apply findSome_inv | apply each_inv | apply iter_inv | apply foldl_inv | apply foldl_inv2 | apply getD_inv | apply elim_inv | apply JudgedInv.mk
        | apply JudgedInv.take | apply JudgedInv.discard | apply ite_judged | apply OptInv.mk_some | apply OptInv.mk_none | apply ExcInv.mk_ok
        | apply ExcInv.mk_error | apply OutInv.mk_next | apply CmdInv.mk_commit | apply DirInv.mk_sent | apply DirRoomInv.mk_freeing)
    | exact Kept.congr ‹Kept P _› rfl | assumption | split | dsimp only

theorem askRebuild_inv (s : State) (r : Req) (g : Region) (off : Nat) (h_s : Kept P s) : Kept P (askRebuild s r g off) := by
  unfold askRebuild
  repeat' first
    | with_reducible (first
        | assumption | intro _ | apply startRebuild_inv | apply updReq_inv | apply ite_inv)
    | exact Kept.congr ‹Kept P _› rfl | assumption | split

theorem cancelDeltas_inv (s : State) (req : Nat) (status : Nat) (h_s : Kept P s) : Kept P (cancelDeltas s req status) := by
  unfold cancelDeltas
  repeat' first
    | with_reducible (first
        | assumption | intro _)
    | exact True.intro | exact ⟨rfl, rfl⟩
    | (extract_lets +onlyGivenNames x
       first
       | (refine ((fun (hx : Kept P x) => ?_) ?_) <;> [clear_value x; (revert x; change (Kept P) _)])
       | (refine ((fun (hx : Kept P x.2) => ?_) ?_) <;> [clear_value x; (revert x; change (Kept P) (Prod.snd _))])
       | (have _ := (x : List _); clear_value x)
       | skip)
    | with_reducible (first
        | apply markStale_inv | apply foldl_bind_inv | apply bind_inv | apply ite_snd | apply ite_inv | apply ite_opt | apply ite_cmd | apply ite_out
        | apply findSome_inv | apply each_inv | apply iter_inv | apply foldl_inv | apply foldl_inv2 | apply getD_inv | apply elim_inv | apply JudgedInv.mk
        | apply JudgedInv.take | apply JudgedInv.discard | apply ite_judged | apply OptInv.mk_some | apply OptInv.mk_none | apply ExcInv.mk_ok
        | apply ExcInv.mk_error | apply OutInv.mk_next | apply CmdInv.mk_commit | apply DirInv.mk_sent | apply DirRoomInv.mk_freeing)
    | exact Kept.congr ‹Kept P _› rfl | assumption | split | (refine OptInv.of_eq (Q := (Kept P)) ‹_ = some _› ?_) | (refine pair_of_eq ‹_ = (_, _)› ?_)
    | (refine pair_of_eq' ‹_ = (_, _)› ?_) | (refine DirInv.of_eq ‹_ = DirStep.sent _› ?_) | (refine DirRoomInv.of_eq ‹_ = DirRoom.freeing _› ?_)
    | dsimp only

theorem recordOffer_inv (s : State) (h : Nat) (toward : Nat) (g : Region) (h_s : Kept P s) : Kept P (recordOffer s h toward g) := by
  unfold recordOffer
  repeat' first
    | with_reducible (first
        | assumption | intro _ | apply ite_inv)
    | exact Kept.congr ‹Kept P _› rfl | assumption | split

theorem dropOffer_inv (s : State) (h : Nat) (h_s : Kept P s) : Kept P (dropOffer s h) := by
  unfold dropOffer
  repeat' first
    | with_reducible (first
        | assumption | intro _ | apply ite_inv)
    | exact Kept.congr ‹Kept P _› rfl | assumption | split

theorem doOffer_inv (s : State) (r : Req) (g : Region) (h_s : Kept P s) : OptInv (Kept P) (doOffer s r g) := by
  unfold doOffer
  repeat' first
    | with_reducible (first
        | assumption | intro _ | apply finish_inv | apply updReq_inv | apply recordOffer_inv | apply ite_inv | apply OptInv.mk_some | apply OptInv.mk_none
        | apply ite_opt)
    | exact Kept.congr ‹Kept P _› rfl | assumption | split

theorem doAccept_inv (s : State) (r : Req) (g : Region) (h_s : Kept P s) : OptInv (Kept P) (doAccept s r g) := by
  unfold doAccept
  repeat' first
    | with_reducible (first
        | assumption | intro _ | apply finish_inv | apply ite_inv | apply OptInv.mk_some | apply OptInv.mk_none | apply ite_opt)
    | exact Kept.congr ‹Kept P _› rfl | assumption | split

theorem mirrorStep_inv (s : State) (r : Req) (g : Region) (h_s : Kept P s) : OptInv (fun (t : Bool × State) => (Kept P) (t).2) (mirrorStep s r g) := by
  unfold mirrorStep
  repeat' first
    | with_reducible (first
        | assumption | intro _ | apply mirrorRecord_inv | apply updReq_inv | apply ite_inv | apply ite_snd | apply OptInv.mk_some | apply OptInv.mk_none
        | apply ite_opt)
    | exact Kept.congr ‹Kept P _› rfl | assumption | split

theorem doConfirm_inv (s : State) (r : Req) (g : Region) (h_s : Kept P s) : OptInv (Kept P) (doConfirm s r g) := by
  unfold doConfirm
  repeat' first
    | with_reducible (first
        | assumption | intro _)
    | exact True.intro | exact ⟨rfl, rfl⟩
    | (extract_lets +onlyGivenNames x
       first
       | (refine ((fun (hx : Kept P x) => ?_) ?_) <;> [clear_value x; (revert x; change (Kept P) _)])
       | (refine ((fun (hx : Kept P x.2) => ?_) ?_) <;> [clear_value x; (revert x; change (Kept P) (Prod.snd _))])
       | (refine ((fun (hx : OptInv (Kept P) x) => ?_) ?_) <;> [clear_value x; (revert x; change OptInv (Kept P) _)])
       | (refine ((fun (hx : CmdInv P x) => ?_) ?_) <;> [clear_value x; (revert x; change (CmdInv P) _)])
       | (have _ := (x : List _); clear_value x)
       | skip)
    | with_reducible (first
        | apply mirrorStep_inv | apply dropOffer_inv | apply updRegion_inv | apply finish_inv | apply updReq_inv | apply foldl_bind_inv | apply bind_inv
        | apply ite_snd | apply ite_inv | apply ite_opt | apply ite_cmd | apply ite_out | apply findSome_inv | apply each_inv | apply iter_inv
        | apply foldl_inv | apply foldl_inv2 | apply getD_inv | apply elim_inv | apply JudgedInv.mk | apply JudgedInv.take | apply JudgedInv.discard
        | apply ite_judged | apply OptInv.mk_some | apply OptInv.mk_none | apply ExcInv.mk_ok | apply ExcInv.mk_error | apply OutInv.mk_next
        | apply CmdInv.mk_commit | apply DirInv.mk_sent | apply DirRoomInv.mk_freeing)
    | exact Kept.congr ‹Kept P _› rfl | assumption | refine Inv.congr (dropOffer_inv _ _ ?_ ) rfl | refine Inv.congr (updRegion_inv _ _ _ ?_ ) rfl
    | refine Inv.congr (finish_inv _ _ _ _ _ ?_ ) rfl | refine Inv.congr (updReq_inv _ _ _ ?_ ) rfl | split
    | (refine OptInv.of_eq (Q := (Kept P)) ‹_ = some _› ?_) | (refine OptInv.of_eq (Q := (CmdInv P)) ‹_ = some _› ?_) | (refine pair_of_eq ‹_ = (_, _)› ?_)
    | (refine pair_of_eq' ‹_ = (_, _)› ?_) | (refine DirInv.of_eq ‹_ = DirStep.sent _› ?_) | (refine DirRoomInv.of_eq ‹_ = DirRoom.freeing _› ?_)
    | (refine CmdInv.of_eq ‹_ = CmdResult.commit _ _ _ _› ?_) | (refine ExcInv.of_eq ‹_ = Except.ok _› ?_) | dsimp only
   
    | dsimp +zetaDelta only
    | (refine OptInv.of_eq (Q := fun (t : _ × State) => (Kept P) t.2) ‹_ = some _› ?_)
    | (refine OptInv.of_eq (Q := fun (t : _ × State) => (Kept P) t.2) (t := (_, _)) ‹_ = some (_, _)› ?_)
    | (refine ExcInv.of_eq (Q := fun (t : _ × State) => (Kept P) t.2) (t := (_, _)) ‹_ = Except.ok (_, _)› ?_)

theorem rotateEarly_inv (s : State) (a : Region) (b : Region) (h_s : Kept P s) : Kept P (rotateEarly s a b) := by
  unfold rotateEarly
  repeat' first
    | with_reducible (first
        | assumption | intro _ | apply ite_inv)
    | exact Kept.congr ‹Kept P _› rfl | assumption | split

theorem trackWrite_inv (s : State) (h : Nat) (off : Nat) (h_s : Kept P s) : Kept P (trackWrite s h off) := by
  unfold trackWrite
  repeat' first
    | with_reducible (first
        | assumption | intro _ | apply ite_inv)
    | exact Kept.congr ‹Kept P _› rfl | assumption | split

theorem trackAll_inv (s : State) (g : Region) (h_s : Kept P s) : Kept P (trackAll s g) := by
  unfold trackAll
  repeat' first
    | with_reducible (first
        | assumption | intro _)
    | exact True.intro | exact ⟨rfl, rfl⟩
    | with_reducible (first
        | apply trackWrite_inv | apply foldl_bind_inv | apply bind_inv | apply ite_snd | apply ite_inv | apply ite_opt | apply ite_cmd | apply ite_out
        | apply findSome_inv | apply each_inv | apply iter_inv | apply foldl_inv | apply foldl_inv2 | apply getD_inv | apply elim_inv | apply JudgedInv.mk
        | apply JudgedInv.take | apply JudgedInv.discard | apply ite_judged | apply OptInv.mk_some | apply OptInv.mk_none | apply ExcInv.mk_ok
        | apply ExcInv.mk_error | apply OutInv.mk_next | apply CmdInv.mk_commit | apply DirInv.mk_sent | apply DirRoomInv.mk_freeing)
    | exact Kept.congr ‹Kept P _› rfl | assumption | split | dsimp only

theorem doPublish_inv (hP : Closed P) (s : State) (r : Req) (t : Region) (h_s : Kept P s) : OptInv (Kept P) (doPublish s r t) := by
  unfold doPublish
  repeat' first
    | with_reducible (first
        | assumption | intro _)
    | exact True.intro | exact ⟨rfl, rfl⟩
    | (extract_lets +onlyGivenNames x
       first
       | (refine ((fun (hx : Kept P x) => ?_) ?_) <;> [clear_value x; (revert x; change (Kept P) _)])
       | (refine ((fun (hx : Kept P x.2) => ?_) ?_) <;> [clear_value x; (revert x; change (Kept P) (Prod.snd _))])
       | (have _ := (x : List _); clear_value x)
       | skip)
    | with_reducible (first
        | apply finish_inv | apply updRegion_inv | apply rotateEarly_inv | apply dropHeldOf_inv | apply (flushLine_inv hP) | apply trackAll_inv | apply updReq_inv
        | apply foldl_bind_inv | apply bind_inv | apply ite_snd | apply ite_inv | apply ite_opt | apply ite_cmd | apply ite_out | apply findSome_inv
        | apply each_inv | apply iter_inv | apply foldl_inv | apply foldl_inv2 | apply getD_inv | apply elim_inv | apply JudgedInv.mk | apply JudgedInv.take
        | apply JudgedInv.discard | apply ite_judged | apply OptInv.mk_some | apply OptInv.mk_none | apply ExcInv.mk_ok | apply ExcInv.mk_error
        | apply OutInv.mk_next | apply CmdInv.mk_commit | apply DirInv.mk_sent | apply DirRoomInv.mk_freeing)
    | exact Kept.congr ‹Kept P _› rfl | assumption | split | (refine OptInv.of_eq (Q := (Kept P)) ‹_ = some _› ?_) | (refine pair_of_eq ‹_ = (_, _)› ?_)
    | (refine pair_of_eq' ‹_ = (_, _)› ?_) | (refine DirInv.of_eq ‹_ = DirStep.sent _› ?_) | (refine DirRoomInv.of_eq ‹_ = DirRoom.freeing _› ?_)
    | dsimp only

theorem finishCrew_inv (s : State) (r : Req) (status : Nat) (detail : Word) (h_s : Kept P s) : Kept P (finishCrew s r status detail) := by
  unfold finishCrew
  repeat' first
    | with_reducible (first
        | assumption | intro _)
    | exact True.intro | exact ⟨rfl, rfl⟩
    | with_reducible (first
        | apply finish_inv | apply foldl_bind_inv | apply bind_inv | apply ite_snd | apply ite_inv | apply ite_opt | apply ite_cmd | apply ite_out
        | apply findSome_inv | apply each_inv | apply iter_inv | apply foldl_inv | apply foldl_inv2 | apply getD_inv | apply elim_inv | apply JudgedInv.mk
        | apply JudgedInv.take | apply JudgedInv.discard | apply ite_judged | apply OptInv.mk_some | apply OptInv.mk_none | apply ExcInv.mk_ok
        | apply ExcInv.mk_error | apply OutInv.mk_next | apply CmdInv.mk_commit | apply DirInv.mk_sent | apply DirRoomInv.mk_freeing)
    | exact Kept.congr ‹Kept P _› rfl | assumption | split | dsimp only

theorem startFills_inv (hP : Closed P) (s : State) (r : Req) (g : Region) (offs : List Nat) (full : Bool) (h_s : Kept P s) : Kept P (startFills s r g offs full) := by
  unfold startFills
  repeat' first
    | with_reducible (first
        | assumption | intro _)
    | exact True.intro | exact ⟨rfl, rfl⟩
    | with_reducible (first
        | apply (startFill_inv hP) | apply updReq_inv | apply defer_inv | apply foldl_bind_inv | apply bind_inv | apply ite_snd | apply ite_inv | apply ite_opt
        | apply ite_cmd | apply ite_out | apply findSome_inv | apply each_inv | apply iter_inv | apply foldl_inv | apply foldl_inv2 | apply getD_inv
        | apply elim_inv | apply JudgedInv.mk | apply JudgedInv.take | apply JudgedInv.discard | apply ite_judged | apply OptInv.mk_some
        | apply OptInv.mk_none | apply ExcInv.mk_ok | apply ExcInv.mk_error | apply OutInv.mk_next | apply CmdInv.mk_commit | apply DirInv.mk_sent
        | apply DirRoomInv.mk_freeing)
    | exact Kept.congr ‹Kept P _› rfl | assumption | split | dsimp only

theorem lineDone_inv (s : State) (r : Req) (off : Nat) (h_s : Kept P s) : Kept P (lineDone s r off) := by
  unfold lineDone
  repeat' first
    | with_reducible (first
        | assumption | intro _)
    | exact True.intro | exact ⟨rfl, rfl⟩
    | with_reducible (first
        | apply finish_inv | apply updReq_inv | apply done_inv | apply foldl_bind_inv | apply bind_inv | apply ite_snd | apply ite_inv | apply ite_opt
        | apply ite_cmd | apply ite_out | apply findSome_inv | apply each_inv | apply iter_inv | apply foldl_inv | apply foldl_inv2 | apply getD_inv
        | apply elim_inv | apply JudgedInv.mk | apply JudgedInv.take | apply JudgedInv.discard | apply ite_judged | apply OptInv.mk_some
        | apply OptInv.mk_none | apply ExcInv.mk_ok | apply ExcInv.mk_error | apply OutInv.mk_next | apply CmdInv.mk_commit | apply DirInv.mk_sent
        | apply DirRoomInv.mk_freeing)
    | exact Kept.congr ‹Kept P _› rfl | assumption | split | dsimp only

theorem writeNow_inv (hP : Closed P) (s : State) (r : Req) (g : Region) (a : Nat) (off : Nat) (old : List Byte) (new : List Byte) (h_s : Kept P s) : Kept P (writeNow s r g a off old new) := by
  unfold writeNow
  repeat' first
    | with_reducible (first
        | assumption | intro _)
    | exact True.intro | exact ⟨rfl, rfl⟩
    | with_reducible (first
        | apply updReq_inv | apply dropHeld_inv | apply (touchLine_inv hP) | apply (markFrame_inv hP) | apply clearPoison_inv | apply trackWrite_inv
        | apply gwMarkDirty_inv | apply passDoorbell_inv | apply dirDone_inv | apply lineDone_inv | apply foldl_bind_inv | apply bind_inv | apply ite_snd
        | apply ite_inv | apply ite_opt | apply ite_cmd | apply ite_out | apply findSome_inv | apply each_inv | apply iter_inv | apply foldl_inv
        | apply foldl_inv2 | apply getD_inv | apply elim_inv | apply JudgedInv.mk | apply JudgedInv.take | apply JudgedInv.discard | apply ite_judged
        | apply OptInv.mk_some | apply OptInv.mk_none | apply ExcInv.mk_ok | apply ExcInv.mk_error | apply OutInv.mk_next | apply CmdInv.mk_commit
        | apply DirInv.mk_sent | apply DirRoomInv.mk_freeing)
    | exact Kept.congr ‹Kept P _› rfl | assumption | split | dsimp only

theorem readNow_inv (hP : Closed P) (s : State) (r : Req) (g : Region) (a : Nat) (off : Nat) (h_s : Kept P s) : Kept P (readNow s r g a off) := by
  unfold readNow
  repeat' first
    | with_reducible (first
        | assumption | intro _ | apply updFrame_inv | apply (touchLine_inv hP) | apply dirDone_inv | apply lineDone_inv | apply ite_inv)
    | exact Kept.congr ‹Kept P _› rfl | assumption | split

theorem parityStep_inv (s : State) (r : Req) (g : Region) (off : Nat) (old : List Byte) (new : List Byte) (h_s : Kept P s) : OptInv (fun (t : Bool × State) => (Kept P) (t).2) (parityStep s r g off old new) := by
  unfold parityStep
  repeat' first
    | with_reducible (first
        | assumption | intro _)
    | exact True.intro | exact ⟨rfl, rfl⟩
    | with_reducible (first
        | apply sendDelta_inv | apply updReq_inv | apply foldl_bind_inv | apply bind_inv | apply ite_snd | apply ite_inv | apply ite_opt | apply ite_cmd
        | apply ite_out | apply findSome_inv | apply each_inv | apply iter_inv | apply foldl_inv | apply foldl_inv2 | apply getD_inv | apply elim_inv
        | apply JudgedInv.mk | apply JudgedInv.take | apply JudgedInv.discard | apply ite_judged | apply OptInv.mk_some | apply OptInv.mk_none
        | apply ExcInv.mk_ok | apply ExcInv.mk_error | apply OutInv.mk_next | apply CmdInv.mk_commit | apply DirInv.mk_sent | apply DirRoomInv.mk_freeing)
    | exact Kept.congr ‹Kept P _› rfl | assumption | split | dsimp only

theorem proxyWait_inv (hP : Closed P) (s : State) (r : Req) (g : Region) (b : GwBinding) (fetch : Bool) (h_s : Kept P s) : OptInv (Kept P) (proxyWait s r g b fetch) := by
  unfold proxyWait
  repeat' first
    | with_reducible (first
        | assumption | intro _)
    | exact True.intro | exact ⟨rfl, rfl⟩
    | with_reducible (first
        | apply (gwFetch_inv hP) | apply (gwPump_inv hP) | apply updReq_inv | apply defer_inv | apply (fetch_inv hP) | apply foldl_bind_inv | apply bind_inv | apply ite_snd
        | apply ite_inv | apply ite_opt | apply ite_cmd | apply ite_out | apply findSome_inv | apply each_inv | apply iter_inv | apply foldl_inv
        | apply foldl_inv2 | apply getD_inv | apply elim_inv | apply JudgedInv.mk | apply JudgedInv.take | apply JudgedInv.discard | apply ite_judged
        | apply OptInv.mk_some | apply OptInv.mk_none | apply ExcInv.mk_ok | apply ExcInv.mk_error | apply OutInv.mk_next | apply CmdInv.mk_commit
        | apply DirInv.mk_sent | apply DirRoomInv.mk_freeing)
    | exact Kept.congr ‹Kept P _› rfl | assumption | split | dsimp only

theorem performLine_inv (hP : Closed P) (s : State) (r : Req) (g : Region) (a : Nat) (off : Nat) (h_s : Kept P s) : OptInv (Kept P) (performLine s r g a off) := by
  unfold performLine
  repeat' first
    | with_reducible (first
        | assumption | intro _)
    | exact True.intro | exact ⟨rfl, rfl⟩
    | (extract_lets +onlyGivenNames x
       first
       | (refine ((fun (hx : Kept P x) => ?_) ?_) <;> [clear_value x; (revert x; change (Kept P) _)])
       | (refine ((fun (hx : Kept P x.2) => ?_) ?_) <;> [clear_value x; (revert x; change (Kept P) (Prod.snd _))])
       | (refine ((fun (hx : OptInv (Kept P) x) => ?_) ?_) <;> [clear_value x; (revert x; change OptInv (Kept P) _)])
       | (refine ((fun (hx : CmdInv P x) => ?_) ?_) <;> [clear_value x; (revert x; change (CmdInv P) _)])
       | (have _ := (x : List _); clear_value x)
       | skip)
    | with_reducible (first
        | apply askRebuild_inv | apply finishCrew_inv | apply lineDone_inv | apply dirDone_inv | apply parityStep_inv | apply (writeNow_inv hP) | apply (readNow_inv hP)
        | apply foldl_bind_inv | apply bind_inv | apply ite_snd | apply ite_inv | apply ite_opt | apply ite_cmd | apply ite_out | apply findSome_inv
        | apply each_inv | apply iter_inv | apply foldl_inv | apply foldl_inv2 | apply getD_inv | apply elim_inv | apply JudgedInv.mk | apply JudgedInv.take
        | apply JudgedInv.discard | apply ite_judged | apply OptInv.mk_some | apply OptInv.mk_none | apply ExcInv.mk_ok | apply ExcInv.mk_error
        | apply OutInv.mk_next | apply CmdInv.mk_commit | apply DirInv.mk_sent | apply DirRoomInv.mk_freeing)
    | exact Kept.congr ‹Kept P _› rfl | assumption | refine Inv.congr (askRebuild_inv _ _ _ _ ?_ ) rfl | refine Inv.congr (finishCrew_inv _ _ _ _ ?_ ) rfl
    | refine Inv.congr (lineDone_inv _ _ _ ?_ ) rfl | refine Inv.congr (dirDone_inv _ _ _ _ _ _ _ ?_ ) rfl
    | refine Inv.congr ((writeNow_inv hP) _ _ _ _ _ _ _ ?_ ) rfl | refine Inv.congr ((readNow_inv hP) _ _ _ _ _ ?_ ) rfl | split
    | (refine OptInv.of_eq (Q := (Kept P)) ‹_ = some _› ?_) | (refine OptInv.of_eq (Q := (CmdInv P)) ‹_ = some _› ?_) | (refine pair_of_eq ‹_ = (_, _)› ?_)
    | (refine pair_of_eq' ‹_ = (_, _)› ?_) | (refine DirInv.of_eq ‹_ = DirStep.sent _› ?_) | (refine DirRoomInv.of_eq ‹_ = DirRoom.freeing _› ?_)
    | (refine CmdInv.of_eq ‹_ = CmdResult.commit _ _ _ _› ?_) | (refine ExcInv.of_eq ‹_ = Except.ok _› ?_) | dsimp only
    | exact Kept.write hP ‹Kept P _› rfl | exact Kept.cache hP ‹Kept P _› rfl | exact Kept.clear hP ‹Kept P _› rfl
    | exact Kept.clears hP ‹Kept P _› rfl | dsimp +zetaDelta only
    | (refine OptInv.of_eq (Q := fun (t : _ × State) => (Kept P) t.2) ‹_ = some _› ?_)
    | (refine OptInv.of_eq (Q := fun (t : _ × State) => (Kept P) t.2) (t := (_, _)) ‹_ = some (_, _)› ?_)
    | (refine ExcInv.of_eq (Q := fun (t : _ × State) => (Kept P) t.2) (t := (_, _)) ‹_ = Except.ok (_, _)› ?_)

theorem tierLine_inv (hP : Closed P) (s : State) (r : Req) (g : Region) (a : Nat) (off : Nat) (h_s : Kept P s) : OptInv (Kept P) (tierLine s r g a off) := by
  unfold tierLine
  repeat' first
    | with_reducible (first
        | assumption | intro _ | apply (performLine_inv hP) | apply (proxyWait_inv hP) | apply askRebuild_inv | apply finishCrew_inv | apply (writeNow_inv hP)
        | apply dirHold_inv | apply (startFills_inv hP) | apply (fetch_inv hP) | apply ite_inv | apply OptInv.mk_some | apply OptInv.mk_none | apply ite_opt)
    | exact Kept.congr ‹Kept P _› rfl | assumption | split

theorem serveLine_inv (hP : Closed P) (s : State) (r : Req) (g : Region) (off : Nat) (h_s : Kept P s) : OptInv (Kept P) (serveLine s r g off) := by
  unfold serveLine
  repeat' first
    | with_reducible (first
        | assumption | intro _)
    | exact True.intro | exact ⟨rfl, rfl⟩
    | (extract_lets +onlyGivenNames x
       first
       | (refine ((fun (hx : Kept P x) => ?_) ?_) <;> [clear_value x; (revert x; change (Kept P) _)])
       | (refine ((fun (hx : Kept P x.2) => ?_) ?_) <;> [clear_value x; (revert x; change (Kept P) (Prod.snd _))])
       | (refine ((fun (hx : OptInv (Kept P) x) => ?_) ?_) <;> [clear_value x; (revert x; change OptInv (Kept P) _)])
       | (refine ((fun (hx : CmdInv P x) => ?_) ?_) <;> [clear_value x; (revert x; change (CmdInv P) _)])
       | (have _ := (x : List _); clear_value x)
       | skip)
    | with_reducible (first
        | apply finishCrew_inv | apply lineDone_inv | apply (tierLine_inv hP) | apply dirRoom_inv | apply updReq_inv | apply dirStep_inv | apply dirDone_inv
        | apply foldl_bind_inv | apply bind_inv | apply ite_snd | apply ite_inv | apply ite_opt | apply ite_cmd | apply ite_out | apply findSome_inv
        | apply each_inv | apply iter_inv | apply foldl_inv | apply foldl_inv2 | apply getD_inv | apply elim_inv | apply JudgedInv.mk | apply JudgedInv.take
        | apply JudgedInv.discard | apply ite_judged | apply OptInv.mk_some | apply OptInv.mk_none | apply ExcInv.mk_ok | apply ExcInv.mk_error
        | apply OutInv.mk_next | apply CmdInv.mk_commit | apply DirInv.mk_sent | apply DirRoomInv.mk_freeing)
    | exact Kept.congr ‹Kept P _› rfl | assumption | refine Inv.congr (finishCrew_inv _ _ _ _ ?_ ) rfl | refine Inv.congr (lineDone_inv _ _ _ ?_ ) rfl
    | refine Inv.congr (updReq_inv _ _ _ ?_ ) rfl | refine Inv.congr (dirDone_inv _ _ _ _ _ _ _ ?_ ) rfl | split
    | (refine OptInv.of_eq (Q := (Kept P)) ‹_ = some _› ?_) | (refine OptInv.of_eq (Q := (CmdInv P)) ‹_ = some _› ?_) | (refine pair_of_eq ‹_ = (_, _)› ?_)
    | (refine pair_of_eq' ‹_ = (_, _)› ?_) | (refine DirInv.of_eq ‹_ = DirStep.sent _› ?_) | (refine DirRoomInv.of_eq ‹_ = DirRoom.freeing _› ?_)
    | (refine CmdInv.of_eq ‹_ = CmdResult.commit _ _ _ _› ?_) | (refine ExcInv.of_eq ‹_ = Except.ok _› ?_) | dsimp only
    | exact Kept.write hP ‹Kept P _› rfl | exact Kept.cache hP ‹Kept P _› rfl | exact Kept.clear hP ‹Kept P _› rfl
    | exact Kept.clears hP ‹Kept P _› rfl | dsimp +zetaDelta only
    | (refine OptInv.of_eq (Q := fun (t : _ × State) => (Kept P) t.2) ‹_ = some _› ?_)
    | (refine OptInv.of_eq (Q := fun (t : _ × State) => (Kept P) t.2) (t := (_, _)) ‹_ = some (_, _)› ?_)
    | (refine ExcInv.of_eq (Q := fun (t : _ × State) => (Kept P) t.2) (t := (_, _)) ‹_ = Except.ok (_, _)› ?_)

theorem readStored_inv (hP : Closed P) (s : State) (g : Region) (offs : List Nat) (h_s : Kept P s) : Kept P (readStored s g offs) := by
  unfold readStored
  repeat' first
    | with_reducible (first
        | assumption | intro _)
    | exact True.intro | exact ⟨rfl, rfl⟩
    | with_reducible (first
        | apply (touchLine_inv hP) | apply foldl_bind_inv | apply bind_inv | apply ite_snd | apply ite_inv | apply ite_opt | apply ite_cmd | apply ite_out
        | apply findSome_inv | apply each_inv | apply iter_inv | apply foldl_inv | apply foldl_inv2 | apply getD_inv | apply elim_inv | apply JudgedInv.mk
        | apply JudgedInv.take | apply JudgedInv.discard | apply ite_judged | apply OptInv.mk_some | apply OptInv.mk_none | apply ExcInv.mk_ok
        | apply ExcInv.mk_error | apply OutInv.mk_next | apply CmdInv.mk_commit | apply DirInv.mk_sent | apply DirRoomInv.mk_freeing)
    | exact Kept.congr ‹Kept P _› rfl | assumption | split | dsimp only

theorem serveExpanded_inv (hP : Closed P) (s : State) (r : Req) (g : Region) (h_s : Kept P s) : OptInv (Kept P) (serveExpanded s r g) := by
  unfold serveExpanded
  repeat' first
    | with_reducible (first
        | assumption | intro _)
    | exact True.intro | exact ⟨rfl, rfl⟩
    | with_reducible (first
        | apply askRebuild_inv | apply finishCrew_inv | apply (startFills_inv hP) | apply (readStored_inv hP) | apply ecxFail_inv | apply blockEnded_inv
        | apply holdBlock_inv | apply finish_inv | apply foldl_bind_inv | apply bind_inv | apply ite_snd | apply ite_inv | apply ite_opt | apply ite_cmd
        | apply ite_out | apply findSome_inv | apply each_inv | apply iter_inv | apply foldl_inv | apply foldl_inv2 | apply getD_inv | apply elim_inv
        | apply JudgedInv.mk | apply JudgedInv.take | apply JudgedInv.discard | apply ite_judged | apply OptInv.mk_some | apply OptInv.mk_none
        | apply ExcInv.mk_ok | apply ExcInv.mk_error | apply OutInv.mk_next | apply CmdInv.mk_commit | apply DirInv.mk_sent | apply DirRoomInv.mk_freeing)
    | exact Kept.congr ‹Kept P _› rfl | assumption | split | dsimp only

theorem serveFence_inv (s : State) (r : Req) (h_s : Kept P s) : OptInv (Kept P) (serveFence s r) := by
  unfold serveFence
  repeat' first
    | with_reducible (first
        | assumption | intro _)
    | exact True.intro | exact ⟨rfl, rfl⟩
    | (extract_lets +onlyGivenNames x
       first
       | (refine ((fun (hx : Kept P x) => ?_) ?_) <;> [clear_value x; (revert x; change (Kept P) _)])
       | (refine ((fun (hx : Kept P x.2) => ?_) ?_) <;> [clear_value x; (revert x; change (Kept P) (Prod.snd _))])
       | (have _ := (x : List _); clear_value x)
       | skip)
    | with_reducible (first
        | apply updReq_inv | apply gwFlushAll_inv | apply done_inv | apply foldl_bind_inv | apply bind_inv | apply ite_snd | apply ite_inv | apply ite_opt
        | apply ite_cmd | apply ite_out | apply findSome_inv | apply each_inv | apply iter_inv | apply foldl_inv | apply foldl_inv2 | apply getD_inv
        | apply elim_inv | apply JudgedInv.mk | apply JudgedInv.take | apply JudgedInv.discard | apply ite_judged | apply OptInv.mk_some
        | apply OptInv.mk_none | apply ExcInv.mk_ok | apply ExcInv.mk_error | apply OutInv.mk_next | apply CmdInv.mk_commit | apply DirInv.mk_sent
        | apply DirRoomInv.mk_freeing)
    | exact Kept.congr ‹Kept P _› rfl | assumption | split | (refine OptInv.of_eq (Q := (Kept P)) ‹_ = some _› ?_) | (refine pair_of_eq ‹_ = (_, _)› ?_)
    | (refine pair_of_eq' ‹_ = (_, _)› ?_) | (refine DirInv.of_eq ‹_ = DirStep.sent _› ?_) | (refine DirRoomInv.of_eq ‹_ = DirRoom.freeing _› ?_)
    | dsimp only

theorem closeGroup_inv (s : State) (g : Group) (h_s : Kept P s) : Kept P (closeGroup s g) := by
  unfold closeGroup
  repeat' first
    | with_reducible (first
        | assumption | intro _)
    | exact True.intro | exact ⟨rfl, rfl⟩
    | with_reducible (first
        | apply updReq_inv | apply foldl_bind_inv | apply bind_inv | apply ite_snd | apply ite_inv | apply ite_opt | apply ite_cmd | apply ite_out
        | apply findSome_inv | apply each_inv | apply iter_inv | apply foldl_inv | apply foldl_inv2 | apply getD_inv | apply elim_inv | apply JudgedInv.mk
        | apply JudgedInv.take | apply JudgedInv.discard | apply ite_judged | apply OptInv.mk_some | apply OptInv.mk_none | apply ExcInv.mk_ok
        | apply ExcInv.mk_error | apply OutInv.mk_next | apply CmdInv.mk_commit | apply DirInv.mk_sent | apply DirRoomInv.mk_freeing)
    | exact Kept.congr ‹Kept P _› rfl | assumption | split | dsimp only

theorem joinGroup_inv (s : State) (r : Req) (joined : Option Group) (h_s : Kept P s) : Kept P (joinGroup s r joined) := by
  unfold joinGroup
  repeat' first
    | with_reducible (first
        | assumption | intro _ | apply updReq_inv | apply closeGroup_inv | apply ite_inv)
    | exact Kept.congr ‹Kept P _› rfl | assumption | split

theorem countLines_inv (s : State) (r : Req) (h_s : Kept P s) : Kept P (countLines s r) := by
  unfold countLines
  repeat' first
    | with_reducible (first
        | assumption | intro _)
    | exact True.intro | exact ⟨rfl, rfl⟩
    | with_reducible (first
        | apply foldl_bind_inv | apply bind_inv | apply ite_snd | apply ite_inv | apply ite_opt | apply ite_cmd | apply ite_out | apply findSome_inv
        | apply each_inv | apply iter_inv | apply foldl_inv | apply foldl_inv2 | apply getD_inv | apply elim_inv | apply JudgedInv.mk | apply JudgedInv.take
        | apply JudgedInv.discard | apply ite_judged | apply OptInv.mk_some | apply OptInv.mk_none | apply ExcInv.mk_ok | apply ExcInv.mk_error
        | apply OutInv.mk_next | apply CmdInv.mk_commit | apply DirInv.mk_sent | apply DirRoomInv.mk_freeing)
    | exact Kept.congr ‹Kept P _› rfl | assumption | split | dsimp only

theorem tallyFlush_inv (hP : Closed P) (s : State) (h : Nat) (line : Nat) (h_s : Kept P s) : Kept P (tallyFlush s h line) := by
  unfold tallyFlush
  repeat' first
    | with_reducible (first
        | assumption | intro _ | apply (flushLine_inv hP) | apply ite_inv)
    | exact Kept.congr ‹Kept P _› rfl | assumption | split

theorem promote_inv (hP : Closed P) (s : State) (r : Req) (off : Nat) (h_s : Kept P s) : Kept P (promote s r off) := by
  unfold promote
  repeat' first
    | with_reducible (first
        | assumption | intro _)
    | exact True.intro | exact ⟨rfl, rfl⟩
    | (extract_lets +onlyGivenNames x
       first
       | (refine ((fun (hx : Kept P x) => ?_) ?_) <;> [clear_value x; (revert x; change (Kept P) _)])
       | (refine ((fun (hx : Kept P x.2) => ?_) ?_) <;> [clear_value x; (revert x; change (Kept P) (Prod.snd _))])
       | (refine ((fun (hx : OptInv (Kept P) x) => ?_) ?_) <;> [clear_value x; (revert x; change OptInv (Kept P) _)])
       | (refine ((fun (hx : CmdInv P x) => ?_) ?_) <;> [clear_value x; (revert x; change (CmdInv P) _)])
       | (have _ := (x : List _); clear_value x)
       | skip)
    | with_reducible (first
        | apply (tallyFlush_inv hP) | apply recallLine_inv | apply foldl_bind_inv | apply bind_inv | apply ite_snd | apply ite_inv | apply ite_opt | apply ite_cmd
        | apply ite_out | apply findSome_inv | apply each_inv | apply iter_inv | apply foldl_inv | apply foldl_inv2 | apply getD_inv | apply elim_inv
        | apply JudgedInv.mk | apply JudgedInv.take | apply JudgedInv.discard | apply ite_judged | apply OptInv.mk_some | apply OptInv.mk_none
        | apply ExcInv.mk_ok | apply ExcInv.mk_error | apply OutInv.mk_next | apply CmdInv.mk_commit | apply DirInv.mk_sent | apply DirRoomInv.mk_freeing)
    | exact Kept.congr ‹Kept P _› rfl | assumption | refine Inv.congr ((tallyFlush_inv hP) _ _ _ ?_ ) rfl | refine Inv.congr (recallLine_inv _ _ _ ?_ ) rfl
    | split | (refine OptInv.of_eq (Q := (Kept P)) ‹_ = some _› ?_) | (refine OptInv.of_eq (Q := (CmdInv P)) ‹_ = some _› ?_) | (refine pair_of_eq ‹_ = (_, _)› ?_)
    | (refine pair_of_eq' ‹_ = (_, _)› ?_) | (refine DirInv.of_eq ‹_ = DirStep.sent _› ?_) | (refine DirRoomInv.of_eq ‹_ = DirRoom.freeing _› ?_)
    | (refine CmdInv.of_eq ‹_ = CmdResult.commit _ _ _ _› ?_) | (refine ExcInv.of_eq ‹_ = Except.ok _› ?_) | dsimp only
    | exact Kept.write hP ‹Kept P _› rfl | exact Kept.cache hP ‹Kept P _› rfl | exact Kept.clear hP ‹Kept P _› rfl
    | exact Kept.clears hP ‹Kept P _› rfl | dsimp +zetaDelta only
    | (refine OptInv.of_eq (Q := fun (t : _ × State) => (Kept P) t.2) ‹_ = some _› ?_)
    | (refine OptInv.of_eq (Q := fun (t : _ × State) => (Kept P) t.2) (t := (_, _)) ‹_ = some (_, _)› ?_)
    | (refine ExcInv.of_eq (Q := fun (t : _ × State) => (Kept P) t.2) (t := (_, _)) ‹_ = Except.ok (_, _)› ?_)

theorem chargeQuota_inv (s : State) (r : Req) (h_s : Kept P s) : Kept P (chargeQuota s r) := by
  unfold chargeQuota
  repeat' first
    | with_reducible (first
        | assumption | intro _ | apply updReq_inv | apply ite_inv)
    | exact Kept.congr ‹Kept P _› rfl | assumption | split

theorem homePoint_inv (s : State) (r : Req) (h_s : Kept P s) : Kept P (homePoint s r).2 := by
  unfold homePoint
  repeat' first
    | with_reducible (first
        | assumption | intro _ | apply meetPoint_inv | apply ite_inv | apply ite_snd)
    | exact Kept.congr ‹Kept P _› rfl | assumption | split

theorem reachHome_inv (hP : Closed P) (s : State) (r : Req) (h_s : Kept P s) : Kept P (reachHome s r) := by
  unfold reachHome
  repeat' first
    | with_reducible (first
        | assumption | intro _)
    | exact True.intro | exact ⟨rfl, rfl⟩
    | (extract_lets +onlyGivenNames x
       first
       | (refine ((fun (hx : Kept P x) => ?_) ?_) <;> [clear_value x; (revert x; change (Kept P) _)])
       | (refine ((fun (hx : Kept P x.2) => ?_) ?_) <;> [clear_value x; (revert x; change (Kept P) (Prod.snd _))])
       | (refine ((fun (hx : OptInv (Kept P) x) => ?_) ?_) <;> [clear_value x; (revert x; change OptInv (Kept P) _)])
       | (refine ((fun (hx : CmdInv P x) => ?_) ?_) <;> [clear_value x; (revert x; change (CmdInv P) _)])
       | (have _ := (x : List _); clear_value x)
       | skip)
    | with_reducible (first
        | apply homePoint_inv | apply finish_inv | apply enterRefusing_inv | apply countLines_inv | apply chargeQuota_inv | apply updReq_inv
        | apply closeGroup_inv | apply joinGroup_inv | apply (promote_inv hP) | apply held_inv | apply foldl_bind_inv | apply bind_inv | apply ite_snd
        | apply ite_inv | apply ite_opt | apply ite_cmd | apply ite_out | apply findSome_inv | apply each_inv | apply iter_inv | apply foldl_inv
        | apply foldl_inv2 | apply getD_inv | apply elim_inv | apply JudgedInv.mk | apply JudgedInv.take | apply JudgedInv.discard | apply ite_judged
        | apply OptInv.mk_some | apply OptInv.mk_none | apply ExcInv.mk_ok | apply ExcInv.mk_error | apply OutInv.mk_next | apply CmdInv.mk_commit
        | apply DirInv.mk_sent | apply DirRoomInv.mk_freeing)
    | exact Kept.congr ‹Kept P _› rfl | assumption | refine Inv.congr (homePoint_inv _ _ ?_ ) rfl | refine Inv.congr (finish_inv _ _ _ _ _ ?_ ) rfl
    | refine Inv.congr (enterRefusing_inv _ _ _ _ _ _ _ _ ?_ ) rfl | refine Inv.congr (countLines_inv _ _ ?_ ) rfl
    | refine Inv.congr (chargeQuota_inv _ _ ?_ ) rfl | refine Inv.congr (updReq_inv _ _ _ ?_ ) rfl | refine Inv.congr (closeGroup_inv _ _ ?_ ) rfl
    | refine Inv.congr (joinGroup_inv _ _ _ ?_ ) rfl | refine Inv.congr ((promote_inv hP) _ _ _ ?_ ) rfl | split
    | (refine OptInv.of_eq (Q := (Kept P)) ‹_ = some _› ?_) | (refine OptInv.of_eq (Q := (CmdInv P)) ‹_ = some _› ?_) | (refine pair_of_eq ‹_ = (_, _)› ?_)
    | (refine pair_of_eq' ‹_ = (_, _)› ?_) | (refine DirInv.of_eq ‹_ = DirStep.sent _› ?_) | (refine DirRoomInv.of_eq ‹_ = DirRoom.freeing _› ?_)
    | (refine CmdInv.of_eq ‹_ = CmdResult.commit _ _ _ _› ?_) | (refine ExcInv.of_eq ‹_ = Except.ok _› ?_) | dsimp only | apply homePoint_inv
    | apply finish_inv | apply enterRefusing_inv | apply countLines_inv | apply chargeQuota_inv | apply updReq_inv | apply closeGroup_inv
    | apply joinGroup_inv | apply (promote_inv hP) | apply held_inv | exact Kept.write hP ‹Kept P _› rfl | exact Kept.cache hP ‹Kept P _› rfl
    | exact Kept.clear hP ‹Kept P _› rfl
    | exact Kept.clears hP ‹Kept P _› rfl | dsimp +zetaDelta only
    | (refine OptInv.of_eq (Q := fun (t : _ × State) => (Kept P) t.2) ‹_ = some _› ?_)
    | (refine OptInv.of_eq (Q := fun (t : _ × State) => (Kept P) t.2) (t := (_, _)) ‹_ = some (_, _)› ?_)
    | (refine ExcInv.of_eq (Q := fun (t : _ × State) => (Kept P) t.2) (t := (_, _)) ‹_ = Except.ok (_, _)› ?_)

theorem advance_inv (hP : Closed P) (s : State) (r : Req) (h_s : Kept P s) : OptInv (Kept P) (advance s r) := by
  unfold advance
  repeat' first
    | with_reducible (first
        | assumption | intro _)
    | exact True.intro | exact ⟨rfl, rfl⟩
    | with_reducible (first
        | apply finish_inv | apply (reachHome_inv hP) | apply finishCrew_inv | apply updReq_inv | apply serveFence_inv | apply doOffer_inv | apply doAccept_inv
        | apply doConfirm_inv | apply (doPublish_inv hP) | apply (serveExpanded_inv hP) | apply (serveLine_inv hP) | apply bad_inv | apply foldl_bind_inv | apply bind_inv
        | apply ite_snd | apply ite_inv | apply ite_opt | apply ite_cmd | apply ite_out | apply findSome_inv | apply each_inv | apply iter_inv
        | apply foldl_inv | apply foldl_inv2 | apply getD_inv | apply elim_inv | apply JudgedInv.mk | apply JudgedInv.take | apply JudgedInv.discard
        | apply ite_judged | apply OptInv.mk_some | apply OptInv.mk_none | apply ExcInv.mk_ok | apply ExcInv.mk_error | apply OutInv.mk_next
        | apply CmdInv.mk_commit | apply DirInv.mk_sent | apply DirRoomInv.mk_freeing)
    | exact Kept.congr ‹Kept P _› rfl | assumption | split | dsimp only

theorem beginReq_inv (hP : Closed P) (s : State) (r : Req) (h_s : Kept P s) : Kept P (beginReq s r) := by
  unfold beginReq
  repeat' first
    | with_reducible (first
        | assumption | intro _)
    | exact True.intro | exact ⟨rfl, rfl⟩
    | (extract_lets +onlyGivenNames x
       first
       | (refine ((fun (hx : Kept P x) => ?_) ?_) <;> [clear_value x; (revert x; change (Kept P) _)])
       | (refine ((fun (hx : Kept P x.2) => ?_) ?_) <;> [clear_value x; (revert x; change (Kept P) (Prod.snd _))])
       | (have _ := (x : List _); clear_value x)
       | skip)
    | with_reducible (first
        | apply leaveBuffer_inv | apply updReq_inv | apply (reachHome_inv hP) | apply foldl_bind_inv | apply bind_inv | apply ite_snd | apply ite_inv
        | apply ite_opt | apply ite_cmd | apply ite_out | apply findSome_inv | apply each_inv | apply iter_inv | apply foldl_inv | apply foldl_inv2
        | apply getD_inv | apply elim_inv | apply JudgedInv.mk | apply JudgedInv.take | apply JudgedInv.discard | apply ite_judged | apply OptInv.mk_some
        | apply OptInv.mk_none | apply ExcInv.mk_ok | apply ExcInv.mk_error | apply OutInv.mk_next | apply CmdInv.mk_commit | apply DirInv.mk_sent
        | apply DirRoomInv.mk_freeing)
    | exact Kept.congr ‹Kept P _› rfl | assumption | split | (refine OptInv.of_eq (Q := (Kept P)) ‹_ = some _› ?_) | (refine pair_of_eq ‹_ = (_, _)› ?_)
    | (refine pair_of_eq' ‹_ = (_, _)› ?_) | (refine DirInv.of_eq ‹_ = DirStep.sent _› ?_) | (refine DirRoomInv.of_eq ‹_ = DirRoom.freeing _› ?_)
    | dsimp only

theorem beginNext_inv (hP : Closed P) (s : State) (q : Nat) (h_s : Kept P s) : OptInv (Kept P) (beginNext s q) := by
  unfold beginNext
  repeat' first
    | with_reducible (first
        | assumption | intro _)
    | exact True.intro | exact ⟨rfl, rfl⟩
    | with_reducible (first
        | apply (beginReq_inv hP) | apply granted_inv | apply crossCells_inv | apply foldl_bind_inv | apply bind_inv | apply ite_snd | apply ite_inv
        | apply ite_opt | apply ite_cmd | apply ite_out | apply findSome_inv | apply each_inv | apply iter_inv | apply foldl_inv | apply foldl_inv2
        | apply getD_inv | apply elim_inv | apply JudgedInv.mk | apply JudgedInv.take | apply JudgedInv.discard | apply ite_judged | apply OptInv.mk_some
        | apply OptInv.mk_none | apply ExcInv.mk_ok | apply ExcInv.mk_error | apply OutInv.mk_next | apply CmdInv.mk_commit | apply DirInv.mk_sent
        | apply DirRoomInv.mk_freeing)
    | exact Kept.congr ‹Kept P _› rfl | assumption | split | dsimp only

theorem progress_inv (hP : Closed P) (s : State) (h_s : Kept P s) : OptInv (Kept P) (progress s) := by
  unfold progress
  repeat' first
    | with_reducible (first
        | assumption | intro _)
    | exact True.intro | exact ⟨rfl, rfl⟩
    | (extract_lets +onlyGivenNames x
       first
       | (refine ((fun (hx : Kept P x) => ?_) ?_) <;> [clear_value x; (revert x; change (Kept P) _)])
       | (refine ((fun (hx : Kept P x.2) => ?_) ?_) <;> [clear_value x; (revert x; change (Kept P) (Prod.snd _))])
       | (have _ := (x : List _); clear_value x)
       | skip)
    | with_reducible (first
        | apply (advance_inv hP) | apply (beginNext_inv hP) | apply foldl_bind_inv | apply bind_inv | apply ite_snd | apply ite_inv | apply ite_opt | apply ite_cmd
        | apply ite_out | apply findSome_inv | apply each_inv | apply iter_inv | apply foldl_inv | apply foldl_inv2 | apply getD_inv | apply elim_inv
        | apply JudgedInv.mk | apply JudgedInv.take | apply JudgedInv.discard | apply ite_judged | apply OptInv.mk_some | apply OptInv.mk_none
        | apply ExcInv.mk_ok | apply ExcInv.mk_error | apply OutInv.mk_next | apply CmdInv.mk_commit | apply DirInv.mk_sent | apply DirRoomInv.mk_freeing)
    | exact Kept.congr ‹Kept P _› rfl | assumption | split | (refine OptInv.of_eq (Q := (Kept P)) ‹_ = some _› ?_) | (refine pair_of_eq ‹_ = (_, _)› ?_)
    | (refine pair_of_eq' ‹_ = (_, _)› ?_) | (refine DirInv.of_eq ‹_ = DirStep.sent _› ?_) | (refine DirRoomInv.of_eq ‹_ = DirRoom.freeing _› ?_)
    | dsimp only

theorem settleN_inv (hP : Closed P) (a0 : Nat) (s : State) (h_s : Kept P s) : Kept P (settleN a0 s) := by
  induction a0 generalizing s with
  | zero => exact h_s
  | succ n ih =>
    unfold settleN
    split
    · exact ih _ (OptInv.of_eq (Q := (Kept P)) ‹_ = some _› ((progress_inv hP) _ h_s))
    · exact h_s

theorem refreshAged_inv (s : State) (h_s : Kept P s) : Kept P (refreshAged s) := by
  unfold refreshAged
  repeat' first
    | with_reducible (first
        | assumption | intro _ | apply ite_inv)
    | exact Kept.congr ‹Kept P _› rfl | assumption | split

theorem settle_inv (hP : Closed P) (s : State) (h_s : Kept P s) : Kept P (settle s) := by
  unfold settle
  repeat' first
    | with_reducible (first
        | assumption | intro _ | apply refreshAged_inv | apply (settleN_inv hP) | apply ite_inv)
    | exact Kept.congr ‹Kept P _› rfl | assumption | split

theorem absorbPart_inv (hP : Closed P) (s : State) (t : Tally) (r : Req) (g : Region) (h_s : Kept P s) : OptInv (Kept P) (absorbPart s t r g) := by
  unfold absorbPart
  repeat' first
    | with_reducible (first
        | assumption | intro _ | apply (serveExpanded_inv hP) | apply (serveLine_inv hP) | apply ite_inv | apply OptInv.mk_some | apply OptInv.mk_none | apply ite_opt)
    | exact Kept.congr ‹Kept P _› rfl | assumption | split

theorem absorbOne_inv (hP : Closed P) (s : State) (t : Tally) (h_s : Kept P s) : OptInv (fun (t : Nat × State) => (Kept P) (t).2) (absorbOne s t) := by
  unfold absorbOne
  repeat' first
    | with_reducible (first
        | assumption | intro _)
    | exact True.intro | exact ⟨rfl, rfl⟩
    | (extract_lets +onlyGivenNames x
       first
       | (refine ((fun (hx : Kept P x) => ?_) ?_) <;> [clear_value x; (revert x; change (Kept P) _)])
       | (refine ((fun (hx : Kept P x.2) => ?_) ?_) <;> [clear_value x; (revert x; change (Kept P) (Prod.snd _))])
       | (have _ := (x : List _); clear_value x)
       | skip)
    | with_reducible (first
        | apply finish_inv | apply (absorbPart_inv hP) | apply updReq_inv | apply foldl_bind_inv | apply bind_inv | apply ite_snd | apply ite_inv | apply ite_opt
        | apply ite_cmd | apply ite_out | apply findSome_inv | apply each_inv | apply iter_inv | apply foldl_inv | apply foldl_inv2 | apply getD_inv
        | apply elim_inv | apply JudgedInv.mk | apply JudgedInv.take | apply JudgedInv.discard | apply ite_judged | apply OptInv.mk_some
        | apply OptInv.mk_none | apply ExcInv.mk_ok | apply ExcInv.mk_error | apply OutInv.mk_next | apply CmdInv.mk_commit | apply DirInv.mk_sent
        | apply DirRoomInv.mk_freeing)
    | exact Kept.congr ‹Kept P _› rfl | assumption | split | (refine OptInv.of_eq (Q := (Kept P)) ‹_ = some _› ?_) | (refine pair_of_eq ‹_ = (_, _)› ?_)
    | (refine pair_of_eq' ‹_ = (_, _)› ?_) | (refine DirInv.of_eq ‹_ = DirStep.sent _› ?_) | (refine DirRoomInv.of_eq ‹_ = DirRoom.freeing _› ?_)
    | dsimp only

theorem countAbsorbed_inv (hP : Closed P) (s : State) (t : Tally) (opc : Nat) (h_s : Kept P s) : Kept P (countAbsorbed s t opc) := by
  unfold countAbsorbed
  repeat' first
    | with_reducible (first
        | assumption | intro _ | apply freeTallies_inv | apply (tallyFlush_inv hP) | apply ite_inv)
    | exact Kept.congr ‹Kept P _› rfl | assumption | split

theorem absorbLoads_inv (hP : Closed P) (a0 : Nat) (s : State) (t : Tally) (h_s : Kept P s) : Kept P (absorbLoads a0 s t) := by
  induction a0 generalizing s with
  | zero => exact h_s
  | succ n ih =>
    have h := (absorbOne_inv hP) s t h_s
    unfold absorbLoads
    split
    · split
      · split
        · rename_i e
          rw [e] at h
          split
          · exact h
          · exact ih _ ((countAbsorbed_inv hP) _ _ _ h)
        · exact h_s
      · exact h_s
    · exact h_s

theorem absorb_inv (hP : Closed P) (s : State) (t : Tally) (h_s : Kept P s) : Kept P (absorb s t) := by
  unfold absorb
  repeat' first
    | with_reducible (first
        | assumption | intro _)
    | exact True.intro | exact ⟨rfl, rfl⟩
    | (extract_lets +onlyGivenNames x
       first
       | (refine ((fun (hx : Kept P x) => ?_) ?_) <;> [clear_value x; (revert x; change (Kept P) _)])
       | (refine ((fun (hx : Kept P x.2) => ?_) ?_) <;> [clear_value x; (revert x; change (Kept P) (Prod.snd _))])
       | (refine ((fun (hx : OptInv (Kept P) x) => ?_) ?_) <;> [clear_value x; (revert x; change OptInv (Kept P) _)])
       | (refine ((fun (hx : CmdInv P x) => ?_) ?_) <;> [clear_value x; (revert x; change (CmdInv P) _)])
       | (have _ := (x : List _); clear_value x)
       | skip)
    | with_reducible (first
        | apply (absorbLoads_inv hP) | apply (absorbOne_inv hP) | apply (countAbsorbed_inv hP) | apply foldl_bind_inv | apply bind_inv | apply ite_snd | apply ite_inv
        | apply ite_opt | apply ite_cmd | apply ite_out | apply findSome_inv | apply each_inv | apply iter_inv | apply foldl_inv | apply foldl_inv2
        | apply getD_inv | apply elim_inv | apply JudgedInv.mk | apply JudgedInv.take | apply JudgedInv.discard | apply ite_judged | apply OptInv.mk_some
        | apply OptInv.mk_none | apply ExcInv.mk_ok | apply ExcInv.mk_error | apply OutInv.mk_next | apply CmdInv.mk_commit | apply DirInv.mk_sent
        | apply DirRoomInv.mk_freeing)
    | exact Kept.congr ‹Kept P _› rfl | assumption | refine Inv.congr ((absorbLoads_inv hP) _ _ _ ?_ ) rfl | refine Inv.congr ((countAbsorbed_inv hP) _ _ _ ?_ ) rfl
    | split | (refine OptInv.of_eq (Q := (Kept P)) ‹_ = some _› ?_) | (refine OptInv.of_eq (Q := (CmdInv P)) ‹_ = some _› ?_) | (refine pair_of_eq ‹_ = (_, _)› ?_)
    | (refine pair_of_eq' ‹_ = (_, _)› ?_) | (refine DirInv.of_eq ‹_ = DirStep.sent _› ?_) | (refine DirRoomInv.of_eq ‹_ = DirRoom.freeing _› ?_)
    | (refine CmdInv.of_eq ‹_ = CmdResult.commit _ _ _ _› ?_) | (refine ExcInv.of_eq ‹_ = Except.ok _› ?_) | dsimp only
    | exact Kept.write hP ‹Kept P _› rfl | exact Kept.cache hP ‹Kept P _› rfl | exact Kept.clear hP ‹Kept P _› rfl
    | exact Kept.clears hP ‹Kept P _› rfl | dsimp +zetaDelta only
    | (refine OptInv.of_eq (Q := fun (t : _ × State) => (Kept P) t.2) ‹_ = some _› ?_)
    | (refine OptInv.of_eq (Q := fun (t : _ × State) => (Kept P) t.2) (t := (_, _)) ‹_ = some (_, _)› ?_)
    | (refine ExcInv.of_eq (Q := fun (t : _ × State) => (Kept P) t.2) (t := (_, _)) ‹_ = Except.ok (_, _)› ?_)

end Sys2Proof.Machine
end

