-- ==== Sys2Proof/Laws/KeepsAccess.lean ====
section
/-! SUPPORT. Arriving requests, sheaves, responses, timed rows and the tiers keep every property of the view that memory operations keep: one lemma for each function, citing those of the
functions it calls. A function that does not write memory keeps every property of the view: its lemma asks nothing of the property. -/

namespace Sys2Proof.Machine

set_option linter.all false

variable {P : View → Prop}

/-! ### Arrive -/

theorem policeDrop_inv (s : State) (q : Nat) (stall : Nat) (svc : Nat) (h_s : Kept P s) : Kept P (policeDrop s q stall svc) := by
  unfold policeDrop
  repeat' first
    | with_reducible (first
        | assumption | intro _ | apply record_inv | apply ite_inv)
    | exact Kept.congr ‹Kept P _› rfl | assumption | split

theorem policer_inv (s : State) (q : Nat) (h : ReqHdr) (c : Nat) (h_s : Kept P s) : Kept P (policer s q h c).2 := by
  unfold policer
  repeat' first
    | with_reducible (first
        | assumption | intro _ | apply policeDrop_inv | apply ite_inv | apply ite_snd)
    | exact Kept.congr ‹Kept P _› rfl | assumption | split

theorem homeRefuse_inv (s : State) (r : Req) (status : Nat) (detail : Nat) (retry : Nat) (h_s : Kept P s) : Kept P (homeRefuse s r status detail retry) := by
  unfold homeRefuse
  repeat' first
    | with_reducible (first
        | assumption | intro _ | apply respond_inv | apply ite_inv)
    | exact Kept.congr ‹Kept P _› rfl | assumption | split

theorem admitReq_inv (hP : Closed P) (s : State) (r : Req) (g : Region) (h_s : Kept P s) : Kept P (admitReq s r g) := by
  unfold admitReq
  repeat' first
    | with_reducible (first
        | assumption | intro _)
    | exact True.intro | exact ⟨rfl, rfl⟩
    | (extract_lets +onlyGivenNames x
       first
       | (refine ((fun (hx : Kept P x) => ?_) ?_) <;> [clear_value x; (revert x; change (Kept P) _)])
       | (refine ((fun (hx : Kept P x.2) => ?_) ?_) <;> [clear_value x; (revert x; change (Kept P) (Prod.snd _))])
       | (have _ := (x : List _); clear_value x)
       | skip)
    | with_reducible (first
        | apply poolTake_inv | apply updPort_inv | apply (settle_inv hP) | apply updReq_inv | apply foldl_bind_inv | apply bind_inv | apply ite_snd | apply ite_inv
        | apply ite_opt | apply ite_cmd | apply ite_out | apply findSome_inv | apply each_inv | apply iter_inv | apply foldl_inv | apply foldl_inv2
        | apply getD_inv | apply elim_inv | apply JudgedInv.mk | apply JudgedInv.take | apply JudgedInv.discard | apply ite_judged | apply OptInv.mk_some
        | apply OptInv.mk_none | apply ExcInv.mk_ok | apply ExcInv.mk_error | apply OutInv.mk_next | apply CmdInv.mk_commit | apply DirInv.mk_sent
        | apply DirRoomInv.mk_freeing)
    | exact Kept.congr ‹Kept P _› rfl | assumption | split | (refine OptInv.of_eq (Q := (Kept P)) ‹_ = some _› ?_) | (refine pair_of_eq ‹_ = (_, _)› ?_)
    | (refine pair_of_eq' ‹_ = (_, _)› ?_) | (refine DirInv.of_eq ‹_ = DirStep.sent _› ?_) | (refine DirRoomInv.of_eq ‹_ = DirRoom.freeing _› ?_)
    | dsimp only

theorem takeAtHome_inv (hP : Closed P) (s : State) (r : Req) (g : Region) (h_s : Kept P s) : Kept P (takeAtHome s r g) := by
  unfold takeAtHome
  repeat' first
    | with_reducible (first
        | assumption | intro _)
    | exact True.intro | exact ⟨rfl, rfl⟩
    | (extract_lets +onlyGivenNames x
       first
       | (refine ((fun (hx : Kept P x) => ?_) ?_) <;> [clear_value x; (revert x; change (Kept P) _)])
       | (refine ((fun (hx : Kept P x.2) => ?_) ?_) <;> [clear_value x; (revert x; change (Kept P) (Prod.snd _))])
       | (refine ((fun (hx : OptInv (Kept P) x) => ?_) ?_) <;> [clear_value x; (revert x; change OptInv (Kept P) _)])
       | (refine ((fun (hx : CmdInv P x) => ?_) ?_) <;> [clear_value x; (revert x; change (CmdInv P) _)])
       | (have _ := (x : List _); clear_value x)
       | skip)
    | with_reducible (first
        | apply homeRefuse_inv | apply ecxFail_inv | apply (admitReq_inv hP) | apply foldl_bind_inv | apply bind_inv | apply ite_snd | apply ite_inv
        | apply ite_opt | apply ite_cmd | apply ite_out | apply findSome_inv | apply each_inv | apply iter_inv | apply foldl_inv | apply foldl_inv2
        | apply getD_inv | apply elim_inv | apply JudgedInv.mk | apply JudgedInv.take | apply JudgedInv.discard | apply ite_judged | apply OptInv.mk_some
        | apply OptInv.mk_none | apply ExcInv.mk_ok | apply ExcInv.mk_error | apply OutInv.mk_next | apply CmdInv.mk_commit | apply DirInv.mk_sent
        | apply DirRoomInv.mk_freeing)
    | exact Kept.congr ‹Kept P _› rfl | assumption | refine Inv.congr (homeRefuse_inv _ _ _ _ _ ?_ ) rfl
    | refine Inv.congr (ecxFail_inv _ _ _ _ _ _ _ _ _ _ ?_ ) rfl | refine Inv.congr ((admitReq_inv hP) _ _ _ ?_ ) rfl | split
    | (refine OptInv.of_eq (Q := (Kept P)) ‹_ = some _› ?_) | (refine OptInv.of_eq (Q := (CmdInv P)) ‹_ = some _› ?_) | (refine pair_of_eq ‹_ = (_, _)› ?_)
    | (refine pair_of_eq' ‹_ = (_, _)› ?_) | (refine DirInv.of_eq ‹_ = DirStep.sent _› ?_) | (refine DirRoomInv.of_eq ‹_ = DirRoom.freeing _› ?_)
    | (refine CmdInv.of_eq ‹_ = CmdResult.commit _ _ _ _› ?_) | (refine ExcInv.of_eq ‹_ = Except.ok _› ?_) | dsimp only
    | exact Kept.write hP ‹Kept P _› rfl | exact Kept.cache hP ‹Kept P _› rfl | exact Kept.clear hP ‹Kept P _› rfl
    | exact Kept.clears hP ‹Kept P _› rfl | dsimp +zetaDelta only
    | (refine OptInv.of_eq (Q := fun (t : _ × State) => (Kept P) t.2) ‹_ = some _› ?_)
    | (refine OptInv.of_eq (Q := fun (t : _ × State) => (Kept P) t.2) (t := (_, _)) ‹_ = some (_, _)› ?_)
    | (refine ExcInv.of_eq (Q := fun (t : _ × State) => (Kept P) t.2) (t := (_, _)) ‹_ = Except.ok (_, _)› ?_)

theorem bufferRecord_inv (s : State) (p : Nat) (stall : Nat) (tc : Nat) (h_s : Kept P s) : Kept P (bufferRecord s p stall tc) := by
  unfold bufferRecord
  repeat' first
    | with_reducible (first
        | assumption | intro _ | apply record_inv | apply ite_inv)
    | exact Kept.congr ‹Kept P _› rfl | assumption | split

theorem stepFour_inv (s : State) (r : Req) (home : Nat) (comp : Nat) (h_s : Kept P s) : OptInv (Kept P) (stepFour s r home comp) := by
  unfold stepFour
  repeat' first
    | with_reducible (first
        | assumption | intro _ | apply bufferRecord_inv | apply enterRefusing_inv | apply refuse_inv | apply meterRefused_inv | apply ite_inv
        | apply OptInv.mk_some | apply OptInv.mk_none | apply ite_opt)
    | exact Kept.congr ‹Kept P _› rfl | assumption | split

theorem atHome_inv (hP : Closed P) (s : State) (r : Req) (comp : Nat) (h_s : Kept P s) : Kept P (atHome s r comp) := by
  unfold atHome
  repeat' first
    | with_reducible (first
        | assumption | intro _)
    | exact True.intro | exact ⟨rfl, rfl⟩
    | (extract_lets +onlyGivenNames x
       first
       | (refine ((fun (hx : Kept P x) => ?_) ?_) <;> [clear_value x; (revert x; change (Kept P) _)])
       | (refine ((fun (hx : Kept P x.2) => ?_) ?_) <;> [clear_value x; (revert x; change (Kept P) (Prod.snd _))])
       | (have _ := (x : List _); clear_value x)
       | skip)
    | with_reducible (first
        | apply homeRefuse_inv | apply meterRefused_inv | apply stepFour_inv | apply (takeAtHome_inv hP) | apply foldl_bind_inv | apply bind_inv | apply ite_snd
        | apply ite_inv | apply ite_opt | apply ite_cmd | apply ite_out | apply findSome_inv | apply each_inv | apply iter_inv | apply foldl_inv
        | apply foldl_inv2 | apply getD_inv | apply elim_inv | apply JudgedInv.mk | apply JudgedInv.take | apply JudgedInv.discard | apply ite_judged
        | apply OptInv.mk_some | apply OptInv.mk_none | apply ExcInv.mk_ok | apply ExcInv.mk_error | apply OutInv.mk_next | apply CmdInv.mk_commit
        | apply DirInv.mk_sent | apply DirRoomInv.mk_freeing)
    | exact Kept.congr ‹Kept P _› rfl | assumption | split | (refine OptInv.of_eq (Q := (Kept P)) ‹_ = some _› ?_) | (refine pair_of_eq ‹_ = (_, _)› ?_)
    | (refine pair_of_eq' ‹_ = (_, _)› ?_) | (refine DirInv.of_eq ‹_ = DirStep.sent _› ?_) | (refine DirRoomInv.of_eq ‹_ = DirRoom.freeing _› ?_)
    | dsimp only

theorem relay_inv (s : State) (r : Req) (home : Nat) (comp : Nat) (prev : Bool) (h_s : Kept P s) : Kept P (relay s r home comp prev) := by
  unfold relay
  repeat' first
    | with_reducible (first
        | assumption | intro _ | apply homeRefuse_inv | apply send_inv | apply refuse_inv | apply ite_inv)
    | exact Kept.congr ‹Kept P _› rfl | assumption | split

theorem route_inv (hP : Closed P) (s : State) (r : Req) (hop : Bool) (h_s : Kept P s) : Kept P (route s r hop) := by
  unfold route
  repeat' first
    | with_reducible (first
        | assumption | intro _)
    | exact True.intro | exact ⟨rfl, rfl⟩
    | with_reducible (first
        | apply homeRefuse_inv | apply meterRefused_inv | apply stepFour_inv | apply relay_inv | apply (atHome_inv hP) | apply foldl_bind_inv | apply bind_inv
        | apply ite_snd | apply ite_inv | apply ite_opt | apply ite_cmd | apply ite_out | apply findSome_inv | apply each_inv | apply iter_inv
        | apply foldl_inv | apply foldl_inv2 | apply getD_inv | apply elim_inv | apply JudgedInv.mk | apply JudgedInv.take | apply JudgedInv.discard
        | apply ite_judged | apply OptInv.mk_some | apply OptInv.mk_none | apply ExcInv.mk_ok | apply ExcInv.mk_error | apply OutInv.mk_next
        | apply CmdInv.mk_commit | apply DirInv.mk_sent | apply DirRoomInv.mk_freeing)
    | exact Kept.congr ‹Kept P _› rfl | assumption | split | dsimp only

theorem pastHeader_inv (hP : Closed P) (s : State) (p : Nat) (opc : Nat) (h : ReqHdr) (d : List Byte) (r : Req) (h_s : Kept P s) : Kept P (pastHeader s p opc h d r) := by
  unfold pastHeader
  repeat' first
    | with_reducible (first
        | assumption | intro _ | apply meetPoint_inv | apply refuse_inv | apply meterRefused_inv | apply enterRefusing_inv | apply policer_inv
        | apply (route_inv hP) | apply held_inv | apply ite_inv)
    | exact Kept.congr ‹Kept P _› rfl | assumption | split

theorem takeShadowPage_inv (hP : Closed P) (s : State) (h : ReqHdr) (d : List Byte) (h_s : Kept P s) : Kept P (takeShadowPage s h d) := by
  unfold takeShadowPage
  repeat' first
    | with_reducible (first
        | assumption | intro _)
    | exact True.intro | exact ⟨rfl, rfl⟩
    | (extract_lets +onlyGivenNames x
       first
       | (refine ((fun (hx : Kept P x) => ?_) ?_) <;> [clear_value x; (revert x; change (Kept P) _)])
       | (refine ((fun (hx : Kept P x.2) => ?_) ?_) <;> [clear_value x; (revert x; change (Kept P) (Prod.snd _))])
       | (refine ((fun (hx : OptInv (Kept P) x) => ?_) ?_) <;> [clear_value x; (revert x; change OptInv (Kept P) _)])
       | (refine ((fun (hx : CmdInv P x) => ?_) ?_) <;> [clear_value x; (revert x; change (CmdInv P) _)])
       | (have _ := (x : List _); clear_value x)
       | skip)
    | with_reducible (first
        | apply foldl_bind_inv | apply bind_inv | apply ite_snd | apply ite_inv | apply ite_opt | apply ite_cmd | apply ite_out | apply findSome_inv
        | apply each_inv | apply iter_inv | apply foldl_inv | apply foldl_inv2 | apply getD_inv | apply elim_inv | apply JudgedInv.mk | apply JudgedInv.take
        | apply JudgedInv.discard | apply ite_judged | apply OptInv.mk_some | apply OptInv.mk_none | apply ExcInv.mk_ok | apply ExcInv.mk_error
        | apply OutInv.mk_next | apply CmdInv.mk_commit | apply DirInv.mk_sent | apply DirRoomInv.mk_freeing)
    | exact Kept.congr ‹Kept P _› rfl | assumption | split | (refine OptInv.of_eq (Q := (Kept P)) ‹_ = some _› ?_)
    | (refine OptInv.of_eq (Q := (CmdInv P)) ‹_ = some _› ?_) | (refine pair_of_eq ‹_ = (_, _)› ?_) | (refine pair_of_eq' ‹_ = (_, _)› ?_)
    | (refine DirInv.of_eq ‹_ = DirStep.sent _› ?_) | (refine DirRoomInv.of_eq ‹_ = DirRoom.freeing _› ?_)
    | (refine CmdInv.of_eq ‹_ = CmdResult.commit _ _ _ _› ?_) | (refine ExcInv.of_eq ‹_ = Except.ok _› ?_) | dsimp only
    | exact Kept.write hP ‹Kept P _› rfl | exact Kept.cache hP ‹Kept P _› rfl | exact Kept.clear hP ‹Kept P _› rfl
    | exact Kept.clears hP ‹Kept P _› rfl | dsimp +zetaDelta only
    | (refine OptInv.of_eq (Q := fun (t : _ × State) => (Kept P) t.2) ‹_ = some _› ?_)
    | (refine OptInv.of_eq (Q := fun (t : _ × State) => (Kept P) t.2) (t := (_, _)) ‹_ = some (_, _)› ?_)
    | (refine ExcInv.of_eq (Q := fun (t : _ × State) => (Kept P) t.2) (t := (_, _)) ‹_ = Except.ok (_, _)› ?_)

theorem trackMove_inv (s : State) (dev : Nat) (h : ReqHdr) (h_s : Kept P s) : Kept P (trackMove s dev h) := by
  unfold trackMove
  repeat' first
    | with_reducible (first
        | assumption | intro _ | apply updRegion_inv | apply ite_inv)
    | exact Kept.congr ‹Kept P _› rfl | assumption | split

set_option maxHeartbeats 2000000 in
theorem arrive_inv (hP : Closed P) (s : State) (p : Nat) (opc : Nat) (h : ReqHdr) (d : List Byte) (h_s : Kept P s) : Kept P (arrive s p opc h d) := by
  unfold arrive
  repeat' first
    | with_reducible (first
        | assumption | intro _)
    | exact True.intro | exact ⟨rfl, rfl⟩
    | (extract_lets +onlyGivenNames x
       first
       | (refine ((fun (hx : Kept P x) => ?_) ?_) <;> [clear_value x; (revert x; change (Kept P) _)])
       | (refine ((fun (hx : Kept P x.2) => ?_) ?_) <;> [clear_value x; (revert x; change (Kept P) (Prod.snd _))])
       | (refine ((fun (hx : OptInv (Kept P) x) => ?_) ?_) <;> [clear_value x; (revert x; change OptInv (Kept P) _)])
       | (refine ((fun (hx : CmdInv P x) => ?_) ?_) <;> [clear_value x; (revert x; change (CmdInv P) _)])
       | (have _ := (x : List _); clear_value x)
       | skip)
    | with_reducible (first
        | apply discardMessage_inv | apply refuse_inv | apply (takeShadowPage_inv hP) | apply (admitReq_inv hP) | apply trackMove_inv | apply (atHome_inv hP)
        | apply (pastHeader_inv hP) | apply foldl_bind_inv | apply bind_inv | apply ite_snd | apply ite_inv | apply ite_opt | apply ite_cmd | apply ite_out
        | apply findSome_inv | apply each_inv | apply iter_inv | apply foldl_inv | apply foldl_inv2 | apply getD_inv | apply elim_inv | apply JudgedInv.mk
        | apply JudgedInv.take | apply JudgedInv.discard | apply ite_judged | apply OptInv.mk_some | apply OptInv.mk_none | apply ExcInv.mk_ok
        | apply ExcInv.mk_error | apply OutInv.mk_next | apply CmdInv.mk_commit | apply DirInv.mk_sent | apply DirRoomInv.mk_freeing)
    | exact Kept.congr ‹Kept P _› rfl | assumption | refine Inv.congr (discardMessage_inv _ _ _ _ _ ?_ ) rfl
    | refine Inv.congr (refuse_inv _ _ _ _ _ _ _ ?_ ) rfl | refine Inv.congr ((takeShadowPage_inv hP) _ _ _ ?_ ) rfl
    | refine Inv.congr ((admitReq_inv hP) _ _ _ ?_ ) rfl | refine Inv.congr (trackMove_inv _ _ _ ?_ ) rfl | refine Inv.congr ((atHome_inv hP) _ _ _ ?_ ) rfl
    | refine Inv.congr ((pastHeader_inv hP) _ _ _ _ _ _ ?_ ) rfl | split | (refine OptInv.of_eq (Q := (Kept P)) ‹_ = some _› ?_)
    | (refine OptInv.of_eq (Q := (CmdInv P)) ‹_ = some _› ?_) | (refine pair_of_eq ‹_ = (_, _)› ?_) | (refine pair_of_eq' ‹_ = (_, _)› ?_)
    | (refine DirInv.of_eq ‹_ = DirStep.sent _› ?_) | (refine DirRoomInv.of_eq ‹_ = DirRoom.freeing _› ?_)
    | (refine CmdInv.of_eq ‹_ = CmdResult.commit _ _ _ _› ?_) | (refine ExcInv.of_eq ‹_ = Except.ok _› ?_) | dsimp only
    | exact Kept.write hP ‹Kept P _› rfl | exact Kept.cache hP ‹Kept P _› rfl | exact Kept.clear hP ‹Kept P _› rfl
    | exact Kept.clears hP ‹Kept P _› rfl | dsimp +zetaDelta only
    | (refine OptInv.of_eq (Q := fun (t : _ × State) => (Kept P) t.2) ‹_ = some _› ?_)
    | (refine OptInv.of_eq (Q := fun (t : _ × State) => (Kept P) t.2) (t := (_, _)) ‹_ = some (_, _)› ?_)
    | (refine ExcInv.of_eq (Q := fun (t : _ × State) => (Kept P) t.2) (t := (_, _)) ‹_ = Except.ok (_, _)› ?_)

theorem submit_inv (hP : Closed P) (s : State) (use : AccUse) (opc : Nat) (h : ReqHdr) (d : List Byte) (h_s : Kept P s) : Kept P (submit s use opc h d).2 := by
  unfold submit
  repeat' first
    | with_reducible (first
        | assumption | intro _ | apply (route_inv hP) | apply ite_inv | apply ite_snd)
    | exact Kept.congr ‹Kept P _› rfl | assumption | split

theorem takeAnswer_inv (s : State) (acc : Nat) (h_s : Kept P s) : Kept P (takeAnswer s acc).2 := by
  unfold takeAnswer
  repeat' first
    | with_reducible (first
        | assumption | intro _ | apply ite_inv | apply ite_snd | apply OptInv.mk_some | apply OptInv.mk_none | apply ite_opt)
    | exact Kept.congr ‹Kept P _› rfl | assumption | split

/-! ### Sheaf -/

theorem getPage_inv (hP : Closed P) (s : State) (g : Region) (page : Nat) (h_s : Kept P s) : Kept P (getPage s g page).2 := by
  unfold getPage
  repeat' first
    | with_reducible (first
        | assumption | intro _)
    | exact True.intro | exact ⟨rfl, rfl⟩
    | with_reducible (first
        | apply (startFill_inv hP) | apply foldl_bind_inv | apply bind_inv | apply ite_snd | apply ite_inv | apply ite_opt | apply ite_cmd | apply ite_out
        | apply findSome_inv | apply each_inv | apply iter_inv | apply foldl_inv | apply foldl_inv2 | apply getD_inv | apply elim_inv | apply JudgedInv.mk
        | apply JudgedInv.take | apply JudgedInv.discard | apply ite_judged | apply OptInv.mk_some | apply OptInv.mk_none | apply ExcInv.mk_ok
        | apply ExcInv.mk_error | apply OutInv.mk_next | apply CmdInv.mk_commit | apply DirInv.mk_sent | apply DirRoomInv.mk_freeing)
    | exact Kept.congr ‹Kept P _› rfl | assumption | split | dsimp only

theorem putPage_inv (hP : Closed P) (s : State) (g : Region) (page : Nat) (d : List Byte) (h_s : Kept P s) : OptInv (Kept P) (putPage s g page d) := by
  unfold putPage
  repeat' first
    | with_reducible (first
        | assumption | intro _)
    | exact True.intro | exact ⟨rfl, rfl⟩
    | with_reducible (first
        | apply (allocFrame_inv hP) | apply clearPoison_inv | apply (putLine_inv hP) | apply dropHeld_inv | apply foldl_bind_inv | apply bind_inv | apply ite_snd
        | apply ite_inv | apply ite_opt | apply ite_cmd | apply ite_out | apply findSome_inv | apply each_inv | apply iter_inv | apply foldl_inv
        | apply foldl_inv2 | apply getD_inv | apply elim_inv | apply JudgedInv.mk | apply JudgedInv.take | apply JudgedInv.discard | apply ite_judged
        | apply OptInv.mk_some | apply OptInv.mk_none | apply ExcInv.mk_ok | apply ExcInv.mk_error | apply OutInv.mk_next | apply CmdInv.mk_commit
        | apply DirInv.mk_sent | apply DirRoomInv.mk_freeing)
    | exact Kept.congr ‹Kept P _› rfl | assumption | split | dsimp only

theorem updSheaf_inv (s : State) (h : Nat) (f : Sheaf → Sheaf) (h_s : Kept P s) : Kept P (updSheaf s h f) := by
  unfold updSheaf
  repeat' first
    | with_reducible (first
        | assumption | intro _ | apply ite_inv)
    | exact Kept.congr ‹Kept P _› rfl | assumption | split

theorem pushPage_inv (hP : Closed P) (s : State) (x : Sheaf) (g : Region) (h_s : Kept P s) : Kept P (pushPage s x g) := by
  unfold pushPage
  repeat' first
    | with_reducible (first
        | assumption | intro _)
    | exact True.intro | exact ⟨rfl, rfl⟩
    | (extract_lets +onlyGivenNames x
       first
       | (refine ((fun (hx : Kept P x) => ?_) ?_) <;> [clear_value x; (revert x; change (Kept P) _)])
       | (refine ((fun (hx : Kept P x.2) => ?_) ?_) <;> [clear_value x; (revert x; change (Kept P) (Prod.snd _))])
       | (have _ := (x : List _); clear_value x)
       | skip)
    | with_reducible (first
        | apply updSheaf_inv | apply (getPage_inv hP) | apply sendDelta_inv | apply foldl_bind_inv | apply bind_inv | apply ite_snd | apply ite_inv | apply ite_opt
        | apply ite_cmd | apply ite_out | apply findSome_inv | apply each_inv | apply iter_inv | apply foldl_inv | apply foldl_inv2 | apply getD_inv
        | apply elim_inv | apply JudgedInv.mk | apply JudgedInv.take | apply JudgedInv.discard | apply ite_judged | apply OptInv.mk_some
        | apply OptInv.mk_none | apply ExcInv.mk_ok | apply ExcInv.mk_error | apply OutInv.mk_next | apply CmdInv.mk_commit | apply DirInv.mk_sent
        | apply DirRoomInv.mk_freeing)
    | exact Kept.congr ‹Kept P _› rfl | assumption | split | (refine OptInv.of_eq (Q := (Kept P)) ‹_ = some _› ?_) | (refine pair_of_eq ‹_ = (_, _)› ?_)
    | (refine pair_of_eq' ‹_ = (_, _)› ?_) | (refine DirInv.of_eq ‹_ = DirStep.sent _› ?_) | (refine DirRoomInv.of_eq ‹_ = DirRoom.freeing _› ?_)
    | dsimp only

theorem pushNext_inv (hP : Closed P) (s : State) (h : Nat) (h_s : Kept P s) : Kept P (pushNext s h) := by
  unfold pushNext
  repeat' first
    | with_reducible (first
        | assumption | intro _)
    | exact True.intro | exact ⟨rfl, rfl⟩
    | with_reducible (first
        | apply updSheaf_inv | apply (pushPage_inv hP) | apply foldl_bind_inv | apply bind_inv | apply ite_snd | apply ite_inv | apply ite_opt | apply ite_cmd
        | apply ite_out | apply findSome_inv | apply each_inv | apply iter_inv | apply foldl_inv | apply foldl_inv2 | apply getD_inv | apply elim_inv
        | apply JudgedInv.mk | apply JudgedInv.take | apply JudgedInv.discard | apply ite_judged | apply OptInv.mk_some | apply OptInv.mk_none
        | apply ExcInv.mk_ok | apply ExcInv.mk_error | apply OutInv.mk_next | apply CmdInv.mk_commit | apply DirInv.mk_sent | apply DirRoomInv.mk_freeing)
    | exact Kept.congr ‹Kept P _› rfl | assumption | split | dsimp only

theorem dropAccess_inv (s : State) (p : Access → Bool) (h_s : Kept P s) : Kept P (dropAccess s p) := by
  unfold dropAccess
  repeat' first
    | with_reducible (first
        | assumption | intro _ | apply ite_inv)
    | exact Kept.congr ‹Kept P _› rfl | assumption | split

theorem askPage_inv (s : State) (x : Sheaf) (page : Nat) (h_s : Kept P s) : Kept P (askPage s x page) := by
  unfold askPage
  repeat' first
    | with_reducible (first
        | assumption | intro _)
    | exact True.intro | exact ⟨rfl, rfl⟩
    | with_reducible (first
        | apply readStalk_inv | apply foldl_bind_inv | apply bind_inv | apply ite_snd | apply ite_inv | apply ite_opt | apply ite_cmd | apply ite_out
        | apply findSome_inv | apply each_inv | apply iter_inv | apply foldl_inv | apply foldl_inv2 | apply getD_inv | apply elim_inv | apply JudgedInv.mk
        | apply JudgedInv.take | apply JudgedInv.discard | apply ite_judged | apply OptInv.mk_some | apply OptInv.mk_none | apply ExcInv.mk_ok
        | apply ExcInv.mk_error | apply OutInv.mk_next | apply CmdInv.mk_commit | apply DirInv.mk_sent | apply DirRoomInv.mk_freeing)
    | exact Kept.congr ‹Kept P _› rfl | assumption | split | dsimp only

theorem rebuildStep_inv (hP : Closed P) (s : State) (x : Sheaf) (g : Region) (h_s : Kept P s) : Kept P (rebuildStep s x g) := by
  unfold rebuildStep
  repeat' first
    | with_reducible (first
        | assumption | intro _)
    | exact True.intro | exact ⟨rfl, rfl⟩
    | (extract_lets +onlyGivenNames x
       first
       | (refine ((fun (hx : Kept P x) => ?_) ?_) <;> [clear_value x; (revert x; change (Kept P) _)])
       | (refine ((fun (hx : Kept P x.2) => ?_) ?_) <;> [clear_value x; (revert x; change (Kept P) (Prod.snd _))])
       | (have _ := (x : List _); clear_value x)
       | skip)
    | with_reducible (first
        | apply updSheaf_inv | apply askPage_inv | apply dropAccess_inv | apply (putPage_inv hP) | apply foldl_bind_inv | apply bind_inv | apply ite_snd
        | apply ite_inv | apply ite_opt | apply ite_cmd | apply ite_out | apply findSome_inv | apply each_inv | apply iter_inv | apply foldl_inv
        | apply foldl_inv2 | apply getD_inv | apply elim_inv | apply JudgedInv.mk | apply JudgedInv.take | apply JudgedInv.discard | apply ite_judged
        | apply OptInv.mk_some | apply OptInv.mk_none | apply ExcInv.mk_ok | apply ExcInv.mk_error | apply OutInv.mk_next | apply CmdInv.mk_commit
        | apply DirInv.mk_sent | apply DirRoomInv.mk_freeing)
    | exact Kept.congr ‹Kept P _› rfl | assumption | split | (refine OptInv.of_eq (Q := (Kept P)) ‹_ = some _› ?_) | (refine pair_of_eq ‹_ = (_, _)› ?_)
    | (refine pair_of_eq' ‹_ = (_, _)› ?_) | (refine DirInv.of_eq ‹_ = DirStep.sent _› ?_) | (refine DirRoomInv.of_eq ‹_ = DirRoom.freeing _› ?_)
    | dsimp only

theorem reencodeStep_inv (hP : Closed P) (s : State) (x : Sheaf) (g : Region) (h_s : Kept P s) : Kept P (reencodeStep s x g) := by
  unfold reencodeStep
  repeat' first
    | with_reducible (first
        | assumption | intro _)
    | exact True.intro | exact ⟨rfl, rfl⟩
    | (extract_lets +onlyGivenNames x
       first
       | (refine ((fun (hx : Kept P x) => ?_) ?_) <;> [clear_value x; (revert x; change (Kept P) _)])
       | (refine ((fun (hx : Kept P x.2) => ?_) ?_) <;> [clear_value x; (revert x; change (Kept P) (Prod.snd _))])
       | (have _ := (x : List _); clear_value x)
       | skip)
    | with_reducible (first
        | apply askPage_inv | apply dropAccess_inv | apply (putPage_inv hP) | apply updSheaf_inv | apply foldl_bind_inv | apply bind_inv | apply ite_snd
        | apply ite_inv | apply ite_opt | apply ite_cmd | apply ite_out | apply findSome_inv | apply each_inv | apply iter_inv | apply foldl_inv
        | apply foldl_inv2 | apply getD_inv | apply elim_inv | apply JudgedInv.mk | apply JudgedInv.take | apply JudgedInv.discard | apply ite_judged
        | apply OptInv.mk_some | apply OptInv.mk_none | apply ExcInv.mk_ok | apply ExcInv.mk_error | apply OutInv.mk_next | apply CmdInv.mk_commit
        | apply DirInv.mk_sent | apply DirRoomInv.mk_freeing)
    | exact Kept.congr ‹Kept P _› rfl | assumption | split | (refine OptInv.of_eq (Q := (Kept P)) ‹_ = some _› ?_) | (refine pair_of_eq ‹_ = (_, _)› ?_)
    | (refine pair_of_eq' ‹_ = (_, _)› ?_) | (refine DirInv.of_eq ‹_ = DirStep.sent _› ?_) | (refine DirRoomInv.of_eq ‹_ = DirRoom.freeing _› ?_)
    | dsimp only

theorem scrubEnd_inv (s : State) (x : Sheaf) (g : Region) (h_s : Kept P s) : Kept P (scrubEnd s x g) := by
  unfold scrubEnd
  repeat' first
    | with_reducible (first
        | assumption | intro _ | apply updSheaf_inv | apply dropAccess_inv | apply ite_inv)
    | exact Kept.congr ‹Kept P _› rfl | assumption | split

theorem scrubStep_inv (hP : Closed P) (s : State) (x : Sheaf) (g : Region) (h_s : Kept P s) : Kept P (scrubStep s x g) := by
  unfold scrubStep
  repeat' first
    | with_reducible (first
        | assumption | intro _)
    | exact True.intro | exact ⟨rfl, rfl⟩
    | (extract_lets +onlyGivenNames x
       first
       | (refine ((fun (hx : Kept P x) => ?_) ?_) <;> [clear_value x; (revert x; change (Kept P) _)])
       | (refine ((fun (hx : Kept P x.2) => ?_) ?_) <;> [clear_value x; (revert x; change (Kept P) (Prod.snd _))])
       | (have _ := (x : List _); clear_value x)
       | skip)
    | with_reducible (first
        | apply scrubEnd_inv | apply (getPage_inv hP) | apply record_inv | apply updSheaf_inv | apply foldl_bind_inv | apply bind_inv | apply ite_snd
        | apply ite_inv | apply ite_opt | apply ite_cmd | apply ite_out | apply findSome_inv | apply each_inv | apply iter_inv | apply foldl_inv
        | apply foldl_inv2 | apply getD_inv | apply elim_inv | apply JudgedInv.mk | apply JudgedInv.take | apply JudgedInv.discard | apply ite_judged
        | apply OptInv.mk_some | apply OptInv.mk_none | apply ExcInv.mk_ok | apply ExcInv.mk_error | apply OutInv.mk_next | apply CmdInv.mk_commit
        | apply DirInv.mk_sent | apply DirRoomInv.mk_freeing)
    | exact Kept.congr ‹Kept P _› rfl | assumption | split | (refine OptInv.of_eq (Q := (Kept P)) ‹_ = some _› ?_) | (refine pair_of_eq ‹_ = (_, _)› ?_)
    | (refine pair_of_eq' ‹_ = (_, _)› ?_) | (refine DirInv.of_eq ‹_ = DirStep.sent _› ?_) | (refine DirRoomInv.of_eq ‹_ = DirRoom.freeing _› ?_)
    | dsimp only

theorem zeroStep_inv (hP : Closed P) (s : State) (x : Sheaf) (g : Region) (h_s : Kept P s) : Kept P (zeroStep s x g) := by
  unfold zeroStep
  repeat' first
    | with_reducible (first
        | assumption | intro _)
    | exact True.intro | exact ⟨rfl, rfl⟩
    | (extract_lets +onlyGivenNames x
       first
       | (refine ((fun (hx : Kept P x) => ?_) ?_) <;> [clear_value x; (revert x; change (Kept P) _)])
       | (refine ((fun (hx : Kept P x.2) => ?_) ?_) <;> [clear_value x; (revert x; change (Kept P) (Prod.snd _))])
       | (have _ := (x : List _); clear_value x)
       | skip)
    | with_reducible (first
        | apply updSheaf_inv | apply (putPage_inv hP) | apply foldl_bind_inv | apply bind_inv | apply ite_snd | apply ite_inv | apply ite_opt | apply ite_cmd
        | apply ite_out | apply findSome_inv | apply each_inv | apply iter_inv | apply foldl_inv | apply foldl_inv2 | apply getD_inv | apply elim_inv
        | apply JudgedInv.mk | apply JudgedInv.take | apply JudgedInv.discard | apply ite_judged | apply OptInv.mk_some | apply OptInv.mk_none
        | apply ExcInv.mk_ok | apply ExcInv.mk_error | apply OutInv.mk_next | apply CmdInv.mk_commit | apply DirInv.mk_sent | apply DirRoomInv.mk_freeing)
    | exact Kept.congr ‹Kept P _› rfl | assumption | split | (refine OptInv.of_eq (Q := (Kept P)) ‹_ = some _› ?_) | (refine pair_of_eq ‹_ = (_, _)› ?_)
    | (refine pair_of_eq' ‹_ = (_, _)› ?_) | (refine DirInv.of_eq ‹_ = DirStep.sent _› ?_) | (refine DirRoomInv.of_eq ‹_ = DirRoom.freeing _› ?_)
    | dsimp only

theorem sheafWork_inv (hP : Closed P) (s : State) (h : Nat) (h_s : Kept P s) : Kept P (sheafWork s h) := by
  unfold sheafWork
  repeat' first
    | with_reducible (first
        | assumption | intro _ | apply (pushPage_inv hP) | apply (rebuildStep_inv hP) | apply (reencodeStep_inv hP) | apply (scrubStep_inv hP) | apply (zeroStep_inv hP)
        | apply (rebuilt_inv hP) | apply ite_inv)
    | exact Kept.congr ‹Kept P _› rfl | assumption | split

theorem wakeRebuilt_inv (s : State) (h : Nat) (line : Nat) (h_s : Kept P s) : Kept P (wakeRebuilt s h line) := by
  unfold wakeRebuilt
  repeat' first
    | with_reducible (first
        | assumption | intro _ | apply ite_inv)
    | exact Kept.congr ‹Kept P _› rfl | assumption | split

theorem failRebuilt_inv (s : State) (h : Nat) (line : Nat) (status : Nat) (detail : Word) (h_s : Kept P s) : Kept P (failRebuilt s h line status detail) := by
  unfold failRebuilt
  repeat' first
    | with_reducible (first
        | assumption | intro _)
    | exact True.intro | exact ⟨rfl, rfl⟩
    | with_reducible (first
        | apply finishCrew_inv | apply foldl_bind_inv | apply bind_inv | apply ite_snd | apply ite_inv | apply ite_opt | apply ite_cmd | apply ite_out
        | apply findSome_inv | apply each_inv | apply iter_inv | apply foldl_inv | apply foldl_inv2 | apply getD_inv | apply elim_inv | apply JudgedInv.mk
        | apply JudgedInv.take | apply JudgedInv.discard | apply ite_judged | apply OptInv.mk_some | apply OptInv.mk_none | apply ExcInv.mk_ok
        | apply ExcInv.mk_error | apply OutInv.mk_next | apply CmdInv.mk_commit | apply DirInv.mk_sent | apply DirRoomInv.mk_freeing)
    | exact Kept.congr ‹Kept P _› rfl | assumption | split | dsimp only

theorem lineRebuildStep_inv (hP : Closed P) (s : State) (h : Nat) (line : Nat) (h_s : Kept P s) : Kept P (lineRebuildStep s h line) := by
  unfold lineRebuildStep
  repeat' first
    | with_reducible (first
        | assumption | intro _ | apply dropAccess_inv | apply failRebuilt_inv | apply (allocFrame_inv hP) | apply clearPoison_inv | apply (putLine_inv hP)
        | apply record_inv | apply wakeRebuilt_inv | apply ite_inv)
    | exact Kept.congr ‹Kept P _› rfl | assumption | split

theorem sheafStep_inv (hP : Closed P) (s : State) (h_s : Kept P s) : Kept P (sheafStep s) := by
  unfold sheafStep
  repeat' first
    | with_reducible (first
        | assumption | intro _)
    | exact True.intro | exact ⟨rfl, rfl⟩
    | with_reducible (first
        | apply (lineRebuildStep_inv hP) | apply (sheafWork_inv hP) | apply foldl_bind_inv | apply bind_inv | apply ite_snd | apply ite_inv | apply ite_opt
        | apply ite_cmd | apply ite_out | apply findSome_inv | apply each_inv | apply iter_inv | apply foldl_inv | apply foldl_inv2 | apply getD_inv
        | apply elim_inv | apply JudgedInv.mk | apply JudgedInv.take | apply JudgedInv.discard | apply ite_judged | apply OptInv.mk_some
        | apply OptInv.mk_none | apply ExcInv.mk_ok | apply ExcInv.mk_error | apply OutInv.mk_next | apply CmdInv.mk_commit | apply DirInv.mk_sent
        | apply DirRoomInv.mk_freeing)
    | exact Kept.congr ‹Kept P _› rfl | assumption | split | dsimp only

/-! ### Accesses -/

theorem releaseFences_inv (s : State) (h_s : Kept P s) : Kept P (releaseFences s) := by
  unfold releaseFences
  repeat' first
    | with_reducible (first
        | assumption | intro _)
    | exact True.intro | exact ⟨rfl, rfl⟩
    | with_reducible (first
        | apply sendResponse_inv | apply foldl_bind_inv | apply bind_inv | apply ite_snd | apply ite_inv | apply ite_opt | apply ite_cmd | apply ite_out
        | apply findSome_inv | apply each_inv | apply iter_inv | apply foldl_inv | apply foldl_inv2 | apply getD_inv | apply elim_inv | apply JudgedInv.mk
        | apply JudgedInv.take | apply JudgedInv.discard | apply ite_judged | apply OptInv.mk_some | apply OptInv.mk_none | apply ExcInv.mk_ok
        | apply ExcInv.mk_error | apply OutInv.mk_next | apply CmdInv.mk_commit | apply DirInv.mk_sent | apply DirRoomInv.mk_freeing)
    | exact Kept.congr ‹Kept P _› rfl | assumption | split | dsimp only

theorem issueCopy_inv (s : State) (x : GwXfer) (h_s : Kept P s) : Kept P (issueCopy s x) := by
  unfold issueCopy
  repeat' first
    | with_reducible (first
        | assumption | intro _)
    | exact True.intro | exact ⟨rfl, rfl⟩
    | with_reducible (first
        | apply send_inv | apply foldl_bind_inv | apply bind_inv | apply ite_snd | apply ite_inv | apply ite_opt | apply ite_cmd | apply ite_out
        | apply findSome_inv | apply each_inv | apply iter_inv | apply foldl_inv | apply foldl_inv2 | apply getD_inv | apply elim_inv | apply JudgedInv.mk
        | apply JudgedInv.take | apply JudgedInv.discard | apply ite_judged | apply OptInv.mk_some | apply OptInv.mk_none | apply ExcInv.mk_ok
        | apply ExcInv.mk_error | apply OutInv.mk_next | apply CmdInv.mk_commit | apply DirInv.mk_sent | apply DirRoomInv.mk_freeing)
    | exact Kept.congr ‹Kept P _› rfl | assumption | split | dsimp only

theorem startCopy_inv (s : State) (h : Nat) (page : Nat) (write : Bool) (dev : Nat) (h_s : Kept P s) : Kept P (startCopy s h page write dev) := by
  unfold startCopy
  repeat' first
    | with_reducible (first
        | assumption | intro _ | apply issueCopy_inv | apply ite_inv)
    | exact Kept.congr ‹Kept P _› rfl | assumption | split

theorem reissue_inv (s : State) (x : GwXfer) (h_s : Kept P s) : Kept P (reissue s x) := by
  unfold reissue
  repeat' first
    | with_reducible (first
        | assumption | intro _ | apply issueXfer_inv | apply issueCopy_inv | apply ite_inv)
    | exact Kept.congr ‹Kept P _› rfl | assumption | split

theorem resendXfers_inv (s : State) (h_s : Kept P s) : Kept P (resendXfers s) := by
  unfold resendXfers
  repeat' first
    | with_reducible (first
        | assumption | intro _)
    | exact True.intro | exact ⟨rfl, rfl⟩
    | with_reducible (first
        | apply reissue_inv | apply foldl_bind_inv | apply bind_inv | apply ite_snd | apply ite_inv | apply ite_opt | apply ite_cmd | apply ite_out
        | apply findSome_inv | apply each_inv | apply iter_inv | apply foldl_inv | apply foldl_inv2 | apply getD_inv | apply elim_inv | apply JudgedInv.mk
        | apply JudgedInv.take | apply JudgedInv.discard | apply ite_judged | apply OptInv.mk_some | apply OptInv.mk_none | apply ExcInv.mk_ok
        | apply ExcInv.mk_error | apply OutInv.mk_next | apply CmdInv.mk_commit | apply DirInv.mk_sent | apply DirRoomInv.mk_freeing)
    | exact Kept.congr ‹Kept P _› rfl | assumption | split | dsimp only

theorem settleAll_inv (hP : Closed P) (s : State) (h_s : Kept P s) : Kept P (settleAll s) := by
  unfold settleAll
  repeat' first
    | with_reducible (first
        | assumption | intro _ | apply releaseFences_inv | apply (settle_inv hP) | apply resendXfers_inv | apply (sheafStep_inv hP) | apply ite_inv)
    | exact Kept.congr ‹Kept P _› rfl | assumption | split

theorem execLoad_inv (hP : Closed P) (p : Nat) (h : ReqHdr) (d : List Byte) (s : State) (h_s : Kept P s) : OutInv P (execLoad p h d s) := by
  unfold execLoad
  repeat' first
    | with_reducible (first
        | assumption | intro _ | apply done_inv | apply releaseFences_inv | apply (arrive_inv hP) | apply ite_inv | apply OutInv.mk_next)
    | exact Kept.congr ‹Kept P _› rfl | assumption | split

theorem execStore_inv (hP : Closed P) (p : Nat) (h : ReqHdr) (d : List Byte) (s : State) (h_s : Kept P s) : OutInv P (execStore p h d s) := by
  unfold execStore
  repeat' first
    | with_reducible (first
        | assumption | intro _ | apply done_inv | apply releaseFences_inv | apply (arrive_inv hP) | apply ite_inv | apply OutInv.mk_next)
    | exact Kept.congr ‹Kept P _› rfl | assumption | split

theorem execLoadShared_inv (hP : Closed P) (p : Nat) (h : ReqHdr) (d : List Byte) (s : State) (h_s : Kept P s) : OutInv P (execLoadShared p h d s) := by
  unfold execLoadShared
  repeat' first
    | with_reducible (first
        | assumption | intro _ | apply done_inv | apply releaseFences_inv | apply (arrive_inv hP) | apply ite_inv | apply OutInv.mk_next)
    | exact Kept.congr ‹Kept P _› rfl | assumption | split

theorem execLoadExcl_inv (hP : Closed P) (p : Nat) (h : ReqHdr) (d : List Byte) (s : State) (h_s : Kept P s) : OutInv P (execLoadExcl p h d s) := by
  unfold execLoadExcl
  repeat' first
    | with_reducible (first
        | assumption | intro _ | apply done_inv | apply releaseFences_inv | apply (arrive_inv hP) | apply ite_inv | apply OutInv.mk_next)
    | exact Kept.congr ‹Kept P _› rfl | assumption | split

theorem execWriteback_inv (hP : Closed P) (p : Nat) (h : ReqHdr) (d : List Byte) (s : State) (h_s : Kept P s) : OutInv P (execWriteback p h d s) := by
  unfold execWriteback
  repeat' first
    | with_reducible (first
        | assumption | intro _ | apply done_inv | apply releaseFences_inv | apply (arrive_inv hP) | apply ite_inv | apply OutInv.mk_next)
    | exact Kept.congr ‹Kept P _› rfl | assumption | split

theorem execEvictClean_inv (hP : Closed P) (p : Nat) (h : ReqHdr) (d : List Byte) (s : State) (h_s : Kept P s) : OutInv P (execEvictClean p h d s) := by
  unfold execEvictClean
  repeat' first
    | with_reducible (first
        | assumption | intro _ | apply done_inv | apply releaseFences_inv | apply (arrive_inv hP) | apply ite_inv | apply OutInv.mk_next)
    | exact Kept.congr ‹Kept P _› rfl | assumption | split

theorem execAtomicAdd_inv (hP : Closed P) (p : Nat) (h : ReqHdr) (d : List Byte) (s : State) (h_s : Kept P s) : OutInv P (execAtomicAdd p h d s) := by
  unfold execAtomicAdd
  repeat' first
    | with_reducible (first
        | assumption | intro _ | apply done_inv | apply releaseFences_inv | apply (arrive_inv hP) | apply ite_inv | apply OutInv.mk_next)
    | exact Kept.congr ‹Kept P _› rfl | assumption | split

theorem execAtomicMin_inv (hP : Closed P) (p : Nat) (h : ReqHdr) (d : List Byte) (s : State) (h_s : Kept P s) : OutInv P (execAtomicMin p h d s) := by
  unfold execAtomicMin
  repeat' first
    | with_reducible (first
        | assumption | intro _ | apply done_inv | apply releaseFences_inv | apply (arrive_inv hP) | apply ite_inv | apply OutInv.mk_next)
    | exact Kept.congr ‹Kept P _› rfl | assumption | split

theorem execAtomicCas_inv (hP : Closed P) (p : Nat) (h : ReqHdr) (d : List Byte) (s : State) (h_s : Kept P s) : OutInv P (execAtomicCas p h d s) := by
  unfold execAtomicCas
  repeat' first
    | with_reducible (first
        | assumption | intro _ | apply done_inv | apply releaseFences_inv | apply (arrive_inv hP) | apply ite_inv | apply OutInv.mk_next)
    | exact Kept.congr ‹Kept P _› rfl | assumption | split

theorem execAtomicSwap_inv (hP : Closed P) (p : Nat) (h : ReqHdr) (d : List Byte) (s : State) (h_s : Kept P s) : OutInv P (execAtomicSwap p h d s) := by
  unfold execAtomicSwap
  repeat' first
    | with_reducible (first
        | assumption | intro _ | apply done_inv | apply releaseFences_inv | apply (arrive_inv hP) | apply ite_inv | apply OutInv.mk_next)
    | exact Kept.congr ‹Kept P _› rfl | assumption | split

theorem execAtomicAnd_inv (hP : Closed P) (p : Nat) (h : ReqHdr) (d : List Byte) (s : State) (h_s : Kept P s) : OutInv P (execAtomicAnd p h d s) := by
  unfold execAtomicAnd
  repeat' first
    | with_reducible (first
        | assumption | intro _ | apply done_inv | apply releaseFences_inv | apply (arrive_inv hP) | apply ite_inv | apply OutInv.mk_next)
    | exact Kept.congr ‹Kept P _› rfl | assumption | split

theorem execAtomicOr_inv (hP : Closed P) (p : Nat) (h : ReqHdr) (d : List Byte) (s : State) (h_s : Kept P s) : OutInv P (execAtomicOr p h d s) := by
  unfold execAtomicOr
  repeat' first
    | with_reducible (first
        | assumption | intro _ | apply done_inv | apply releaseFences_inv | apply (arrive_inv hP) | apply ite_inv | apply OutInv.mk_next)
    | exact Kept.congr ‹Kept P _› rfl | assumption | split

theorem execAtomicXor_inv (hP : Closed P) (p : Nat) (h : ReqHdr) (d : List Byte) (s : State) (h_s : Kept P s) : OutInv P (execAtomicXor p h d s) := by
  unfold execAtomicXor
  repeat' first
    | with_reducible (first
        | assumption | intro _ | apply done_inv | apply releaseFences_inv | apply (arrive_inv hP) | apply ite_inv | apply OutInv.mk_next)
    | exact Kept.congr ‹Kept P _› rfl | assumption | split

theorem execFence_inv (hP : Closed P) (p : Nat) (h : ReqHdr) (d : List Byte) (s : State) (h_s : Kept P s) : OutInv P (execFence p h d s) := by
  unfold execFence
  repeat' first
    | with_reducible (first
        | assumption | intro _ | apply done_inv | apply releaseFences_inv | apply (arrive_inv hP) | apply ite_inv | apply OutInv.mk_next)
    | exact Kept.congr ‹Kept P _› rfl | assumption | split

theorem execPublish_inv (hP : Closed P) (p : Nat) (h : ReqHdr) (d : List Byte) (s : State) (h_s : Kept P s) : OutInv P (execPublish p h d s) := by
  unfold execPublish
  repeat' first
    | with_reducible (first
        | assumption | intro _ | apply done_inv | apply releaseFences_inv | apply (arrive_inv hP) | apply ite_inv | apply OutInv.mk_next)
    | exact Kept.congr ‹Kept P _› rfl | assumption | split

theorem execOffer_inv (hP : Closed P) (p : Nat) (h : ReqHdr) (d : List Byte) (s : State) (h_s : Kept P s) : OutInv P (execOffer p h d s) := by
  unfold execOffer
  repeat' first
    | with_reducible (first
        | assumption | intro _ | apply done_inv | apply releaseFences_inv | apply (arrive_inv hP) | apply ite_inv | apply OutInv.mk_next)
    | exact Kept.congr ‹Kept P _› rfl | assumption | split

theorem execAccept_inv (hP : Closed P) (p : Nat) (h : ReqHdr) (d : List Byte) (s : State) (h_s : Kept P s) : OutInv P (execAccept p h d s) := by
  unfold execAccept
  repeat' first
    | with_reducible (first
        | assumption | intro _ | apply done_inv | apply releaseFences_inv | apply (arrive_inv hP) | apply ite_inv | apply OutInv.mk_next)
    | exact Kept.congr ‹Kept P _› rfl | assumption | split

theorem execConfirm_inv (hP : Closed P) (p : Nat) (h : ReqHdr) (d : List Byte) (s : State) (h_s : Kept P s) : OutInv P (execConfirm p h d s) := by
  unfold execConfirm
  repeat' first
    | with_reducible (first
        | assumption | intro _ | apply done_inv | apply releaseFences_inv | apply (arrive_inv hP) | apply ite_inv | apply OutInv.mk_next)
    | exact Kept.congr ‹Kept P _› rfl | assumption | split

theorem execXferRead_inv (hP : Closed P) (p : Nat) (h : ReqHdr) (d : List Byte) (s : State) (h_s : Kept P s) : OutInv P (execXferRead p h d s) := by
  unfold execXferRead
  repeat' first
    | with_reducible (first
        | assumption | intro _ | apply done_inv | apply releaseFences_inv | apply (arrive_inv hP) | apply ite_inv | apply OutInv.mk_next)
    | exact Kept.congr ‹Kept P _› rfl | assumption | split

theorem execXferWrite_inv (hP : Closed P) (p : Nat) (h : ReqHdr) (d : List Byte) (s : State) (h_s : Kept P s) : OutInv P (execXferWrite p h d s) := by
  unfold execXferWrite
  repeat' first
    | with_reducible (first
        | assumption | intro _ | apply done_inv | apply releaseFences_inv | apply (arrive_inv hP) | apply ite_inv | apply OutInv.mk_next)
    | exact Kept.congr ‹Kept P _› rfl | assumption | split

theorem snoopEnd_inv (s : State) (n : Snoop) (h_s : Kept P s) : Kept P (snoopEnd s n) := by
  unfold snoopEnd
  repeat' first
    | with_reducible (first
        | assumption | intro _ | apply settleDir_inv | apply ite_inv)
    | exact Kept.congr ‹Kept P _› rfl | assumption | split

theorem snoopWrite_inv (hP : Closed P) (s : State) (n : Snoop) (d : List Byte) (h_s : Kept P s) : Kept P (snoopWrite s n d) := by
  unfold snoopWrite
  repeat' first
    | with_reducible (first
        | assumption | intro _)
    | exact True.intro | exact ⟨rfl, rfl⟩
    | with_reducible (first
        | apply sendDelta_inv | apply (allocFrame_inv hP) | apply (markFrame_inv hP) | apply (touchLine_inv hP) | apply trackWrite_inv | apply foldl_bind_inv
        | apply bind_inv | apply ite_snd | apply ite_inv | apply ite_opt | apply ite_cmd | apply ite_out | apply findSome_inv | apply each_inv
        | apply iter_inv | apply foldl_inv | apply foldl_inv2 | apply getD_inv | apply elim_inv | apply JudgedInv.mk | apply JudgedInv.take
        | apply JudgedInv.discard | apply ite_judged | apply OptInv.mk_some | apply OptInv.mk_none | apply ExcInv.mk_ok | apply ExcInv.mk_error
        | apply OutInv.mk_next | apply CmdInv.mk_commit | apply DirInv.mk_sent | apply DirRoomInv.mk_freeing)
    | exact Kept.congr ‹Kept P _› rfl | assumption | split | dsimp only

theorem snoopAnswer_inv (hP : Closed P) (s : State) (p : Nat) (h : RspHdr) (d : List Byte) (h_s : Kept P s) : Kept P (snoopAnswer s p h d) := by
  unfold snoopAnswer
  repeat' first
    | with_reducible (first
        | assumption | intro _ | apply (snoopWrite_inv hP) | apply (settleAll_inv hP) | apply snoopEnd_inv | apply ite_inv)
    | exact Kept.congr ‹Kept P _› rfl | assumption | split

theorem execSnoopResponse_inv (hP : Closed P) (p : Nat) (h : RspHdr) (d : List Byte) (s : State) (h_s : Kept P s) : OutInv P (execSnoopResponse p h d s) := by
  unfold execSnoopResponse
  repeat' first
    | with_reducible (first
        | assumption | intro _ | apply done_inv | apply (snoopAnswer_inv hP) | apply ite_inv | apply OutInv.mk_next)
    | exact Kept.congr ‹Kept P _› rfl | assumption | split

theorem endRelay_inv (s : State) (f : Relay) (status : Nat) (detail : Word) (retry : Nat) (h_s : Kept P s) : Kept P (endRelay s f status detail retry) := by
  unfold endRelay
  repeat' first
    | with_reducible (first
        | assumption | intro _ | apply refuse_inv | apply ite_inv)
    | exact Kept.congr ‹Kept P _› rfl | assumption | split

theorem forwardedAnswer_inv (hP : Closed P) (s : State) (p : Nat) (h : RspHdr) (d : List Byte) (h_s : Kept P s) : Kept P (forwardedAnswer s p h d) := by
  unfold forwardedAnswer
  repeat' first
    | with_reducible (first
        | assumption | intro _ | apply recordRate_inv | apply sendResponse_inv | apply (settleAll_inv hP) | apply held_inv | apply ite_inv)
    | exact Kept.congr ‹Kept P _› rfl | assumption | split

theorem execForwardedResponse_inv (hP : Closed P) (p : Nat) (h : RspHdr) (d : List Byte) (s : State) (h_s : Kept P s) : OutInv P (execForwardedResponse p h d s) := by
  unfold execForwardedResponse
  repeat' first
    | with_reducible (first
        | assumption | intro _ | apply done_inv | apply (forwardedAnswer_inv hP) | apply ite_inv | apply OutInv.mk_next)
    | exact Kept.congr ‹Kept P _› rfl | assumption | split

theorem deltaAnswer_inv (hP : Closed P) (s : State) (p : Nat) (h : RspHdr) (h_s : Kept P s) : Kept P (deltaAnswer s p h) := by
  unfold deltaAnswer
  repeat' first
    | with_reducible (first
        | assumption | intro _)
    | exact True.intro | exact ⟨rfl, rfl⟩
    | (extract_lets +onlyGivenNames x
       first
       | (refine ((fun (hx : Kept P x) => ?_) ?_) <;> [clear_value x; (revert x; change (Kept P) _)])
       | (refine ((fun (hx : Kept P x.2) => ?_) ?_) <;> [clear_value x; (revert x; change (Kept P) (Prod.snd _))])
       | (have _ := (x : List _); clear_value x)
       | skip)
    | with_reducible (first
        | apply (settleAll_inv hP) | apply (pushNext_inv hP) | apply sendDelta_inv | apply markStale_inv | apply foldl_bind_inv | apply bind_inv | apply ite_snd
        | apply ite_inv | apply ite_opt | apply ite_cmd | apply ite_out | apply findSome_inv | apply each_inv | apply iter_inv | apply foldl_inv
        | apply foldl_inv2 | apply getD_inv | apply elim_inv | apply JudgedInv.mk | apply JudgedInv.take | apply JudgedInv.discard | apply ite_judged
        | apply OptInv.mk_some | apply OptInv.mk_none | apply ExcInv.mk_ok | apply ExcInv.mk_error | apply OutInv.mk_next | apply CmdInv.mk_commit
        | apply DirInv.mk_sent | apply DirRoomInv.mk_freeing)
    | exact Kept.congr ‹Kept P _› rfl | assumption | split | (refine OptInv.of_eq (Q := (Kept P)) ‹_ = some _› ?_) | (refine pair_of_eq ‹_ = (_, _)› ?_)
    | (refine pair_of_eq' ‹_ = (_, _)› ?_) | (refine DirInv.of_eq ‹_ = DirStep.sent _› ?_) | (refine DirRoomInv.of_eq ‹_ = DirRoom.freeing _› ?_)
    | dsimp only

theorem execParityDeltaResponse_inv (hP : Closed P) (p : Nat) (h : RspHdr) (_d : List Byte) (s : State) (h_s : Kept P s) : OutInv P (execParityDeltaResponse p h _d s) := by
  unfold execParityDeltaResponse
  repeat' first
    | with_reducible (first
        | assumption | intro _ | apply done_inv | apply (deltaAnswer_inv hP) | apply ite_inv | apply OutInv.mk_next)
    | exact Kept.congr ‹Kept P _› rfl | assumption | split

theorem copyPush_inv (s : State) (c : ShadowCopy) (h_s : Kept P s) : Kept P (copyPush s c) := by
  unfold copyPush
  repeat' first
    | with_reducible (first
        | assumption | intro _)
    | exact True.intro | exact ⟨rfl, rfl⟩
    | with_reducible (first
        | apply startCopy_inv | apply foldl_bind_inv | apply bind_inv | apply ite_snd | apply ite_inv | apply ite_opt | apply ite_cmd | apply ite_out
        | apply findSome_inv | apply each_inv | apply iter_inv | apply foldl_inv | apply foldl_inv2 | apply getD_inv | apply elim_inv | apply JudgedInv.mk
        | apply JudgedInv.take | apply JudgedInv.discard | apply ite_judged | apply OptInv.mk_some | apply OptInv.mk_none | apply ExcInv.mk_ok
        | apply ExcInv.mk_error | apply OutInv.mk_next | apply CmdInv.mk_commit | apply DirInv.mk_sent | apply DirRoomInv.mk_freeing)
    | exact Kept.congr ‹Kept P _› rfl | assumption | split | dsimp only

theorem movePull_inv (s : State) (m : Move) (h_s : Kept P s) : Kept P (movePull s m) := by
  unfold movePull
  repeat' first
    | with_reducible (first
        | assumption | intro _)
    | exact True.intro | exact ⟨rfl, rfl⟩
    | with_reducible (first
        | apply startCopy_inv | apply foldl_bind_inv | apply bind_inv | apply ite_snd | apply ite_inv | apply ite_opt | apply ite_cmd | apply ite_out
        | apply findSome_inv | apply each_inv | apply iter_inv | apply foldl_inv | apply foldl_inv2 | apply getD_inv | apply elim_inv | apply JudgedInv.mk
        | apply JudgedInv.take | apply JudgedInv.discard | apply ite_judged | apply OptInv.mk_some | apply OptInv.mk_none | apply ExcInv.mk_ok
        | apply ExcInv.mk_error | apply OutInv.mk_next | apply CmdInv.mk_commit | apply DirInv.mk_sent | apply DirRoomInv.mk_freeing)
    | exact Kept.congr ‹Kept P _› rfl | assumption | split | dsimp only

theorem movePageIn_inv (hP : Closed P) (s : State) (m : Move) (x : GwXfer) (ok : Bool) (d : List Byte) (h_s : Kept P s) : Kept P (movePageIn s m x ok d) := by
  unfold movePageIn
  repeat' first
    | with_reducible (first
        | assumption | intro _)
    | exact True.intro | exact ⟨rfl, rfl⟩
    | (extract_lets +onlyGivenNames x
       first
       | (refine ((fun (hx : Kept P x) => ?_) ?_) <;> [clear_value x; (revert x; change (Kept P) _)])
       | (refine ((fun (hx : Kept P x.2) => ?_) ?_) <;> [clear_value x; (revert x; change (Kept P) (Prod.snd _))])
       | (refine ((fun (hx : OptInv (Kept P) x) => ?_) ?_) <;> [clear_value x; (revert x; change OptInv (Kept P) _)])
       | (refine ((fun (hx : CmdInv P x) => ?_) ?_) <;> [clear_value x; (revert x; change (CmdInv P) _)])
       | (have _ := (x : List _); clear_value x)
       | skip)
    | with_reducible (first
        | apply (putPage_inv hP) | apply movePull_inv | apply foldl_bind_inv | apply bind_inv | apply ite_snd | apply ite_inv | apply ite_opt | apply ite_cmd
        | apply ite_out | apply findSome_inv | apply each_inv | apply iter_inv | apply foldl_inv | apply foldl_inv2 | apply getD_inv | apply elim_inv
        | apply JudgedInv.mk | apply JudgedInv.take | apply JudgedInv.discard | apply ite_judged | apply OptInv.mk_some | apply OptInv.mk_none
        | apply ExcInv.mk_ok | apply ExcInv.mk_error | apply OutInv.mk_next | apply CmdInv.mk_commit | apply DirInv.mk_sent | apply DirRoomInv.mk_freeing)
    | exact Kept.congr ‹Kept P _› rfl | assumption | refine Inv.congr (movePull_inv _ _ ?_ ) rfl | split
    | (refine OptInv.of_eq (Q := (Kept P)) ‹_ = some _› ?_) | (refine OptInv.of_eq (Q := (CmdInv P)) ‹_ = some _› ?_) | (refine pair_of_eq ‹_ = (_, _)› ?_)
    | (refine pair_of_eq' ‹_ = (_, _)› ?_) | (refine DirInv.of_eq ‹_ = DirStep.sent _› ?_) | (refine DirRoomInv.of_eq ‹_ = DirRoom.freeing _› ?_)
    | (refine CmdInv.of_eq ‹_ = CmdResult.commit _ _ _ _› ?_) | (refine ExcInv.of_eq ‹_ = Except.ok _› ?_) | dsimp only
    | exact Kept.write hP ‹Kept P _› rfl | exact Kept.cache hP ‹Kept P _› rfl | exact Kept.clear hP ‹Kept P _› rfl
    | exact Kept.clears hP ‹Kept P _› rfl | dsimp +zetaDelta only
    | (refine OptInv.of_eq (Q := fun (t : _ × State) => (Kept P) t.2) ‹_ = some _› ?_)
    | (refine OptInv.of_eq (Q := fun (t : _ × State) => (Kept P) t.2) (t := (_, _)) ‹_ = some (_, _)› ?_)
    | (refine ExcInv.of_eq (Q := fun (t : _ × State) => (Kept P) t.2) (t := (_, _)) ‹_ = Except.ok (_, _)› ?_)

theorem dropBlock_inv (hP : Closed P) (s : State) (g : GwBinding) (b : Nat) (h_s : Kept P s) : Kept P (dropBlock s g b) := by
  unfold dropBlock
  repeat' first
    | with_reducible (first
        | assumption | intro _)
    | exact True.intro | exact ⟨rfl, rfl⟩
    | (extract_lets +onlyGivenNames x
       first
       | (refine ((fun (hx : Kept P x) => ?_) ?_) <;> [clear_value x; (revert x; change (Kept P) _)])
       | (refine ((fun (hx : Kept P x.2) => ?_) ?_) <;> [clear_value x; (revert x; change (Kept P) (Prod.snd _))])
       | (refine ((fun (hx : OptInv (Kept P) x) => ?_) ?_) <;> [clear_value x; (revert x; change OptInv (Kept P) _)])
       | (refine ((fun (hx : CmdInv P x) => ?_) ?_) <;> [clear_value x; (revert x; change (CmdInv P) _)])
       | (have _ := (x : List _); clear_value x)
       | skip)
    | with_reducible (first
        | apply forgetBlock_inv | apply (dropBlockFrames_inv hP) | apply gwFlushBlock_inv | apply foldl_bind_inv | apply bind_inv | apply ite_snd | apply ite_inv
        | apply ite_opt | apply ite_cmd | apply ite_out | apply findSome_inv | apply each_inv | apply iter_inv | apply foldl_inv | apply foldl_inv2
        | apply getD_inv | apply elim_inv | apply JudgedInv.mk | apply JudgedInv.take | apply JudgedInv.discard | apply ite_judged | apply OptInv.mk_some
        | apply OptInv.mk_none | apply ExcInv.mk_ok | apply ExcInv.mk_error | apply OutInv.mk_next | apply CmdInv.mk_commit | apply DirInv.mk_sent
        | apply DirRoomInv.mk_freeing)
    | exact Kept.congr ‹Kept P _› rfl | assumption | refine Inv.congr (forgetBlock_inv _ _ _ ?_ ) rfl
    | refine Inv.congr ((dropBlockFrames_inv hP) _ _ _ ?_ ) rfl | refine Inv.congr (gwFlushBlock_inv _ _ _ ?_ ) rfl | split
    | (refine OptInv.of_eq (Q := (Kept P)) ‹_ = some _› ?_) | (refine OptInv.of_eq (Q := (CmdInv P)) ‹_ = some _› ?_) | (refine pair_of_eq ‹_ = (_, _)› ?_)
    | (refine pair_of_eq' ‹_ = (_, _)› ?_) | (refine DirInv.of_eq ‹_ = DirStep.sent _› ?_) | (refine DirRoomInv.of_eq ‹_ = DirRoom.freeing _› ?_)
    | (refine CmdInv.of_eq ‹_ = CmdResult.commit _ _ _ _› ?_) | (refine ExcInv.of_eq ‹_ = Except.ok _› ?_) | dsimp only
    | exact Kept.write hP ‹Kept P _› rfl | exact Kept.cache hP ‹Kept P _› rfl | exact Kept.clear hP ‹Kept P _› rfl
    | exact Kept.clears hP ‹Kept P _› rfl | dsimp +zetaDelta only
    | (refine OptInv.of_eq (Q := fun (t : _ × State) => (Kept P) t.2) ‹_ = some _› ?_)
    | (refine OptInv.of_eq (Q := fun (t : _ × State) => (Kept P) t.2) (t := (_, _)) ‹_ = some (_, _)› ?_)
    | (refine ExcInv.of_eq (Q := fun (t : _ × State) => (Kept P) t.2) (t := (_, _)) ‹_ = Except.ok (_, _)› ?_)

theorem failBlock_inv (hP : Closed P) (s : State) (g : GwBinding) (b : Nat) (status : Nat) (detail : Word) (h_s : Kept P s) : Kept P (failBlock s g b status detail) := by
  unfold failBlock
  repeat' first
    | with_reducible (first
        | assumption | intro _)
    | exact True.intro | exact ⟨rfl, rfl⟩
    | with_reducible (first
        | apply finishCrew_inv | apply (dropBlock_inv hP) | apply foldl_bind_inv | apply bind_inv | apply ite_snd | apply ite_inv | apply ite_opt | apply ite_cmd
        | apply ite_out | apply findSome_inv | apply each_inv | apply iter_inv | apply foldl_inv | apply foldl_inv2 | apply getD_inv | apply elim_inv
        | apply JudgedInv.mk | apply JudgedInv.take | apply JudgedInv.discard | apply ite_judged | apply OptInv.mk_some | apply OptInv.mk_none
        | apply ExcInv.mk_ok | apply ExcInv.mk_error | apply OutInv.mk_next | apply CmdInv.mk_commit | apply DirInv.mk_sent | apply DirRoomInv.mk_freeing)
    | exact Kept.congr ‹Kept P _› rfl | assumption | split | dsimp only

theorem fillBlock_inv (hP : Closed P) (s : State) (g : GwBinding) (x : GwXfer) (d : List Byte) (h_s : Kept P s) : Kept P (fillBlock s g x d) := by
  unfold fillBlock
  repeat' first
    | with_reducible (first
        | assumption | intro _)
    | exact True.intro | exact ⟨rfl, rfl⟩
    | (extract_lets +onlyGivenNames x
       first
       | (refine ((fun (hx : Kept P x) => ?_) ?_) <;> [clear_value x; (revert x; change (Kept P) _)])
       | (refine ((fun (hx : Kept P x.2) => ?_) ?_) <;> [clear_value x; (revert x; change (Kept P) (Prod.snd _))])
       | (refine ((fun (hx : OptInv (Kept P) x) => ?_) ?_) <;> [clear_value x; (revert x; change OptInv (Kept P) _)])
       | (refine ((fun (hx : CmdInv P x) => ?_) ?_) <;> [clear_value x; (revert x; change (CmdInv P) _)])
       | (have _ := (x : List _); clear_value x)
       | skip)
    | with_reducible (first
        | apply updFrame_inv | apply updBlock_inv | apply foldl_bind_inv | apply bind_inv | apply ite_snd | apply ite_inv | apply ite_opt | apply ite_cmd
        | apply ite_out | apply findSome_inv | apply each_inv | apply iter_inv | apply foldl_inv | apply foldl_inv2 | apply getD_inv | apply elim_inv
        | apply JudgedInv.mk | apply JudgedInv.take | apply JudgedInv.discard | apply ite_judged | apply OptInv.mk_some | apply OptInv.mk_none
        | apply ExcInv.mk_ok | apply ExcInv.mk_error | apply OutInv.mk_next | apply CmdInv.mk_commit | apply DirInv.mk_sent | apply DirRoomInv.mk_freeing)
    | exact Kept.congr ‹Kept P _› rfl | assumption | refine Inv.congr (updFrame_inv _ _ _ _ ?_ ) rfl | refine Inv.congr (updBlock_inv _ _ _ _ ?_ ) rfl
    | split | (refine OptInv.of_eq (Q := (Kept P)) ‹_ = some _› ?_) | (refine OptInv.of_eq (Q := (CmdInv P)) ‹_ = some _› ?_) | (refine pair_of_eq ‹_ = (_, _)› ?_)
    | (refine pair_of_eq' ‹_ = (_, _)› ?_) | (refine DirInv.of_eq ‹_ = DirStep.sent _› ?_) | (refine DirRoomInv.of_eq ‹_ = DirRoom.freeing _› ?_)
    | (refine CmdInv.of_eq ‹_ = CmdResult.commit _ _ _ _› ?_) | (refine ExcInv.of_eq ‹_ = Except.ok _› ?_) | dsimp only
    | exact Kept.write hP ‹Kept P _› rfl | exact Kept.cache hP ‹Kept P _› rfl | exact Kept.clear hP ‹Kept P _› rfl
    | exact Kept.clears hP ‹Kept P _› rfl | dsimp +zetaDelta only
    | (refine OptInv.of_eq (Q := fun (t : _ × State) => (Kept P) t.2) ‹_ = some _› ?_)
    | (refine OptInv.of_eq (Q := fun (t : _ × State) => (Kept P) t.2) (t := (_, _)) ‹_ = some (_, _)› ?_)
    | (refine ExcInv.of_eq (Q := fun (t : _ × State) => (Kept P) t.2) (t := (_, _)) ‹_ = Except.ok (_, _)› ?_)

theorem flushFails_inv (s : State) (x : GwXfer) (status : Nat) (h_s : Kept P s) : Kept P (flushFails s x status) := by
  unfold flushFails
  repeat' first
    | with_reducible (first
        | assumption | intro _ | apply record_inv | apply ite_inv)
    | exact Kept.congr ‹Kept P _› rfl | assumption | split

theorem copyAnswer_inv (hP : Closed P) (s : State) (x : GwXfer) (ok : Bool) (d : List Byte) (h_s : Kept P s) : Kept P (copyAnswer s x ok d) := by
  unfold copyAnswer
  repeat' first
    | with_reducible (first
        | assumption | intro _)
    | exact True.intro | exact ⟨rfl, rfl⟩
    | with_reducible (first
        | apply (movePageIn_inv hP) | apply copyPush_inv | apply startCopy_inv | apply foldl_bind_inv | apply bind_inv | apply ite_snd | apply ite_inv
        | apply ite_opt | apply ite_cmd | apply ite_out | apply findSome_inv | apply each_inv | apply iter_inv | apply foldl_inv | apply foldl_inv2
        | apply getD_inv | apply elim_inv | apply JudgedInv.mk | apply JudgedInv.take | apply JudgedInv.discard | apply ite_judged | apply OptInv.mk_some
        | apply OptInv.mk_none | apply ExcInv.mk_ok | apply ExcInv.mk_error | apply OutInv.mk_next | apply CmdInv.mk_commit | apply DirInv.mk_sent
        | apply DirRoomInv.mk_freeing)
    | exact Kept.congr ‹Kept P _› rfl | assumption | split | dsimp only

theorem xferAnswer_inv (hP : Closed P) (s : State) (p : Nat) (h : RspHdr) (d : List Byte) (h_s : Kept P s) : Kept P (xferAnswer s p h d) := by
  unfold xferAnswer
  repeat' first
    | with_reducible (first
        | assumption | intro _)
    | exact True.intro | exact ⟨rfl, rfl⟩
    | with_reducible (first
        | apply (settleAll_inv hP) | apply reissue_inv | apply (copyAnswer_inv hP) | apply flushFails_inv | apply (fillBlock_inv hP) | apply (failBlock_inv hP)
        | apply foldl_bind_inv | apply bind_inv | apply ite_snd | apply ite_inv | apply ite_opt | apply ite_cmd | apply ite_out | apply findSome_inv
        | apply each_inv | apply iter_inv | apply foldl_inv | apply foldl_inv2 | apply getD_inv | apply elim_inv | apply JudgedInv.mk | apply JudgedInv.take
        | apply JudgedInv.discard | apply ite_judged | apply OptInv.mk_some | apply OptInv.mk_none | apply ExcInv.mk_ok | apply ExcInv.mk_error
        | apply OutInv.mk_next | apply CmdInv.mk_commit | apply DirInv.mk_sent | apply DirRoomInv.mk_freeing)
    | exact Kept.congr ‹Kept P _› rfl | assumption | split | dsimp only

theorem execGatewayXferResponse_inv (hP : Closed P) (p : Nat) (h : RspHdr) (d : List Byte) (s : State) (h_s : Kept P s) : OutInv P (execGatewayXferResponse p h d s) := by
  unfold execGatewayXferResponse
  repeat' first
    | with_reducible (first
        | assumption | intro _ | apply done_inv | apply (xferAnswer_inv hP) | apply ite_inv | apply OutInv.mk_next)
    | exact Kept.congr ‹Kept P _› rfl | assumption | split

theorem cxlPoison_inv (s : State) (fn : Nat) (handle : Nat) (q : Nat) (status : Nat) (comp : Option Nat) (recorded : Bool) (h_s : Kept P s) : Kept P (cxlPoison s fn handle q status comp recorded) := by
  unfold cxlPoison
  repeat' first
    | with_reducible (first
        | assumption | intro _ | apply meterRefused_inv | apply recordRate_inv | apply ite_inv)
    | exact Kept.congr ‹Kept P _› rfl | assumption | split

theorem cxlAccess_inv (hP : Closed P) (s : State) (fn : Nat) (handle : Nat) (slot : Nat) (offset : Nat) (len : Nat) (write : Option (List Byte)) (h_s : Kept P s) : Kept P (cxlAccess s fn handle slot offset len write) := by
  unfold cxlAccess
  repeat' first
    | with_reducible (first
        | assumption | intro _ | apply cxlPoison_inv | apply relay_inv | apply (admitReq_inv hP) | apply ite_inv)
    | exact Kept.congr ‹Kept P _› rfl | assumption | split

theorem execCxlmemAccess_inv (hP : Closed P) (fn : Nat) (handle : Nat) (slot : Nat) (offset : Nat) (len : Nat) (write : Option (List Byte)) (s : State) (h_s : Kept P s) : OutInv P (execCxlmemAccess fn handle slot offset len write s) := by
  unfold execCxlmemAccess
  repeat' first
    | with_reducible (first
        | assumption | intro _ | apply done_inv | apply (cxlAccess_inv hP) | apply ite_inv | apply OutInv.mk_next)
    | exact Kept.congr ‹Kept P _› rfl | assumption | split

/-! ### Due -/

theorem deferDue_inv (s : State) (p : Nat) (src : Nat) (tag : Nat) (h_s : Kept P s) : Kept P (deferDue s p src tag) := by
  unfold deferDue
  repeat' first
    | with_reducible (first
        | assumption | intro _)
    | exact True.intro | exact ⟨rfl, rfl⟩
    | (extract_lets +onlyGivenNames x
       first
       | (refine ((fun (hx : Kept P x) => ?_) ?_) <;> [clear_value x; (revert x; change (Kept P) _)])
       | (refine ((fun (hx : Kept P x.2) => ?_) ?_) <;> [clear_value x; (revert x; change (Kept P) (Prod.snd _))])
       | (have _ := (x : List _); clear_value x)
       | skip)
    | with_reducible (first
        | apply defer_inv | apply sendResponse_inv | apply foldl_bind_inv | apply bind_inv | apply ite_snd | apply ite_inv | apply ite_opt | apply ite_cmd
        | apply ite_out | apply findSome_inv | apply each_inv | apply iter_inv | apply foldl_inv | apply foldl_inv2 | apply getD_inv | apply elim_inv
        | apply JudgedInv.mk | apply JudgedInv.take | apply JudgedInv.discard | apply ite_judged | apply OptInv.mk_some | apply OptInv.mk_none
        | apply ExcInv.mk_ok | apply ExcInv.mk_error | apply OutInv.mk_next | apply CmdInv.mk_commit | apply DirInv.mk_sent | apply DirRoomInv.mk_freeing)
    | exact Kept.congr ‹Kept P _› rfl | assumption | split | (refine OptInv.of_eq (Q := (Kept P)) ‹_ = some _› ?_) | (refine pair_of_eq ‹_ = (_, _)› ?_)
    | (refine pair_of_eq' ‹_ = (_, _)› ?_) | (refine DirInv.of_eq ‹_ = DirStep.sent _› ?_) | (refine DirRoomInv.of_eq ‹_ = DirRoom.freeing _› ?_)
    | dsimp only

theorem execDeferredDue_inv (p : Nat) (src : Nat) (tag : Nat) (s : State) (h_s : Kept P s) : OutInv P (execDeferredDue p src tag s) := by
  unfold execDeferredDue
  repeat' first
    | with_reducible (first
        | assumption | intro _ | apply done_inv | apply deferDue_inv | apply ite_inv | apply OutInv.mk_next)
    | exact Kept.congr ‹Kept P _› rfl | assumption | split

theorem ageOut_inv (hP : Closed P) (s : State) (p : Nat) (src : Nat) (tag : Nat) (h_s : Kept P s) : Kept P (ageOut s p src tag) := by
  unfold ageOut
  repeat' first
    | with_reducible (first
        | assumption | intro _ | apply (settleAll_inv hP) | apply finish_inv | apply updPort_inv | apply endRelay_inv | apply meterRefused_inv | apply ite_inv)
    | exact Kept.congr ‹Kept P _› rfl | assumption | split

theorem execAged_inv (hP : Closed P) (p : Nat) (src : Nat) (tag : Nat) (s : State) (h_s : Kept P s) : OutInv P (execAged p src tag s) := by
  unfold execAged
  repeat' first
    | with_reducible (first
        | assumption | intro _ | apply done_inv | apply (ageOut_inv hP) | apply ite_inv | apply OutInv.mk_next)
    | exact Kept.congr ‹Kept P _› rfl | assumption | split

theorem expire_inv (hP : Closed P) (s : State) (p : Nat) (src : Nat) (tag : Nat) (h_s : Kept P s) : Kept P (expire s p src tag) := by
  unfold expire
  repeat' first
    | with_reducible (first
        | assumption | intro _ | apply record_inv | apply cancelDeltas_inv | apply (settleAll_inv hP) | apply finish_inv | apply endRelay_inv | apply ite_inv)
    | exact Kept.congr ‹Kept P _› rfl | assumption | split

theorem execRequestExpired_inv (hP : Closed P) (p : Nat) (src : Nat) (tag : Nat) (s : State) (h_s : Kept P s) : OutInv P (execRequestExpired p src tag s) := by
  unfold execRequestExpired
  repeat' first
    | with_reducible (first
        | assumption | intro _ | apply done_inv | apply (expire_inv hP) | apply ite_inv | apply OutInv.mk_next)
    | exact Kept.congr ‹Kept P _› rfl | assumption | split

theorem snoopLapse_inv (hP : Closed P) (s : State) (q : Nat) (agent : Nat) (tag : Nat) (h_s : Kept P s) : Kept P (snoopLapse s q agent tag) := by
  unfold snoopLapse
  repeat' first
    | with_reducible (first
        | assumption | intro _)
    | exact True.intro | exact ⟨rfl, rfl⟩
    | with_reducible (first
        | apply record_inv | apply setPoison_inv | apply finish_inv | apply (settleAll_inv hP) | apply snoopEnd_inv | apply foldl_bind_inv | apply bind_inv
        | apply ite_snd | apply ite_inv | apply ite_opt | apply ite_cmd | apply ite_out | apply findSome_inv | apply each_inv | apply iter_inv
        | apply foldl_inv | apply foldl_inv2 | apply getD_inv | apply elim_inv | apply JudgedInv.mk | apply JudgedInv.take | apply JudgedInv.discard
        | apply ite_judged | apply OptInv.mk_some | apply OptInv.mk_none | apply ExcInv.mk_ok | apply ExcInv.mk_error | apply OutInv.mk_next
        | apply CmdInv.mk_commit | apply DirInv.mk_sent | apply DirRoomInv.mk_freeing)
    | exact Kept.congr ‹Kept P _› rfl | assumption | split | dsimp only

theorem execSnoopTimeout_inv (hP : Closed P) (q : Nat) (agent : Nat) (tag : Nat) (s : State) (h_s : Kept P s) : OutInv P (execSnoopTimeout q agent tag s) := by
  unfold execSnoopTimeout
  repeat' first
    | with_reducible (first
        | assumption | intro _ | apply done_inv | apply (snoopLapse_inv hP) | apply ite_inv | apply OutInv.mk_next)
    | exact Kept.congr ‹Kept P _› rfl | assumption | split

theorem offerLapse_inv (hP : Closed P) (s : State) (handle : Nat) (h_s : Kept P s) : Kept P (offerLapse s handle) := by
  unfold offerLapse
  repeat' first
    | with_reducible (first
        | assumption | intro _ | apply record_inv | apply (settleAll_inv hP) | apply dropOffer_inv | apply ite_inv)
    | exact Kept.congr ‹Kept P _› rfl | assumption | split

theorem execOfferLapsed_inv (hP : Closed P) (handle : Nat) (s : State) (h_s : Kept P s) : OutInv P (execOfferLapsed handle s) := by
  unfold execOfferLapsed
  repeat' first
    | with_reducible (first
        | assumption | intro _ | apply done_inv | apply (offerLapse_inv hP) | apply ite_inv | apply OutInv.mk_next)
    | exact Kept.congr ‹Kept P _› rfl | assumption | split

theorem execOfferTableEntryFree_inv (hP : Closed P) (_q : Nat) (s : State) (h_s : Kept P s) : OutInv P (execOfferTableEntryFree _q s) := by
  unfold execOfferTableEntryFree
  repeat' first
    | with_reducible (first
        | assumption | intro _ | apply done_inv | apply (settleAll_inv hP) | apply ite_inv | apply OutInv.mk_next)
    | exact Kept.congr ‹Kept P _› rfl | assumption | split

theorem groupClose_inv (hP : Closed P) (s : State) (q : Nat) (line : Nat) (h_s : Kept P s) : Kept P (groupClose s q line) := by
  unfold groupClose
  repeat' first
    | with_reducible (first
        | assumption | intro _ | apply (settleAll_inv hP) | apply closeGroup_inv | apply ite_inv)
    | exact Kept.congr ‹Kept P _› rfl | assumption | split

theorem execCombiningGroupClose_inv (hP : Closed P) (q : Nat) (line : Nat) (s : State) (h_s : Kept P s) : OutInv P (execCombiningGroupClose q line s) := by
  unfold execCombiningGroupClose
  repeat' first
    | with_reducible (first
        | assumption | intro _ | apply done_inv | apply (groupClose_inv hP) | apply ite_inv | apply OutInv.mk_next)
    | exact Kept.congr ‹Kept P _› rfl | assumption | split

theorem tallyStep_inv (hP : Closed P) (s : State) (q : Nat) (line : Nat) (h_s : Kept P s) : Kept P (tallyStep s q line) := by
  unfold tallyStep
  repeat' first
    | with_reducible (first
        | assumption | intro _ | apply (settleAll_inv hP) | apply (absorb_inv hP) | apply ite_inv)
    | exact Kept.congr ‹Kept P _› rfl | assumption | split

theorem execTallyAbsorb_inv (hP : Closed P) (q : Nat) (line : Nat) (s : State) (h_s : Kept P s) : OutInv P (execTallyAbsorb q line s) := by
  unfold execTallyAbsorb
  repeat' first
    | with_reducible (first
        | assumption | intro _ | apply done_inv | apply (tallyStep_inv hP) | apply ite_inv | apply OutInv.mk_next)
    | exact Kept.congr ‹Kept P _› rfl | assumption | split

theorem tallyDemotion_inv (hP : Closed P) (s : State) (q : Nat) (line : Nat) (h_s : Kept P s) : Kept P (tallyDemotion s q line) := by
  unfold tallyDemotion
  repeat' first
    | with_reducible (first
        | assumption | intro _)
    | exact True.intro | exact ⟨rfl, rfl⟩
    | with_reducible (first
        | apply (settleAll_inv hP) | apply (tallyFlush_inv hP) | apply foldl_bind_inv | apply bind_inv | apply ite_snd | apply ite_inv | apply ite_opt | apply ite_cmd
        | apply ite_out | apply findSome_inv | apply each_inv | apply iter_inv | apply foldl_inv | apply foldl_inv2 | apply getD_inv | apply elim_inv
        | apply JudgedInv.mk | apply JudgedInv.take | apply JudgedInv.discard | apply ite_judged | apply OptInv.mk_some | apply OptInv.mk_none
        | apply ExcInv.mk_ok | apply ExcInv.mk_error | apply OutInv.mk_next | apply CmdInv.mk_commit | apply DirInv.mk_sent | apply DirRoomInv.mk_freeing)
    | exact Kept.congr ‹Kept P _› rfl | assumption | split | dsimp only

theorem execTallyDemote_inv (hP : Closed P) (q : Nat) (line : Nat) (s : State) (h_s : Kept P s) : OutInv P (execTallyDemote q line s) := by
  unfold execTallyDemote
  repeat' first
    | with_reducible (first
        | assumption | intro _ | apply done_inv | apply (tallyDemotion_inv hP) | apply ite_inv | apply OutInv.mk_next)
    | exact Kept.congr ‹Kept P _› rfl | assumption | split

theorem ageReq_inv (s : State) (r : Req) (h_s : Kept P s) : Kept P (ageReq s r) := by
  unfold ageReq
  repeat' first
    | with_reducible (first
        | assumption | intro _ | apply updReq_inv | apply refreshAged_inv | apply ite_inv)
    | exact Kept.congr ‹Kept P _› rfl | assumption | split

theorem present_inv (hP : Closed P) (s : State) (p : Nat) (src : Nat) (tag : Nat) (h_s : Kept P s) : Kept P (present s p src tag) := by
  unfold present
  repeat' first
    | with_reducible (first
        | assumption | intro _)
    | exact True.intro | exact ⟨rfl, rfl⟩
    | (extract_lets +onlyGivenNames x
       first
       | (refine ((fun (hx : Kept P x) => ?_) ?_) <;> [clear_value x; (revert x; change (Kept P) _)])
       | (refine ((fun (hx : Kept P x.2) => ?_) ?_) <;> [clear_value x; (revert x; change (Kept P) (Prod.snd _))])
       | (have _ := (x : List _); clear_value x)
       | skip)
    | with_reducible (first
        | apply (settleAll_inv hP) | apply updReq_inv | apply ageReq_inv | apply foldl_bind_inv | apply bind_inv | apply ite_snd | apply ite_inv | apply ite_opt
        | apply ite_cmd | apply ite_out | apply findSome_inv | apply each_inv | apply iter_inv | apply foldl_inv | apply foldl_inv2 | apply getD_inv
        | apply elim_inv | apply JudgedInv.mk | apply JudgedInv.take | apply JudgedInv.discard | apply ite_judged | apply OptInv.mk_some
        | apply OptInv.mk_none | apply ExcInv.mk_ok | apply ExcInv.mk_error | apply OutInv.mk_next | apply CmdInv.mk_commit | apply DirInv.mk_sent
        | apply DirRoomInv.mk_freeing)
    | exact Kept.congr ‹Kept P _› rfl | assumption | split | (refine OptInv.of_eq (Q := (Kept P)) ‹_ = some _› ?_) | (refine pair_of_eq ‹_ = (_, _)› ?_)
    | (refine pair_of_eq' ‹_ = (_, _)› ?_) | (refine DirInv.of_eq ‹_ = DirStep.sent _› ?_) | (refine DirRoomInv.of_eq ‹_ = DirRoom.freeing _› ?_)
    | dsimp only

theorem execLineQueuePresentation_inv (hP : Closed P) (p : Nat) (src : Nat) (tag : Nat) (s : State) (h_s : Kept P s) : OutInv P (execLineQueuePresentation p src tag s) := by
  unfold execLineQueuePresentation
  repeat' first
    | with_reducible (first
        | assumption | intro _ | apply done_inv | apply (present_inv hP) | apply ite_inv | apply OutInv.mk_next)
    | exact Kept.congr ‹Kept P _› rfl | assumption | split

theorem queueAge_inv (hP : Closed P) (s : State) (p : Nat) (src : Nat) (tag : Nat) (h_s : Kept P s) : Kept P (queueAge s p src tag) := by
  unfold queueAge
  repeat' first
    | with_reducible (first
        | assumption | intro _ | apply (settleAll_inv hP) | apply ageReq_inv | apply ite_inv)
    | exact Kept.congr ‹Kept P _› rfl | assumption | split

theorem execLineQueueAgeing_inv (hP : Closed P) (p : Nat) (src : Nat) (tag : Nat) (s : State) (h_s : Kept P s) : OutInv P (execLineQueueAgeing p src tag s) := by
  unfold execLineQueueAgeing
  repeat' first
    | with_reducible (first
        | assumption | intro _ | apply done_inv | apply (queueAge_inv hP) | apply ite_inv | apply OutInv.mk_next)
    | exact Kept.congr ‹Kept P _› rfl | assumption | split

theorem execFrameAvailable_inv (hP : Closed P) (_q : Nat) (_set : Nat) (s : State) (h_s : Kept P s) : OutInv P (execFrameAvailable _q _set s) := by
  unfold execFrameAvailable
  repeat' first
    | with_reducible (first
        | assumption | intro _ | apply done_inv | apply (settleAll_inv hP) | apply ite_inv | apply OutInv.mk_next)
    | exact Kept.congr ‹Kept P _› rfl | assumption | split

theorem refusingLapse_inv (s : State) (q : Nat) (point : Nat) (src : Nat) (stall : Nat) (svc : Nat) (qp : Nat) (h_s : Kept P s) : Kept P (refusingLapse s q point src stall svc qp) := by
  unfold refusingLapse
  repeat' first
    | with_reducible (first
        | assumption | intro _ | apply ite_inv)
    | exact Kept.congr ‹Kept P _› rfl | assumption | split

theorem execRefusingStateTimeout_inv (q : Nat) (point : Nat) (src : Nat) (stall : Nat) (svc : Nat) (qp : Nat) (s : State) (h_s : Kept P s) : OutInv P (execRefusingStateTimeout q point src stall svc qp s) := by
  unfold execRefusingStateTimeout
  repeat' first
    | with_reducible (first
        | assumption | intro _ | apply done_inv | apply refusingLapse_inv | apply ite_inv | apply OutInv.mk_next)
    | exact Kept.congr ‹Kept P _› rfl | assumption | split

theorem refuseClear_inv (s : State) (q : Nat) (point : Nat) (h_s : Kept P s) : Kept P (refuseClear s q point) := by
  unfold refuseClear
  repeat' first
    | with_reducible (first
        | assumption | intro _ | apply record_inv | apply ite_inv)
    | exact Kept.congr ‹Kept P _› rfl | assumption | split

theorem execRefuseTableClear_inv (q : Nat) (point : Nat) (s : State) (h_s : Kept P s) : OutInv P (execRefuseTableClear q point s) := by
  unfold execRefuseTableClear
  repeat' first
    | with_reducible (first
        | assumption | intro _ | apply done_inv | apply refuseClear_inv | apply ite_inv | apply OutInv.mk_next)
    | exact Kept.congr ‹Kept P _› rfl | assumption | split

theorem flushDue_inv (s : State) (handle : Nat) (block : Nat) (h_s : Kept P s) : Kept P (flushDue s handle block) := by
  unfold flushDue
  repeat' first
    | with_reducible (first
        | assumption | intro _ | apply gwFlushBlock_inv | apply ite_inv)
    | exact Kept.congr ‹Kept P _› rfl | assumption | split

theorem execGatewayFlush_inv (handle : Nat) (block : Nat) (s : State) (h_s : Kept P s) : OutInv P (execGatewayFlush handle block s) := by
  unfold execGatewayFlush
  repeat' first
    | with_reducible (first
        | assumption | intro _ | apply done_inv | apply flushDue_inv | apply ite_inv | apply OutInv.mk_next)
    | exact Kept.congr ‹Kept P _› rfl | assumption | split

theorem wheelSlot_inv (s : State) (q : Nat) (slot : Nat) (h_s : Kept P s) : Kept P (wheelSlot s q slot) := by
  unfold wheelSlot
  repeat' first
    | with_reducible (first
        | assumption | intro _)
    | exact True.intro | exact ⟨rfl, rfl⟩
    | with_reducible (first
        | apply pump_inv | apply foldl_bind_inv | apply bind_inv | apply ite_snd | apply ite_inv | apply ite_opt | apply ite_cmd | apply ite_out
        | apply findSome_inv | apply each_inv | apply iter_inv | apply foldl_inv | apply foldl_inv2 | apply getD_inv | apply elim_inv | apply JudgedInv.mk
        | apply JudgedInv.take | apply JudgedInv.discard | apply ite_judged | apply OptInv.mk_some | apply OptInv.mk_none | apply ExcInv.mk_ok
        | apply ExcInv.mk_error | apply OutInv.mk_next | apply CmdInv.mk_commit | apply DirInv.mk_sent | apply DirRoomInv.mk_freeing)
    | exact Kept.congr ‹Kept P _› rfl | assumption | split | dsimp only

theorem execFineWheelSlot_inv (q : Nat) (slot : Nat) (s : State) (h_s : Kept P s) : OutInv P (execFineWheelSlot q slot s) := by
  unfold execFineWheelSlot
  repeat' first
    | with_reducible (first
        | assumption | intro _ | apply done_inv | apply wheelSlot_inv | apply ite_inv | apply OutInv.mk_next)
    | exact Kept.congr ‹Kept P _› rfl | assumption | split

/-! ### Tiers -/

theorem updOps_inv (s : State) (c : Nat) (f : List TrayOp → List TrayOp) (h_s : Kept P s) : Kept P (updOps s c f) := by
  unfold updOps
  repeat' first
    | with_reducible (first
        | assumption | intro _ | apply updCxl_inv | apply ite_inv)
    | exact Kept.congr ‹Kept P _› rfl | assumption | split

theorem failFill_inv (s : State) (a : Nat) (seq : Word) (h_s : Kept P s) : Kept P (failFill s a seq) := by
  unfold failFill
  repeat' first
    | with_reducible (first
        | assumption | intro _)
    | exact True.intro | exact ⟨rfl, rfl⟩
    | with_reducible (first
        | apply askRebuild_inv | apply updReq_inv | apply finishCrew_inv | apply foldl_bind_inv | apply bind_inv | apply ite_snd | apply ite_inv
        | apply ite_opt | apply ite_cmd | apply ite_out | apply findSome_inv | apply each_inv | apply iter_inv | apply foldl_inv | apply foldl_inv2
        | apply getD_inv | apply elim_inv | apply JudgedInv.mk | apply JudgedInv.take | apply JudgedInv.discard | apply ite_judged | apply OptInv.mk_some
        | apply OptInv.mk_none | apply ExcInv.mk_ok | apply ExcInv.mk_error | apply OutInv.mk_next | apply CmdInv.mk_commit | apply DirInv.mk_sent
        | apply DirRoomInv.mk_freeing)
    | exact Kept.congr ‹Kept P _› rfl | assumption | split | dsimp only

theorem readFailed_inv (s : State) (c : Nat) (line : Nat) (cause : Nat) (h_s : Kept P s) : Kept P (readFailed s c line cause).1 := by
  unfold readFailed
  repeat' first
    | with_reducible (first
        | assumption | intro _ | apply record_inv | apply ite_inv | apply ite_snd)
    | exact Kept.congr ‹Kept P _› rfl | assumption | split

theorem fillLine_inv (hP : Closed P) (s : State) (c : Nat) (line : Nat) (d : List Byte) (h_s : Kept P s) : Kept P (fillLine s c line d) := by
  unfold fillLine
  extract_lets a
  generalize mediaOpen s a d = x
  clear_value a
  refine ite_inv (fun _ => Kept.write hP h_s rfl) (fun _ => h_s)

theorem trayRead_inv (hP : Closed P) (s : State) (c : Nat) (line : Nat) (answer : TrayAnswer) (h_s : Kept P s) : Kept P (trayRead s c line answer) := by
  unfold trayRead
  repeat' first
    | with_reducible (first
        | assumption | intro _)
    | exact True.intro | exact ⟨rfl, rfl⟩
    | (extract_lets +onlyGivenNames x
       first
       | (refine ((fun (hx : Kept P x) => ?_) ?_) <;> [clear_value x; (revert x; change (Kept P) _)])
       | (refine ((fun (hx : Kept P x.2) => ?_) ?_) <;> [clear_value x; (revert x; change (Kept P) (Prod.snd _))])
       | (have _ := (x : List _); clear_value x)
       | skip)
    | with_reducible (first
        | apply updOps_inv | apply updCxl_inv | apply (settleAll_inv hP) | apply (fillLine_inv hP) | apply readFailed_inv | apply setPoison_inv | apply failFill_inv
        | apply foldl_bind_inv | apply bind_inv | apply ite_snd | apply ite_inv | apply ite_opt | apply ite_cmd | apply ite_out | apply findSome_inv
        | apply each_inv | apply iter_inv | apply foldl_inv | apply foldl_inv2 | apply getD_inv | apply elim_inv | apply JudgedInv.mk | apply JudgedInv.take
        | apply JudgedInv.discard | apply ite_judged | apply OptInv.mk_some | apply OptInv.mk_none | apply ExcInv.mk_ok | apply ExcInv.mk_error
        | apply OutInv.mk_next | apply CmdInv.mk_commit | apply DirInv.mk_sent | apply DirRoomInv.mk_freeing)
    | exact Kept.congr ‹Kept P _› rfl | assumption | split | (refine OptInv.of_eq (Q := (Kept P)) ‹_ = some _› ?_) | (refine pair_of_eq ‹_ = (_, _)› ?_)
    | (refine pair_of_eq' ‹_ = (_, _)› ?_) | (refine DirInv.of_eq ‹_ = DirStep.sent _› ?_) | (refine DirRoomInv.of_eq ‹_ = DirRoom.freeing _› ?_)
    | dsimp only

theorem execTrayReadCompletion_inv (hP : Closed P) (c : Nat) (line : Nat) (answer : TrayAnswer) (s : State) (h_s : Kept P s) : OutInv P (execTrayReadCompletion c line answer s) := by
  unfold execTrayReadCompletion
  repeat' first
    | with_reducible (first
        | assumption | intro _ | apply done_inv | apply (trayRead_inv hP) | apply ite_inv | apply OutInv.mk_next)
    | exact Kept.congr ‹Kept P _› rfl | assumption | split

theorem trayReadLate_inv (hP : Closed P) (s : State) (c : Nat) (line : Nat) (h_s : Kept P s) : Kept P (trayReadLate s c line) := by
  unfold trayReadLate
  repeat' first
    | with_reducible (first
        | assumption | intro _ | apply updOps_inv | apply readFailed_inv | apply (settleAll_inv hP) | apply failFill_inv | apply ite_inv)
    | exact Kept.congr ‹Kept P _› rfl | assumption | split

theorem execTrayReadTimeout_inv (hP : Closed P) (c : Nat) (line : Nat) (s : State) (h_s : Kept P s) : OutInv P (execTrayReadTimeout c line s) := by
  unfold execTrayReadTimeout
  repeat' first
    | with_reducible (first
        | assumption | intro _ | apply done_inv | apply (trayReadLate_inv hP) | apply ite_inv | apply OutInv.mk_next)
    | exact Kept.congr ‹Kept P _› rfl | assumption | split

theorem writeFailed_inv (s : State) (c : Nat) (line : Nat) (cause : Nat) (o : TrayOp) (h_s : Kept P s) : Kept P (writeFailed s c line cause o) := by
  unfold writeFailed
  repeat' first
    | with_reducible (first
        | assumption | intro _ | apply updOps_inv | apply record_inv | apply ite_inv)
    | exact Kept.congr ‹Kept P _› rfl | assumption | split

theorem trayWritten_inv (hP : Closed P) (s : State) (c : Nat) (line : Nat) (answer : TrayAnswer) (h_s : Kept P s) : Kept P (trayWritten s c line answer) := by
  unfold trayWritten
  repeat' first
    | with_reducible (first
        | assumption | intro _ | apply updOps_inv | apply (settleAll_inv hP) | apply writeFailed_inv | apply ite_inv)
    | exact Kept.congr ‹Kept P _› rfl | assumption | split

theorem execTrayWriteCompletion_inv (hP : Closed P) (c : Nat) (line : Nat) (answer : TrayAnswer) (s : State) (h_s : Kept P s) : OutInv P (execTrayWriteCompletion c line answer s) := by
  unfold execTrayWriteCompletion
  repeat' first
    | with_reducible (first
        | assumption | intro _ | apply done_inv | apply (trayWritten_inv hP) | apply ite_inv | apply OutInv.mk_next)
    | exact Kept.congr ‹Kept P _› rfl | assumption | split

theorem trayWriteLate_inv (s : State) (c : Nat) (line : Nat) (h_s : Kept P s) : Kept P (trayWriteLate s c line) := by
  unfold trayWriteLate
  repeat' first
    | with_reducible (first
        | assumption | intro _ | apply traySettle_inv | apply updOps_inv | apply writeFailed_inv | apply ite_inv)
    | exact Kept.congr ‹Kept P _› rfl | assumption | split

theorem execTrayWriteTimeout_inv (c : Nat) (line : Nat) (s : State) (h_s : Kept P s) : OutInv P (execTrayWriteTimeout c line s) := by
  unfold execTrayWriteTimeout
  repeat' first
    | with_reducible (first
        | assumption | intro _ | apply done_inv | apply trayWriteLate_inv | apply ite_inv | apply OutInv.mk_next)
    | exact Kept.congr ‹Kept P _› rfl | assumption | split

theorem execTrayTableEntryFree_inv (c : Nat) (s : State) (h_s : Kept P s) : OutInv P (execTrayTableEntryFree c s) := by
  unfold execTrayTableEntryFree
  repeat' first
    | with_reducible (first
        | assumption | intro _ | apply done_inv | apply traySettle_inv | apply ite_inv | apply OutInv.mk_next)
    | exact Kept.congr ‹Kept P _› rfl | assumption | split

theorem cxlUp_inv (hP : Closed P) (s : State) (c : Nat) (link : CxlLink) (h_s : Kept P s) : Kept P (cxlUp s c link) := by
  unfold cxlUp
  repeat' first
    | with_reducible (first
        | assumption | intro _)
    | exact True.intro | exact ⟨rfl, rfl⟩
    | with_reducible (first
        | apply record_inv | apply drawWord_inv | apply updCxl_inv | apply (settleAll_inv hP) | apply (writeBack_inv hP) | apply foldl_bind_inv | apply bind_inv
        | apply ite_snd | apply ite_inv | apply ite_opt | apply ite_cmd | apply ite_out | apply findSome_inv | apply each_inv | apply iter_inv
        | apply foldl_inv | apply foldl_inv2 | apply getD_inv | apply elim_inv | apply JudgedInv.mk | apply JudgedInv.take | apply JudgedInv.discard
        | apply ite_judged | apply OptInv.mk_some | apply OptInv.mk_none | apply ExcInv.mk_ok | apply ExcInv.mk_error | apply OutInv.mk_next
        | apply CmdInv.mk_commit | apply DirInv.mk_sent | apply DirRoomInv.mk_freeing)
    | exact Kept.congr ‹Kept P _› rfl | assumption | split | dsimp only

theorem execCxlPortUp_inv (hP : Closed P) (c : Nat) (link : CxlLink) (s : State) (h_s : Kept P s) : OutInv P (execCxlPortUp c link s) := by
  unfold execCxlPortUp
  repeat' first
    | with_reducible (first
        | assumption | intro _ | apply done_inv | apply (cxlUp_inv hP) | apply ite_inv | apply OutInv.mk_next)
    | exact Kept.congr ‹Kept P _› rfl | assumption | split

theorem cxlDown_inv (hP : Closed P) (s : State) (c : Nat) (h_s : Kept P s) : Kept P (cxlDown s c) := by
  unfold cxlDown
  repeat' first
    | with_reducible (first
        | assumption | intro _)
    | exact True.intro | exact ⟨rfl, rfl⟩
    | with_reducible (first
        | apply record_inv | apply updCxl_inv | apply (settleAll_inv hP) | apply failFill_inv | apply foldl_bind_inv | apply bind_inv | apply ite_snd
        | apply ite_inv | apply ite_opt | apply ite_cmd | apply ite_out | apply findSome_inv | apply each_inv | apply iter_inv | apply foldl_inv
        | apply foldl_inv2 | apply getD_inv | apply elim_inv | apply JudgedInv.mk | apply JudgedInv.take | apply JudgedInv.discard | apply ite_judged
        | apply OptInv.mk_some | apply OptInv.mk_none | apply ExcInv.mk_ok | apply ExcInv.mk_error | apply OutInv.mk_next | apply CmdInv.mk_commit
        | apply DirInv.mk_sent | apply DirRoomInv.mk_freeing)
    | exact Kept.congr ‹Kept P _› rfl | assumption | split | dsimp only

theorem execCxlPortDown_inv (hP : Closed P) (c : Nat) (s : State) (h_s : Kept P s) : OutInv P (execCxlPortDown c s) := by
  unfold execCxlPortDown
  repeat' first
    | with_reducible (first
        | assumption | intro _ | apply done_inv | apply (cxlDown_inv hP) | apply ite_inv | apply OutInv.mk_next)
    | exact Kept.congr ‹Kept P _› rfl | assumption | split

theorem capacityAdd_inv (s : State) (c : Nat) (dpa : Nat) (units : Nat) (h_s : Kept P s) : Kept P (capacityAdd s c dpa units) := by
  unfold capacityAdd
  repeat' first
    | with_reducible (first
        | assumption | intro _ | apply updCxl_inv | apply ite_inv)
    | exact Kept.congr ‹Kept P _› rfl | assumption | split

theorem execDynamicCapacityAdd_inv (c : Nat) (dpa : Nat) (units : Nat) (s : State) (h_s : Kept P s) : OutInv P (execDynamicCapacityAdd c dpa units s) := by
  unfold execDynamicCapacityAdd
  repeat' first
    | with_reducible (first
        | assumption | intro _ | apply done_inv | apply capacityAdd_inv | apply ite_inv | apply OutInv.mk_next)
    | exact Kept.congr ‹Kept P _› rfl | assumption | split

theorem lifeStack_inv (s : State) (stack : Nat) (f : StackLife → StackLife) (h_s : Kept P s) : Kept P (lifeStack s stack f) := by
  unfold lifeStack
  repeat' first
    | with_reducible (first
        | assumption | intro _ | apply ite_inv)
    | exact Kept.congr ‹Kept P _› rfl | assumption | split

theorem drainFrames_inv (hP : Closed P) (s : State) (q : Nat) (stack : Nat) (pc : Nat) (h_s : Kept P s) : Kept P (drainFrames s q stack pc) := by
  unfold drainFrames
  repeat' first
    | with_reducible (first
        | assumption | intro _)
    | exact True.intro | exact ⟨rfl, rfl⟩
    | with_reducible (first
        | apply (writeBack_inv hP) | apply foldl_bind_inv | apply bind_inv | apply ite_snd | apply ite_inv | apply ite_opt | apply ite_cmd | apply ite_out
        | apply findSome_inv | apply each_inv | apply iter_inv | apply foldl_inv | apply foldl_inv2 | apply getD_inv | apply elim_inv | apply JudgedInv.mk
        | apply JudgedInv.take | apply JudgedInv.discard | apply ite_judged | apply OptInv.mk_some | apply OptInv.mk_none | apply ExcInv.mk_ok
        | apply ExcInv.mk_error | apply OutInv.mk_next | apply CmdInv.mk_commit | apply DirInv.mk_sent | apply DirRoomInv.mk_freeing)
    | exact Kept.congr ‹Kept P _› rfl | assumption | split | dsimp only

theorem startDrain_inv (hP : Closed P) (s : State) (q : Nat) (stack : Nat) (pc : Nat) (retire : Bool) (h_s : Kept P s) : Kept P (startDrain s q stack pc retire) := by
  unfold startDrain
  repeat' first
    | with_reducible (first
        | assumption | intro _ | apply (drainFrames_inv hP) | apply ite_inv)
    | exact Kept.congr ‹Kept P _› rfl | assumption | split

theorem scheduleRetire_inv (hP : Closed P) (s : State) (q : Nat) (stack : Nat) (pc : Nat) (h_s : Kept P s) : Kept P (scheduleRetire s q stack pc) := by
  unfold scheduleRetire
  repeat' first
    | with_reducible (first
        | assumption | intro _ | apply record_inv | apply (startDrain_inv hP) | apply held_inv | apply ite_inv)
    | exact Kept.congr ‹Kept P _› rfl | assumption | split

theorem correctable_inv (hP : Closed P) (s : State) (q : Nat) (stack : Nat) (pc : Nat) (row : Nat) (h_s : Kept P s) : Kept P (correctable s q stack pc row) := by
  unfold correctable
  repeat' first
    | with_reducible (first
        | assumption | intro _ | apply lifeStack_inv | apply record_inv | apply (scheduleRetire_inv hP) | apply (startDrain_inv hP) | apply ite_inv)
    | exact Kept.congr ‹Kept P _› rfl | assumption | split

theorem execHbmCorrectableError_inv (hP : Closed P) (q : Nat) (stack : Nat) (pc : Nat) (row : Nat) (s : State) (h_s : Kept P s) : OutInv P (execHbmCorrectableError q stack pc row s) := by
  unfold execHbmCorrectableError
  repeat' first
    | with_reducible (first
        | assumption | intro _ | apply done_inv | apply (correctable_inv hP) | apply ite_inv | apply OutInv.mk_next)
    | exact Kept.congr ‹Kept P _› rfl | assumption | split

theorem uncorrectable_inv (hP : Closed P) (s : State) (q : Nat) (stack : Nat) (pc : Nat) (bank : Nat) (line : Nat) (h_s : Kept P s) : Kept P (uncorrectable s q stack pc bank line) := by
  unfold uncorrectable
  repeat' first
    | with_reducible (first
        | assumption | intro _ | apply setPoison_inv | apply lifeStack_inv | apply (scheduleRetire_inv hP) | apply ite_inv)
    | exact Kept.congr ‹Kept P _› rfl | assumption | split

theorem execHbmUncorrectableError_inv (hP : Closed P) (q : Nat) (stack : Nat) (pc : Nat) (bank : Nat) (line : Nat) (s : State) (h_s : Kept P s) : OutInv P (execHbmUncorrectableError q stack pc bank line s) := by
  unfold execHbmUncorrectableError
  repeat' first
    | with_reducible (first
        | assumption | intro _ | apply done_inv | apply (uncorrectable_inv hP) | apply ite_inv | apply OutInv.mk_next)
    | exact Kept.congr ‹Kept P _› rfl | assumption | split

theorem migrate_inv (hP : Closed P) (s : State) (q p new : Nat) (h_s : Kept P s) : Kept P (migrate s q p new) := by
  unfold migrate
  generalize (2 : Nat) ^ 21 = n
  extract_lets +onlyGivenNames from_ inPage moved d bad
  clear_value from_ d
  exact each_inv _ _ (fun g t h => putRegion_inv t _ h) _ (Kept.mk (hP.write { s.view with mem := Memory.clear (Memory.clear s.tier.mem (nearBase q p) n) (nearBase q new) n } _ _ _
    (hP.clear { s.view with mem := Memory.clear s.tier.mem (nearBase q p) n } _ _ s.tier.lineCache (hP.clear s.view _ _ s.tier.lineCache h_s))))

theorem updDrain_inv (s : State) (d : Drain) (f : Drain → Drain) (h_s : Kept P s) : Kept P (updDrain s d f) := by
  unfold updDrain
  repeat' first
    | with_reducible (first
        | assumption | intro _ | apply ite_inv)
    | exact Kept.congr ‹Kept P _› rfl | assumption | split

theorem clearFrames_inv (hP : Closed P) (s : State) (fs : List Frame) (h_s : Kept P s) : Kept P (clearFrames s fs) := by
  unfold clearFrames
  repeat' first
    | with_reducible (first
        | assumption | intro _)
    | exact True.intro | exact ⟨rfl, rfl⟩
    | with_reducible (first
        | apply (writeBack_inv hP) | apply (evictFrame_inv hP) | apply foldl_bind_inv | apply bind_inv | apply ite_snd | apply ite_inv | apply ite_opt | apply ite_cmd
        | apply ite_out | apply findSome_inv | apply each_inv | apply iter_inv | apply foldl_inv | apply foldl_inv2 | apply getD_inv | apply elim_inv
        | apply JudgedInv.mk | apply JudgedInv.take | apply JudgedInv.discard | apply ite_judged | apply OptInv.mk_some | apply OptInv.mk_none
        | apply ExcInv.mk_ok | apply ExcInv.mk_error | apply OutInv.mk_next | apply CmdInv.mk_commit | apply DirInv.mk_sent | apply DirRoomInv.mk_freeing)
    | exact Kept.congr ‹Kept P _› rfl | assumption | split | dsimp only

theorem drainStep_inv (hP : Closed P) (s : State) (d : Drain) (h_s : Kept P s) : Kept P (drainStep s d) := by
  unfold drainStep
  repeat' first
    | with_reducible (first
        | assumption | intro _)
    | exact True.intro | exact ⟨rfl, rfl⟩
    | with_reducible (first
        | apply (clearFrames_inv hP) | apply updDrain_inv | apply (migrate_inv hP) | apply foldl_bind_inv | apply bind_inv | apply ite_snd | apply ite_inv
        | apply ite_opt | apply ite_cmd | apply ite_out | apply findSome_inv | apply each_inv | apply iter_inv | apply foldl_inv | apply foldl_inv2
        | apply getD_inv | apply elim_inv | apply JudgedInv.mk | apply JudgedInv.take | apply JudgedInv.discard | apply ite_judged | apply OptInv.mk_some
        | apply OptInv.mk_none | apply ExcInv.mk_ok | apply ExcInv.mk_error | apply OutInv.mk_next | apply CmdInv.mk_commit | apply DirInv.mk_sent
        | apply DirRoomInv.mk_freeing)
    | exact Kept.congr ‹Kept P _› rfl | assumption | split | dsimp only

theorem drainSteps_inv (hP : Closed P) (s : State) (h_s : Kept P s) : Kept P (drainSteps s) := by
  unfold drainSteps
  repeat' first
    | with_reducible (first
        | assumption | intro _)
    | exact True.intro | exact ⟨rfl, rfl⟩
    | with_reducible (first
        | apply (drainStep_inv hP) | apply foldl_bind_inv | apply bind_inv | apply ite_snd | apply ite_inv | apply ite_opt | apply ite_cmd | apply ite_out
        | apply findSome_inv | apply each_inv | apply iter_inv | apply foldl_inv | apply foldl_inv2 | apply getD_inv | apply elim_inv | apply JudgedInv.mk
        | apply JudgedInv.take | apply JudgedInv.discard | apply ite_judged | apply OptInv.mk_some | apply OptInv.mk_none | apply ExcInv.mk_ok
        | apply ExcInv.mk_error | apply OutInv.mk_next | apply CmdInv.mk_commit | apply DirInv.mk_sent | apply DirRoomInv.mk_freeing)
    | exact Kept.congr ‹Kept P _› rfl | assumption | split | dsimp only

theorem drainDone_inv (hP : Closed P) (s : State) (q : Nat) (stack : Nat) (pc : Nat) (h_s : Kept P s) : Kept P (drainDone s q stack pc) := by
  unfold drainDone
  repeat' first
    | with_reducible (first
        | assumption | intro _)
    | exact True.intro | exact ⟨rfl, rfl⟩
    | (extract_lets +onlyGivenNames x
       first
       | (refine ((fun (hx : Kept P x) => ?_) ?_) <;> [clear_value x; (revert x; change (Kept P) _)])
       | (refine ((fun (hx : Kept P x.2) => ?_) ?_) <;> [clear_value x; (revert x; change (Kept P) (Prod.snd _))])
       | (have _ := (x : List _); clear_value x)
       | skip)
    | with_reducible (first
        | apply lifeStack_inv | apply record_inv | apply (settleAll_inv hP) | apply foldl_bind_inv | apply bind_inv | apply ite_snd | apply ite_inv | apply ite_opt
        | apply ite_cmd | apply ite_out | apply findSome_inv | apply each_inv | apply iter_inv | apply foldl_inv | apply foldl_inv2 | apply getD_inv
        | apply elim_inv | apply JudgedInv.mk | apply JudgedInv.take | apply JudgedInv.discard | apply ite_judged | apply OptInv.mk_some
        | apply OptInv.mk_none | apply ExcInv.mk_ok | apply ExcInv.mk_error | apply OutInv.mk_next | apply CmdInv.mk_commit | apply DirInv.mk_sent
        | apply DirRoomInv.mk_freeing)
    | exact Kept.congr ‹Kept P _› rfl | assumption | split | (refine OptInv.of_eq (Q := (Kept P)) ‹_ = some _› ?_) | (refine pair_of_eq ‹_ = (_, _)› ?_)
    | (refine pair_of_eq' ‹_ = (_, _)› ?_) | (refine DirInv.of_eq ‹_ = DirStep.sent _› ?_) | (refine DirRoomInv.of_eq ‹_ = DirRoom.freeing _› ?_)
    | dsimp only

theorem execPcDrainDone_inv (hP : Closed P) (q : Nat) (stack : Nat) (pc : Nat) (s : State) (h_s : Kept P s) : OutInv P (execPcDrainDone q stack pc s) := by
  unfold execPcDrainDone
  repeat' first
    | with_reducible (first
        | assumption | intro _ | apply done_inv | apply (drainDone_inv hP) | apply ite_inv | apply OutInv.mk_next)
    | exact Kept.congr ‹Kept P _› rfl | assumption | split

theorem writebackDue_inv (hP : Closed P) (s : State) (q : Nat) (line : Nat) (h_s : Kept P s) : Kept P (writebackDue s q line) := by
  unfold writebackDue
  repeat' first
    | with_reducible (first
        | assumption | intro _ | apply (writeBack_inv hP) | apply ite_inv)
    | exact Kept.congr ‹Kept P _› rfl | assumption | split

theorem execDirtyWritebackDue_inv (hP : Closed P) (q : Nat) (line : Nat) (s : State) (h_s : Kept P s) : OutInv P (execDirtyWritebackDue q line s) := by
  unfold execDirtyWritebackDue
  repeat' first
    | with_reducible (first
        | assumption | intro _ | apply done_inv | apply (writebackDue_inv hP) | apply ite_inv | apply OutInv.mk_next)
    | exact Kept.congr ‹Kept P _› rfl | assumption | split

end Sys2Proof.Machine
end

