-- ==== Sys2Proof/Laws/KeepsMailbox.lean ====
section
/-! SUPPORT. The mailboxes and their commands keep every property of the view that memory operations keep: one lemma for each function, citing those of the
functions it calls. A function that does not write memory keeps every property of the view: its lemma asks nothing of the property. -/

namespace Sys2Proof.Machine

set_option linter.all false

variable {P : View → Prop}

/-! ### MboxCore -/

theorem mbAnswer_inv (s : State) (iss : Issuer) (words : List Word) (h_s : Kept P s) : Kept P (mbAnswer s iss words) := by
  unfold mbAnswer
  repeat' first
    | with_reducible (first
        | assumption | intro _ | apply send_inv | apply interrupt_inv | apply ite_inv)
    | exact Kept.congr ‹Kept P _› rfl | assumption | split

theorem mbRefuse_inv (s : State) (p : Nat) (src : Nat) (xid : Nat) (mstat : Nat) (retry : Nat) (h_s : Kept P s) : Kept P (mbRefuse s p src xid mstat retry) := by
  unfold mbRefuse
  repeat' first
    | with_reducible (first
        | assumption | intro _ | apply send_inv | apply ite_inv)
    | exact Kept.congr ‹Kept P _› rfl | assumption | split

theorem auditCmd_inv (s : State) (c : Cmd) (base : Nat) (status : Nat) (cause : Nat) (p3 : Word) (h_s : Kept P s) : Kept P (auditCmd s c base status cause p3) := by
  unfold auditCmd
  repeat' first
    | with_reducible (first
        | assumption | intro _ | apply record_inv | apply ite_inv)
    | exact Kept.congr ‹Kept P _› rfl | assumption | split

theorem bad_inv (cause : Nat)  : CmdInv P (bad cause) := by
  unfold bad
  repeat' first
    | with_reducible (first
        | assumption | intro _)
    | exact True.intro | exact ⟨rfl, rfl⟩
    | with_reducible (first
        | apply refuse_inv | apply foldl_bind_inv | apply bind_inv | apply ite_snd | apply ite_inv | apply ite_opt | apply ite_cmd | apply ite_out
        | apply findSome_inv | apply each_inv | apply iter_inv | apply foldl_inv | apply foldl_inv2 | apply getD_inv | apply elim_inv | apply JudgedInv.mk
        | apply JudgedInv.take | apply JudgedInv.discard | apply ite_judged | apply OptInv.mk_some | apply OptInv.mk_none | apply ExcInv.mk_ok
        | apply ExcInv.mk_error | apply OutInv.mk_next | apply CmdInv.mk_commit | apply DirInv.mk_sent | apply DirRoomInv.mk_freeing)
    | exact Kept.congr ‹Kept P _› rfl | assumption | split | dsimp only

theorem held_inv (feature : Nat) (stall : Nat) (princ : Nat) (bell : Word) (obj : Word)  : CmdInv P (held feature stall princ bell obj) := by
  unfold held
  repeat' first
    | with_reducible (first
        | assumption | intro _)
    | exact True.intro | exact ⟨rfl, rfl⟩
    | with_reducible (first
        | apply refuse_inv | apply foldl_bind_inv | apply bind_inv | apply ite_snd | apply ite_inv | apply ite_opt | apply ite_cmd | apply ite_out
        | apply findSome_inv | apply each_inv | apply iter_inv | apply foldl_inv | apply foldl_inv2 | apply getD_inv | apply elim_inv | apply JudgedInv.mk
        | apply JudgedInv.take | apply JudgedInv.discard | apply ite_judged | apply OptInv.mk_some | apply OptInv.mk_none | apply ExcInv.mk_ok
        | apply ExcInv.mk_error | apply OutInv.mk_next | apply CmdInv.mk_commit | apply DirInv.mk_sent | apply DirRoomInv.mk_freeing)
    | exact Kept.congr ‹Kept P _› rfl | assumption | split | dsimp only

theorem noRoom_inv   : CmdInv P (noRoom ) := by
  unfold noRoom
  repeat' first
    | with_reducible (first
        | assumption | intro _ | apply held_inv | apply ite_inv | apply CmdInv.mk_commit | apply ite_cmd)
    | exact Kept.congr ‹Kept P _› rfl | assumption | split

theorem reply_inv (s : State) (words : List Word) (h_s : Kept P s) : CmdInv P (reply s words) := by
  unfold reply
  repeat' first
    | with_reducible (first
        | assumption | intro _ | apply ite_inv | apply CmdInv.mk_commit | apply ite_cmd)
    | exact Kept.congr ‹Kept P _› rfl | assumption | split

theorem updSlot_inv (s : State) (h : Nat) (slot : Nat) (f : KeySlot → KeySlot) (h_s : Kept P s) : Kept P (updSlot s h slot f) := by
  unfold updSlot
  repeat' first
    | with_reducible (first
        | assumption | intro _ | apply updRegion_inv | apply ite_inv)
    | exact Kept.congr ‹Kept P _› rfl | assumption | split

theorem updIndex_inv (s : State) (n : Nat) (f : Index → Index) (h_s : Kept P s) : Kept P (updIndex s n f) := by
  unfold updIndex
  repeat' first
    | with_reducible (first
        | assumption | intro _ | apply ite_inv)
    | exact Kept.congr ‹Kept P _› rfl | assumption | split

theorem eachPort_inv (s : State) (ports : List Nat) (f : PortS → PortS) (h_s : Kept P s) : Kept P (eachPort s ports f) := by
  unfold eachPort
  repeat' first
    | with_reducible (first
        | assumption | intro _)
    | exact True.intro | exact ⟨rfl, rfl⟩
    | with_reducible (first
        | apply updPort_inv | apply foldl_bind_inv | apply bind_inv | apply ite_snd | apply ite_inv | apply ite_opt | apply ite_cmd | apply ite_out
        | apply findSome_inv | apply each_inv | apply iter_inv | apply foldl_inv | apply foldl_inv2 | apply getD_inv | apply elim_inv | apply JudgedInv.mk
        | apply JudgedInv.take | apply JudgedInv.discard | apply ite_judged | apply OptInv.mk_some | apply OptInv.mk_none | apply ExcInv.mk_ok
        | apply ExcInv.mk_error | apply OutInv.mk_next | apply CmdInv.mk_commit | apply DirInv.mk_sent | apply DirRoomInv.mk_freeing)
    | exact Kept.congr ‹Kept P _› rfl | assumption | split | dsimp only

theorem zeroNear_inv (hP : Closed P) (s : State) (g : Region) (h_s : Kept P s) : Kept P (zeroNear s g) := by
  unfold zeroNear
  repeat' first
    | with_reducible (first
        | assumption | intro _)
    | exact True.intro | exact ⟨rfl, rfl⟩
    | (extract_lets +onlyGivenNames x
       first
       | (refine ((fun (hx : Kept P x) => ?_) ?_) <;> [clear_value x; (revert x; change (Kept P) _)])
       | (refine ((fun (hx : Kept P x.2) => ?_) ?_) <;> [clear_value x; (revert x; change (Kept P) (Prod.snd _))])
       | (refine ((fun (hx : OptInv (Kept P) x) => ?_) ?_) <;> [clear_value x; (revert x; change OptInv (Kept P) _)])
       | (refine ((fun (hx : CmdInv P x) => ?_) ?_) <;> [clear_value x; (revert x; change (CmdInv P) _)])
       | (have _ := (x : List _); clear_value x)
       | skip)
    | with_reducible (first
        | apply foldl_bind_inv | apply bind_inv | apply ite_snd | apply ite_inv | apply ite_opt | apply ite_cmd | apply ite_out | apply findSome_inv
        | apply each_inv | apply iter_inv | apply foldl_inv | apply foldl_inv2 | apply getD_inv | apply elim_inv | apply JudgedInv.mk | apply JudgedInv.take
        | apply JudgedInv.discard | apply ite_judged | apply OptInv.mk_some | apply OptInv.mk_none | apply ExcInv.mk_ok | apply ExcInv.mk_error
        | apply OutInv.mk_next | apply CmdInv.mk_commit | apply DirInv.mk_sent | apply DirRoomInv.mk_freeing)
    | exact Kept.congr ‹Kept P _› rfl | assumption | split | (refine OptInv.of_eq (Q := (Kept P)) ‹_ = some _› ?_)
    | (refine OptInv.of_eq (Q := (CmdInv P)) ‹_ = some _› ?_) | (refine pair_of_eq ‹_ = (_, _)› ?_) | (refine pair_of_eq' ‹_ = (_, _)› ?_)
    | (refine DirInv.of_eq ‹_ = DirStep.sent _› ?_) | (refine DirRoomInv.of_eq ‹_ = DirRoom.freeing _› ?_)
    | (refine CmdInv.of_eq ‹_ = CmdResult.commit _ _ _ _› ?_) | (refine ExcInv.of_eq ‹_ = Except.ok _› ?_) | dsimp only
    | exact Kept.write hP ‹Kept P _› rfl | exact Kept.cache hP ‹Kept P _› rfl | exact Kept.clear hP ‹Kept P _› rfl
    | exact Kept.clears hP ‹Kept P _› rfl | dsimp +zetaDelta only
    | (refine OptInv.of_eq (Q := fun (t : _ × State) => (Kept P) t.2) ‹_ = some _› ?_)
    | (refine OptInv.of_eq (Q := fun (t : _ × State) => (Kept P) t.2) (t := (_, _)) ‹_ = some (_, _)› ?_)
    | (refine ExcInv.of_eq (Q := fun (t : _ × State) => (Kept P) t.2) (t := (_, _)) ‹_ = Except.ok (_, _)› ?_)

theorem applyChange_inv (hP : Closed P) (s : State) (a1 : Change) (h_s : Kept P s) : Kept P (applyChange s a1) := by
  unfold applyChange
  repeat' first
    | with_reducible (first
        | assumption | intro _)
    | exact True.intro | exact ⟨rfl, rfl⟩
    | (extract_lets +onlyGivenNames x
       first
       | (refine ((fun (hx : Kept P x) => ?_) ?_) <;> [clear_value x; (revert x; change (Kept P) _)])
       | (refine ((fun (hx : Kept P x.2) => ?_) ?_) <;> [clear_value x; (revert x; change (Kept P) (Prod.snd _))])
       | (refine ((fun (hx : OptInv (Kept P) x) => ?_) ?_) <;> [clear_value x; (revert x; change OptInv (Kept P) _)])
       | (refine ((fun (hx : CmdInv P x) => ?_) ?_) <;> [clear_value x; (revert x; change (CmdInv P) _)])
       | (have _ := (x : List _); clear_value x)
       | skip)
    | with_reducible (first
        | apply putRegion_inv | apply updRegion_inv | apply updSlot_inv | apply eachPort_inv | apply updIndex_inv | apply dropHeldOf_inv | apply (zeroNear_inv hP)
        | apply updCxl_inv | apply retain_inv | apply held_inv | apply (expelled_inv hP) | apply foldl_bind_inv | apply bind_inv | apply ite_snd | apply ite_inv
        | apply ite_opt | apply ite_cmd | apply ite_out | apply findSome_inv | apply each_inv | apply iter_inv | apply foldl_inv | apply foldl_inv2
        | apply getD_inv | apply elim_inv | apply JudgedInv.mk | apply JudgedInv.take | apply JudgedInv.discard | apply ite_judged | apply OptInv.mk_some
        | apply OptInv.mk_none | apply ExcInv.mk_ok | apply ExcInv.mk_error | apply OutInv.mk_next | apply CmdInv.mk_commit | apply DirInv.mk_sent
        | apply DirRoomInv.mk_freeing)
    | exact Kept.congr ‹Kept P _› rfl | assumption | refine Inv.congr (putRegion_inv _ _ ?_ ) rfl | refine Inv.congr (updRegion_inv _ _ _ ?_ ) rfl
    | refine Inv.congr (updSlot_inv _ _ _ _ ?_ ) rfl | refine Inv.congr (eachPort_inv _ _ _ ?_ ) rfl | refine Inv.congr (updIndex_inv _ _ _ ?_ ) rfl
    | refine Inv.congr (dropHeldOf_inv _ _ ?_ ) rfl | refine Inv.congr ((zeroNear_inv hP) _ _ ?_ ) rfl | refine Inv.congr (updCxl_inv _ _ _ ?_ ) rfl
    | refine Inv.congr (retain_inv _ _ _ ?_ ) rfl | refine Inv.congr ((expelled_inv hP) _ _ ?_ ) rfl | split | (refine OptInv.of_eq (Q := (Kept P)) ‹_ = some _› ?_)
    | (refine OptInv.of_eq (Q := (CmdInv P)) ‹_ = some _› ?_) | (refine pair_of_eq ‹_ = (_, _)› ?_) | (refine pair_of_eq' ‹_ = (_, _)› ?_)
    | (refine DirInv.of_eq ‹_ = DirStep.sent _› ?_) | (refine DirRoomInv.of_eq ‹_ = DirRoom.freeing _› ?_)
    | (refine CmdInv.of_eq ‹_ = CmdResult.commit _ _ _ _› ?_) | (refine ExcInv.of_eq ‹_ = Except.ok _› ?_) | dsimp only
    | exact Kept.write hP ‹Kept P _› rfl | exact Kept.cache hP ‹Kept P _› rfl | exact Kept.clear hP ‹Kept P _› rfl
    | exact Kept.clears hP ‹Kept P _› rfl | dsimp +zetaDelta only
    | (refine OptInv.of_eq (Q := fun (t : _ × State) => (Kept P) t.2) ‹_ = some _› ?_)
    | (refine OptInv.of_eq (Q := fun (t : _ × State) => (Kept P) t.2) (t := (_, _)) ‹_ = some (_, _)› ?_)
    | (refine ExcInv.of_eq (Q := fun (t : _ × State) => (Kept P) t.2) (t := (_, _)) ‹_ = Except.ok (_, _)› ?_)

theorem committed_inv (hP : Closed P) (s : State) (h_s : Kept P s) : Kept P (committed s) := by
  unfold committed
  repeat' first
    | with_reducible (first
        | assumption | intro _)
    | exact True.intro | exact ⟨rfl, rfl⟩
    | with_reducible (first
        | apply (applyChange_inv hP) | apply foldl_bind_inv | apply bind_inv | apply ite_snd | apply ite_inv | apply ite_opt | apply ite_cmd | apply ite_out
        | apply findSome_inv | apply each_inv | apply iter_inv | apply foldl_inv | apply foldl_inv2 | apply getD_inv | apply elim_inv | apply JudgedInv.mk
        | apply JudgedInv.take | apply JudgedInv.discard | apply ite_judged | apply OptInv.mk_some | apply OptInv.mk_none | apply ExcInv.mk_ok
        | apply ExcInv.mk_error | apply OutInv.mk_next | apply CmdInv.mk_commit | apply DirInv.mk_sent | apply DirRoomInv.mk_freeing)
    | exact Kept.congr ‹Kept P _› rfl | assumption | split | dsimp only

theorem askArea_inv (hP : Closed P) (s : State) (c : Cmd) (e : CmdEntry) (h_s : Kept P s) : Kept P (askArea s c e) := by
  unfold askArea
  repeat' first
    | with_reducible (first
        | assumption | intro _)
    | exact True.intro | exact ⟨rfl, rfl⟩
    | (extract_lets +onlyGivenNames x
       first
       | (refine ((fun (hx : Kept P x) => ?_) ?_) <;> [clear_value x; (revert x; change (Kept P) _)])
       | (refine ((fun (hx : Kept P x.2) => ?_) ?_) <;> [clear_value x; (revert x; change (Kept P) (Prod.snd _))])
       | (refine ((fun (hx : OptInv (Kept P) x) => ?_) ?_) <;> [clear_value x; (revert x; change OptInv (Kept P) _)])
       | (refine ((fun (hx : CmdInv P x) => ?_) ?_) <;> [clear_value x; (revert x; change (CmdInv P) _)])
       | (have _ := (x : List _); clear_value x)
       | skip)
    | with_reducible (first
        | apply (submit_inv hP) | apply (mailbox_inv hP) | apply foldl_bind_inv | apply bind_inv | apply ite_snd | apply ite_inv | apply ite_opt | apply ite_cmd
        | apply ite_out | apply findSome_inv | apply each_inv | apply iter_inv | apply foldl_inv | apply foldl_inv2 | apply getD_inv | apply elim_inv
        | apply JudgedInv.mk | apply JudgedInv.take | apply JudgedInv.discard | apply ite_judged | apply OptInv.mk_some | apply OptInv.mk_none
        | apply ExcInv.mk_ok | apply ExcInv.mk_error | apply OutInv.mk_next | apply CmdInv.mk_commit | apply DirInv.mk_sent | apply DirRoomInv.mk_freeing)
    | exact Kept.congr ‹Kept P _› rfl | assumption | refine Inv.congr ((submit_inv hP) _ _ _ _ _ ?_ ) rfl | refine Inv.congr ((mailbox_inv hP) _ _ _ _ ?_ ) rfl
    | split | (refine OptInv.of_eq (Q := (Kept P)) ‹_ = some _› ?_) | (refine OptInv.of_eq (Q := (CmdInv P)) ‹_ = some _› ?_) | (refine pair_of_eq ‹_ = (_, _)› ?_)
    | (refine pair_of_eq' ‹_ = (_, _)› ?_) | (refine DirInv.of_eq ‹_ = DirStep.sent _› ?_) | (refine DirRoomInv.of_eq ‹_ = DirRoom.freeing _› ?_)
    | (refine CmdInv.of_eq ‹_ = CmdResult.commit _ _ _ _› ?_) | (refine ExcInv.of_eq ‹_ = Except.ok _› ?_) | dsimp only | apply (submit_inv hP)
    | apply (mailbox_inv hP) | exact Kept.write hP ‹Kept P _› rfl | exact Kept.cache hP ‹Kept P _› rfl
    | exact Kept.clear hP ‹Kept P _› rfl
    | exact Kept.clears hP ‹Kept P _› rfl | dsimp +zetaDelta only
    | (refine OptInv.of_eq (Q := fun (t : _ × State) => (Kept P) t.2) ‹_ = some _› ?_)
    | (refine OptInv.of_eq (Q := fun (t : _ × State) => (Kept P) t.2) (t := (_, _)) ‹_ = some (_, _)› ?_)
    | (refine ExcInv.of_eq (Q := fun (t : _ × State) => (Kept P) t.2) (t := (_, _)) ‹_ = Except.ok (_, _)› ?_)

theorem dropCmd_inv (s : State) (n : Nat) (h_s : Kept P s) : Kept P (dropCmd s n) := by
  unfold dropCmd
  repeat' first
    | with_reducible (first
        | assumption | intro _ | apply ite_inv)
    | exact Kept.congr ‹Kept P _› rfl | assumption | split

theorem updCmd_inv (s : State) (n : Nat) (f : Cmd → Cmd) (h_s : Kept P s) : Kept P (updCmd s n f) := by
  unfold updCmd
  repeat' first
    | with_reducible (first
        | assumption | intro _ | apply ite_inv)
    | exact Kept.congr ‹Kept P _› rfl | assumption | split

theorem refuseCmd_inv (s : State) (c : Cmd) (status : Nat) (cause : Nat) (words : List Word) (audit : Bool) (h_s : Kept P s) : Kept P (refuseCmd s c status cause words audit) := by
  unfold refuseCmd
  repeat' first
    | with_reducible (first
        | assumption | intro _ | apply dropCmd_inv | apply auditCmd_inv | apply mbAnswer_inv | apply ite_inv)
    | exact Kept.congr ‹Kept P _› rfl | assumption | split

theorem mirrorChanges_inv (hP : Closed P) (s : State) (changes : List Change) (h_s : Kept P s) : Kept P (mirrorChanges s changes) := by
  unfold mirrorChanges
  repeat' first
    | with_reducible (first
        | assumption | intro _)
    | exact True.intro | exact ⟨rfl, rfl⟩
    | with_reducible (first
        | apply (committed_inv hP) | apply mirrorRecord_inv | apply foldl_bind_inv | apply bind_inv | apply ite_snd | apply ite_inv | apply ite_opt | apply ite_cmd
        | apply ite_out | apply findSome_inv | apply each_inv | apply iter_inv | apply foldl_inv | apply foldl_inv2 | apply getD_inv | apply elim_inv
        | apply JudgedInv.mk | apply JudgedInv.take | apply JudgedInv.discard | apply ite_judged | apply OptInv.mk_some | apply OptInv.mk_none
        | apply ExcInv.mk_ok | apply ExcInv.mk_error | apply OutInv.mk_next | apply CmdInv.mk_commit | apply DirInv.mk_sent | apply DirRoomInv.mk_freeing)
    | exact Kept.congr ‹Kept P _› rfl | assumption | split | dsimp only

theorem commitCmd_inv (hP : Closed P) (s : State) (c : Cmd) (changes : List Change) (result : List Word) (drain : Option DrainOn) (h_s : Kept P s) : Kept P (commitCmd s c changes result drain) := by
  unfold commitCmd
  repeat' first
    | with_reducible (first
        | assumption | intro _)
    | exact True.intro | exact ⟨rfl, rfl⟩
    | (extract_lets +onlyGivenNames x
       first
       | (refine ((fun (hx : Kept P x) => ?_) ?_) <;> [clear_value x; (revert x; change (Kept P) _)])
       | (refine ((fun (hx : Kept P x.2) => ?_) ?_) <;> [clear_value x; (revert x; change (Kept P) (Prod.snd _))])
       | (have _ := (x : List _); clear_value x)
       | skip)
    | with_reducible (first
        | apply auditCmd_inv | apply mbAnswer_inv | apply dropCmd_inv | apply updCmd_inv | apply (mirrorChanges_inv hP) | apply foldl_bind_inv | apply bind_inv
        | apply ite_snd | apply ite_inv | apply ite_opt | apply ite_cmd | apply ite_out | apply findSome_inv | apply each_inv | apply iter_inv
        | apply foldl_inv | apply foldl_inv2 | apply getD_inv | apply elim_inv | apply JudgedInv.mk | apply JudgedInv.take | apply JudgedInv.discard
        | apply ite_judged | apply OptInv.mk_some | apply OptInv.mk_none | apply ExcInv.mk_ok | apply ExcInv.mk_error | apply OutInv.mk_next
        | apply CmdInv.mk_commit | apply DirInv.mk_sent | apply DirRoomInv.mk_freeing)
    | exact Kept.congr ‹Kept P _› rfl | assumption | split | (refine OptInv.of_eq (Q := (Kept P)) ‹_ = some _› ?_) | (refine pair_of_eq ‹_ = (_, _)› ?_)
    | (refine pair_of_eq' ‹_ = (_, _)› ?_) | (refine DirInv.of_eq ‹_ = DirStep.sent _› ?_) | (refine DirRoomInv.of_eq ‹_ = DirRoom.freeing _› ?_)
    | dsimp only

theorem phaseZero_inv (s : State) (c : Cmd) (h_s : Kept P s) : Kept P (phaseZero s c) := by
  unfold phaseZero
  repeat' first
    | with_reducible (first
        | assumption | intro _ | apply mbAnswer_inv | apply updCmd_inv | apply ite_inv)
    | exact Kept.congr ‹Kept P _› rfl | assumption | split

theorem endCmd_inv (s : State) (n : Nat) (status : Nat) (bell : Word) (result : List Word) (h_s : Kept P s) : Kept P (endCmd s n status bell result) := by
  unfold endCmd
  repeat' first
    | with_reducible (first
        | assumption | intro _ | apply phaseZero_inv | apply auditCmd_inv | apply mbAnswer_inv | apply dropCmd_inv | apply ite_inv)
    | exact Kept.congr ‹Kept P _› rfl | assumption | split

theorem endDrains_inv (s : State) (p : DrainOn → Bool) (status : Nat) (bell : Word) (result : List Word) (h_s : Kept P s) : Kept P (endDrains s p status bell result) := by
  unfold endDrains
  repeat' first
    | with_reducible (first
        | assumption | intro _)
    | exact True.intro | exact ⟨rfl, rfl⟩
    | with_reducible (first
        | apply endCmd_inv | apply foldl_bind_inv | apply bind_inv | apply ite_snd | apply ite_inv | apply ite_opt | apply ite_cmd | apply ite_out
        | apply findSome_inv | apply each_inv | apply iter_inv | apply foldl_inv | apply foldl_inv2 | apply getD_inv | apply elim_inv | apply JudgedInv.mk
        | apply JudgedInv.take | apply JudgedInv.discard | apply ite_judged | apply OptInv.mk_some | apply OptInv.mk_none | apply ExcInv.mk_ok
        | apply ExcInv.mk_error | apply OutInv.mk_next | apply CmdInv.mk_commit | apply DirInv.mk_sent | apply DirRoomInv.mk_freeing)
    | exact Kept.congr ‹Kept P _› rfl | assumption | split | dsimp only

/-! ### Certificate -/

theorem checkCert_inv (s v : State) (opc : Nat) (e : CmdEntry) (d : List Byte) (needs : Bool) (h_s : Kept P s) : ExcInv (fun t => (Kept P) t.2) (checkCert s v opc e d needs) := by
  unfold checkCert
  repeat' first
    | with_reducible (first
        | assumption | intro _)
    | exact True.intro | exact ⟨rfl, rfl⟩
    | with_reducible (first
        | apply foldl_bind_inv | apply bind_inv | apply ite_snd | apply ite_inv | apply ite_opt | apply ite_cmd | apply ite_out | apply findSome_inv
        | apply each_inv | apply iter_inv | apply foldl_inv | apply foldl_inv2 | apply getD_inv | apply elim_inv | apply JudgedInv.mk | apply JudgedInv.take
        | apply JudgedInv.discard | apply ite_judged | apply OptInv.mk_some | apply OptInv.mk_none | apply ExcInv.mk_ok | apply ExcInv.mk_error
        | apply OutInv.mk_next | apply CmdInv.mk_commit | apply DirInv.mk_sent | apply DirRoomInv.mk_freeing)
    | exact Kept.congr ‹Kept P _› rfl | assumption | split | dsimp only

/-! ### CmdRegion -/

theorem heldByMove_inv (s : State) (h : Nat) (h_s : Kept P s) : CmdInv P (heldByMove s h) := by
  unfold heldByMove
  repeat' first
    | with_reducible (first
        | assumption | intro _ | apply held_inv | apply ite_inv | apply CmdInv.mk_commit | apply ite_cmd)
    | exact Kept.congr ‹Kept P _› rfl | assumption | split

theorem heldByQp_inv (s : State) (n : Nat) (q : Qp) (h_s : Kept P s) : CmdInv P (heldByQp s n q) := by
  unfold heldByQp
  repeat' first
    | with_reducible (first
        | assumption | intro _ | apply held_inv | apply ite_inv | apply CmdInv.mk_commit | apply ite_cmd)
    | exact Kept.congr ‹Kept P _› rfl | assumption | split

theorem cmdRegionCreate_inv (s : State) (v : State) (_c : Cmd) (e : CmdEntry) (h_s : Kept P s) (h_v : Kept P v) : CmdInv P (cmdRegionCreate s v _c e) := by
  unfold cmdRegionCreate
  repeat' first
    | with_reducible (first
        | assumption | intro _ | apply bad_inv | apply held_inv | apply noRoom_inv | apply ite_inv | apply CmdInv.mk_commit | apply ite_cmd)
    | exact Kept.congr ‹Kept P _› rfl | assumption | split

theorem cmdRegionDestroy_inv (s : State) (v : State) (_c : Cmd) (e : CmdEntry) (h_s : Kept P s) (h_v : Kept P v) : CmdInv P (cmdRegionDestroy s v _c e) := by
  unfold cmdRegionDestroy
  repeat' first
    | with_reducible (first
        | assumption | intro _)
    | exact True.intro | exact ⟨rfl, rfl⟩
    | with_reducible (first
        | apply bad_inv | apply heldByMove_inv | apply heldByQp_inv | apply refuse_inv | apply foldl_bind_inv | apply bind_inv | apply ite_snd | apply ite_inv
        | apply ite_opt | apply ite_cmd | apply ite_out | apply findSome_inv | apply each_inv | apply iter_inv | apply foldl_inv | apply foldl_inv2
        | apply getD_inv | apply elim_inv | apply JudgedInv.mk | apply JudgedInv.take | apply JudgedInv.discard | apply ite_judged | apply OptInv.mk_some
        | apply OptInv.mk_none | apply ExcInv.mk_ok | apply ExcInv.mk_error | apply OutInv.mk_next | apply CmdInv.mk_commit | apply DirInv.mk_sent
        | apply DirRoomInv.mk_freeing)
    | exact Kept.congr ‹Kept P _› rfl | assumption | split | dsimp only

theorem cmdRegionRead_inv (s : State) (v : State) (c : Cmd) (e : CmdEntry) (h_s : Kept P s) (h_v : Kept P v) : CmdInv P (cmdRegionRead s v c e) := by
  unfold cmdRegionRead
  repeat' first
    | with_reducible (first
        | assumption | intro _)
    | exact True.intro | exact ⟨rfl, rfl⟩
    | with_reducible (first
        | apply bad_inv | apply reply_inv | apply refuse_inv | apply foldl_bind_inv | apply bind_inv | apply ite_snd | apply ite_inv | apply ite_opt
        | apply ite_cmd | apply ite_out | apply findSome_inv | apply each_inv | apply iter_inv | apply foldl_inv | apply foldl_inv2 | apply getD_inv
        | apply elim_inv | apply JudgedInv.mk | apply JudgedInv.take | apply JudgedInv.discard | apply ite_judged | apply OptInv.mk_some
        | apply OptInv.mk_none | apply ExcInv.mk_ok | apply ExcInv.mk_error | apply OutInv.mk_next | apply CmdInv.mk_commit | apply DirInv.mk_sent
        | apply DirRoomInv.mk_freeing)
    | exact Kept.congr ‹Kept P _› rfl | assumption | split | dsimp only

theorem drawKey_inv (issued : List Word) (n : Nat) (s : State) (h_s : Kept P s) : Kept P (drawKey issued n s).2 := by
  induction n generalizing s with
  | zero => exact h_s
  | succ n ih =>
    have h := drawWord_inv s h_s
    unfold drawKey
    generalize drawWord s = p at h ⊢
    obtain ⟨w, t⟩ := p
    dsimp only
    split
    · exact ih _ h
    · exact h

theorem cmdKeyIssue_inv (s : State) (v : State) (_c : Cmd) (e : CmdEntry) (h_s : Kept P s) (h_v : Kept P v) : CmdInv P (cmdKeyIssue s v _c e) := by
  unfold cmdKeyIssue
  repeat' first
    | with_reducible (first
        | assumption | intro _)
    | exact True.intro | exact ⟨rfl, rfl⟩
    | with_reducible (first
        | apply bad_inv | apply heldByMove_inv | apply drawKey_inv | apply refuse_inv | apply foldl_bind_inv | apply bind_inv | apply ite_snd | apply ite_inv
        | apply ite_opt | apply ite_cmd | apply ite_out | apply findSome_inv | apply each_inv | apply iter_inv | apply foldl_inv | apply foldl_inv2
        | apply getD_inv | apply elim_inv | apply JudgedInv.mk | apply JudgedInv.take | apply JudgedInv.discard | apply ite_judged | apply OptInv.mk_some
        | apply OptInv.mk_none | apply ExcInv.mk_ok | apply ExcInv.mk_error | apply OutInv.mk_next | apply CmdInv.mk_commit | apply DirInv.mk_sent
        | apply DirRoomInv.mk_freeing)
    | exact Kept.congr ‹Kept P _› rfl | assumption | split | dsimp only

theorem cmdKeyRevoke_inv (s : State) (v : State) (_c : Cmd) (e : CmdEntry) (h_s : Kept P s) (h_v : Kept P v) : CmdInv P (cmdKeyRevoke s v _c e) := by
  unfold cmdKeyRevoke
  repeat' first
    | with_reducible (first
        | assumption | intro _)
    | exact True.intro | exact ⟨rfl, rfl⟩
    | with_reducible (first
        | apply bad_inv | apply heldByMove_inv | apply refuse_inv | apply foldl_bind_inv | apply bind_inv | apply ite_snd | apply ite_inv | apply ite_opt
        | apply ite_cmd | apply ite_out | apply findSome_inv | apply each_inv | apply iter_inv | apply foldl_inv | apply foldl_inv2 | apply getD_inv
        | apply elim_inv | apply JudgedInv.mk | apply JudgedInv.take | apply JudgedInv.discard | apply ite_judged | apply OptInv.mk_some
        | apply OptInv.mk_none | apply ExcInv.mk_ok | apply ExcInv.mk_error | apply OutInv.mk_next | apply CmdInv.mk_commit | apply DirInv.mk_sent
        | apply DirRoomInv.mk_freeing)
    | exact Kept.congr ‹Kept P _› rfl | assumption | split | dsimp only

theorem cmdOwnerSet_inv (s : State) (v : State) (_c : Cmd) (e : CmdEntry) (h_s : Kept P s) (h_v : Kept P v) : CmdInv P (cmdOwnerSet s v _c e) := by
  unfold cmdOwnerSet
  repeat' first
    | with_reducible (first
        | assumption | intro _)
    | exact True.intro | exact ⟨rfl, rfl⟩
    | with_reducible (first
        | apply bad_inv | apply refuse_inv | apply foldl_bind_inv | apply bind_inv | apply ite_snd | apply ite_inv | apply ite_opt | apply ite_cmd
        | apply ite_out | apply findSome_inv | apply each_inv | apply iter_inv | apply foldl_inv | apply foldl_inv2 | apply getD_inv | apply elim_inv
        | apply JudgedInv.mk | apply JudgedInv.take | apply JudgedInv.discard | apply ite_judged | apply OptInv.mk_some | apply OptInv.mk_none
        | apply ExcInv.mk_ok | apply ExcInv.mk_error | apply OutInv.mk_next | apply CmdInv.mk_commit | apply DirInv.mk_sent | apply DirRoomInv.mk_freeing)
    | exact Kept.congr ‹Kept P _› rfl | assumption | split | dsimp only

theorem cmdGwBind_inv (s : State) (v : State) (_c : Cmd) (e : CmdEntry) (h_s : Kept P s) (h_v : Kept P v) : CmdInv P (cmdGwBind s v _c e) := by
  unfold cmdGwBind
  repeat' first
    | with_reducible (first
        | assumption | intro _)
    | exact True.intro | exact ⟨rfl, rfl⟩
    | with_reducible (first
        | apply bad_inv | apply gwFlushAll_inv | apply refuse_inv | apply foldl_bind_inv | apply bind_inv | apply ite_snd | apply ite_inv | apply ite_opt
        | apply ite_cmd | apply ite_out | apply findSome_inv | apply each_inv | apply iter_inv | apply foldl_inv | apply foldl_inv2 | apply getD_inv
        | apply elim_inv | apply JudgedInv.mk | apply JudgedInv.take | apply JudgedInv.discard | apply ite_judged | apply OptInv.mk_some
        | apply OptInv.mk_none | apply ExcInv.mk_ok | apply ExcInv.mk_error | apply OutInv.mk_next | apply CmdInv.mk_commit | apply DirInv.mk_sent
        | apply DirRoomInv.mk_freeing)
    | exact Kept.congr ‹Kept P _› rfl | assumption | split | dsimp only

theorem cmdHbmSplit_inv (hP : Closed P) (s : State) (v : State) (_c : Cmd) (e : CmdEntry) (h_s : Kept P s) (h_v : Kept P v) : CmdInv P (cmdHbmSplit s v _c e) := by
  unfold cmdHbmSplit
  repeat' first
    | with_reducible (first
        | assumption | intro _)
    | exact True.intro | exact ⟨rfl, rfl⟩
    | with_reducible (first
        | apply bad_inv | apply held_inv | apply noRoom_inv | apply (clearFrames_inv hP) | apply foldl_bind_inv | apply bind_inv | apply ite_snd | apply ite_inv
        | apply ite_opt | apply ite_cmd | apply ite_out | apply findSome_inv | apply each_inv | apply iter_inv | apply foldl_inv | apply foldl_inv2
        | apply getD_inv | apply elim_inv | apply JudgedInv.mk | apply JudgedInv.take | apply JudgedInv.discard | apply ite_judged | apply OptInv.mk_some
        | apply OptInv.mk_none | apply ExcInv.mk_ok | apply ExcInv.mk_error | apply OutInv.mk_next | apply CmdInv.mk_commit | apply DirInv.mk_sent
        | apply DirRoomInv.mk_freeing)
    | exact Kept.congr ‹Kept P _› rfl | assumption | split | dsimp only

theorem cmdTrayDiscard_inv (s : State) (_v : State) (_c : Cmd) (e : CmdEntry) (h_s : Kept P s) (h__v : Kept P _v) : CmdInv P (cmdTrayDiscard s _v _c e) := by
  unfold cmdTrayDiscard
  repeat' first
    | with_reducible (first
        | assumption | intro _ | apply bad_inv | apply ite_inv | apply CmdInv.mk_commit | apply ite_cmd)
    | exact Kept.congr ‹Kept P _› rfl | assumption | split

theorem cmdTrayRelease_inv (s : State) (v : State) (_c : Cmd) (e : CmdEntry) (h_s : Kept P s) (h_v : Kept P v) : CmdInv P (cmdTrayRelease s v _c e) := by
  unfold cmdTrayRelease
  repeat' first
    | with_reducible (first
        | assumption | intro _)
    | exact True.intro | exact ⟨rfl, rfl⟩
    | with_reducible (first
        | apply bad_inv | apply held_inv | apply foldl_bind_inv | apply bind_inv | apply ite_snd | apply ite_inv | apply ite_opt | apply ite_cmd
        | apply ite_out | apply findSome_inv | apply each_inv | apply iter_inv | apply foldl_inv | apply foldl_inv2 | apply getD_inv | apply elim_inv
        | apply JudgedInv.mk | apply JudgedInv.take | apply JudgedInv.discard | apply ite_judged | apply OptInv.mk_some | apply OptInv.mk_none
        | apply ExcInv.mk_ok | apply ExcInv.mk_error | apply OutInv.mk_next | apply CmdInv.mk_commit | apply DirInv.mk_sent | apply DirRoomInv.mk_freeing)
    | exact Kept.congr ‹Kept P _› rfl | assumption | split | dsimp only

theorem mapRefuses_inv (v : State) (m : CompMap) (h_v : Kept P v) : OptInv (CmdInv P) (mapRefuses v m) := by
  unfold mapRefuses
  repeat' first
    | with_reducible (first
        | assumption | intro _ | apply bad_inv | apply noRoom_inv | apply ite_inv | apply CmdInv.mk_commit | apply ite_cmd | apply OptInv.mk_some
        | apply OptInv.mk_none | apply ite_opt)
    | exact Kept.congr ‹Kept P _› rfl | assumption | split

theorem cmdMapStage_inv (s : State) (v : State) (_c : Cmd) (e : CmdEntry) (d : List Byte) (h_s : Kept P s) (h_v : Kept P v) : CmdInv P (cmdMapStage s v _c e d) := by
  unfold cmdMapStage
  repeat' first
    | with_reducible (first
        | assumption | intro _)
    | exact True.intro | exact ⟨rfl, rfl⟩
    | (extract_lets +onlyGivenNames x
       first
       | (refine ((fun (hx : Kept P x) => ?_) ?_) <;> [clear_value x; (revert x; change (Kept P) _)])
       | (refine ((fun (hx : Kept P x.2) => ?_) ?_) <;> [clear_value x; (revert x; change (Kept P) (Prod.snd _))])
       | (refine ((fun (hx : OptInv (Kept P) x) => ?_) ?_) <;> [clear_value x; (revert x; change OptInv (Kept P) _)])
       | (refine ((fun (hx : CmdInv P x) => ?_) ?_) <;> [clear_value x; (revert x; change (CmdInv P) _)])
       | (have _ := (x : List _); clear_value x)
       | skip)
    | with_reducible (first
        | apply checkCert_inv | apply bad_inv | apply held_inv | apply mapRefuses_inv | apply refuse_inv | apply foldl_bind_inv | apply bind_inv
        | apply ite_snd | apply ite_inv | apply ite_opt | apply ite_cmd | apply ite_out | apply findSome_inv | apply each_inv | apply iter_inv
        | apply foldl_inv | apply foldl_inv2 | apply getD_inv | apply elim_inv | apply JudgedInv.mk | apply JudgedInv.take | apply JudgedInv.discard
        | apply ite_judged | apply OptInv.mk_some | apply OptInv.mk_none | apply ExcInv.mk_ok | apply ExcInv.mk_error | apply OutInv.mk_next
        | apply CmdInv.mk_commit | apply DirInv.mk_sent | apply DirRoomInv.mk_freeing)
    | exact Kept.congr ‹Kept P _› rfl | assumption | refine Inv.congr (refuse_inv _ _ _ _ _ _ _ ?_ ) rfl | split
    | (refine OptInv.of_eq (Q := (Kept P)) ‹_ = some _› ?_) | (refine OptInv.of_eq (Q := (CmdInv P)) ‹_ = some _› ?_) | (refine pair_of_eq ‹_ = (_, _)› ?_)
    | (refine pair_of_eq' ‹_ = (_, _)› ?_) | (refine DirInv.of_eq ‹_ = DirStep.sent _› ?_) | (refine DirRoomInv.of_eq ‹_ = DirRoom.freeing _› ?_)
    | (refine CmdInv.of_eq ‹_ = CmdResult.commit _ _ _ _› ?_) | (refine ExcInv.of_eq ‹_ = Except.ok _› ?_) | dsimp only
   
    | dsimp +zetaDelta only
    | (refine OptInv.of_eq (Q := fun (t : _ × State) => (Kept P) t.2) ‹_ = some _› ?_)
    | (refine OptInv.of_eq (Q := fun (t : _ × State) => (Kept P) t.2) (t := (_, _)) ‹_ = some (_, _)› ?_)
    | (refine ExcInv.of_eq (Q := fun (t : _ × State) => (Kept P) t.2) (t := (_, _)) ‹_ = Except.ok (_, _)› ?_)

theorem cmdMapSwitch_inv (s : State) (v : State) (_c : Cmd) (e : CmdEntry) (d : List Byte) (h_s : Kept P s) (h_v : Kept P v) : CmdInv P (cmdMapSwitch s v _c e d) := by
  unfold cmdMapSwitch
  repeat' first
    | with_reducible (first
        | assumption | intro _)
    | exact True.intro | exact ⟨rfl, rfl⟩
    | (extract_lets +onlyGivenNames x
       first
       | (refine ((fun (hx : Kept P x) => ?_) ?_) <;> [clear_value x; (revert x; change (Kept P) _)])
       | (refine ((fun (hx : Kept P x.2) => ?_) ?_) <;> [clear_value x; (revert x; change (Kept P) (Prod.snd _))])
       | (refine ((fun (hx : OptInv (Kept P) x) => ?_) ?_) <;> [clear_value x; (revert x; change OptInv (Kept P) _)])
       | (refine ((fun (hx : CmdInv P x) => ?_) ?_) <;> [clear_value x; (revert x; change (CmdInv P) _)])
       | (have _ := (x : List _); clear_value x)
       | skip)
    | with_reducible (first
        | apply checkCert_inv | apply bad_inv | apply refuse_inv | apply foldl_bind_inv | apply bind_inv | apply ite_snd | apply ite_inv | apply ite_opt
        | apply ite_cmd | apply ite_out | apply findSome_inv | apply each_inv | apply iter_inv | apply foldl_inv | apply foldl_inv2 | apply getD_inv
        | apply elim_inv | apply JudgedInv.mk | apply JudgedInv.take | apply JudgedInv.discard | apply ite_judged | apply OptInv.mk_some
        | apply OptInv.mk_none | apply ExcInv.mk_ok | apply ExcInv.mk_error | apply OutInv.mk_next | apply CmdInv.mk_commit | apply DirInv.mk_sent
        | apply DirRoomInv.mk_freeing)
    | exact Kept.congr ‹Kept P _› rfl | assumption | refine Inv.congr (refuse_inv _ _ _ _ _ _ _ ?_ ) rfl | split
    | (refine OptInv.of_eq (Q := (Kept P)) ‹_ = some _› ?_) | (refine OptInv.of_eq (Q := (CmdInv P)) ‹_ = some _› ?_) | (refine pair_of_eq ‹_ = (_, _)› ?_)
    | (refine pair_of_eq' ‹_ = (_, _)› ?_) | (refine DirInv.of_eq ‹_ = DirStep.sent _› ?_) | (refine DirRoomInv.of_eq ‹_ = DirRoom.freeing _› ?_)
    | (refine CmdInv.of_eq ‹_ = CmdResult.commit _ _ _ _› ?_) | (refine ExcInv.of_eq ‹_ = Except.ok _› ?_) | dsimp only
   
    | dsimp +zetaDelta only
    | (refine OptInv.of_eq (Q := fun (t : _ × State) => (Kept P) t.2) ‹_ = some _› ?_)
    | (refine OptInv.of_eq (Q := fun (t : _ × State) => (Kept P) t.2) (t := (_, _)) ‹_ = some (_, _)› ?_)
    | (refine ExcInv.of_eq (Q := fun (t : _ × State) => (Kept P) t.2) (t := (_, _)) ‹_ = Except.ok (_, _)› ?_)

theorem cmdMapStatus_inv (s : State) (v : State) (_c : Cmd) (e : CmdEntry) (h_s : Kept P s) (h_v : Kept P v) : CmdInv P (cmdMapStatus s v _c e) := by
  unfold cmdMapStatus
  repeat' first
    | with_reducible (first
        | assumption | intro _ | apply bad_inv | apply reply_inv | apply ite_inv | apply CmdInv.mk_commit | apply ite_cmd)
    | exact Kept.congr ‹Kept P _› rfl | assumption | split

theorem cmdMovePrepare_inv (s : State) (v : State) (_c : Cmd) (e : CmdEntry) (h_s : Kept P s) (h_v : Kept P v) : CmdInv P (cmdMovePrepare s v _c e) := by
  unfold cmdMovePrepare
  repeat' first
    | with_reducible (first
        | assumption | intro _)
    | exact True.intro | exact ⟨rfl, rfl⟩
    | with_reducible (first
        | apply bad_inv | apply noRoom_inv | apply heldByMove_inv | apply held_inv | apply foldl_bind_inv | apply bind_inv | apply ite_snd | apply ite_inv
        | apply ite_opt | apply ite_cmd | apply ite_out | apply findSome_inv | apply each_inv | apply iter_inv | apply foldl_inv | apply foldl_inv2
        | apply getD_inv | apply elim_inv | apply JudgedInv.mk | apply JudgedInv.take | apply JudgedInv.discard | apply ite_judged | apply OptInv.mk_some
        | apply OptInv.mk_none | apply ExcInv.mk_ok | apply ExcInv.mk_error | apply OutInv.mk_next | apply CmdInv.mk_commit | apply DirInv.mk_sent
        | apply DirRoomInv.mk_freeing)
    | exact Kept.congr ‹Kept P _› rfl | assumption | split | dsimp only

/-! ### CmdStall -/

theorem cmdStallSet_inv (s : State) (v : State) (_c : Cmd) (e : CmdEntry) (h_s : Kept P s) (h_v : Kept P v) : CmdInv P (cmdStallSet s v _c e) := by
  unfold cmdStallSet
  repeat' first
    | with_reducible (first
        | assumption | intro _ | apply bad_inv | apply heldByQp_inv | apply ite_inv | apply CmdInv.mk_commit | apply ite_cmd)
    | exact Kept.congr ‹Kept P _› rfl | assumption | split

theorem cmdStallBind_inv (s : State) (v : State) (_c : Cmd) (e : CmdEntry) (h_s : Kept P s) (h_v : Kept P v) : CmdInv P (cmdStallBind s v _c e) := by
  unfold cmdStallBind
  repeat' first
    | with_reducible (first
        | assumption | intro _ | apply bad_inv | apply noRoom_inv | apply ite_inv | apply CmdInv.mk_commit | apply ite_cmd)
    | exact Kept.congr ‹Kept P _› rfl | assumption | split

theorem cmdQuotaSet_inv (s : State) (_v : State) (_c : Cmd) (e : CmdEntry) (h_s : Kept P s) (h__v : Kept P _v) : CmdInv P (cmdQuotaSet s _v _c e) := by
  unfold cmdQuotaSet
  repeat' first
    | with_reducible (first
        | assumption | intro _ | apply bad_inv | apply ite_inv | apply CmdInv.mk_commit | apply ite_cmd)
    | exact Kept.congr ‹Kept P _› rfl | assumption | split

theorem cmdPoliceSet_inv (s : State) (_v : State) (_c : Cmd) (e : CmdEntry) (h_s : Kept P s) (h__v : Kept P _v) : CmdInv P (cmdPoliceSet s _v _c e) := by
  unfold cmdPoliceSet
  repeat' first
    | with_reducible (first
        | assumption | intro _ | apply bad_inv | apply ite_inv | apply CmdInv.mk_commit | apply ite_cmd)
    | exact Kept.congr ‹Kept P _› rfl | assumption | split

theorem cmdSchedSet_inv (s : State) (v : State) (_c : Cmd) (e : CmdEntry) (h_s : Kept P s) (h_v : Kept P v) : CmdInv P (cmdSchedSet s v _c e) := by
  unfold cmdSchedSet
  repeat' first
    | with_reducible (first
        | assumption | intro _ | apply bad_inv | apply ite_inv | apply CmdInv.mk_commit | apply ite_cmd)
    | exact Kept.congr ‹Kept P _› rfl | assumption | split

theorem cmdMeterRead_inv (s : State) (_v : State) (c : Cmd) (e : CmdEntry) (h_s : Kept P s) (h__v : Kept P _v) : CmdInv P (cmdMeterRead s _v c e) := by
  unfold cmdMeterRead
  repeat' first
    | with_reducible (first
        | assumption | intro _ | apply bad_inv | apply reply_inv | apply ite_inv | apply CmdInv.mk_commit | apply ite_cmd)
    | exact Kept.congr ‹Kept P _› rfl | assumption | split

theorem cmdEngineSet_inv (s : State) (_v : State) (_c : Cmd) (e : CmdEntry) (h_s : Kept P s) (h__v : Kept P _v) : CmdInv P (cmdEngineSet s _v _c e) := by
  unfold cmdEngineSet
  repeat' first
    | with_reducible (first
        | assumption | intro _ | apply bad_inv | apply ite_inv | apply CmdInv.mk_commit | apply ite_cmd)
    | exact Kept.congr ‹Kept P _› rfl | assumption | split

theorem cmdQpAssign_inv (s : State) (v : State) (_c : Cmd) (e : CmdEntry) (h_s : Kept P s) (h_v : Kept P v) : CmdInv P (cmdQpAssign s v _c e) := by
  unfold cmdQpAssign
  repeat' first
    | with_reducible (first
        | assumption | intro _ | apply bad_inv | apply heldByQp_inv | apply ite_inv | apply CmdInv.mk_commit | apply ite_cmd)
    | exact Kept.congr ‹Kept P _› rfl | assumption | split

theorem cmdQpRead_inv (s : State) (v : State) (c : Cmd) (e : CmdEntry) (h_s : Kept P s) (h_v : Kept P v) : CmdInv P (cmdQpRead s v c e) := by
  unfold cmdQpRead
  repeat' first
    | with_reducible (first
        | assumption | intro _ | apply bad_inv | apply reply_inv | apply ite_inv | apply CmdInv.mk_commit | apply ite_cmd)
    | exact Kept.congr ‹Kept P _› rfl | assumption | split

theorem cmdQpRelease_inv (s : State) (v : State) (_c : Cmd) (e : CmdEntry) (h_s : Kept P s) (h_v : Kept P v) : CmdInv P (cmdQpRelease s v _c e) := by
  unfold cmdQpRelease
  repeat' first
    | with_reducible (first
        | assumption | intro _ | apply bad_inv | apply ite_inv | apply CmdInv.mk_commit | apply ite_cmd)
    | exact Kept.congr ‹Kept P _› rfl | assumption | split

theorem cmdThresherReturn_inv (s : State) (_v : State) (_c : Cmd) (e : CmdEntry) (h_s : Kept P s) (h__v : Kept P _v) : CmdInv P (cmdThresherReturn s _v _c e) := by
  unfold cmdThresherReturn
  repeat' first
    | with_reducible (first
        | assumption | intro _ | apply bad_inv | apply ite_inv | apply CmdInv.mk_commit | apply ite_cmd)
    | exact Kept.congr ‹Kept P _› rfl | assumption | split

/-! ### LocalAccess -/

theorem askLines_inv (hP : Closed P) (s : State) (g : Region) (offs : List Nat) (h_s : Kept P s) : Kept P (askLines s g offs) := by
  unfold askLines
  repeat' first
    | with_reducible (first
        | assumption | intro _)
    | exact True.intro | exact ⟨rfl, rfl⟩
    | with_reducible (first
        | apply startRebuild_inv | apply (startFill_inv hP) | apply foldl_bind_inv | apply bind_inv | apply ite_snd | apply ite_inv | apply ite_opt | apply ite_cmd
        | apply ite_out | apply findSome_inv | apply each_inv | apply iter_inv | apply foldl_inv | apply foldl_inv2 | apply getD_inv | apply elim_inv
        | apply JudgedInv.mk | apply JudgedInv.take | apply JudgedInv.discard | apply ite_judged | apply OptInv.mk_some | apply OptInv.mk_none
        | apply ExcInv.mk_ok | apply ExcInv.mk_error | apply OutInv.mk_next | apply CmdInv.mk_commit | apply DirInv.mk_sent | apply DirRoomInv.mk_freeing)
    | exact Kept.congr ‹Kept P _› rfl | assumption | split | dsimp only

theorem askNeeds_inv (hP : Closed P) (s : State) (l : Needs) (h_s : Kept P s) : Kept P (askNeeds s l) := by
  unfold askNeeds
  repeat' first
    | with_reducible (first
        | assumption | intro _)
    | exact True.intro | exact ⟨rfl, rfl⟩
    | with_reducible (first
        | apply (askLines_inv hP) | apply foldl_bind_inv | apply bind_inv | apply ite_snd | apply ite_inv | apply ite_opt | apply ite_cmd | apply ite_out
        | apply findSome_inv | apply each_inv | apply iter_inv | apply foldl_inv | apply foldl_inv2 | apply getD_inv | apply elim_inv | apply JudgedInv.mk
        | apply JudgedInv.take | apply JudgedInv.discard | apply ite_judged | apply OptInv.mk_some | apply OptInv.mk_none | apply ExcInv.mk_ok
        | apply ExcInv.mk_error | apply OutInv.mk_next | apply CmdInv.mk_commit | apply DirInv.mk_sent | apply DirRoomInv.mk_freeing)
    | exact Kept.congr ‹Kept P _› rfl | assumption | split | dsimp only

theorem readThrough_inv (hP : Closed P) (s : State) (l : Needs) (h_s : Kept P s) : Kept P (readThrough s l) := by
  unfold readThrough
  repeat' first
    | with_reducible (first
        | assumption | intro _)
    | exact True.intro | exact ⟨rfl, rfl⟩
    | with_reducible (first
        | apply (touchLine_inv hP) | apply foldl_bind_inv | apply bind_inv | apply ite_snd | apply ite_inv | apply ite_opt | apply ite_cmd | apply ite_out
        | apply findSome_inv | apply each_inv | apply iter_inv | apply foldl_inv | apply foldl_inv2 | apply getD_inv | apply elim_inv | apply JudgedInv.mk
        | apply JudgedInv.take | apply JudgedInv.discard | apply ite_judged | apply OptInv.mk_some | apply OptInv.mk_none | apply ExcInv.mk_ok
        | apply ExcInv.mk_error | apply OutInv.mk_next | apply CmdInv.mk_commit | apply DirInv.mk_sent | apply DirRoomInv.mk_freeing)
    | exact Kept.congr ‹Kept P _› rfl | assumption | split | dsimp only

theorem pokeLine_inv (hP : Closed P) (s : State) (g : Region) (off : Nat) (new : List Byte) (whole : Bool) (h_s : Kept P s) : Kept P (pokeLine s g off new whole) := by
  unfold pokeLine
  repeat' first
    | with_reducible (first
        | assumption | intro _)
    | exact True.intro | exact ⟨rfl, rfl⟩
    | with_reducible (first
        | apply sendDelta_inv | apply (allocFrame_inv hP) | apply (markFrame_inv hP) | apply (touchLine_inv hP) | apply dropHeld_inv | apply trackWrite_inv
        | apply clearPoison_inv | apply foldl_bind_inv | apply bind_inv | apply ite_snd | apply ite_inv | apply ite_opt | apply ite_cmd | apply ite_out
        | apply findSome_inv | apply each_inv | apply iter_inv | apply foldl_inv | apply foldl_inv2 | apply getD_inv | apply elim_inv | apply JudgedInv.mk
        | apply JudgedInv.take | apply JudgedInv.discard | apply ite_judged | apply OptInv.mk_some | apply OptInv.mk_none | apply ExcInv.mk_ok
        | apply ExcInv.mk_error | apply OutInv.mk_next | apply CmdInv.mk_commit | apply DirInv.mk_sent | apply DirRoomInv.mk_freeing)
    | exact Kept.congr ‹Kept P _› rfl | assumption | split | dsimp only

theorem poke_inv (hP : Closed P) (s : State) (g : Region) (off : Nat) (d : List Byte) (h_s : Kept P s) : Kept P (poke s g off d) := by
  unfold poke
  repeat' first
    | with_reducible (first
        | assumption | intro _)
    | exact True.intro | exact ⟨rfl, rfl⟩
    | with_reducible (first
        | apply (pokeLine_inv hP) | apply foldl_bind_inv | apply bind_inv | apply ite_snd | apply ite_inv | apply ite_opt | apply ite_cmd | apply ite_out
        | apply findSome_inv | apply each_inv | apply iter_inv | apply foldl_inv | apply foldl_inv2 | apply getD_inv | apply elim_inv | apply JudgedInv.mk
        | apply JudgedInv.take | apply JudgedInv.discard | apply ite_judged | apply OptInv.mk_some | apply OptInv.mk_none | apply ExcInv.mk_ok
        | apply ExcInv.mk_error | apply OutInv.mk_next | apply CmdInv.mk_commit | apply DirInv.mk_sent | apply DirRoomInv.mk_freeing)
    | exact Kept.congr ‹Kept P _› rfl | assumption | split | dsimp only

/-! ### IndexStore -/

theorem pokeAt_inv (hP : Closed P) (s : State) (h : Nat) (off : Nat) (d : List Byte) (h_s : Kept P s) : Kept P (pokeAt s h off d) := by
  unfold pokeAt
  repeat' first
    | with_reducible (first
        | assumption | intro _ | apply (poke_inv hP) | apply ite_inv)
    | exact Kept.congr ‹Kept P _› rfl | assumption | split

theorem putMeta_inv (hP : Closed P) (s : State) (p : IndexPart) (slot : Nat) (e0 : Word) (e1 : Word) (e2 : Word) (h_s : Kept P s) : Kept P (putMeta s p slot e0 e1 e2) := by
  unfold putMeta
  repeat' first
    | with_reducible (first
        | assumption | intro _ | apply (pokeAt_inv hP) | apply ite_inv)
    | exact Kept.congr ‹Kept P _› rfl | assumption | split

theorem putHead_inv (hP : Closed P) (s : State) (p : IndexPart) (page : Nat) (h0 : Word) (h1 : Word) (h_s : Kept P s) : Kept P (putHead s p page h0 h1) := by
  unfold putHead
  repeat' first
    | with_reducible (first
        | assumption | intro _ | apply (pokeAt_inv hP) | apply ite_inv)
    | exact Kept.congr ‹Kept P _› rfl | assumption | split

theorem putDir_inv (hP : Closed P) (s : State) (x : Index) (list : Nat) (l0 : Word) (l1 : Word) (h_s : Kept P s) : Kept P (putDir s x list l0 l1) := by
  unfold putDir
  repeat' first
    | with_reducible (first
        | assumption | intro _ | apply (pokeAt_inv hP) | apply ite_inv)
    | exact Kept.congr ‹Kept P _› rfl | assumption | split

theorem refreshPage_inv (hP : Closed P) (s : State) (x : Index) (p : IndexPart) (page : Nat) (h_s : Kept P s) : Kept P (refreshPage s x p page) := by
  unfold refreshPage
  repeat' first
    | with_reducible (first
        | assumption | intro _ | apply (putHead_inv hP) | apply ite_inv)
    | exact Kept.congr ‹Kept P _› rfl | assumption | split

theorem appendItem_inv (hP : Closed P) (s : State) (x : Index) (p : IndexPart) (list : Nat) (item : List Byte) (h_s : Kept P s) : OptInv (fun (t : (Nat × Nat) × State) => (Kept P) (t).2) (appendItem s x p list item) := by
  unfold appendItem
  repeat' first
    | with_reducible (first
        | assumption | intro _ | apply (pokeAt_inv hP) | apply (putHead_inv hP) | apply (putDir_inv hP) | apply ite_inv | apply ite_snd | apply OptInv.mk_some
        | apply OptInv.mk_none | apply ite_opt)
    | exact Kept.congr ‹Kept P _› rfl | assumption | split

theorem writeRecord_inv (hP : Closed P) (s : State) (x : Index) (r : BatchRec) (h_s : Kept P s) : OptInv (Kept P) (writeRecord s x r) := by
  unfold writeRecord
  repeat' first
    | with_reducible (first
        | assumption | intro _)
    | exact True.intro | exact ⟨rfl, rfl⟩
    | (extract_lets +onlyGivenNames x
       first
       | (refine ((fun (hx : Kept P x) => ?_) ?_) <;> [clear_value x; (revert x; change (Kept P) _)])
       | (refine ((fun (hx : Kept P x.2) => ?_) ?_) <;> [clear_value x; (revert x; change (Kept P) (Prod.snd _))])
       | (refine ((fun (hx : OptInv (Kept P) x) => ?_) ?_) <;> [clear_value x; (revert x; change OptInv (Kept P) _)])
       | (refine ((fun (hx : CmdInv P x) => ?_) ?_) <;> [clear_value x; (revert x; change (CmdInv P) _)])
       | (have _ := (x : List _); clear_value x)
       | skip)
    | with_reducible (first
        | apply (pokeAt_inv hP) | apply (appendItem_inv hP) | apply (putMeta_inv hP) | apply (putHead_inv hP) | apply foldl_bind_inv | apply bind_inv | apply ite_snd
        | apply ite_inv | apply ite_opt | apply ite_cmd | apply ite_out | apply findSome_inv | apply each_inv | apply iter_inv | apply foldl_inv
        | apply foldl_inv2 | apply getD_inv | apply elim_inv | apply JudgedInv.mk | apply JudgedInv.take | apply JudgedInv.discard | apply ite_judged
        | apply OptInv.mk_some | apply OptInv.mk_none | apply ExcInv.mk_ok | apply ExcInv.mk_error | apply OutInv.mk_next | apply CmdInv.mk_commit
        | apply DirInv.mk_sent | apply DirRoomInv.mk_freeing)
    | exact Kept.congr ‹Kept P _› rfl | assumption | refine Inv.congr ((pokeAt_inv hP) _ _ _ _ ?_ ) rfl | refine Inv.congr ((putMeta_inv hP) _ _ _ _ _ _ ?_ ) rfl
    | refine Inv.congr ((putHead_inv hP) _ _ _ _ _ ?_ ) rfl | split | (refine OptInv.of_eq (Q := (Kept P)) ‹_ = some _› ?_)
    | (refine OptInv.of_eq (Q := (CmdInv P)) ‹_ = some _› ?_) | (refine pair_of_eq ‹_ = (_, _)› ?_) | (refine pair_of_eq' ‹_ = (_, _)› ?_)
    | (refine DirInv.of_eq ‹_ = DirStep.sent _› ?_) | (refine DirRoomInv.of_eq ‹_ = DirRoom.freeing _› ?_)
    | (refine CmdInv.of_eq ‹_ = CmdResult.commit _ _ _ _› ?_) | (refine ExcInv.of_eq ‹_ = Except.ok _› ?_) | dsimp only
    | exact Kept.write hP ‹Kept P _› rfl | exact Kept.cache hP ‹Kept P _› rfl | exact Kept.clear hP ‹Kept P _› rfl
    | exact Kept.clears hP ‹Kept P _› rfl | dsimp +zetaDelta only
    | (refine OptInv.of_eq (Q := fun (t : _ × State) => (Kept P) t.2) ‹_ = some _› ?_)
    | (refine OptInv.of_eq (Q := fun (t : _ × State) => (Kept P) t.2) (t := (_, _)) ‹_ = some (_, _)› ?_)
    | (refine ExcInv.of_eq (Q := fun (t : _ × State) => (Kept P) t.2) (t := (_, _)) ‹_ = Except.ok (_, _)› ?_)

theorem writeBatch_inv (hP : Closed P) (s : State) (x : Index) (rs : List BatchRec) (h_s : Kept P s) : OptInv (Kept P) (writeBatch s x rs) := by
  unfold writeBatch
  repeat' first
    | with_reducible (first
        | assumption | intro _)
    | exact True.intro | exact ⟨rfl, rfl⟩
    | with_reducible (first
        | apply (writeRecord_inv hP) | apply foldl_bind_inv | apply bind_inv | apply ite_snd | apply ite_inv | apply ite_opt | apply ite_cmd | apply ite_out
        | apply findSome_inv | apply each_inv | apply iter_inv | apply foldl_inv | apply foldl_inv2 | apply getD_inv | apply elim_inv | apply JudgedInv.mk
        | apply JudgedInv.take | apply JudgedInv.discard | apply ite_judged | apply OptInv.mk_some | apply OptInv.mk_none | apply ExcInv.mk_ok
        | apply ExcInv.mk_error | apply OutInv.mk_next | apply CmdInv.mk_commit | apply DirInv.mk_sent | apply DirRoomInv.mk_freeing)
    | exact Kept.congr ‹Kept P _› rfl | assumption | split | dsimp only

theorem stampSlot_inv (hP : Closed P) (s : State) (x : Index) (slot : Nat) (f : Word → Word) (h_s : Kept P s) : Kept P (stampSlot s x slot f) := by
  unfold stampSlot
  repeat' first
    | with_reducible (first
        | assumption | intro _ | apply (putMeta_inv hP) | apply ite_inv)
    | exact Kept.congr ‹Kept P _› rfl | assumption | split

theorem commitEpoch_inv (hP : Closed P) (s : State) (x : Index) (e : Nat) (h_s : Kept P s) : Kept P (commitEpoch s x e) := by
  unfold commitEpoch
  repeat' first
    | with_reducible (first
        | assumption | intro _)
    | exact True.intro | exact ⟨rfl, rfl⟩
    | with_reducible (first
        | apply (stampSlot_inv hP) | apply (refreshPage_inv hP) | apply foldl_bind_inv | apply bind_inv | apply ite_snd | apply ite_inv | apply ite_opt | apply ite_cmd
        | apply ite_out | apply findSome_inv | apply each_inv | apply iter_inv | apply foldl_inv | apply foldl_inv2 | apply getD_inv | apply elim_inv
        | apply JudgedInv.mk | apply JudgedInv.take | apply JudgedInv.discard | apply ite_judged | apply OptInv.mk_some | apply OptInv.mk_none
        | apply ExcInv.mk_ok | apply ExcInv.mk_error | apply OutInv.mk_next | apply CmdInv.mk_commit | apply DirInv.mk_sent | apply DirRoomInv.mk_freeing)
    | exact Kept.congr ‹Kept P _› rfl | assumption | split | dsimp only

theorem rewriteList_inv (hP : Closed P) (s : State) (x : Index) (p : IndexPart) (gone : Nat → Bool) (list : Nat) (h_s : Kept P s) : Kept P (rewriteList s x p gone list) := by
  unfold rewriteList
  repeat' first
    | with_reducible (first
        | assumption | intro _)
    | exact True.intro | exact ⟨rfl, rfl⟩
    | (extract_lets +onlyGivenNames x
       first
       | (refine ((fun (hx : Kept P x) => ?_) ?_) <;> [clear_value x; (revert x; change (Kept P) _)])
       | (refine ((fun (hx : Kept P x.2) => ?_) ?_) <;> [clear_value x; (revert x; change (Kept P) (Prod.snd _))])
       | (refine ((fun (hx : OptInv (Kept P) x) => ?_) ?_) <;> [clear_value x; (revert x; change OptInv (Kept P) _)])
       | (refine ((fun (hx : CmdInv P x) => ?_) ?_) <;> [clear_value x; (revert x; change (CmdInv P) _)])
       | (have _ := (x : List _); clear_value x)
       | skip)
    | with_reducible (first
        | apply (putDir_inv hP) | apply (appendItem_inv hP) | apply (refreshPage_inv hP) | apply (putMeta_inv hP) | apply foldl_bind_inv | apply bind_inv | apply ite_snd
        | apply ite_inv | apply ite_opt | apply ite_cmd | apply ite_out | apply findSome_inv | apply each_inv | apply iter_inv | apply foldl_inv
        | apply foldl_inv2 | apply getD_inv | apply elim_inv | apply JudgedInv.mk | apply JudgedInv.take | apply JudgedInv.discard | apply ite_judged
        | apply OptInv.mk_some | apply OptInv.mk_none | apply ExcInv.mk_ok | apply ExcInv.mk_error | apply OutInv.mk_next | apply CmdInv.mk_commit
        | apply DirInv.mk_sent | apply DirRoomInv.mk_freeing)
    | exact Kept.congr ‹Kept P _› rfl | assumption | refine Inv.congr ((putDir_inv hP) _ _ _ _ _ ?_ ) rfl | refine Inv.congr ((refreshPage_inv hP) _ _ _ _ ?_ ) rfl
    | refine Inv.congr ((putMeta_inv hP) _ _ _ _ _ _ ?_ ) rfl | split | (refine OptInv.of_eq (Q := (Kept P)) ‹_ = some _› ?_)
    | (refine OptInv.of_eq (Q := (CmdInv P)) ‹_ = some _› ?_) | (refine pair_of_eq ‹_ = (_, _)› ?_) | (refine pair_of_eq' ‹_ = (_, _)› ?_)
    | (refine DirInv.of_eq ‹_ = DirStep.sent _› ?_) | (refine DirRoomInv.of_eq ‹_ = DirRoom.freeing _› ?_)
    | (refine CmdInv.of_eq ‹_ = CmdResult.commit _ _ _ _› ?_) | (refine ExcInv.of_eq ‹_ = Except.ok _› ?_) | dsimp only
    | exact Kept.write hP ‹Kept P _› rfl | exact Kept.cache hP ‹Kept P _› rfl | exact Kept.clear hP ‹Kept P _› rfl
    | exact Kept.clears hP ‹Kept P _› rfl | dsimp +zetaDelta only
    | (refine OptInv.of_eq (Q := fun (t : _ × State) => (Kept P) t.2) ‹_ = some _› ?_)
    | (refine OptInv.of_eq (Q := fun (t : _ × State) => (Kept P) t.2) (t := (_, _)) ‹_ = some (_, _)› ?_)
    | (refine ExcInv.of_eq (Q := fun (t : _ × State) => (Kept P) t.2) (t := (_, _)) ‹_ = Except.ok (_, _)› ?_)

/-! ### CmdEngine -/

theorem cmdTableLoad_inv (s : State) (v : State) (_c : Cmd) (e : CmdEntry) (d : List Byte) (h_s : Kept P s) (h_v : Kept P v) : CmdInv P (cmdTableLoad s v _c e d) := by
  unfold cmdTableLoad
  repeat' first
    | with_reducible (first
        | assumption | intro _)
    | exact True.intro | exact ⟨rfl, rfl⟩
    | (extract_lets +onlyGivenNames x
       first
       | (refine ((fun (hx : Kept P x) => ?_) ?_) <;> [clear_value x; (revert x; change (Kept P) _)])
       | (refine ((fun (hx : Kept P x.2) => ?_) ?_) <;> [clear_value x; (revert x; change (Kept P) (Prod.snd _))])
       | (have _ := (x : List _); clear_value x)
       | skip)
    | with_reducible (first
        | apply bad_inv | apply held_inv | apply noRoom_inv | apply foldl_bind_inv | apply bind_inv | apply ite_snd | apply ite_inv | apply ite_opt
        | apply ite_cmd | apply ite_out | apply findSome_inv | apply each_inv | apply iter_inv | apply foldl_inv | apply foldl_inv2 | apply getD_inv
        | apply elim_inv | apply JudgedInv.mk | apply JudgedInv.take | apply JudgedInv.discard | apply ite_judged | apply OptInv.mk_some
        | apply OptInv.mk_none | apply ExcInv.mk_ok | apply ExcInv.mk_error | apply OutInv.mk_next | apply CmdInv.mk_commit | apply DirInv.mk_sent
        | apply DirRoomInv.mk_freeing)
    | exact Kept.congr ‹Kept P _› rfl | assumption | split | (refine OptInv.of_eq (Q := (Kept P)) ‹_ = some _› ?_) | (refine pair_of_eq ‹_ = (_, _)› ?_)
    | (refine pair_of_eq' ‹_ = (_, _)› ?_) | (refine DirInv.of_eq ‹_ = DirStep.sent _› ?_) | (refine DirRoomInv.of_eq ‹_ = DirRoom.freeing _› ?_)
    | dsimp only

theorem cmdTableRetire_inv (s : State) (v : State) (_c : Cmd) (e : CmdEntry) (h_s : Kept P s) (h_v : Kept P v) : CmdInv P (cmdTableRetire s v _c e) := by
  unfold cmdTableRetire
  repeat' first
    | with_reducible (first
        | assumption | intro _ | apply bad_inv | apply ite_inv | apply CmdInv.mk_commit | apply ite_cmd)
    | exact Kept.congr ‹Kept P _› rfl | assumption | split

theorem heldByIndex_inv (x : Index)  : CmdInv P (heldByIndex x) := by
  unfold heldByIndex
  repeat' first
    | with_reducible (first
        | assumption | intro _ | apply held_inv | apply ite_inv | apply CmdInv.mk_commit | apply ite_cmd)
    | exact Kept.congr ‹Kept P _› rfl | assumption | split

theorem cmdIndexLoad_inv (s : State) (v : State) (_c : Cmd) (e : CmdEntry) (h_s : Kept P s) (h_v : Kept P v) : CmdInv P (cmdIndexLoad s v _c e) := by
  unfold cmdIndexLoad
  repeat' first
    | with_reducible (first
        | assumption | intro _)
    | exact True.intro | exact ⟨rfl, rfl⟩
    | with_reducible (first
        | apply bad_inv | apply heldByIndex_inv | apply refuse_inv | apply foldl_bind_inv | apply bind_inv | apply ite_snd | apply ite_inv | apply ite_opt
        | apply ite_cmd | apply ite_out | apply findSome_inv | apply each_inv | apply iter_inv | apply foldl_inv | apply foldl_inv2 | apply getD_inv
        | apply elim_inv | apply JudgedInv.mk | apply JudgedInv.take | apply JudgedInv.discard | apply ite_judged | apply OptInv.mk_some
        | apply OptInv.mk_none | apply ExcInv.mk_ok | apply ExcInv.mk_error | apply OutInv.mk_next | apply CmdInv.mk_commit | apply DirInv.mk_sent
        | apply DirRoomInv.mk_freeing)
    | exact Kept.congr ‹Kept P _› rfl | assumption | split | dsimp only

theorem cmdIndexPart_inv (s : State) (v : State) (_c : Cmd) (e : CmdEntry) (h_s : Kept P s) (h_v : Kept P v) : CmdInv P (cmdIndexPart s v _c e) := by
  unfold cmdIndexPart
  repeat' first
    | with_reducible (first
        | assumption | intro _ | apply bad_inv | apply ite_inv | apply CmdInv.mk_commit | apply ite_cmd)
    | exact Kept.congr ‹Kept P _› rfl | assumption | split

theorem heldByCompact_inv (x : Index) (p : IndexPart)  : CmdInv P (heldByCompact x p) := by
  unfold heldByCompact
  repeat' first
    | with_reducible (first
        | assumption | intro _ | apply held_inv | apply ite_inv | apply CmdInv.mk_commit | apply ite_cmd)
    | exact Kept.congr ‹Kept P _› rfl | assumption | split

theorem cmdIndexBatch_inv (hP : Closed P) (s : State) (v : State) (_c : Cmd) (e : CmdEntry) (d : List Byte) (h_s : Kept P s) (h_v : Kept P v) : CmdInv P (cmdIndexBatch s v _c e d) := by
  unfold cmdIndexBatch
  repeat' first
    | with_reducible (first
        | assumption | intro _)
    | exact True.intro | exact ⟨rfl, rfl⟩
    | (extract_lets +onlyGivenNames x
       first
       | (refine ((fun (hx : Kept P x) => ?_) ?_) <;> [clear_value x; (revert x; change (Kept P) _)])
       | (refine ((fun (hx : Kept P x.2) => ?_) ?_) <;> [clear_value x; (revert x; change (Kept P) (Prod.snd _))])
       | (have _ := (x : List _); clear_value x)
       | skip)
    | with_reducible (first
        | apply bad_inv | apply heldByCompact_inv | apply (writeBatch_inv hP) | apply noRoom_inv | apply foldl_bind_inv | apply bind_inv | apply ite_snd
        | apply ite_inv | apply ite_opt | apply ite_cmd | apply ite_out | apply findSome_inv | apply each_inv | apply iter_inv | apply foldl_inv
        | apply foldl_inv2 | apply getD_inv | apply elim_inv | apply JudgedInv.mk | apply JudgedInv.take | apply JudgedInv.discard | apply ite_judged
        | apply OptInv.mk_some | apply OptInv.mk_none | apply ExcInv.mk_ok | apply ExcInv.mk_error | apply OutInv.mk_next | apply CmdInv.mk_commit
        | apply DirInv.mk_sent | apply DirRoomInv.mk_freeing)
    | exact Kept.congr ‹Kept P _› rfl | assumption | split | (refine OptInv.of_eq (Q := (Kept P)) ‹_ = some _› ?_) | (refine pair_of_eq ‹_ = (_, _)› ?_)
    | (refine pair_of_eq' ‹_ = (_, _)› ?_) | (refine DirInv.of_eq ‹_ = DirStep.sent _› ?_) | (refine DirRoomInv.of_eq ‹_ = DirRoom.freeing _› ?_)
    | dsimp only

theorem cmdIndexCommit_inv (hP : Closed P) (s : State) (v : State) (_c : Cmd) (e : CmdEntry) (h_s : Kept P s) (h_v : Kept P v) : CmdInv P (cmdIndexCommit s v _c e) := by
  unfold cmdIndexCommit
  repeat' first
    | with_reducible (first
        | assumption | intro _ | apply bad_inv | apply (commitEpoch_inv hP) | apply ite_inv | apply CmdInv.mk_commit | apply ite_cmd)
    | exact Kept.congr ‹Kept P _› rfl | assumption | split

theorem cmdIndexQepoch_inv (s : State) (v : State) (_c : Cmd) (e : CmdEntry) (h_s : Kept P s) (h_v : Kept P v) : CmdInv P (cmdIndexQepoch s v _c e) := by
  unfold cmdIndexQepoch
  repeat' first
    | with_reducible (first
        | assumption | intro _ | apply bad_inv | apply ite_inv | apply CmdInv.mk_commit | apply ite_cmd)
    | exact Kept.congr ‹Kept P _› rfl | assumption | split

theorem cmdIndexCompact_inv (s : State) (v : State) (_c : Cmd) (e : CmdEntry) (h_s : Kept P s) (h_v : Kept P v) : CmdInv P (cmdIndexCompact s v _c e) := by
  unfold cmdIndexCompact
  repeat' first
    | with_reducible (first
        | assumption | intro _ | apply bad_inv | apply heldByCompact_inv | apply ite_inv | apply CmdInv.mk_commit | apply ite_cmd)
    | exact Kept.congr ‹Kept P _› rfl | assumption | split

theorem cmdIndexUnload_inv (s : State) (v : State) (_c : Cmd) (e : CmdEntry) (h_s : Kept P s) (h_v : Kept P v) : CmdInv P (cmdIndexUnload s v _c e) := by
  unfold cmdIndexUnload
  repeat' first
    | with_reducible (first
        | assumption | intro _ | apply bad_inv | apply heldByCompact_inv | apply ite_inv | apply CmdInv.mk_commit | apply ite_cmd)
    | exact Kept.congr ‹Kept P _› rfl | assumption | split

/-! ### Registers -/

theorem updFunc_inv (s : State) (fn : Nat) (f : FuncS → FuncS) (h_s : Kept P s) : Kept P (updFunc s fn f) := by
  unfold updFunc
  repeat' first
    | with_reducible (first
        | assumption | intro _ | apply ite_inv)
    | exact Kept.congr ‹Kept P _› rfl | assumption | split

theorem alert_inv (s : State) (h_s : Kept P s) : Kept P (alert s) := by
  unfold alert
  repeat' first
    | with_reducible (first
        | assumption | intro _ | apply ite_inv)
    | exact Kept.congr ‹Kept P _› rfl | assumption | split

theorem snapNow_inv (s : State) (fn : Nat) (h_s : Kept P s) : Kept P (snapNow s fn) := by
  unfold snapNow
  repeat' first
    | with_reducible (first
        | assumption | intro _ | apply updFunc_inv | apply ite_inv)
    | exact Kept.congr ‹Kept P _› rfl | assumption | split

theorem writeLwSel_inv (s : State) (fn : Nat) (off : Nat) (size : Nat) (value : Word) (h_s : Kept P s) : Kept P (writeLwSel s fn off size value) := by
  unfold writeLwSel
  repeat' first
    | with_reducible (first
        | assumption | intro _ | apply updFunc_inv | apply ite_inv)
    | exact Kept.congr ‹Kept P _› rfl | assumption | split

theorem plainWrite_inv (s : State) (fn : Nat) (off : Nat) (size : Nat) (value : Word) (h_s : Kept P s) : Kept P (plainWrite s fn off size value) := by
  unfold plainWrite
  repeat' first
    | with_reducible (first
        | assumption | intro _ | apply updFunc_inv | apply ite_inv)
    | exact Kept.congr ‹Kept P _› rfl | assumption | split

theorem barWrite_inv (s : State) (off : Nat) (size : Nat) (value : Word) (h_s : Kept P s) : Kept P (barWrite s off size value) := by
  unfold barWrite
  repeat' first
    | with_reducible (first
        | assumption | intro _ | apply writeLwSel_inv | apply plainWrite_inv | apply snapNow_inv | apply ite_inv)
    | exact Kept.congr ‹Kept P _› rfl | assumption | split

theorem execSnap_inv (fn : Nat) (s : State) (h_s : Kept P s) : OutInv P (execSnap fn s) := by
  unfold execSnap
  repeat' first
    | with_reducible (first
        | assumption | intro _ | apply done_inv | apply snapNow_inv | apply ite_inv | apply OutInv.mk_next)
    | exact Kept.congr ‹Kept P _› rfl | assumption | split

theorem execLwSel_inv (fn : Nat) (offset : Nat) (size : Nat) (value : Word) (s : State) (h_s : Kept P s) : OutInv P (execLwSel fn offset size value s) := by
  unfold execLwSel
  repeat' first
    | with_reducible (first
        | assumption | intro _ | apply done_inv | apply writeLwSel_inv | apply ite_inv | apply OutInv.mk_next)
    | exact Kept.congr ‹Kept P _› rfl | assumption | split

theorem execRegisterWrite_inv (fn : Nat) (offset : Nat) (size : Nat) (value : Word) (s : State) (h_s : Kept P s) : OutInv P (execRegisterWrite fn offset size value s) := by
  unfold execRegisterWrite
  repeat' first
    | with_reducible (first
        | assumption | intro _ | apply done_inv | apply plainWrite_inv | apply ite_inv | apply OutInv.mk_next)
    | exact Kept.congr ‹Kept P _› rfl | assumption | split

theorem readMarks_inv (s : State) (fn : Nat) (slots : List Nat) (h_s : Kept P s) : Kept P (readMarks s fn slots) := by
  unfold readMarks
  repeat' first
    | with_reducible (first
        | assumption | intro _ | apply alert_inv | apply record_inv | apply ite_inv)
    | exact Kept.congr ‹Kept P _› rfl | assumption | split

theorem execLedgerWindowRead_inv (fn : Nat) (slots : List Nat) (s : State) (h_s : Kept P s) : OutInv P (execLedgerWindowRead fn slots s) := by
  unfold execLedgerWindowRead
  repeat' first
    | with_reducible (first
        | assumption | intro _ | apply done_inv | apply readMarks_inv | apply ite_inv | apply OutInv.mk_next)
    | exact Kept.congr ‹Kept P _› rfl | assumption | split

theorem popResponse_inv (s : State) (fn : Nat) (h_s : Kept P s) : Kept P (popResponse s fn) := by
  unfold popResponse
  repeat' first
    | with_reducible (first
        | assumption | intro _ | apply updFunc_inv | apply ite_inv)
    | exact Kept.congr ‹Kept P _› rfl | assumption | split

theorem execPop_inv (fn : Nat) (s : State) (h_s : Kept P s) : OutInv P (execPop fn s) := by
  unfold execPop
  repeat' first
    | with_reducible (first
        | assumption | intro _ | apply done_inv | apply popResponse_inv | apply ite_inv | apply OutInv.mk_next)
    | exact Kept.congr ‹Kept P _› rfl | assumption | split

/-! ### CmdSecurity -/

theorem trustRecord_inv (s : State) (code : Nat) (stall : Nat) (principal : Nat) (p0 : Word) (p1 : Word) (p2 : Word) (p3 : Word) (h_s : Kept P s) : Kept P (trustRecord s code stall principal p0 p1 p2 p3) := by
  unfold trustRecord
  repeat' first
    | with_reducible (first
        | assumption | intro _ | apply record_inv | apply ite_inv)
    | exact Kept.congr ‹Kept P _› rfl | assumption | split

theorem cmdSealInstall_inv (s : State) (v : State) (c : Cmd) (e : CmdEntry) (d : List Byte) (h_s : Kept P s) (h_v : Kept P v) : CmdInv P (cmdSealInstall s v c e d) := by
  unfold cmdSealInstall
  repeat' first
    | with_reducible (first
        | assumption | intro _)
    | exact True.intro | exact ⟨rfl, rfl⟩
    | with_reducible (first
        | apply bad_inv | apply noRoom_inv | apply trustRecord_inv | apply refuse_inv | apply foldl_bind_inv | apply bind_inv | apply ite_snd | apply ite_inv
        | apply ite_opt | apply ite_cmd | apply ite_out | apply findSome_inv | apply each_inv | apply iter_inv | apply foldl_inv | apply foldl_inv2
        | apply getD_inv | apply elim_inv | apply JudgedInv.mk | apply JudgedInv.take | apply JudgedInv.discard | apply ite_judged | apply OptInv.mk_some
        | apply OptInv.mk_none | apply ExcInv.mk_ok | apply ExcInv.mk_error | apply OutInv.mk_next | apply CmdInv.mk_commit | apply DirInv.mk_sent
        | apply DirRoomInv.mk_freeing)
    | exact Kept.congr ‹Kept P _› rfl | assumption | split | dsimp only

theorem cmdSealRemove_inv (s : State) (v : State) (c : Cmd) (e : CmdEntry) (h_s : Kept P s) (h_v : Kept P v) : CmdInv P (cmdSealRemove s v c e) := by
  unfold cmdSealRemove
  repeat' first
    | with_reducible (first
        | assumption | intro _ | apply bad_inv | apply trustRecord_inv | apply ite_inv | apply CmdInv.mk_commit | apply ite_cmd)
    | exact Kept.congr ‹Kept P _› rfl | assumption | split

theorem heldByRoll_inv (s : State) (r : Roll) (h_s : Kept P s) : CmdInv P (heldByRoll s r) := by
  unfold heldByRoll
  repeat' first
    | with_reducible (first
        | assumption | intro _ | apply held_inv | apply ite_inv | apply CmdInv.mk_commit | apply ite_cmd)
    | exact Kept.congr ‹Kept P _› rfl | assumption | split

theorem cmdFwStage_inv (s : State) (v : State) (c : Cmd) (e : CmdEntry) (d : List Byte) (h_s : Kept P s) (h_v : Kept P v) : CmdInv P (cmdFwStage s v c e d) := by
  unfold cmdFwStage
  repeat' first
    | with_reducible (first
        | assumption | intro _)
    | exact True.intro | exact ⟨rfl, rfl⟩
    | with_reducible (first
        | apply bad_inv | apply heldByRoll_inv | apply trustRecord_inv | apply refuse_inv | apply foldl_bind_inv | apply bind_inv | apply ite_snd
        | apply ite_inv | apply ite_opt | apply ite_cmd | apply ite_out | apply findSome_inv | apply each_inv | apply iter_inv | apply foldl_inv
        | apply foldl_inv2 | apply getD_inv | apply elim_inv | apply JudgedInv.mk | apply JudgedInv.take | apply JudgedInv.discard | apply ite_judged
        | apply OptInv.mk_some | apply OptInv.mk_none | apply ExcInv.mk_ok | apply ExcInv.mk_error | apply OutInv.mk_next | apply CmdInv.mk_commit
        | apply DirInv.mk_sent | apply DirRoomInv.mk_freeing)
    | exact Kept.congr ‹Kept P _› rfl | assumption | split | dsimp only

theorem cmdFwRoll_inv (s : State) (v : State) (c : Cmd) (e : CmdEntry) (h_s : Kept P s) (h_v : Kept P v) : CmdInv P (cmdFwRoll s v c e) := by
  unfold cmdFwRoll
  repeat' first
    | with_reducible (first
        | assumption | intro _ | apply bad_inv | apply heldByRoll_inv | apply ite_inv | apply CmdInv.mk_commit | apply ite_cmd)
    | exact Kept.congr ‹Kept P _› rfl | assumption | split

theorem cmdKeyRotate_inv (s : State) (v : State) (_c : Cmd) (e : CmdEntry) (h_s : Kept P s) (h_v : Kept P v) : CmdInv P (cmdKeyRotate s v _c e) := by
  unfold cmdKeyRotate
  repeat' first
    | with_reducible (first
        | assumption | intro _ | apply bad_inv | apply noRoom_inv | apply ite_inv | apply CmdInv.mk_commit | apply ite_cmd)
    | exact Kept.congr ‹Kept P _› rfl | assumption | split

/-! ### CmdSystem -/

theorem claimRecord_inv (s : State) (code : Nat) (resource : Nat) (object : Nat) (stall : Nat) (principal : Nat) (displacing : Nat) (h_s : Kept P s) : Kept P (claimRecord s code resource object stall principal displacing) := by
  unfold claimRecord
  repeat' first
    | with_reducible (first
        | assumption | intro _ | apply record_inv | apply ite_inv)
    | exact Kept.congr ‹Kept P _› rfl | assumption | split

theorem takeClaim_inv (s : State) (resource : Nat) (object : Nat) (h_s : Kept P s) : Kept P (takeClaim s resource object) := by
  unfold takeClaim
  repeat' first
    | with_reducible (first
        | assumption | intro _ | apply ite_inv)
    | exact Kept.congr ‹Kept P _› rfl | assumption | split

theorem makeClaim_inv (s : State) (r : ClaimRec) (h_s : Kept P s) : Kept P (makeClaim s r) := by
  unfold makeClaim
  repeat' first
    | with_reducible (first
        | assumption | intro _ | apply claimRecord_inv | apply ite_inv)
    | exact Kept.congr ‹Kept P _› rfl | assumption | split

theorem dropClaim_inv (s : State) (resource : Nat) (object : Nat) (h_s : Kept P s) : Kept P (dropClaim s resource object) := by
  unfold dropClaim
  repeat' first
    | with_reducible (first
        | assumption | intro _ | apply claimRecord_inv | apply takeClaim_inv | apply ite_inv)
    | exact Kept.congr ‹Kept P _› rfl | assumption | split

theorem displaceClaim_inv (s : State) (resource : Nat) (object : Nat) (by_ : Nat) (h_s : Kept P s) : Kept P (displaceClaim s resource object by_) := by
  unfold displaceClaim
  repeat' first
    | with_reducible (first
        | assumption | intro _ | apply claimRecord_inv | apply takeClaim_inv | apply ite_inv)
    | exact Kept.congr ‹Kept P _› rfl | assumption | split

theorem heldByClaim_inv (r : ClaimRec)  : CmdInv P (heldByClaim r) := by
  unfold heldByClaim
  repeat' first
    | with_reducible (first
        | assumption | intro _ | apply held_inv | apply ite_inv | apply CmdInv.mk_commit | apply ite_cmd)
    | exact Kept.congr ‹Kept P _› rfl | assumption | split

theorem cmdClaim_inv (s : State) (v : State) (c : Cmd) (e : CmdEntry) (h_s : Kept P s) (h_v : Kept P v) : CmdInv P (cmdClaim s v c e) := by
  unfold cmdClaim
  repeat' first
    | with_reducible (first
        | assumption | intro _ | apply bad_inv | apply heldByClaim_inv | apply claimRecord_inv | apply ite_inv | apply CmdInv.mk_commit | apply ite_cmd)
    | exact Kept.congr ‹Kept P _› rfl | assumption | split

theorem cmdRelease_inv (s : State) (v : State) (c : Cmd) (e : CmdEntry) (h_s : Kept P s) (h_v : Kept P v) : CmdInv P (cmdRelease s v c e) := by
  unfold cmdRelease
  repeat' first
    | with_reducible (first
        | assumption | intro _ | apply bad_inv | apply claimRecord_inv | apply ite_inv | apply CmdInv.mk_commit | apply ite_cmd)
    | exact Kept.congr ‹Kept P _› rfl | assumption | split

theorem cmdClaimList_inv (s : State) (v : State) (_c : Cmd) (e : CmdEntry) (h_s : Kept P s) (h_v : Kept P v) : CmdInv P (cmdClaimList s v _c e) := by
  unfold cmdClaimList
  repeat' first
    | with_reducible (first
        | assumption | intro _)
    | exact True.intro | exact ⟨rfl, rfl⟩
    | with_reducible (first
        | apply bad_inv | apply reply_inv | apply foldl_bind_inv | apply bind_inv | apply ite_snd | apply ite_inv | apply ite_opt | apply ite_cmd
        | apply ite_out | apply findSome_inv | apply each_inv | apply iter_inv | apply foldl_inv | apply foldl_inv2 | apply getD_inv | apply elim_inv
        | apply JudgedInv.mk | apply JudgedInv.take | apply JudgedInv.discard | apply ite_judged | apply OptInv.mk_some | apply OptInv.mk_none
        | apply ExcInv.mk_ok | apply ExcInv.mk_error | apply OutInv.mk_next | apply CmdInv.mk_commit | apply DirInv.mk_sent | apply DirRoomInv.mk_freeing)
    | exact Kept.congr ‹Kept P _› rfl | assumption | split | dsimp only

theorem cmdReset_inv (s : State) (v : State) (_c : Cmd) (e : CmdEntry) (h_s : Kept P s) (h_v : Kept P v) : CmdInv P (cmdReset s v _c e) := by
  unfold cmdReset
  repeat' first
    | with_reducible (first
        | assumption | intro _ | apply bad_inv | apply held_inv | apply ite_inv | apply CmdInv.mk_commit | apply ite_cmd)
    | exact Kept.congr ‹Kept P _› rfl | assumption | split

theorem updCores_inv (s : State) (q : Nat) (f : CoreS → CoreS) (h_s : Kept P s) : Kept P (updCores s q f) := by
  unfold updCores
  repeat' first
    | with_reducible (first
        | assumption | intro _ | apply ite_inv)
    | exact Kept.congr ‹Kept P _› rfl | assumption | split

theorem spareTaken_inv (v : State) (q : Nat) (h_v : Kept P v) : OptInv (CmdInv P) (spareTaken v q) := by
  unfold spareTaken
  repeat' first
    | with_reducible (first
        | assumption | intro _ | apply heldByClaim_inv | apply heldByRoll_inv | apply ite_inv | apply CmdInv.mk_commit | apply ite_cmd | apply OptInv.mk_some
        | apply OptInv.mk_none | apply ite_opt)
    | exact Kept.congr ‹Kept P _› rfl | assumption | split

theorem cmdDebugHalt_inv (s : State) (v : State) (c : Cmd) (e : CmdEntry) (h_s : Kept P s) (h_v : Kept P v) : CmdInv P (cmdDebugHalt s v c e) := by
  unfold cmdDebugHalt
  repeat' first
    | with_reducible (first
        | assumption | intro _)
    | exact True.intro | exact ⟨rfl, rfl⟩
    | (extract_lets +onlyGivenNames x
       first
       | (refine ((fun (hx : Kept P x) => ?_) ?_) <;> [clear_value x; (revert x; change (Kept P) _)])
       | (refine ((fun (hx : Kept P x.2) => ?_) ?_) <;> [clear_value x; (revert x; change (Kept P) (Prod.snd _))])
       | (refine ((fun (hx : OptInv (Kept P) x) => ?_) ?_) <;> [clear_value x; (revert x; change OptInv (Kept P) _)])
       | (refine ((fun (hx : CmdInv P x) => ?_) ?_) <;> [clear_value x; (revert x; change (CmdInv P) _)])
       | (have _ := (x : List _); clear_value x)
       | skip)
    | with_reducible (first
        | apply bad_inv | apply spareTaken_inv | apply claimRecord_inv | apply foldl_bind_inv | apply bind_inv | apply ite_snd | apply ite_inv | apply ite_opt
        | apply ite_cmd | apply ite_out | apply findSome_inv | apply each_inv | apply iter_inv | apply foldl_inv | apply foldl_inv2 | apply getD_inv
        | apply elim_inv | apply JudgedInv.mk | apply JudgedInv.take | apply JudgedInv.discard | apply ite_judged | apply OptInv.mk_some
        | apply OptInv.mk_none | apply ExcInv.mk_ok | apply ExcInv.mk_error | apply OutInv.mk_next | apply CmdInv.mk_commit | apply DirInv.mk_sent
        | apply DirRoomInv.mk_freeing)
    | exact Kept.congr ‹Kept P _› rfl | assumption | refine Inv.congr (claimRecord_inv _ _ _ _ _ _ _ ?_ ) rfl | split
    | (refine OptInv.of_eq (Q := (Kept P)) ‹_ = some _› ?_) | (refine OptInv.of_eq (Q := (CmdInv P)) ‹_ = some _› ?_) | (refine pair_of_eq ‹_ = (_, _)› ?_)
    | (refine pair_of_eq' ‹_ = (_, _)› ?_) | (refine DirInv.of_eq ‹_ = DirStep.sent _› ?_) | (refine DirRoomInv.of_eq ‹_ = DirRoom.freeing _› ?_)
    | (refine CmdInv.of_eq ‹_ = CmdResult.commit _ _ _ _› ?_) | (refine ExcInv.of_eq ‹_ = Except.ok _› ?_) | dsimp only
   
    | dsimp +zetaDelta only
    | (refine OptInv.of_eq (Q := fun (t : _ × State) => (Kept P) t.2) ‹_ = some _› ?_)
    | (refine OptInv.of_eq (Q := fun (t : _ × State) => (Kept P) t.2) (t := (_, _)) ‹_ = some (_, _)› ?_)
    | (refine ExcInv.of_eq (Q := fun (t : _ × State) => (Kept P) t.2) (t := (_, _)) ‹_ = Except.ok (_, _)› ?_)

theorem cmdLoopback_inv (s : State) (v : State) (c : Cmd) (e : CmdEntry) (h_s : Kept P s) (h_v : Kept P v) : CmdInv P (cmdLoopback s v c e) := by
  unfold cmdLoopback
  repeat' first
    | with_reducible (first
        | assumption | intro _ | apply bad_inv | apply heldByClaim_inv | apply claimRecord_inv | apply freeWord_inv | apply ite_inv | apply CmdInv.mk_commit
        | apply ite_cmd)
    | exact Kept.congr ‹Kept P _› rfl | assumption | split

theorem cmdDirRead_inv (s : State) (_v : State) (_c : Cmd) (e : CmdEntry) (h_s : Kept P s) (h__v : Kept P _v) : CmdInv P (cmdDirRead s _v _c e) := by
  unfold cmdDirRead
  repeat' first
    | with_reducible (first
        | assumption | intro _ | apply bad_inv | apply reply_inv | apply ite_inv | apply CmdInv.mk_commit | apply ite_cmd)
    | exact Kept.congr ‹Kept P _› rfl | assumption | split

theorem cmdRegRead_inv (s : State) (_v : State) (_c : Cmd) (e : CmdEntry) (h_s : Kept P s) (h__v : Kept P _v) : CmdInv P (cmdRegRead s _v _c e) := by
  unfold cmdRegRead
  repeat' first
    | with_reducible (first
        | assumption | intro _ | apply reply_inv | apply bad_inv | apply ite_inv | apply CmdInv.mk_commit | apply ite_cmd)
    | exact Kept.congr ‹Kept P _› rfl | assumption | split

theorem cmdRegWrite_inv (s : State) (_v : State) (_c : Cmd) (e : CmdEntry) (h_s : Kept P s) (h__v : Kept P _v) : CmdInv P (cmdRegWrite s _v _c e) := by
  unfold cmdRegWrite
  repeat' first
    | with_reducible (first
        | assumption | intro _ | apply bad_inv | apply ite_inv | apply CmdInv.mk_commit | apply ite_cmd)
    | exact Kept.congr ‹Kept P _› rfl | assumption | split

theorem cmdPortSet_inv (s : State) (_v : State) (_c : Cmd) (e : CmdEntry) (h_s : Kept P s) (h__v : Kept P _v) : CmdInv P (cmdPortSet s _v _c e) := by
  unfold cmdPortSet
  repeat' first
    | with_reducible (first
        | assumption | intro _ | apply bad_inv | apply ite_inv | apply CmdInv.mk_commit | apply ite_cmd)
    | exact Kept.congr ‹Kept P _› rfl | assumption | split

/-! ### CmdDomain -/

theorem cmdDomainJoin_inv (s : State) (v : State) (_c : Cmd) (e : CmdEntry) (d : List Byte) (h_s : Kept P s) (h_v : Kept P v) : CmdInv P (cmdDomainJoin s v _c e d) := by
  unfold cmdDomainJoin
  repeat' first
    | with_reducible (first
        | assumption | intro _)
    | exact True.intro | exact ⟨rfl, rfl⟩
    | (extract_lets +onlyGivenNames x
       first
       | (refine ((fun (hx : Kept P x) => ?_) ?_) <;> [clear_value x; (revert x; change (Kept P) _)])
       | (refine ((fun (hx : Kept P x.2) => ?_) ?_) <;> [clear_value x; (revert x; change (Kept P) (Prod.snd _))])
       | (refine ((fun (hx : OptInv (Kept P) x) => ?_) ?_) <;> [clear_value x; (revert x; change OptInv (Kept P) _)])
       | (refine ((fun (hx : CmdInv P x) => ?_) ?_) <;> [clear_value x; (revert x; change (CmdInv P) _)])
       | (have _ := (x : List _); clear_value x)
       | skip)
    | with_reducible (first
        | apply checkCert_inv | apply bad_inv | apply refuse_inv | apply foldl_bind_inv | apply bind_inv | apply ite_snd | apply ite_inv | apply ite_opt
        | apply ite_cmd | apply ite_out | apply findSome_inv | apply each_inv | apply iter_inv | apply foldl_inv | apply foldl_inv2 | apply getD_inv
        | apply elim_inv | apply JudgedInv.mk | apply JudgedInv.take | apply JudgedInv.discard | apply ite_judged | apply OptInv.mk_some
        | apply OptInv.mk_none | apply ExcInv.mk_ok | apply ExcInv.mk_error | apply OutInv.mk_next | apply CmdInv.mk_commit | apply DirInv.mk_sent
        | apply DirRoomInv.mk_freeing)
    | exact Kept.congr ‹Kept P _› rfl | assumption | refine Inv.congr (refuse_inv _ _ _ _ _ _ _ ?_ ) rfl | split
    | (refine OptInv.of_eq (Q := (Kept P)) ‹_ = some _› ?_) | (refine OptInv.of_eq (Q := (CmdInv P)) ‹_ = some _› ?_) | (refine pair_of_eq ‹_ = (_, _)› ?_)
    | (refine pair_of_eq' ‹_ = (_, _)› ?_) | (refine DirInv.of_eq ‹_ = DirStep.sent _› ?_) | (refine DirRoomInv.of_eq ‹_ = DirRoom.freeing _› ?_)
    | (refine CmdInv.of_eq ‹_ = CmdResult.commit _ _ _ _› ?_) | (refine ExcInv.of_eq ‹_ = Except.ok _› ?_) | dsimp only
   
    | dsimp +zetaDelta only
    | (refine OptInv.of_eq (Q := fun (t : _ × State) => (Kept P) t.2) ‹_ = some _› ?_)
    | (refine OptInv.of_eq (Q := fun (t : _ × State) => (Kept P) t.2) (t := (_, _)) ‹_ = some (_, _)› ?_)
    | (refine ExcInv.of_eq (Q := fun (t : _ × State) => (Kept P) t.2) (t := (_, _)) ‹_ = Except.ok (_, _)› ?_)

theorem cmdQuorumSet_inv (s : State) (_v : State) (_c : Cmd) (e : CmdEntry) (d : List Byte) (h_s : Kept P s) (h__v : Kept P _v) : CmdInv P (cmdQuorumSet s _v _c e d) := by
  unfold cmdQuorumSet
  repeat' first
    | with_reducible (first
        | assumption | intro _)
    | exact True.intro | exact ⟨rfl, rfl⟩
    | (extract_lets +onlyGivenNames x
       first
       | (refine ((fun (hx : Kept P x) => ?_) ?_) <;> [clear_value x; (revert x; change (Kept P) _)])
       | (refine ((fun (hx : Kept P x.2) => ?_) ?_) <;> [clear_value x; (revert x; change (Kept P) (Prod.snd _))])
       | (refine ((fun (hx : OptInv (Kept P) x) => ?_) ?_) <;> [clear_value x; (revert x; change OptInv (Kept P) _)])
       | (refine ((fun (hx : CmdInv P x) => ?_) ?_) <;> [clear_value x; (revert x; change (CmdInv P) _)])
       | (have _ := (x : List _); clear_value x)
       | skip)
    | with_reducible (first
        | apply checkCert_inv | apply bad_inv | apply refuse_inv | apply foldl_bind_inv | apply bind_inv | apply ite_snd | apply ite_inv | apply ite_opt
        | apply ite_cmd | apply ite_out | apply findSome_inv | apply each_inv | apply iter_inv | apply foldl_inv | apply foldl_inv2 | apply getD_inv
        | apply elim_inv | apply JudgedInv.mk | apply JudgedInv.take | apply JudgedInv.discard | apply ite_judged | apply OptInv.mk_some
        | apply OptInv.mk_none | apply ExcInv.mk_ok | apply ExcInv.mk_error | apply OutInv.mk_next | apply CmdInv.mk_commit | apply DirInv.mk_sent
        | apply DirRoomInv.mk_freeing)
    | exact Kept.congr ‹Kept P _› rfl | assumption | refine Inv.congr (refuse_inv _ _ _ _ _ _ _ ?_ ) rfl | split
    | (refine OptInv.of_eq (Q := (Kept P)) ‹_ = some _› ?_) | (refine OptInv.of_eq (Q := (CmdInv P)) ‹_ = some _› ?_) | (refine pair_of_eq ‹_ = (_, _)› ?_)
    | (refine pair_of_eq' ‹_ = (_, _)› ?_) | (refine DirInv.of_eq ‹_ = DirStep.sent _› ?_) | (refine DirRoomInv.of_eq ‹_ = DirRoom.freeing _› ?_)
    | (refine CmdInv.of_eq ‹_ = CmdResult.commit _ _ _ _› ?_) | (refine ExcInv.of_eq ‹_ = Except.ok _› ?_) | dsimp only
   
    | dsimp +zetaDelta only
    | (refine OptInv.of_eq (Q := fun (t : _ × State) => (Kept P) t.2) ‹_ = some _› ?_)
    | (refine OptInv.of_eq (Q := fun (t : _ × State) => (Kept P) t.2) (t := (_, _)) ‹_ = some (_, _)› ?_)
    | (refine ExcInv.of_eq (Q := fun (t : _ × State) => (Kept P) t.2) (t := (_, _)) ‹_ = Except.ok (_, _)› ?_)

theorem cmdDeviceExpel_inv (s : State) (v : State) (c : Cmd) (e : CmdEntry) (d : List Byte) (h_s : Kept P s) (h_v : Kept P v) : CmdInv P (cmdDeviceExpel s v c e d) := by
  unfold cmdDeviceExpel
  repeat' first
    | with_reducible (first
        | assumption | intro _)
    | exact True.intro | exact ⟨rfl, rfl⟩
    | (extract_lets +onlyGivenNames x
       first
       | (refine ((fun (hx : Kept P x) => ?_) ?_) <;> [clear_value x; (revert x; change (Kept P) _)])
       | (refine ((fun (hx : Kept P x.2) => ?_) ?_) <;> [clear_value x; (revert x; change (Kept P) (Prod.snd _))])
       | (refine ((fun (hx : OptInv (Kept P) x) => ?_) ?_) <;> [clear_value x; (revert x; change OptInv (Kept P) _)])
       | (refine ((fun (hx : CmdInv P x) => ?_) ?_) <;> [clear_value x; (revert x; change (CmdInv P) _)])
       | (have _ := (x : List _); clear_value x)
       | skip)
    | with_reducible (first
        | apply checkCert_inv | apply bad_inv | apply record_inv | apply refuse_inv | apply foldl_bind_inv | apply bind_inv | apply ite_snd | apply ite_inv
        | apply ite_opt | apply ite_cmd | apply ite_out | apply findSome_inv | apply each_inv | apply iter_inv | apply foldl_inv | apply foldl_inv2
        | apply getD_inv | apply elim_inv | apply JudgedInv.mk | apply JudgedInv.take | apply JudgedInv.discard | apply ite_judged | apply OptInv.mk_some
        | apply OptInv.mk_none | apply ExcInv.mk_ok | apply ExcInv.mk_error | apply OutInv.mk_next | apply CmdInv.mk_commit | apply DirInv.mk_sent
        | apply DirRoomInv.mk_freeing)
    | exact Kept.congr ‹Kept P _› rfl | assumption | refine Inv.congr (record_inv _ _ ?_ ) rfl | refine Inv.congr (refuse_inv _ _ _ _ _ _ _ ?_ ) rfl
    | split | (refine OptInv.of_eq (Q := (Kept P)) ‹_ = some _› ?_) | (refine OptInv.of_eq (Q := (CmdInv P)) ‹_ = some _› ?_) | (refine pair_of_eq ‹_ = (_, _)› ?_)
    | (refine pair_of_eq' ‹_ = (_, _)› ?_) | (refine DirInv.of_eq ‹_ = DirStep.sent _› ?_) | (refine DirRoomInv.of_eq ‹_ = DirRoom.freeing _› ?_)
    | (refine CmdInv.of_eq ‹_ = CmdResult.commit _ _ _ _› ?_) | (refine ExcInv.of_eq ‹_ = Except.ok _› ?_) | dsimp only
   
    | dsimp +zetaDelta only
    | (refine OptInv.of_eq (Q := fun (t : _ × State) => (Kept P) t.2) ‹_ = some _› ?_)
    | (refine OptInv.of_eq (Q := fun (t : _ × State) => (Kept P) t.2) (t := (_, _)) ‹_ = some (_, _)› ?_)
    | (refine ExcInv.of_eq (Q := fun (t : _ × State) => (Kept P) t.2) (t := (_, _)) ‹_ = Except.ok (_, _)› ?_)

theorem cmdLeaseStatus_inv (s : State) (_v : State) (_c : Cmd) (e : CmdEntry) (h_s : Kept P s) (h__v : Kept P _v) : CmdInv P (cmdLeaseStatus s _v _c e) := by
  unfold cmdLeaseStatus
  repeat' first
    | with_reducible (first
        | assumption | intro _ | apply bad_inv | apply reply_inv | apply ite_inv | apply CmdInv.mk_commit | apply ite_cmd)
    | exact Kept.congr ‹Kept P _› rfl | assumption | split

theorem cmdSheafSet_inv (s : State) (v : State) (c : Cmd) (e : CmdEntry) (d : List Byte) (h_s : Kept P s) (h_v : Kept P v) : CmdInv P (cmdSheafSet s v c e d) := by
  unfold cmdSheafSet
  repeat' first
    | with_reducible (first
        | assumption | intro _)
    | exact True.intro | exact ⟨rfl, rfl⟩
    | with_reducible (first
        | apply bad_inv | apply noRoom_inv | apply foldl_bind_inv | apply bind_inv | apply ite_snd | apply ite_inv | apply ite_opt | apply ite_cmd
        | apply ite_out | apply findSome_inv | apply each_inv | apply iter_inv | apply foldl_inv | apply foldl_inv2 | apply getD_inv | apply elim_inv
        | apply JudgedInv.mk | apply JudgedInv.take | apply JudgedInv.discard | apply ite_judged | apply OptInv.mk_some | apply OptInv.mk_none
        | apply ExcInv.mk_ok | apply ExcInv.mk_error | apply OutInv.mk_next | apply CmdInv.mk_commit | apply DirInv.mk_sent | apply DirRoomInv.mk_freeing)
    | exact Kept.congr ‹Kept P _› rfl | assumption | split | dsimp only

/-! ### Mailbox -/

theorem checkCmd_inv (hP : Closed P) (s : State) (v : State) (c : Cmd) (e : CmdEntry) (d : List Byte) (h_s : Kept P s) (h_v : Kept P v) : CmdInv P (checkCmd s v c e d) := by
  unfold checkCmd
  repeat' first
    | with_reducible (first
        | assumption | intro _ | apply cmdRegionCreate_inv | apply cmdRegionDestroy_inv | apply cmdRegionRead_inv | apply cmdKeyIssue_inv
        | apply cmdKeyRevoke_inv | apply cmdOwnerSet_inv | apply cmdGwBind_inv | apply (cmdHbmSplit_inv hP) | apply cmdTrayDiscard_inv | apply cmdTrayRelease_inv
        | apply cmdMapStage_inv | apply cmdMapSwitch_inv | apply cmdMapStatus_inv | apply cmdMovePrepare_inv | apply cmdStallSet_inv | apply cmdStallBind_inv
        | apply cmdQuotaSet_inv | apply cmdPoliceSet_inv | apply cmdSchedSet_inv | apply cmdMeterRead_inv | apply cmdEngineSet_inv | apply cmdQpAssign_inv
        | apply cmdQpRead_inv | apply cmdQpRelease_inv | apply cmdThresherReturn_inv | apply cmdTableLoad_inv | apply cmdTableRetire_inv
        | apply cmdIndexLoad_inv | apply cmdIndexPart_inv | apply (cmdIndexBatch_inv hP) | apply (cmdIndexCommit_inv hP) | apply cmdIndexQepoch_inv
        | apply cmdIndexCompact_inv | apply cmdIndexUnload_inv | apply cmdSealInstall_inv | apply cmdSealRemove_inv | apply cmdFwStage_inv
        | apply cmdFwRoll_inv | apply cmdKeyRotate_inv | apply cmdReset_inv | apply cmdDebugHalt_inv | apply cmdLoopback_inv | apply cmdDirRead_inv
        | apply cmdRegRead_inv | apply cmdRegWrite_inv | apply cmdPortSet_inv | apply cmdDomainJoin_inv | apply cmdLeaseStatus_inv | apply cmdDeviceExpel_inv
        | apply cmdQuorumSet_inv | apply cmdSheafSet_inv | apply cmdClaim_inv | apply cmdRelease_inv | apply cmdClaimList_inv | apply bad_inv | apply ite_inv
        | apply CmdInv.mk_commit | apply ite_cmd)
    | exact Kept.congr ‹Kept P _› rfl | assumption | split

theorem writeArea_inv (hP : Closed P) (s : State) (c : Cmd) (e : CmdEntry) (d : List Byte) (h_s : Kept P s) : Kept P (writeArea s c e d) := by
  unfold writeArea
  repeat' first
    | with_reducible (first
        | assumption | intro _)
    | exact True.intro | exact ⟨rfl, rfl⟩
    | with_reducible (first
        | apply updCmd_inv | apply (submit_inv hP) | apply (mailbox_inv hP) | apply foldl_bind_inv | apply bind_inv | apply ite_snd | apply ite_inv | apply ite_opt
        | apply ite_cmd | apply ite_out | apply findSome_inv | apply each_inv | apply iter_inv | apply foldl_inv | apply foldl_inv2 | apply getD_inv
        | apply elim_inv | apply JudgedInv.mk | apply JudgedInv.take | apply JudgedInv.discard | apply ite_judged | apply OptInv.mk_some
        | apply OptInv.mk_none | apply ExcInv.mk_ok | apply ExcInv.mk_error | apply OutInv.mk_next | apply CmdInv.mk_commit | apply DirInv.mk_sent
        | apply DirRoomInv.mk_freeing)
    | exact Kept.congr ‹Kept P _› rfl | assumption | split | dsimp only

theorem askMirror_inv (hP : Closed P) (s : State) (c : Cmd) (x : Sheaf) (h_s : Kept P s) : Kept P (askMirror s c x) := by
  unfold askMirror
  repeat' first
    | with_reducible (first
        | assumption | intro _ | apply readStalk_inv | apply updCmd_inv | apply (mailbox_inv hP) | apply ite_inv)
    | exact Kept.congr ‹Kept P _› rfl | assumption | split

theorem claimRefused_inv (s : State) (c : Cmd) (e : CmdEntry) (words : List Word) (h_s : Kept P s) : Kept P (claimRefused s c e words) := by
  unfold claimRefused
  repeat' first
    | with_reducible (first
        | assumption | intro _ | apply claimRecord_inv | apply ite_inv)
    | exact Kept.congr ‹Kept P _› rfl | assumption | split

theorem decide__inv (hP : Closed P) (s : State) (c : Cmd) (e : CmdEntry) (h_s : Kept P s) : Kept P (decide_ s c e) := by
  unfold decide_
  repeat' first
    | with_reducible (first
        | assumption | intro _)
    | exact True.intro | exact ⟨rfl, rfl⟩
    | (extract_lets +onlyGivenNames x
       first
       | (refine ((fun (hx : Kept P x) => ?_) ?_) <;> [clear_value x; (revert x; change (Kept P) _)])
       | (refine ((fun (hx : Kept P x.2) => ?_) ?_) <;> [clear_value x; (revert x; change (Kept P) (Prod.snd _))])
       | (refine ((fun (hx : OptInv (Kept P) x) => ?_) ?_) <;> [clear_value x; (revert x; change OptInv (Kept P) _)])
       | (refine ((fun (hx : CmdInv P x) => ?_) ?_) <;> [clear_value x; (revert x; change (CmdInv P) _)])
       | (have _ := (x : List _); clear_value x)
       | skip)
    | with_reducible (first
        | apply (committed_inv hP) | apply (askNeeds_inv hP) | apply (checkCmd_inv hP) | apply refuseCmd_inv | apply claimRefused_inv | apply (commitCmd_inv hP)
        | apply refuse_inv | apply foldl_bind_inv | apply bind_inv | apply ite_snd | apply ite_inv | apply ite_opt | apply ite_cmd | apply ite_out
        | apply findSome_inv | apply each_inv | apply iter_inv | apply foldl_inv | apply foldl_inv2 | apply getD_inv | apply elim_inv | apply JudgedInv.mk
        | apply JudgedInv.take | apply JudgedInv.discard | apply ite_judged | apply OptInv.mk_some | apply OptInv.mk_none | apply ExcInv.mk_ok
        | apply ExcInv.mk_error | apply OutInv.mk_next | apply CmdInv.mk_commit | apply DirInv.mk_sent | apply DirRoomInv.mk_freeing)
    | exact Kept.congr ‹Kept P _› rfl | assumption | refine Inv.congr ((committed_inv hP) _ ?_ ) rfl | refine Inv.congr ((askNeeds_inv hP) _ _ ?_ ) rfl
    | refine Inv.congr (refuseCmd_inv _ _ _ _ _ _ ?_ ) rfl | refine Inv.congr (claimRefused_inv _ _ _ _ ?_ ) rfl
    | refine Inv.congr ((commitCmd_inv hP) _ _ _ _ _ ?_ ) rfl | refine Inv.congr (refuse_inv _ _ _ _ _ _ _ ?_ ) rfl | split
    | (refine OptInv.of_eq (Q := (Kept P)) ‹_ = some _› ?_) | (refine OptInv.of_eq (Q := (CmdInv P)) ‹_ = some _› ?_) | (refine pair_of_eq ‹_ = (_, _)› ?_)
    | (refine pair_of_eq' ‹_ = (_, _)› ?_) | (refine DirInv.of_eq ‹_ = DirStep.sent _› ?_) | (refine DirRoomInv.of_eq ‹_ = DirRoom.freeing _› ?_)
    | (refine CmdInv.of_eq ‹_ = CmdResult.commit _ _ _ _› ?_) | (refine ExcInv.of_eq ‹_ = Except.ok _› ?_) | dsimp only
    | exact Kept.write hP ‹Kept P _› rfl | exact Kept.cache hP ‹Kept P _› rfl | exact Kept.clear hP ‹Kept P _› rfl
    | exact Kept.clears hP ‹Kept P _› rfl | dsimp +zetaDelta only
    | (refine OptInv.of_eq (Q := fun (t : _ × State) => (Kept P) t.2) ‹_ = some _› ?_)
    | (refine OptInv.of_eq (Q := fun (t : _ × State) => (Kept P) t.2) (t := (_, _)) ‹_ = some (_, _)› ?_)
    | (refine ExcInv.of_eq (Q := fun (t : _ × State) => (Kept P) t.2) (t := (_, _)) ‹_ = Except.ok (_, _)› ?_)

theorem attestCmd_inv (hP : Closed P) (s : State) (c : Cmd) (e : CmdEntry) (h_s : Kept P s) : Kept P (attestCmd s c e) := by
  unfold attestCmd
  repeat' first
    | with_reducible (first
        | assumption | intro _ | apply refuseCmd_inv | apply (writeArea_inv hP) | apply updCmd_inv | apply (commitCmd_inv hP) | apply ite_inv)
    | exact Kept.congr ‹Kept P _› rfl | assumption | split

theorem stepCmd_inv (hP : Closed P) (s : State) (c : Cmd) (e : CmdEntry) (h_s : Kept P s) : Kept P (stepCmd s c e) := by
  unfold stepCmd
  repeat' first
    | with_reducible (first
        | assumption | intro _ | apply refuseCmd_inv | apply (attestCmd_inv hP) | apply (askArea_inv hP) | apply (askMirror_inv hP) | apply (decide__inv hP) | apply ite_inv)
    | exact Kept.congr ‹Kept P _› rfl | assumption | split

theorem runMailboxes_inv (hP : Closed P) (s : State) (h_s : Kept P s) : Kept P (runMailboxes s) := by
  unfold runMailboxes
  repeat' first
    | with_reducible (first
        | assumption | intro _)
    | exact True.intro | exact ⟨rfl, rfl⟩
    | with_reducible (first
        | apply (stepCmd_inv hP) | apply foldl_bind_inv | apply bind_inv | apply ite_snd | apply ite_inv | apply ite_opt | apply ite_cmd | apply ite_out
        | apply findSome_inv | apply each_inv | apply iter_inv | apply foldl_inv | apply foldl_inv2 | apply getD_inv | apply elim_inv | apply JudgedInv.mk
        | apply JudgedInv.take | apply JudgedInv.discard | apply ite_judged | apply OptInv.mk_some | apply OptInv.mk_none | apply ExcInv.mk_ok
        | apply ExcInv.mk_error | apply OutInv.mk_next | apply CmdInv.mk_commit | apply DirInv.mk_sent | apply DirRoomInv.mk_freeing)
    | exact Kept.congr ‹Kept P _› rfl | assumption | split | dsimp only

theorem takeCmd_inv (s : State) (i : Issuer) (opc : Nat) (e : CmdEntry) (h_s : Kept P s) : Kept P (takeCmd s i opc e) := by
  unfold takeCmd
  repeat' first
    | with_reducible (first
        | assumption | intro _ | apply ite_inv)
    | exact Kept.congr ‹Kept P _› rfl | assumption | split

theorem mailbox_inv (hP : Closed P) (s : State) (i : Issuer) (opc : Nat) (e : CmdEntry) (h_s : Kept P s) : Kept P (mailbox s i opc e) := by
  unfold mailbox
  repeat' first
    | with_reducible (first
        | assumption | intro _ | apply mbRefuse_inv | apply send_inv | apply updFunc_inv | apply (settleAll_inv hP) | apply (runMailboxes_inv hP) | apply takeCmd_inv
        | apply ite_inv)
    | exact Kept.congr ‹Kept P _› rfl | assumption | split

theorem goNow_inv (hP : Closed P) (s : State) (fn : Nat) (h_s : Kept P s) : Kept P (goNow s fn) := by
  unfold goNow
  repeat' first
    | with_reducible (first
        | assumption | intro _ | apply (mailbox_inv hP) | apply ite_inv)
    | exact Kept.congr ‹Kept P _› rfl | assumption | split

theorem execGo_inv (hP : Closed P) (fn : Nat) (s : State) (h_s : Kept P s) : OutInv P (execGo fn s) := by
  unfold execGo
  repeat' first
    | with_reducible (first
        | assumption | intro _ | apply done_inv | apply (goNow_inv hP) | apply ite_inv | apply OutInv.mk_next)
    | exact Kept.congr ‹Kept P _› rfl | assumption | split

theorem execRegionCreate_inv (hP : Closed P) (i : Issuer) (e : CmdEntry) (s : State) (h_s : Kept P s) : OutInv P (execRegionCreate i e s) := by
  unfold execRegionCreate
  repeat' first
    | with_reducible (first
        | assumption | intro _ | apply done_inv | apply (mailbox_inv hP) | apply ite_inv | apply OutInv.mk_next)
    | exact Kept.congr ‹Kept P _› rfl | assumption | split

theorem execRegionDestroy_inv (hP : Closed P) (i : Issuer) (e : CmdEntry) (s : State) (h_s : Kept P s) : OutInv P (execRegionDestroy i e s) := by
  unfold execRegionDestroy
  repeat' first
    | with_reducible (first
        | assumption | intro _ | apply done_inv | apply (mailbox_inv hP) | apply ite_inv | apply OutInv.mk_next)
    | exact Kept.congr ‹Kept P _› rfl | assumption | split

theorem execRegionRead_inv (hP : Closed P) (i : Issuer) (e : CmdEntry) (s : State) (h_s : Kept P s) : OutInv P (execRegionRead i e s) := by
  unfold execRegionRead
  repeat' first
    | with_reducible (first
        | assumption | intro _ | apply done_inv | apply (mailbox_inv hP) | apply ite_inv | apply OutInv.mk_next)
    | exact Kept.congr ‹Kept P _› rfl | assumption | split

theorem execKeyIssue_inv (hP : Closed P) (i : Issuer) (e : CmdEntry) (s : State) (h_s : Kept P s) : OutInv P (execKeyIssue i e s) := by
  unfold execKeyIssue
  repeat' first
    | with_reducible (first
        | assumption | intro _ | apply done_inv | apply (mailbox_inv hP) | apply ite_inv | apply OutInv.mk_next)
    | exact Kept.congr ‹Kept P _› rfl | assumption | split

theorem execKeyRevoke_inv (hP : Closed P) (i : Issuer) (e : CmdEntry) (s : State) (h_s : Kept P s) : OutInv P (execKeyRevoke i e s) := by
  unfold execKeyRevoke
  repeat' first
    | with_reducible (first
        | assumption | intro _ | apply done_inv | apply (mailbox_inv hP) | apply ite_inv | apply OutInv.mk_next)
    | exact Kept.congr ‹Kept P _› rfl | assumption | split

theorem execOwnerSet_inv (hP : Closed P) (i : Issuer) (e : CmdEntry) (s : State) (h_s : Kept P s) : OutInv P (execOwnerSet i e s) := by
  unfold execOwnerSet
  repeat' first
    | with_reducible (first
        | assumption | intro _ | apply done_inv | apply (mailbox_inv hP) | apply ite_inv | apply OutInv.mk_next)
    | exact Kept.congr ‹Kept P _› rfl | assumption | split

theorem execGwBind_inv (hP : Closed P) (i : Issuer) (e : CmdEntry) (s : State) (h_s : Kept P s) : OutInv P (execGwBind i e s) := by
  unfold execGwBind
  repeat' first
    | with_reducible (first
        | assumption | intro _ | apply done_inv | apply (mailbox_inv hP) | apply ite_inv | apply OutInv.mk_next)
    | exact Kept.congr ‹Kept P _› rfl | assumption | split

theorem execHbmSplit_inv (hP : Closed P) (i : Issuer) (e : CmdEntry) (s : State) (h_s : Kept P s) : OutInv P (execHbmSplit i e s) := by
  unfold execHbmSplit
  repeat' first
    | with_reducible (first
        | assumption | intro _ | apply done_inv | apply (mailbox_inv hP) | apply ite_inv | apply OutInv.mk_next)
    | exact Kept.congr ‹Kept P _› rfl | assumption | split

theorem execTrayDiscard_inv (hP : Closed P) (i : Issuer) (e : CmdEntry) (s : State) (h_s : Kept P s) : OutInv P (execTrayDiscard i e s) := by
  unfold execTrayDiscard
  repeat' first
    | with_reducible (first
        | assumption | intro _ | apply done_inv | apply (mailbox_inv hP) | apply ite_inv | apply OutInv.mk_next)
    | exact Kept.congr ‹Kept P _› rfl | assumption | split

theorem execTrayRelease_inv (hP : Closed P) (i : Issuer) (e : CmdEntry) (s : State) (h_s : Kept P s) : OutInv P (execTrayRelease i e s) := by
  unfold execTrayRelease
  repeat' first
    | with_reducible (first
        | assumption | intro _ | apply done_inv | apply (mailbox_inv hP) | apply ite_inv | apply OutInv.mk_next)
    | exact Kept.congr ‹Kept P _› rfl | assumption | split

theorem execMapStage_inv (hP : Closed P) (i : Issuer) (e : CmdEntry) (s : State) (h_s : Kept P s) : OutInv P (execMapStage i e s) := by
  unfold execMapStage
  repeat' first
    | with_reducible (first
        | assumption | intro _ | apply done_inv | apply (mailbox_inv hP) | apply ite_inv | apply OutInv.mk_next)
    | exact Kept.congr ‹Kept P _› rfl | assumption | split

theorem execMapSwitch_inv (hP : Closed P) (i : Issuer) (e : CmdEntry) (s : State) (h_s : Kept P s) : OutInv P (execMapSwitch i e s) := by
  unfold execMapSwitch
  repeat' first
    | with_reducible (first
        | assumption | intro _ | apply done_inv | apply (mailbox_inv hP) | apply ite_inv | apply OutInv.mk_next)
    | exact Kept.congr ‹Kept P _› rfl | assumption | split

theorem execMapStatus_inv (hP : Closed P) (i : Issuer) (e : CmdEntry) (s : State) (h_s : Kept P s) : OutInv P (execMapStatus i e s) := by
  unfold execMapStatus
  repeat' first
    | with_reducible (first
        | assumption | intro _ | apply done_inv | apply (mailbox_inv hP) | apply ite_inv | apply OutInv.mk_next)
    | exact Kept.congr ‹Kept P _› rfl | assumption | split

theorem execMovePrepare_inv (hP : Closed P) (i : Issuer) (e : CmdEntry) (s : State) (h_s : Kept P s) : OutInv P (execMovePrepare i e s) := by
  unfold execMovePrepare
  repeat' first
    | with_reducible (first
        | assumption | intro _ | apply done_inv | apply (mailbox_inv hP) | apply ite_inv | apply OutInv.mk_next)
    | exact Kept.congr ‹Kept P _› rfl | assumption | split

theorem execStallSet_inv (hP : Closed P) (i : Issuer) (e : CmdEntry) (s : State) (h_s : Kept P s) : OutInv P (execStallSet i e s) := by
  unfold execStallSet
  repeat' first
    | with_reducible (first
        | assumption | intro _ | apply done_inv | apply (mailbox_inv hP) | apply ite_inv | apply OutInv.mk_next)
    | exact Kept.congr ‹Kept P _› rfl | assumption | split

theorem execStallBind_inv (hP : Closed P) (i : Issuer) (e : CmdEntry) (s : State) (h_s : Kept P s) : OutInv P (execStallBind i e s) := by
  unfold execStallBind
  repeat' first
    | with_reducible (first
        | assumption | intro _ | apply done_inv | apply (mailbox_inv hP) | apply ite_inv | apply OutInv.mk_next)
    | exact Kept.congr ‹Kept P _› rfl | assumption | split

theorem execQuotaSet_inv (hP : Closed P) (i : Issuer) (e : CmdEntry) (s : State) (h_s : Kept P s) : OutInv P (execQuotaSet i e s) := by
  unfold execQuotaSet
  repeat' first
    | with_reducible (first
        | assumption | intro _ | apply done_inv | apply (mailbox_inv hP) | apply ite_inv | apply OutInv.mk_next)
    | exact Kept.congr ‹Kept P _› rfl | assumption | split

theorem execPoliceSet_inv (hP : Closed P) (i : Issuer) (e : CmdEntry) (s : State) (h_s : Kept P s) : OutInv P (execPoliceSet i e s) := by
  unfold execPoliceSet
  repeat' first
    | with_reducible (first
        | assumption | intro _ | apply done_inv | apply (mailbox_inv hP) | apply ite_inv | apply OutInv.mk_next)
    | exact Kept.congr ‹Kept P _› rfl | assumption | split

theorem execSchedSet_inv (hP : Closed P) (i : Issuer) (e : CmdEntry) (s : State) (h_s : Kept P s) : OutInv P (execSchedSet i e s) := by
  unfold execSchedSet
  repeat' first
    | with_reducible (first
        | assumption | intro _ | apply done_inv | apply (mailbox_inv hP) | apply ite_inv | apply OutInv.mk_next)
    | exact Kept.congr ‹Kept P _› rfl | assumption | split

theorem execMeterRead_inv (hP : Closed P) (i : Issuer) (e : CmdEntry) (s : State) (h_s : Kept P s) : OutInv P (execMeterRead i e s) := by
  unfold execMeterRead
  repeat' first
    | with_reducible (first
        | assumption | intro _ | apply done_inv | apply (mailbox_inv hP) | apply ite_inv | apply OutInv.mk_next)
    | exact Kept.congr ‹Kept P _› rfl | assumption | split

theorem execEngineSet_inv (hP : Closed P) (i : Issuer) (e : CmdEntry) (s : State) (h_s : Kept P s) : OutInv P (execEngineSet i e s) := by
  unfold execEngineSet
  repeat' first
    | with_reducible (first
        | assumption | intro _ | apply done_inv | apply (mailbox_inv hP) | apply ite_inv | apply OutInv.mk_next)
    | exact Kept.congr ‹Kept P _› rfl | assumption | split

theorem execQpAssign_inv (hP : Closed P) (i : Issuer) (e : CmdEntry) (s : State) (h_s : Kept P s) : OutInv P (execQpAssign i e s) := by
  unfold execQpAssign
  repeat' first
    | with_reducible (first
        | assumption | intro _ | apply done_inv | apply (mailbox_inv hP) | apply ite_inv | apply OutInv.mk_next)
    | exact Kept.congr ‹Kept P _› rfl | assumption | split

theorem execQpRead_inv (hP : Closed P) (i : Issuer) (e : CmdEntry) (s : State) (h_s : Kept P s) : OutInv P (execQpRead i e s) := by
  unfold execQpRead
  repeat' first
    | with_reducible (first
        | assumption | intro _ | apply done_inv | apply (mailbox_inv hP) | apply ite_inv | apply OutInv.mk_next)
    | exact Kept.congr ‹Kept P _› rfl | assumption | split

theorem execQpRelease_inv (hP : Closed P) (i : Issuer) (e : CmdEntry) (s : State) (h_s : Kept P s) : OutInv P (execQpRelease i e s) := by
  unfold execQpRelease
  repeat' first
    | with_reducible (first
        | assumption | intro _ | apply done_inv | apply (mailbox_inv hP) | apply ite_inv | apply OutInv.mk_next)
    | exact Kept.congr ‹Kept P _› rfl | assumption | split

theorem execThresherReturn_inv (hP : Closed P) (i : Issuer) (e : CmdEntry) (s : State) (h_s : Kept P s) : OutInv P (execThresherReturn i e s) := by
  unfold execThresherReturn
  repeat' first
    | with_reducible (first
        | assumption | intro _ | apply done_inv | apply (mailbox_inv hP) | apply ite_inv | apply OutInv.mk_next)
    | exact Kept.congr ‹Kept P _› rfl | assumption | split

theorem execTableLoad_inv (hP : Closed P) (i : Issuer) (e : CmdEntry) (s : State) (h_s : Kept P s) : OutInv P (execTableLoad i e s) := by
  unfold execTableLoad
  repeat' first
    | with_reducible (first
        | assumption | intro _ | apply done_inv | apply (mailbox_inv hP) | apply ite_inv | apply OutInv.mk_next)
    | exact Kept.congr ‹Kept P _› rfl | assumption | split

theorem execTableRetire_inv (hP : Closed P) (i : Issuer) (e : CmdEntry) (s : State) (h_s : Kept P s) : OutInv P (execTableRetire i e s) := by
  unfold execTableRetire
  repeat' first
    | with_reducible (first
        | assumption | intro _ | apply done_inv | apply (mailbox_inv hP) | apply ite_inv | apply OutInv.mk_next)
    | exact Kept.congr ‹Kept P _› rfl | assumption | split

theorem execIndexLoad_inv (hP : Closed P) (i : Issuer) (e : CmdEntry) (s : State) (h_s : Kept P s) : OutInv P (execIndexLoad i e s) := by
  unfold execIndexLoad
  repeat' first
    | with_reducible (first
        | assumption | intro _ | apply done_inv | apply (mailbox_inv hP) | apply ite_inv | apply OutInv.mk_next)
    | exact Kept.congr ‹Kept P _› rfl | assumption | split

theorem execIndexPart_inv (hP : Closed P) (i : Issuer) (e : CmdEntry) (s : State) (h_s : Kept P s) : OutInv P (execIndexPart i e s) := by
  unfold execIndexPart
  repeat' first
    | with_reducible (first
        | assumption | intro _ | apply done_inv | apply (mailbox_inv hP) | apply ite_inv | apply OutInv.mk_next)
    | exact Kept.congr ‹Kept P _› rfl | assumption | split

theorem execIndexBatch_inv (hP : Closed P) (i : Issuer) (e : CmdEntry) (s : State) (h_s : Kept P s) : OutInv P (execIndexBatch i e s) := by
  unfold execIndexBatch
  repeat' first
    | with_reducible (first
        | assumption | intro _ | apply done_inv | apply (mailbox_inv hP) | apply ite_inv | apply OutInv.mk_next)
    | exact Kept.congr ‹Kept P _› rfl | assumption | split

theorem execIndexCommit_inv (hP : Closed P) (i : Issuer) (e : CmdEntry) (s : State) (h_s : Kept P s) : OutInv P (execIndexCommit i e s) := by
  unfold execIndexCommit
  repeat' first
    | with_reducible (first
        | assumption | intro _ | apply done_inv | apply (mailbox_inv hP) | apply ite_inv | apply OutInv.mk_next)
    | exact Kept.congr ‹Kept P _› rfl | assumption | split

theorem execIndexQepoch_inv (hP : Closed P) (i : Issuer) (e : CmdEntry) (s : State) (h_s : Kept P s) : OutInv P (execIndexQepoch i e s) := by
  unfold execIndexQepoch
  repeat' first
    | with_reducible (first
        | assumption | intro _ | apply done_inv | apply (mailbox_inv hP) | apply ite_inv | apply OutInv.mk_next)
    | exact Kept.congr ‹Kept P _› rfl | assumption | split

theorem execIndexCompact_inv (hP : Closed P) (i : Issuer) (e : CmdEntry) (s : State) (h_s : Kept P s) : OutInv P (execIndexCompact i e s) := by
  unfold execIndexCompact
  repeat' first
    | with_reducible (first
        | assumption | intro _ | apply done_inv | apply (mailbox_inv hP) | apply ite_inv | apply OutInv.mk_next)
    | exact Kept.congr ‹Kept P _› rfl | assumption | split

theorem execIndexUnload_inv (hP : Closed P) (i : Issuer) (e : CmdEntry) (s : State) (h_s : Kept P s) : OutInv P (execIndexUnload i e s) := by
  unfold execIndexUnload
  repeat' first
    | with_reducible (first
        | assumption | intro _ | apply done_inv | apply (mailbox_inv hP) | apply ite_inv | apply OutInv.mk_next)
    | exact Kept.congr ‹Kept P _› rfl | assumption | split

theorem execSealInstall_inv (hP : Closed P) (i : Issuer) (e : CmdEntry) (s : State) (h_s : Kept P s) : OutInv P (execSealInstall i e s) := by
  unfold execSealInstall
  repeat' first
    | with_reducible (first
        | assumption | intro _ | apply done_inv | apply (mailbox_inv hP) | apply ite_inv | apply OutInv.mk_next)
    | exact Kept.congr ‹Kept P _› rfl | assumption | split

theorem execSealRemove_inv (hP : Closed P) (i : Issuer) (e : CmdEntry) (s : State) (h_s : Kept P s) : OutInv P (execSealRemove i e s) := by
  unfold execSealRemove
  repeat' first
    | with_reducible (first
        | assumption | intro _ | apply done_inv | apply (mailbox_inv hP) | apply ite_inv | apply OutInv.mk_next)
    | exact Kept.congr ‹Kept P _› rfl | assumption | split

theorem execAttest_inv (hP : Closed P) (i : Issuer) (e : CmdEntry) (s : State) (h_s : Kept P s) : OutInv P (execAttest i e s) := by
  unfold execAttest
  repeat' first
    | with_reducible (first
        | assumption | intro _ | apply done_inv | apply (mailbox_inv hP) | apply ite_inv | apply OutInv.mk_next)
    | exact Kept.congr ‹Kept P _› rfl | assumption | split

theorem execFwStage_inv (hP : Closed P) (i : Issuer) (e : CmdEntry) (s : State) (h_s : Kept P s) : OutInv P (execFwStage i e s) := by
  unfold execFwStage
  repeat' first
    | with_reducible (first
        | assumption | intro _ | apply done_inv | apply (mailbox_inv hP) | apply ite_inv | apply OutInv.mk_next)
    | exact Kept.congr ‹Kept P _› rfl | assumption | split

theorem execFwRoll_inv (hP : Closed P) (i : Issuer) (e : CmdEntry) (s : State) (h_s : Kept P s) : OutInv P (execFwRoll i e s) := by
  unfold execFwRoll
  repeat' first
    | with_reducible (first
        | assumption | intro _ | apply done_inv | apply (mailbox_inv hP) | apply ite_inv | apply OutInv.mk_next)
    | exact Kept.congr ‹Kept P _› rfl | assumption | split

theorem execKeyRotate_inv (hP : Closed P) (i : Issuer) (e : CmdEntry) (s : State) (h_s : Kept P s) : OutInv P (execKeyRotate i e s) := by
  unfold execKeyRotate
  repeat' first
    | with_reducible (first
        | assumption | intro _ | apply done_inv | apply (mailbox_inv hP) | apply ite_inv | apply OutInv.mk_next)
    | exact Kept.congr ‹Kept P _› rfl | assumption | split

theorem execReset_inv (hP : Closed P) (i : Issuer) (e : CmdEntry) (s : State) (h_s : Kept P s) : OutInv P (execReset i e s) := by
  unfold execReset
  repeat' first
    | with_reducible (first
        | assumption | intro _ | apply done_inv | apply (mailbox_inv hP) | apply ite_inv | apply OutInv.mk_next)
    | exact Kept.congr ‹Kept P _› rfl | assumption | split

theorem execDebugHalt_inv (hP : Closed P) (i : Issuer) (e : CmdEntry) (s : State) (h_s : Kept P s) : OutInv P (execDebugHalt i e s) := by
  unfold execDebugHalt
  repeat' first
    | with_reducible (first
        | assumption | intro _ | apply done_inv | apply (mailbox_inv hP) | apply ite_inv | apply OutInv.mk_next)
    | exact Kept.congr ‹Kept P _› rfl | assumption | split

theorem execLoopback_inv (hP : Closed P) (i : Issuer) (e : CmdEntry) (s : State) (h_s : Kept P s) : OutInv P (execLoopback i e s) := by
  unfold execLoopback
  repeat' first
    | with_reducible (first
        | assumption | intro _ | apply done_inv | apply (mailbox_inv hP) | apply ite_inv | apply OutInv.mk_next)
    | exact Kept.congr ‹Kept P _› rfl | assumption | split

theorem execDirRead_inv (hP : Closed P) (i : Issuer) (e : CmdEntry) (s : State) (h_s : Kept P s) : OutInv P (execDirRead i e s) := by
  unfold execDirRead
  repeat' first
    | with_reducible (first
        | assumption | intro _ | apply done_inv | apply (mailbox_inv hP) | apply ite_inv | apply OutInv.mk_next)
    | exact Kept.congr ‹Kept P _› rfl | assumption | split

theorem execRegRead_inv (hP : Closed P) (i : Issuer) (e : CmdEntry) (s : State) (h_s : Kept P s) : OutInv P (execRegRead i e s) := by
  unfold execRegRead
  repeat' first
    | with_reducible (first
        | assumption | intro _ | apply done_inv | apply (mailbox_inv hP) | apply ite_inv | apply OutInv.mk_next)
    | exact Kept.congr ‹Kept P _› rfl | assumption | split

theorem execRegWrite_inv (hP : Closed P) (i : Issuer) (e : CmdEntry) (s : State) (h_s : Kept P s) : OutInv P (execRegWrite i e s) := by
  unfold execRegWrite
  repeat' first
    | with_reducible (first
        | assumption | intro _ | apply done_inv | apply (mailbox_inv hP) | apply ite_inv | apply OutInv.mk_next)
    | exact Kept.congr ‹Kept P _› rfl | assumption | split

theorem execPortSet_inv (hP : Closed P) (i : Issuer) (e : CmdEntry) (s : State) (h_s : Kept P s) : OutInv P (execPortSet i e s) := by
  unfold execPortSet
  repeat' first
    | with_reducible (first
        | assumption | intro _ | apply done_inv | apply (mailbox_inv hP) | apply ite_inv | apply OutInv.mk_next)
    | exact Kept.congr ‹Kept P _› rfl | assumption | split

theorem execDomainJoin_inv (hP : Closed P) (i : Issuer) (e : CmdEntry) (s : State) (h_s : Kept P s) : OutInv P (execDomainJoin i e s) := by
  unfold execDomainJoin
  repeat' first
    | with_reducible (first
        | assumption | intro _ | apply done_inv | apply (mailbox_inv hP) | apply ite_inv | apply OutInv.mk_next)
    | exact Kept.congr ‹Kept P _› rfl | assumption | split

theorem execLeaseStatus_inv (hP : Closed P) (i : Issuer) (e : CmdEntry) (s : State) (h_s : Kept P s) : OutInv P (execLeaseStatus i e s) := by
  unfold execLeaseStatus
  repeat' first
    | with_reducible (first
        | assumption | intro _ | apply done_inv | apply (mailbox_inv hP) | apply ite_inv | apply OutInv.mk_next)
    | exact Kept.congr ‹Kept P _› rfl | assumption | split

theorem execDeviceExpel_inv (hP : Closed P) (i : Issuer) (e : CmdEntry) (s : State) (h_s : Kept P s) : OutInv P (execDeviceExpel i e s) := by
  unfold execDeviceExpel
  repeat' first
    | with_reducible (first
        | assumption | intro _ | apply done_inv | apply (mailbox_inv hP) | apply ite_inv | apply OutInv.mk_next)
    | exact Kept.congr ‹Kept P _› rfl | assumption | split

theorem execQuorumSet_inv (hP : Closed P) (i : Issuer) (e : CmdEntry) (s : State) (h_s : Kept P s) : OutInv P (execQuorumSet i e s) := by
  unfold execQuorumSet
  repeat' first
    | with_reducible (first
        | assumption | intro _ | apply done_inv | apply (mailbox_inv hP) | apply ite_inv | apply OutInv.mk_next)
    | exact Kept.congr ‹Kept P _› rfl | assumption | split

theorem execSheafSet_inv (hP : Closed P) (i : Issuer) (e : CmdEntry) (s : State) (h_s : Kept P s) : OutInv P (execSheafSet i e s) := by
  unfold execSheafSet
  repeat' first
    | with_reducible (first
        | assumption | intro _ | apply done_inv | apply (mailbox_inv hP) | apply ite_inv | apply OutInv.mk_next)
    | exact Kept.congr ‹Kept P _› rfl | assumption | split

theorem execClaim_inv (hP : Closed P) (i : Issuer) (e : CmdEntry) (s : State) (h_s : Kept P s) : OutInv P (execClaim i e s) := by
  unfold execClaim
  repeat' first
    | with_reducible (first
        | assumption | intro _ | apply done_inv | apply (mailbox_inv hP) | apply ite_inv | apply OutInv.mk_next)
    | exact Kept.congr ‹Kept P _› rfl | assumption | split

theorem execRelease_inv (hP : Closed P) (i : Issuer) (e : CmdEntry) (s : State) (h_s : Kept P s) : OutInv P (execRelease i e s) := by
  unfold execRelease
  repeat' first
    | with_reducible (first
        | assumption | intro _ | apply done_inv | apply (mailbox_inv hP) | apply ite_inv | apply OutInv.mk_next)
    | exact Kept.congr ‹Kept P _› rfl | assumption | split

theorem execClaimList_inv (hP : Closed P) (i : Issuer) (e : CmdEntry) (s : State) (h_s : Kept P s) : OutInv P (execClaimList i e s) := by
  unfold execClaimList
  repeat' first
    | with_reducible (first
        | assumption | intro _ | apply done_inv | apply (mailbox_inv hP) | apply ite_inv | apply OutInv.mk_next)
    | exact Kept.congr ‹Kept P _› rfl | assumption | split

end Sys2Proof.Machine
end

