-- ==== Sys2Proof/Laws/KeepsLinks.lean ====
section
/-! SUPPORT. Queue pairs, links, sessions and the domain keep every property of the view that memory operations keep: one lemma for each function, citing those of the
functions it calls. A function that does not write memory keeps every property of the view: its lemma asks nothing of the property. -/

namespace Sys2Proof.Machine

set_option linter.all false

variable {P : View → Prop}

/-! ### QueuePairs -/

theorem issueReads_inv (hP : Closed P) (s : State) (u : AccUse) (c : Charge) (h : Nat) (key : Word) (ownep : Nat) (off : Nat) (n : Nat) (h_s : Kept P s) : Kept P (issueReads s u c h key ownep off n) := by
  unfold issueReads
  repeat' first
    | with_reducible (first
        | assumption | intro _)
    | exact True.intro | exact ⟨rfl, rfl⟩
    | with_reducible (first
        | apply (submit_inv hP) | apply foldl_bind_inv | apply bind_inv | apply ite_snd | apply ite_inv | apply ite_opt | apply ite_cmd | apply ite_out
        | apply findSome_inv | apply each_inv | apply iter_inv | apply foldl_inv | apply foldl_inv2 | apply getD_inv | apply elim_inv | apply JudgedInv.mk
        | apply JudgedInv.take | apply JudgedInv.discard | apply ite_judged | apply OptInv.mk_some | apply OptInv.mk_none | apply ExcInv.mk_ok
        | apply ExcInv.mk_error | apply OutInv.mk_next | apply CmdInv.mk_commit | apply DirInv.mk_sent | apply DirRoomInv.mk_freeing)
    | exact Kept.congr ‹Kept P _› rfl | assumption | split | dsimp only

theorem takeReads_inv (s : State) (u : AccUse) (off : Nat) (n : Nat) (h_s : Kept P s) : Kept P (takeReads s u off n).2 := by
  unfold takeReads
  repeat' first
    | with_reducible (first
        | assumption | intro _)
    | exact True.intro | exact ⟨rfl, rfl⟩
    | with_reducible (first
        | apply foldl_bind_inv | apply bind_inv | apply ite_snd | apply ite_inv | apply ite_opt | apply ite_cmd | apply ite_out | apply findSome_inv
        | apply each_inv | apply iter_inv | apply foldl_inv | apply foldl_inv2 | apply getD_inv | apply elim_inv | apply JudgedInv.mk | apply JudgedInv.take
        | apply JudgedInv.discard | apply ite_judged | apply OptInv.mk_some | apply OptInv.mk_none | apply ExcInv.mk_ok | apply ExcInv.mk_error
        | apply OutInv.mk_next | apply CmdInv.mk_commit | apply DirInv.mk_sent | apply DirRoomInv.mk_freeing)
    | exact Kept.congr ‹Kept P _› rfl | assumption | split | dsimp only

theorem fetch_inv (hP : Closed P) (s : State) (u : AccUse) (c : Charge) (h : Nat) (key : Word) (ownep : Nat) (off : Nat) (n : Nat) (h_s : Kept P s) : Kept P (fetch s u c h key ownep off n).2 := by
  unfold fetch
  repeat' first
    | with_reducible (first
        | assumption | intro _ | apply takeReads_inv | apply (issueReads_inv hP) | apply ite_inv | apply ite_snd)
    | exact Kept.congr ‹Kept P _› rfl | assumption | split

theorem dropUses_inv (s : State) (p : AccUse → Bool) (h_s : Kept P s) : Kept P (dropUses s p) := by
  unfold dropUses
  repeat' first
    | with_reducible (first
        | assumption | intro _ | apply ite_inv)
    | exact Kept.congr ‹Kept P _› rfl | assumption | split

theorem issueStores_inv (hP : Closed P) (s : State) (u : AccUse) (c : Charge) (h : Nat) (key : Word) (off : Nat) (d : List Byte) (h_s : Kept P s) : Kept P (issueStores s u c h key off d).2 := by
  unfold issueStores
  repeat' first
    | with_reducible (first
        | assumption | intro _)
    | exact True.intro | exact ⟨rfl, rfl⟩
    | with_reducible (first
        | apply (submit_inv hP) | apply foldl_bind_inv | apply bind_inv | apply ite_snd | apply ite_inv | apply ite_opt | apply ite_cmd | apply ite_out
        | apply findSome_inv | apply each_inv | apply iter_inv | apply foldl_inv | apply foldl_inv2 | apply getD_inv | apply elim_inv | apply JudgedInv.mk
        | apply JudgedInv.take | apply JudgedInv.discard | apply ite_judged | apply OptInv.mk_some | apply OptInv.mk_none | apply ExcInv.mk_ok
        | apply ExcInv.mk_error | apply OutInv.mk_next | apply CmdInv.mk_commit | apply DirInv.mk_sent | apply DirRoomInv.mk_freeing)
    | exact Kept.congr ‹Kept P _› rfl | assumption | split | dsimp only

theorem issueMasked_inv (hP : Closed P) (s : State) (u : AccUse) (c : Charge) (h : Nat) (key : Word) (off : Nat) (d : List Byte) (h_s : Kept P s) : Kept P (issueMasked s u c h key off d) := by
  unfold issueMasked
  repeat' first
    | with_reducible (first
        | assumption | intro _ | apply (submit_inv hP) | apply ite_inv)
    | exact Kept.congr ‹Kept P _› rfl | assumption | split

theorem qpInterrupt_inv (s : State) (n : Nat) (c : Qp) (h_s : Kept P s) : Kept P (qpInterrupt s n c) := by
  unfold qpInterrupt
  repeat' first
    | with_reducible (first
        | assumption | intro _ | apply updQp_inv | apply interrupt_inv | apply ite_inv)
    | exact Kept.congr ‹Kept P _› rfl | assumption | split

theorem countCompletion_inv (s : State) (n : Nat) (h_s : Kept P s) : Kept P (countCompletion s n) := by
  unfold countCompletion
  repeat' first
    | with_reducible (first
        | assumption | intro _ | apply updQp_inv | apply qpInterrupt_inv | apply ite_inv)
    | exact Kept.congr ‹Kept P _› rfl | assumption | split

theorem writeCompletion_inv (hP : Closed P) (s : State) (n : Nat) (c : Qp) (ws : List Word) (noirq : Bool) (h_s : Kept P s) : Kept P (writeCompletion s n c ws noirq) := by
  unfold writeCompletion
  repeat' first
    | with_reducible (first
        | assumption | intro _ | apply qpError_inv | apply (issueStores_inv hP) | apply updQp_inv | apply (issueMasked_inv hP) | apply countCompletion_inv
        | apply ring_inv | apply ite_inv)
    | exact Kept.congr ‹Kept P _› rfl | assumption | split

theorem complete_inv (hP : Closed P) (s : State) (n : Nat) (ws : List Word) (noirq : Bool) (h_s : Kept P s) : Kept P (complete s n ws noirq) := by
  unfold complete
  repeat' first
    | with_reducible (first
        | assumption | intro _ | apply (writeCompletion_inv hP) | apply qpRecord_inv | apply updQp_inv | apply held_inv | apply ite_inv)
    | exact Kept.congr ‹Kept P _› rfl | assumption | split

theorem flushHeld_inv (hP : Closed P) (a0 : Nat) (s : State) (n : Nat) (h_s : Kept P s) : Kept P (flushHeld a0 s n) := by
  induction a0 generalizing s with
  | zero => exact h_s
  | succ k ih =>
    unfold flushHeld
    split
    · exact h_s
    · split
      · exact h_s
      · split
        · exact ih _ ((writeCompletion_inv hP) _ _ _ _ _ (updQp_inv _ _ _ h_s))
        · exact h_s

theorem flushCompletions_inv (hP : Closed P) (s : State) (n : Nat) (h_s : Kept P s) : Kept P (flushCompletions s n) := by
  unfold flushCompletions
  repeat' first
    | with_reducible (first
        | assumption | intro _ | apply (flushHeld_inv hP) | apply ite_inv)
    | exact Kept.congr ‹Kept P _› rfl | assumption | split

theorem interruptDue_inv (s : State) (n : Nat) (h_s : Kept P s) : Kept P (interruptDue s n) := by
  unfold interruptDue
  repeat' first
    | with_reducible (first
        | assumption | intro _ | apply qpInterrupt_inv | apply ite_inv)
    | exact Kept.congr ‹Kept P _› rfl | assumption | split

theorem execInterruptDelayExpiry_inv (qp : Nat) (s : State) (h_s : Kept P s) : OutInv P (execInterruptDelayExpiry qp s) := by
  unfold execInterruptDelayExpiry
  repeat' first
    | with_reducible (first
        | assumption | intro _ | apply done_inv | apply interruptDue_inv | apply ite_inv | apply OutInv.mk_next)
    | exact Kept.congr ‹Kept P _› rfl | assumption | split

theorem releaseQp_inv (s : State) (n : Nat) (h_s : Kept P s) : Kept P (releaseQp s n) := by
  unfold releaseQp
  repeat' first
    | with_reducible (first
        | assumption | intro _ | apply qpRecord_inv | apply endDrains_inv | apply ite_inv)
    | exact Kept.congr ‹Kept P _› rfl | assumption | split

theorem execQpReleased_inv (qp : Nat) (s : State) (h_s : Kept P s) : OutInv P (execQpReleased qp s) := by
  unfold execQpReleased
  repeat' first
    | with_reducible (first
        | assumption | intro _ | apply done_inv | apply releaseQp_inv | apply ite_inv | apply OutInv.mk_next)
    | exact Kept.congr ‹Kept P _› rfl | assumption | split

/-! ### JobEnd -/

theorem updJob_inv (s : State) (jobid : Nat) (f : Job → Job) (h_s : Kept P s) : Kept P (updJob s jobid f) := by
  unfold updJob
  repeat' first
    | with_reducible (first
        | assumption | intro _ | apply ite_inv)
    | exact Kept.congr ‹Kept P _› rfl | assumption | split

theorem updBody_inv (s : State) (jobid : Nat) (b : JobKind) (h_s : Kept P s) : Kept P (updBody s jobid b) := by
  unfold updBody
  repeat' first
    | with_reducible (first
        | assumption | intro _ | apply updJob_inv | apply ite_inv)
    | exact Kept.congr ‹Kept P _› rfl | assumption | split

theorem updRed_inv (s : State) (jobid : Nat) (f : RedJob → RedJob) (h_s : Kept P s) : Kept P (updRed s jobid f) := by
  unfold updRed
  repeat' first
    | with_reducible (first
        | assumption | intro _ | apply updJob_inv | apply ite_inv)
    | exact Kept.congr ‹Kept P _› rfl | assumption | split

theorem updGather_inv (s : State) (jobid : Nat) (f : GatherJob → GatherJob) (h_s : Kept P s) : Kept P (updGather s jobid f) := by
  unfold updGather
  repeat' first
    | with_reducible (first
        | assumption | intro _ | apply updJob_inv | apply ite_inv)
    | exact Kept.congr ‹Kept P _› rfl | assumption | split

theorem updWinnow_inv (s : State) (jobid : Nat) (f : WinnowJob → WinnowJob) (h_s : Kept P s) : Kept P (updWinnow s jobid f) := by
  unfold updWinnow
  repeat' first
    | with_reducible (first
        | assumption | intro _ | apply updJob_inv | apply ite_inv)
    | exact Kept.congr ‹Kept P _› rfl | assumption | split

theorem updSearch_inv (s : State) (jobid : Nat) (f : SearchJob → SearchJob) (h_s : Kept P s) : Kept P (updSearch s jobid f) := by
  unfold updSearch
  repeat' first
    | with_reducible (first
        | assumption | intro _ | apply updJob_inv | apply ite_inv)
    | exact Kept.congr ‹Kept P _› rfl | assumption | split

theorem engRecord_inv (s : State) (quarter : Nat) (code : Nat) (stall : Nat) (p0 : Word) (p1 : Word) (p2 : Word) (p3 : Word) (h_s : Kept P s) : Kept P (engRecord s quarter code stall p0 p1 p2 p3) := by
  unfold engRecord
  repeat' first
    | with_reducible (first
        | assumption | intro _ | apply record_inv | apply ite_inv)
    | exact Kept.congr ‹Kept P _› rfl | assumption | split

theorem completeJob_inv (hP : Closed P) (s : State) (j : Job) (status : Nat) (final : Bool) (mkind : Nat) (miss : Nat) (block : Nat) (h_s : Kept P s) : Kept P (completeJob s j status final mkind miss block) := by
  unfold completeJob
  repeat' first
    | with_reducible (first
        | assumption | intro _ | apply (complete_inv hP) | apply ite_inv)
    | exact Kept.congr ‹Kept P _› rfl | assumption | split

theorem endRecord_inv (s : State) (j : Job) (status : Nat) (h_s : Kept P s) : Kept P (endRecord s j status) := by
  unfold endRecord
  repeat' first
    | with_reducible (first
        | assumption | intro _ | apply engRecord_inv | apply ite_inv)
    | exact Kept.congr ‹Kept P _› rfl | assumption | split

theorem dropJob_inv (hP : Closed P) (s : State) (j : Job) (status : Nat) (mkind : Nat) (miss : Nat) (block : Nat) (h_s : Kept P s) : Kept P (dropJob s j status mkind miss block) := by
  unfold dropJob
  repeat' first
    | with_reducible (first
        | assumption | intro _ | apply endRecord_inv | apply dropUses_inv | apply (completeJob_inv hP) | apply ite_inv)
    | exact Kept.congr ‹Kept P _› rfl | assumption | split

theorem endJob_inv (hP : Closed P) (s : State) (jobid : Nat) (status : Nat) (mkind : Nat) (miss : Nat) (block : Nat) (h_s : Kept P s) : Kept P (endJob s jobid status mkind miss block) := by
  unfold endJob
  repeat' first
    | with_reducible (first
        | assumption | intro _)
    | exact True.intro | exact ⟨rfl, rfl⟩
    | with_reducible (first
        | apply (dropJob_inv hP) | apply foldl_bind_inv | apply bind_inv | apply ite_snd | apply ite_inv | apply ite_opt | apply ite_cmd | apply ite_out
        | apply findSome_inv | apply each_inv | apply iter_inv | apply foldl_inv | apply foldl_inv2 | apply getD_inv | apply elim_inv | apply JudgedInv.mk
        | apply JudgedInv.take | apply JudgedInv.discard | apply ite_judged | apply OptInv.mk_some | apply OptInv.mk_none | apply ExcInv.mk_ok
        | apply ExcInv.mk_error | apply OutInv.mk_next | apply CmdInv.mk_commit | apply DirInv.mk_sent | apply DirRoomInv.mk_freeing)
    | exact Kept.congr ‹Kept P _› rfl | assumption | split | dsimp only

theorem finishJob_inv (hP : Closed P) (s : State) (jobid : Nat) (status : Nat) (h_s : Kept P s) : Kept P (finishJob s jobid status) := by
  unfold finishJob
  repeat' first
    | with_reducible (first
        | assumption | intro _ | apply (dropJob_inv hP) | apply ite_inv)
    | exact Kept.congr ‹Kept P _› rfl | assumption | split

theorem sendEng_inv (s : State) (jobid : Nat) (p : Nat) (opc : Nat) (h : EngHdr) (d : List Byte) (sealOf : Nat) (h_s : Kept P s) : Kept P (sendEng s jobid p opc h d sealOf) := by
  unfold sendEng
  repeat' first
    | with_reducible (first
        | assumption | intro _ | apply send_inv | apply updJob_inv | apply ite_inv)
    | exact Kept.congr ‹Kept P _› rfl | assumption | split

theorem discardEng_inv (s : State) (q : Nat) (code : Nat) (stall : Nat) (h : EngHdr) (cause : Nat) (p1 : Word) (h_s : Kept P s) : Kept P (discardEng s q code stall h cause p1) := by
  unfold discardEng
  repeat' first
    | with_reducible (first
        | assumption | intro _)
    | exact True.intro | exact ⟨rfl, rfl⟩
    | with_reducible (first
        | apply engRecord_inv | apply foldl_bind_inv | apply bind_inv | apply ite_snd | apply ite_inv | apply ite_opt | apply ite_cmd | apply ite_out
        | apply findSome_inv | apply each_inv | apply iter_inv | apply foldl_inv | apply foldl_inv2 | apply getD_inv | apply elim_inv | apply JudgedInv.mk
        | apply JudgedInv.take | apply JudgedInv.discard | apply ite_judged | apply OptInv.mk_some | apply OptInv.mk_none | apply ExcInv.mk_ok
        | apply ExcInv.mk_error | apply OutInv.mk_next | apply CmdInv.mk_commit | apply DirInv.mk_sent | apply DirRoomInv.mk_freeing)
    | exact Kept.congr ‹Kept P _› rfl | assumption | split | dsimp only

theorem discardRed_inv (s : State) (q : Nat) (h : EngHdr) (cause : Nat) (h_s : Kept P s) : Kept P (discardRed s q h cause) := by
  unfold discardRed
  repeat' first
    | with_reducible (first
        | assumption | intro _ | apply discardEng_inv | apply ite_inv)
    | exact Kept.congr ‹Kept P _› rfl | assumption | split

theorem lostCopy_inv (hP : Closed P) (s : State) (h : EngHdr) (epid : Nat) (h_s : Kept P s) : Kept P (lostCopy s h epid) := by
  unfold lostCopy
  repeat' first
    | with_reducible (first
        | assumption | intro _ | apply engRecord_inv | apply updRed_inv | apply (endJob_inv hP) | apply ite_inv)
    | exact Kept.congr ‹Kept P _› rfl | assumption | split

/-! ### Links -/

theorem sendMgmt_inv (s : State) (p : Nat) (opc : Nat) (h : MgmtHdr) (d : List Byte) (h_s : Kept P s) : Kept P (sendMgmt s p opc h d) := by
  unfold sendMgmt
  repeat' first
    | with_reducible (first
        | assumption | intro _)
    | exact True.intro | exact ⟨rfl, rfl⟩
    | with_reducible (first
        | apply send_inv | apply foldl_bind_inv | apply bind_inv | apply ite_snd | apply ite_inv | apply ite_opt | apply ite_cmd | apply ite_out
        | apply findSome_inv | apply each_inv | apply iter_inv | apply foldl_inv | apply foldl_inv2 | apply getD_inv | apply elim_inv | apply JudgedInv.mk
        | apply JudgedInv.take | apply JudgedInv.discard | apply ite_judged | apply OptInv.mk_some | apply OptInv.mk_none | apply ExcInv.mk_ok
        | apply ExcInv.mk_error | apply OutInv.mk_next | apply CmdInv.mk_commit | apply DirInv.mk_sent | apply DirRoomInv.mk_freeing)
    | exact Kept.congr ‹Kept P _› rfl | assumption | split | dsimp only

theorem portRecord_inv (s : State) (p : Nat) (code : Nat) (p1 : Word) (p2 : Word) (p3 : Word) (h_s : Kept P s) : Kept P (portRecord s p code p1 p2 p3) := by
  unfold portRecord
  repeat' first
    | with_reducible (first
        | assumption | intro _ | apply record_inv | apply ite_inv)
    | exact Kept.congr ‹Kept P _› rfl | assumption | split

theorem enterState_inv (s : State) (p : Nat) (st : PortState) (h_s : Kept P s) : Kept P (enterState s p st) := by
  unfold enterState
  repeat' first
    | with_reducible (first
        | assumption | intro _ | apply updPort_inv | apply portRecord_inv | apply ite_inv)
    | exact Kept.congr ‹Kept P _› rfl | assumption | split

theorem moveMessage_inv (hP : Closed P) (s : State) (p : Nat) (epid : Nat) (sent : Bool) (m : Msg) (h_s : Kept P s) : Kept P (moveMessage s p epid sent m) := by
  unfold moveMessage
  repeat' first
    | with_reducible (first
        | assumption | intro _ | apply sendResponse_inv | apply send_inv | apply (lostCopy_inv hP) | apply ite_inv)
    | exact Kept.congr ‹Kept P _› rfl | assumption | split

theorem deltasLost_inv (s : State) (dev : Nat) (h_s : Kept P s) : Kept P (deltasLost s dev) := by
  unfold deltasLost
  repeat' first
    | with_reducible (first
        | assumption | intro _)
    | exact True.intro | exact ⟨rfl, rfl⟩
    | (extract_lets +onlyGivenNames x
       first
       | (refine ((fun (hx : Kept P x) => ?_) ?_) <;> [clear_value x; (revert x; change (Kept P) _)])
       | (refine ((fun (hx : Kept P x.2) => ?_) ?_) <;> [clear_value x; (revert x; change (Kept P) (Prod.snd _))])
       | (have _ := (x : List _); clear_value x)
       | skip)
    | with_reducible (first
        | apply markStale_inv | apply foldl_bind_inv | apply bind_inv | apply ite_snd | apply ite_inv | apply ite_opt | apply ite_cmd | apply ite_out
        | apply findSome_inv | apply each_inv | apply iter_inv | apply foldl_inv | apply foldl_inv2 | apply getD_inv | apply elim_inv | apply JudgedInv.mk
        | apply JudgedInv.take | apply JudgedInv.discard | apply ite_judged | apply OptInv.mk_some | apply OptInv.mk_none | apply ExcInv.mk_ok
        | apply ExcInv.mk_error | apply OutInv.mk_next | apply CmdInv.mk_commit | apply DirInv.mk_sent | apply DirRoomInv.mk_freeing)
    | exact Kept.congr ‹Kept P _› rfl | assumption | split | (refine OptInv.of_eq (Q := (Kept P)) ‹_ = some _› ?_) | (refine pair_of_eq ‹_ = (_, _)› ?_)
    | (refine pair_of_eq' ‹_ = (_, _)› ?_) | (refine DirInv.of_eq ‹_ = DirStep.sent _› ?_) | (refine DirRoomInv.of_eq ‹_ = DirRoom.freeing _› ?_)
    | dsimp only

theorem freeEgress_inv (s : State) (p : Nat) (ms : List Queued) (h_s : Kept P s) : Kept P (freeEgress s p ms) := by
  unfold freeEgress
  repeat' first
    | with_reducible (first
        | assumption | intro _)
    | exact True.intro | exact ⟨rfl, rfl⟩
    | with_reducible (first
        | apply poolGive_inv | apply foldl_bind_inv | apply bind_inv | apply ite_snd | apply ite_inv | apply ite_opt | apply ite_cmd | apply ite_out
        | apply findSome_inv | apply each_inv | apply iter_inv | apply foldl_inv | apply foldl_inv2 | apply getD_inv | apply elim_inv | apply JudgedInv.mk
        | apply JudgedInv.take | apply JudgedInv.discard | apply ite_judged | apply OptInv.mk_some | apply OptInv.mk_none | apply ExcInv.mk_ok
        | apply ExcInv.mk_error | apply OutInv.mk_next | apply CmdInv.mk_commit | apply DirInv.mk_sent | apply DirRoomInv.mk_freeing)
    | exact Kept.congr ‹Kept P _› rfl | assumption | split | dsimp only

theorem dropPort_inv (hP : Closed P) (s : State) (p : Nat) (toward : PortState) (h_s : Kept P s) : Kept P (dropPort s p toward) := by
  unfold dropPort
  repeat' first
    | with_reducible (first
        | assumption | intro _)
    | exact True.intro | exact ⟨rfl, rfl⟩
    | with_reducible (first
        | apply dropClaim_inv | apply updPort_inv | apply enterState_inv | apply freeEgress_inv | apply (moveMessage_inv hP) | apply endDrains_inv
        | apply (settleAll_inv hP) | apply deltasLost_inv | apply foldl_bind_inv | apply bind_inv | apply ite_snd | apply ite_inv | apply ite_opt | apply ite_cmd
        | apply ite_out | apply findSome_inv | apply each_inv | apply iter_inv | apply foldl_inv | apply foldl_inv2 | apply getD_inv | apply elim_inv
        | apply JudgedInv.mk | apply JudgedInv.take | apply JudgedInv.discard | apply ite_judged | apply OptInv.mk_some | apply OptInv.mk_none
        | apply ExcInv.mk_ok | apply ExcInv.mk_error | apply OutInv.mk_next | apply CmdInv.mk_commit | apply DirInv.mk_sent | apply DirRoomInv.mk_freeing)
    | exact Kept.congr ‹Kept P _› rfl | assumption | split | dsimp only

theorem linkLost_inv (hP : Closed P) (s : State) (p : Nat) (h_s : Kept P s) : Kept P (linkLost s p) := by
  unfold linkLost
  repeat' first
    | with_reducible (first
        | assumption | intro _ | apply (dropPort_inv hP) | apply ite_inv)
    | exact Kept.congr ‹Kept P _› rfl | assumption | split

theorem execLinkDown_inv (hP : Closed P) (p : Nat) (s : State) (h_s : Kept P s) : OutInv P (execLinkDown p s) := by
  unfold execLinkDown
  repeat' first
    | with_reducible (first
        | assumption | intro _ | apply done_inv | apply (linkLost_inv hP) | apply ite_inv | apply OutInv.mk_next)
    | exact Kept.congr ‹Kept P _› rfl | assumption | split

theorem execSignalDetected_inv (p : Nat) (s : State) (h_s : Kept P s) : OutInv P (execSignalDetected p s) := by
  unfold execSignalDetected
  repeat' first
    | with_reducible (first
        | assumption | intro _ | apply done_inv | apply enterState_inv | apply ite_inv | apply OutInv.mk_next)
    | exact Kept.congr ‹Kept P _› rfl | assumption | split

theorem execTrainingDone_inv (p : Nat) (s : State) (h_s : Kept P s) : OutInv P (execTrainingDone p s) := by
  unfold execTrainingDone
  repeat' first
    | with_reducible (first
        | assumption | intro _ | apply done_inv | apply enterState_inv | apply ite_inv | apply OutInv.mk_next)
    | exact Kept.congr ‹Kept P _› rfl | assumption | split

theorem aligned_inv (s : State) (p : Nat) (h_s : Kept P s) : Kept P (aligned s p) := by
  unfold aligned
  repeat' first
    | with_reducible (first
        | assumption | intro _ | apply updPort_inv | apply enterState_inv | apply sendMgmt_inv | apply ite_inv)
    | exact Kept.congr ‹Kept P _› rfl | assumption | split

theorem execAlignDone_inv (p : Nat) (s : State) (h_s : Kept P s) : OutInv P (execAlignDone p s) := by
  unfold execAlignDone
  repeat' first
    | with_reducible (first
        | assumption | intro _ | apply done_inv | apply aligned_inv | apply ite_inv | apply OutInv.mk_next)
    | exact Kept.congr ‹Kept P _› rfl | assumption | split

theorem degrade_inv (hP : Closed P) (s : State) (p : Nat) (lane : Nat) (h_s : Kept P s) : Kept P (degrade s p lane) := by
  unfold degrade
  repeat' first
    | with_reducible (first
        | assumption | intro _ | apply updPort_inv | apply (linkLost_inv hP) | apply portRecord_inv | apply bad_inv | apply ite_inv)
    | exact Kept.congr ‹Kept P _› rfl | assumption | split

theorem takeSpare_inv (s : State) (p : Nat) (h_s : Kept P s) : Kept P (takeSpare s p) := by
  unfold takeSpare
  repeat' first
    | with_reducible (first
        | assumption | intro _ | apply displaceClaim_inv | apply makeClaim_inv | apply ite_inv)
    | exact Kept.congr ‹Kept P _› rfl | assumption | split

theorem laneFails_inv (hP : Closed P) (s : State) (p : Nat) (lane : Nat) (cause : Nat) (h_s : Kept P s) : Kept P (laneFails s p lane cause) := by
  unfold laneFails
  repeat' first
    | with_reducible (first
        | assumption | intro _ | apply updPort_inv | apply takeSpare_inv | apply send_inv | apply (degrade_inv hP) | apply ite_inv)
    | exact Kept.congr ‹Kept P _› rfl | assumption | split

theorem execLaneFault_inv (hP : Closed P) (p : Nat) (lane : Nat) (cause : Nat) (s : State) (h_s : Kept P s) : OutInv P (execLaneFault p lane cause s) := by
  unfold execLaneFault
  repeat' first
    | with_reducible (first
        | assumption | intro _ | apply done_inv | apply (laneFails_inv hP) | apply ite_inv | apply OutInv.mk_next)
    | exact Kept.congr ‹Kept P _› rfl | assumption | split

theorem spareRequested_inv (s : State) (p : Nat) (h : MgmtHdr) (lane : Nat) (frame : Nat) (h_s : Kept P s) : Kept P (spareRequested s p h lane frame) := by
  unfold spareRequested
  repeat' first
    | with_reducible (first
        | assumption | intro _ | apply discardMessage_inv | apply updPort_inv | apply takeSpare_inv | apply moveLane_inv | apply send_inv | apply ite_inv)
    | exact Kept.congr ‹Kept P _› rfl | assumption | split

theorem execSpareReq_inv (p : Nat) (h : MgmtHdr) (lane : Nat) (frame : Nat) (s : State) (h_s : Kept P s) : OutInv P (execSpareReq p h lane frame s) := by
  unfold execSpareReq
  repeat' first
    | with_reducible (first
        | assumption | intro _ | apply done_inv | apply spareRequested_inv | apply ite_inv | apply OutInv.mk_next)
    | exact Kept.congr ‹Kept P _› rfl | assumption | split

theorem spareAcked_inv (s : State) (p : Nat) (h : MgmtHdr) (lane : Nat) (frame : Nat) (h_s : Kept P s) : Kept P (spareAcked s p h lane frame) := by
  unfold spareAcked
  repeat' first
    | with_reducible (first
        | assumption | intro _ | apply discardMessage_inv | apply moveLane_inv | apply updPort_inv | apply ite_inv)
    | exact Kept.congr ‹Kept P _› rfl | assumption | split

theorem execSpareAck_inv (p : Nat) (h : MgmtHdr) (lane : Nat) (frame : Nat) (s : State) (h_s : Kept P s) : OutInv P (execSpareAck p h lane frame s) := by
  unfold execSpareAck
  repeat' first
    | with_reducible (first
        | assumption | intro _ | apply done_inv | apply spareAcked_inv | apply ite_inv | apply OutInv.mk_next)
    | exact Kept.congr ‹Kept P _› rfl | assumption | split

theorem windowCame_inv (s : State) (p : Nat) (h : MgmtHdr) (d : List Byte) (h_s : Kept P s) : Kept P (windowCame s p h d) := by
  unfold windowCame
  repeat' first
    | with_reducible (first
        | assumption | intro _ | apply discardMessage_inv | apply updPort_inv | apply sendMgmt_inv | apply ite_inv)
    | exact Kept.congr ‹Kept P _› rfl | assumption | split

theorem execWindow_inv (p : Nat) (h : MgmtHdr) (d : List Byte) (s : State) (h_s : Kept P s) : OutInv P (execWindow p h d s) := by
  unfold execWindow
  repeat' first
    | with_reducible (first
        | assumption | intro _ | apply done_inv | apply windowCame_inv | apply ite_inv | apply OutInv.mk_next)
    | exact Kept.congr ‹Kept P _› rfl | assumption | split

theorem windowAcked_inv (s : State) (p : Nat) (h : MgmtHdr) (h_s : Kept P s) : Kept P (windowAcked s p h) := by
  unfold windowAcked
  repeat' first
    | with_reducible (first
        | assumption | intro _ | apply discardMessage_inv | apply endDrains_inv | apply updPort_inv | apply ite_inv)
    | exact Kept.congr ‹Kept P _› rfl | assumption | split

theorem execWindowAck_inv (p : Nat) (h : MgmtHdr) (_d : List Byte) (s : State) (h_s : Kept P s) : OutInv P (execWindowAck p h _d s) := by
  unfold execWindowAck
  repeat' first
    | with_reducible (first
        | assumption | intro _ | apply done_inv | apply windowAcked_inv | apply ite_inv | apply OutInv.mk_next)
    | exact Kept.congr ‹Kept P _› rfl | assumption | split

theorem announce_inv (s : State) (p : Nat) (w : Nat) (h_s : Kept P s) : Kept P (announce s p w) := by
  unfold announce
  repeat' first
    | with_reducible (first
        | assumption | intro _ | apply updPort_inv | apply sendMgmt_inv | apply ite_inv)
    | exact Kept.congr ‹Kept P _› rfl | assumption | split

theorem setPort_inv (hP : Closed P) (s : State) (p : Nat) (action : Nat) (w : Nat) (h_s : Kept P s) : Kept P (setPort s p action w) := by
  unfold setPort
  repeat' first
    | with_reducible (first
        | assumption | intro _)
    | exact True.intro | exact ⟨rfl, rfl⟩
    | (extract_lets +onlyGivenNames x
       first
       | (refine ((fun (hx : Kept P x) => ?_) ?_) <;> [clear_value x; (revert x; change (Kept P) _)])
       | (refine ((fun (hx : Kept P x.2) => ?_) ?_) <;> [clear_value x; (revert x; change (Kept P) (Prod.snd _))])
       | (refine ((fun (hx : OptInv (Kept P) x) => ?_) ?_) <;> [clear_value x; (revert x; change OptInv (Kept P) _)])
       | (refine ((fun (hx : CmdInv P x) => ?_) ?_) <;> [clear_value x; (revert x; change (CmdInv P) _)])
       | (have _ := (x : List _); clear_value x)
       | skip)
    | with_reducible (first
        | apply (dropPort_inv hP) | apply updPort_inv | apply enterState_inv | apply announce_inv | apply foldl_bind_inv | apply bind_inv | apply ite_snd
        | apply ite_inv | apply ite_opt | apply ite_cmd | apply ite_out | apply findSome_inv | apply each_inv | apply iter_inv | apply foldl_inv
        | apply foldl_inv2 | apply getD_inv | apply elim_inv | apply JudgedInv.mk | apply JudgedInv.take | apply JudgedInv.discard | apply ite_judged
        | apply OptInv.mk_some | apply OptInv.mk_none | apply ExcInv.mk_ok | apply ExcInv.mk_error | apply OutInv.mk_next | apply CmdInv.mk_commit
        | apply DirInv.mk_sent | apply DirRoomInv.mk_freeing)
    | exact Kept.congr ‹Kept P _› rfl | assumption | refine Inv.congr ((dropPort_inv hP) _ _ _ ?_ ) rfl | refine Inv.congr (updPort_inv _ _ _ ?_ ) rfl
    | refine Inv.congr (enterState_inv _ _ _ ?_ ) rfl | refine Inv.congr (announce_inv _ _ _ ?_ ) rfl | split
    | (refine OptInv.of_eq (Q := (Kept P)) ‹_ = some _› ?_) | (refine OptInv.of_eq (Q := (CmdInv P)) ‹_ = some _› ?_) | (refine pair_of_eq ‹_ = (_, _)› ?_)
    | (refine pair_of_eq' ‹_ = (_, _)› ?_) | (refine DirInv.of_eq ‹_ = DirStep.sent _› ?_) | (refine DirRoomInv.of_eq ‹_ = DirRoom.freeing _› ?_)
    | (refine CmdInv.of_eq ‹_ = CmdResult.commit _ _ _ _› ?_) | (refine ExcInv.of_eq ‹_ = Except.ok _› ?_) | dsimp only | apply (dropPort_inv hP)
    | apply updPort_inv | apply enterState_inv | apply announce_inv | exact Kept.write hP ‹Kept P _› rfl | exact Kept.cache hP ‹Kept P _› rfl
    | exact Kept.clear hP ‹Kept P _› rfl
    | exact Kept.clears hP ‹Kept P _› rfl | dsimp +zetaDelta only
    | (refine OptInv.of_eq (Q := fun (t : _ × State) => (Kept P) t.2) ‹_ = some _› ?_)
    | (refine OptInv.of_eq (Q := fun (t : _ × State) => (Kept P) t.2) (t := (_, _)) ‹_ = some (_, _)› ?_)
    | (refine ExcInv.of_eq (Q := fun (t : _ × State) => (Kept P) t.2) (t := (_, _)) ‹_ = Except.ok (_, _)› ?_)

theorem sendNak_inv (s : State) (p : Nat) (h_s : Kept P s) : Kept P (sendNak s p) := by
  unfold sendNak
  repeat' first
    | with_reducible (first
        | assumption | intro _ | apply send_inv | apply ite_inv)
    | exact Kept.congr ‹Kept P _› rfl | assumption | split

theorem retrain_inv (hP : Closed P) (s : State) (p : Nat) (cause : Nat) (h_s : Kept P s) : Kept P (retrain s p cause) := by
  unfold retrain
  repeat' first
    | with_reducible (first
        | assumption | intro _ | apply (linkLost_inv hP) | apply portRecord_inv | apply ite_inv)
    | exact Kept.congr ‹Kept P _› rfl | assumption | split

theorem frameFails_inv (hP : Closed P) (s : State) (p : Nat) (seq : Nat) (check : FrameCheck) (h_s : Kept P s) : Kept P (frameFails s p seq check) := by
  unfold frameFails
  repeat' first
    | with_reducible (first
        | assumption | intro _ | apply sendNak_inv | apply updPort_inv | apply (retrain_inv hP) | apply ite_inv)
    | exact Kept.congr ‹Kept P _› rfl | assumption | split

theorem frameHeader_inv (hP : Closed P) (s : State) (p : Nat) (f : FrameHdr) (h_s : Kept P s) : Kept P (frameHeader s p f) := by
  unfold frameHeader
  repeat' first
    | with_reducible (first
        | assumption | intro _ | apply updPort_inv | apply (retrain_inv hP) | apply pump_inv | apply moveLane_inv | apply ite_inv)
    | exact Kept.congr ‹Kept P _› rfl | assumption | split

theorem unknownMessage_inv (s : State) (p : Nat) (m : FrameMsg) (h_s : Kept P s) : Kept P (unknownMessage s p m) := by
  unfold unknownMessage
  repeat' first
    | with_reducible (first
        | assumption | intro _ | apply discardMessage_inv | apply refuse_inv | apply ite_inv)
    | exact Kept.congr ‹Kept P _› rfl | assumption | split

theorem frameIn_inv (hP : Closed P) (s : State) (p : Nat) (f : FrameHdr) (check : FrameCheck) (m : FrameMsg) (h_s : Kept P s) : Kept P (frameIn s p f check m) := by
  unfold frameIn
  repeat' first
    | with_reducible (first
        | assumption | intro _ | apply (frameFails_inv hP) | apply (frameHeader_inv hP) | apply unknownMessage_inv | apply ite_inv)
    | exact Kept.congr ‹Kept P _› rfl | assumption | split

theorem execLinkFrame_inv (hP : Closed P) (p : Nat) (f : FrameHdr) (check : FrameCheck) (m : FrameMsg) (s : State) (h_s : Kept P s) : OutInv P (execLinkFrame p f check m s) := by
  unfold execLinkFrame
  repeat' first
    | with_reducible (first
        | assumption | intro _ | apply done_inv | apply (frameIn_inv hP) | apply ite_inv | apply OutInv.mk_next)
    | exact Kept.congr ‹Kept P _› rfl | assumption | split

/-! ### Sessions -/

theorem drawNonce_inv (s : State) (h_s : Kept P s) : Kept P (drawNonce s).2 := by
  unfold drawNonce
  repeat' first
    | with_reducible (first
        | assumption | intro _ | apply drawWord_inv | apply ite_inv | apply ite_snd)
    | exact Kept.congr ‹Kept P _› rfl | assumption | split

theorem atStep_inv (s : State) (p : Nat) (st : SessStep) (f : PortS → PortS) (h_s : Kept P s) : Kept P (atStep s p st f) := by
  unfold atStep
  repeat' first
    | with_reducible (first
        | assumption | intro _ | apply updPort_inv | apply ite_inv)
    | exact Kept.congr ‹Kept P _› rfl | assumption | split

theorem startExchange_inv (s : State) (p : Nat) (h_s : Kept P s) : Kept P (startExchange s p) := by
  unfold startExchange
  repeat' first
    | with_reducible (first
        | assumption | intro _ | apply drawNonce_inv | apply atStep_inv | apply sendMgmt_inv | apply ite_inv)
    | exact Kept.congr ‹Kept P _› rfl | assumption | split

theorem helloDone_inv (s : State) (p : Nat) (h_s : Kept P s) : Kept P (helloDone s p) := by
  unfold helloDone
  repeat' first
    | with_reducible (first
        | assumption | intro _ | apply enterState_inv | apply startExchange_inv | apply ite_inv)
    | exact Kept.congr ‹Kept P _› rfl | assumption | split

theorem sessionFails_inv (hP : Closed P) (s : State) (p : Nat) (step : Nat) (cause : Nat) (h_s : Kept P s) : Kept P (sessionFails s p step cause) := by
  unfold sessionFails
  repeat' first
    | with_reducible (first
        | assumption | intro _ | apply portRecord_inv | apply updPort_inv | apply (dropPort_inv hP) | apply ite_inv)
    | exact Kept.congr ‹Kept P _› rfl | assumption | split

theorem sessionDone_inv (hP : Closed P) (s : State) (p : Nat) (h_s : Kept P s) : Kept P (sessionDone s p) := by
  unfold sessionDone
  repeat' first
    | with_reducible (first
        | assumption | intro _)
    | exact True.intro | exact ⟨rfl, rfl⟩
    | with_reducible (first
        | apply enterState_inv | apply updPort_inv | apply announce_inv | apply trustRecord_inv | apply sendDelta_inv | apply (settleAll_inv hP) | apply pump_inv
        | apply rekey_inv | apply foldl_bind_inv | apply bind_inv | apply ite_snd | apply ite_inv | apply ite_opt | apply ite_cmd | apply ite_out
        | apply findSome_inv | apply each_inv | apply iter_inv | apply foldl_inv | apply foldl_inv2 | apply getD_inv | apply elim_inv | apply JudgedInv.mk
        | apply JudgedInv.take | apply JudgedInv.discard | apply ite_judged | apply OptInv.mk_some | apply OptInv.mk_none | apply ExcInv.mk_ok
        | apply ExcInv.mk_error | apply OutInv.mk_next | apply CmdInv.mk_commit | apply DirInv.mk_sent | apply DirRoomInv.mk_freeing)
    | exact Kept.congr ‹Kept P _› rfl | assumption | split | dsimp only

theorem helloCame_inv (hP : Closed P) (s : State) (p : Nat) (h : MgmtHdr) (d : List Byte) (h_s : Kept P s) : Kept P (helloCame s p h d) := by
  unfold helloCame
  repeat' first
    | with_reducible (first
        | assumption | intro _ | apply discardMessage_inv | apply (dropPort_inv hP) | apply portRecord_inv | apply updPort_inv | apply helloDone_inv
        | apply sendMgmt_inv | apply ite_inv)
    | exact Kept.congr ‹Kept P _› rfl | assumption | split

theorem execHello_inv (hP : Closed P) (p : Nat) (h : MgmtHdr) (d : List Byte) (s : State) (h_s : Kept P s) : OutInv P (execHello p h d s) := by
  unfold execHello
  repeat' first
    | with_reducible (first
        | assumption | intro _ | apply done_inv | apply (helloCame_inv hP) | apply ite_inv | apply OutInv.mk_next)
    | exact Kept.congr ‹Kept P _› rfl | assumption | split

theorem helloAckCame_inv (hP : Closed P) (s : State) (p : Nat) (h : MgmtHdr) (d : List Byte) (h_s : Kept P s) : Kept P (helloAckCame s p h d) := by
  unfold helloAckCame
  repeat' first
    | with_reducible (first
        | assumption | intro _ | apply discardMessage_inv | apply (dropPort_inv hP) | apply helloDone_inv | apply updPort_inv | apply ite_inv)
    | exact Kept.congr ‹Kept P _› rfl | assumption | split

theorem execHelloAck_inv (hP : Closed P) (p : Nat) (h : MgmtHdr) (d : List Byte) (s : State) (h_s : Kept P s) : OutInv P (execHelloAck p h d s) := by
  unfold execHelloAck
  repeat' first
    | with_reducible (first
        | assumption | intro _ | apply done_inv | apply (helloAckCame_inv hP) | apply ite_inv | apply OutInv.mk_next)
    | exact Kept.congr ‹Kept P _› rfl | assumption | split

theorem initCame_inv (hP : Closed P) (s : State) (p : Nat) (h : MgmtHdr) (d : List Byte) (h_s : Kept P s) : Kept P (initCame s p h d) := by
  unfold initCame
  repeat' first
    | with_reducible (first
        | assumption | intro _ | apply discardMessage_inv | apply (sessionFails_inv hP) | apply drawNonce_inv | apply atStep_inv | apply sendMgmt_inv
        | apply ite_inv)
    | exact Kept.congr ‹Kept P _› rfl | assumption | split

theorem execSessInit_inv (hP : Closed P) (p : Nat) (h : MgmtHdr) (d : List Byte) (s : State) (h_s : Kept P s) : OutInv P (execSessInit p h d s) := by
  unfold execSessInit
  repeat' first
    | with_reducible (first
        | assumption | intro _ | apply done_inv | apply (initCame_inv hP) | apply ite_inv | apply OutInv.mk_next)
    | exact Kept.congr ‹Kept P _› rfl | assumption | split

theorem respCame_inv (hP : Closed P) (s : State) (p : Nat) (h : MgmtHdr) (d : List Byte) (h_s : Kept P s) : Kept P (respCame s p h d) := by
  unfold respCame
  repeat' first
    | with_reducible (first
        | assumption | intro _ | apply discardMessage_inv | apply (sessionFails_inv hP) | apply atStep_inv | apply sendMgmt_inv | apply ite_inv)
    | exact Kept.congr ‹Kept P _› rfl | assumption | split

theorem execSessResp_inv (hP : Closed P) (p : Nat) (h : MgmtHdr) (d : List Byte) (s : State) (h_s : Kept P s) : OutInv P (execSessResp p h d s) := by
  unfold execSessResp
  repeat' first
    | with_reducible (first
        | assumption | intro _ | apply done_inv | apply (respCame_inv hP) | apply ite_inv | apply OutInv.mk_next)
    | exact Kept.congr ‹Kept P _› rfl | assumption | split

theorem finCame_inv (hP : Closed P) (s : State) (p : Nat) (h : MgmtHdr) (d : List Byte) (h_s : Kept P s) : Kept P (finCame s p h d) := by
  unfold finCame
  repeat' first
    | with_reducible (first
        | assumption | intro _ | apply discardMessage_inv | apply (sessionFails_inv hP) | apply (sessionDone_inv hP) | apply sendMgmt_inv | apply ite_inv)
    | exact Kept.congr ‹Kept P _› rfl | assumption | split

theorem execSessFin_inv (hP : Closed P) (p : Nat) (h : MgmtHdr) (d : List Byte) (s : State) (h_s : Kept P s) : OutInv P (execSessFin p h d s) := by
  unfold execSessFin
  repeat' first
    | with_reducible (first
        | assumption | intro _ | apply done_inv | apply (finCame_inv hP) | apply ite_inv | apply OutInv.mk_next)
    | exact Kept.congr ‹Kept P _› rfl | assumption | split

theorem ackCame_inv (hP : Closed P) (s : State) (p : Nat) (h : MgmtHdr) (d : List Byte) (h_s : Kept P s) : Kept P (ackCame s p h d) := by
  unfold ackCame
  repeat' first
    | with_reducible (first
        | assumption | intro _ | apply discardMessage_inv | apply (sessionFails_inv hP) | apply (sessionDone_inv hP) | apply ite_inv)
    | exact Kept.congr ‹Kept P _› rfl | assumption | split

theorem execSessAck_inv (hP : Closed P) (p : Nat) (h : MgmtHdr) (d : List Byte) (s : State) (h_s : Kept P s) : OutInv P (execSessAck p h d s) := by
  unfold execSessAck
  repeat' first
    | with_reducible (first
        | assumption | intro _ | apply done_inv | apply (ackCame_inv hP) | apply ite_inv | apply OutInv.mk_next)
    | exact Kept.congr ‹Kept P _› rfl | assumption | split

theorem stepTimeout_inv (hP : Closed P) (s : State) (p : Nat) (h_s : Kept P s) : Kept P (stepTimeout s p) := by
  unfold stepTimeout
  repeat' first
    | with_reducible (first
        | assumption | intro _ | apply (sessionFails_inv hP) | apply ite_inv)
    | exact Kept.congr ‹Kept P _› rfl | assumption | split

theorem execSessionStepTimeout_inv (hP : Closed P) (p : Nat) (s : State) (h_s : Kept P s) : OutInv P (execSessionStepTimeout p s) := by
  unfold execSessionStepTimeout
  repeat' first
    | with_reducible (first
        | assumption | intro _ | apply done_inv | apply (stepTimeout_inv hP) | apply ite_inv | apply OutInv.mk_next)
    | exact Kept.congr ‹Kept P _› rfl | assumption | split

theorem stateTimeout_inv (hP : Closed P) (s : State) (p : Nat) (h_s : Kept P s) : Kept P (stateTimeout s p) := by
  unfold stateTimeout
  repeat' first
    | with_reducible (first
        | assumption | intro _)
    | exact True.intro | exact ⟨rfl, rfl⟩
    | with_reducible (first
        | apply (dropPort_inv hP) | apply (sessionFails_inv hP) | apply foldl_bind_inv | apply bind_inv | apply ite_snd | apply ite_inv | apply ite_opt | apply ite_cmd
        | apply ite_out | apply findSome_inv | apply each_inv | apply iter_inv | apply foldl_inv | apply foldl_inv2 | apply getD_inv | apply elim_inv
        | apply JudgedInv.mk | apply JudgedInv.take | apply JudgedInv.discard | apply ite_judged | apply OptInv.mk_some | apply OptInv.mk_none
        | apply ExcInv.mk_ok | apply ExcInv.mk_error | apply OutInv.mk_next | apply CmdInv.mk_commit | apply DirInv.mk_sent | apply DirRoomInv.mk_freeing)
    | exact Kept.congr ‹Kept P _› rfl | assumption | split | dsimp only

theorem execPortStateTimeout_inv (hP : Closed P) (p : Nat) (s : State) (h_s : Kept P s) : OutInv P (execPortStateTimeout p s) := by
  unfold execPortStateTimeout
  repeat' first
    | with_reducible (first
        | assumption | intro _ | apply done_inv | apply (stateTimeout_inv hP) | apply ite_inv | apply OutInv.mk_next)
    | exact Kept.congr ‹Kept P _› rfl | assumption | split

theorem authAgain_inv (hP : Closed P) (s : State) (p : Nat) (h_s : Kept P s) : Kept P (authAgain s p) := by
  unfold authAgain
  repeat' first
    | with_reducible (first
        | assumption | intro _ | apply (dropPort_inv hP) | apply ite_inv)
    | exact Kept.congr ‹Kept P _› rfl | assumption | split

theorem execAuthRetry_inv (hP : Closed P) (p : Nat) (s : State) (h_s : Kept P s) : OutInv P (execAuthRetry p s) := by
  unfold execAuthRetry
  repeat' first
    | with_reducible (first
        | assumption | intro _ | apply done_inv | apply (authAgain_inv hP) | apply ite_inv | apply OutInv.mk_next)
    | exact Kept.congr ‹Kept P _› rfl | assumption | split

theorem rekey_inv (s : State) (p : Nat) (h_s : Kept P s) : Kept P (rekey s p) := by
  unfold rekey
  repeat' first
    | with_reducible (first
        | assumption | intro _ | apply startExchange_inv | apply updPort_inv | apply ite_inv)
    | exact Kept.congr ‹Kept P _› rfl | assumption | split

theorem rekeyNow_inv (s : State) (p : Nat) (h_s : Kept P s) : Kept P (rekeyNow s p) := by
  unfold rekeyNow
  repeat' first
    | with_reducible (first
        | assumption | intro _ | apply rekey_inv | apply ite_inv)
    | exact Kept.congr ‹Kept P _› rfl | assumption | split

theorem execRekeyDue_inv (p : Nat) (s : State) (h_s : Kept P s) : OutInv P (execRekeyDue p s) := by
  unfold execRekeyDue
  repeat' first
    | with_reducible (first
        | assumption | intro _ | apply done_inv | apply rekeyNow_inv | apply ite_inv | apply OutInv.mk_next)
    | exact Kept.congr ‹Kept P _› rfl | assumption | split

theorem rekeyAgain_inv (s : State) (p : Nat) (h_s : Kept P s) : Kept P (rekeyAgain s p) := by
  unfold rekeyAgain
  repeat' first
    | with_reducible (first
        | assumption | intro _ | apply rekey_inv | apply ite_inv)
    | exact Kept.congr ‹Kept P _› rfl | assumption | split

theorem execRekeyRetry_inv (p : Nat) (s : State) (h_s : Kept P s) : OutInv P (execRekeyRetry p s) := by
  unfold execRekeyRetry
  repeat' first
    | with_reducible (first
        | assumption | intro _ | apply done_inv | apply rekeyAgain_inv | apply ite_inv | apply OutInv.mk_next)
    | exact Kept.congr ‹Kept P _› rfl | assumption | split

theorem keysExpire_inv (hP : Closed P) (s : State) (p : Nat) (h_s : Kept P s) : Kept P (keysExpire s p) := by
  unfold keysExpire
  repeat' first
    | with_reducible (first
        | assumption | intro _ | apply (dropPort_inv hP) | apply ite_inv)
    | exact Kept.congr ‹Kept P _› rfl | assumption | split

theorem execSessionKeysExpired_inv (hP : Closed P) (p : Nat) (s : State) (h_s : Kept P s) : OutInv P (execSessionKeysExpired p s) := by
  unfold execSessionKeysExpired
  repeat' first
    | with_reducible (first
        | assumption | intro _ | apply done_inv | apply (keysExpire_inv hP) | apply ite_inv | apply OutInv.mk_next)
    | exact Kept.congr ‹Kept P _› rfl | assumption | split

theorem mboxCmdCame_inv (hP : Closed P) (s : State) (p : Nat) (h : MgmtHdr) (d : List Byte) (h_s : Kept P s) : Kept P (mboxCmdCame s p h d) := by
  unfold mboxCmdCame
  repeat' first
    | with_reducible (first
        | assumption | intro _ | apply mbRefuse_inv | apply discardMessage_inv | apply (mailbox_inv hP) | apply send_inv | apply refuse_inv | apply ite_inv)
    | exact Kept.congr ‹Kept P _› rfl | assumption | split

theorem execMboxCmd_inv (hP : Closed P) (p : Nat) (h : MgmtHdr) (d : List Byte) (s : State) (h_s : Kept P s) : OutInv P (execMboxCmd p h d s) := by
  unfold execMboxCmd
  repeat' first
    | with_reducible (first
        | assumption | intro _ | apply done_inv | apply (mboxCmdCame_inv hP) | apply ite_inv | apply OutInv.mk_next)
    | exact Kept.congr ‹Kept P _› rfl | assumption | split

theorem mboxRspCame_inv (s : State) (p : Nat) (h : MgmtHdr) (d : List Byte) (h_s : Kept P s) : Kept P (mboxRspCame s p h d) := by
  unfold mboxRspCame
  repeat' first
    | with_reducible (first
        | assumption | intro _)
    | exact True.intro | exact ⟨rfl, rfl⟩
    | with_reducible (first
        | apply discardMessage_inv | apply send_inv | apply foldl_bind_inv | apply bind_inv | apply ite_snd | apply ite_inv | apply ite_opt | apply ite_cmd
        | apply ite_out | apply findSome_inv | apply each_inv | apply iter_inv | apply foldl_inv | apply foldl_inv2 | apply getD_inv | apply elim_inv
        | apply JudgedInv.mk | apply JudgedInv.take | apply JudgedInv.discard | apply ite_judged | apply OptInv.mk_some | apply OptInv.mk_none
        | apply ExcInv.mk_ok | apply ExcInv.mk_error | apply OutInv.mk_next | apply CmdInv.mk_commit | apply DirInv.mk_sent | apply DirRoomInv.mk_freeing)
    | exact Kept.congr ‹Kept P _› rfl | assumption | split | dsimp only

theorem execMboxRsp_inv (p : Nat) (h : MgmtHdr) (d : List Byte) (s : State) (h_s : Kept P s) : OutInv P (execMboxRsp p h d s) := by
  unfold execMboxRsp
  repeat' first
    | with_reducible (first
        | assumption | intro _ | apply done_inv | apply mboxRspCame_inv | apply ite_inv | apply OutInv.mk_next)
    | exact Kept.congr ‹Kept P _› rfl | assumption | split

theorem toHost_inv (s : State) (p : Nat) (h : MgmtHdr) (opc : Nat) (h_s : Kept P s) : Kept P (toHost s p h opc) := by
  unfold toHost
  repeat' first
    | with_reducible (first
        | assumption | intro _ | apply ite_inv)
    | exact Kept.congr ‹Kept P _› rfl | assumption | split

theorem domainMessage_inv (s : State) (p : Nat) (h : MgmtHdr) (take : State → State) (h_s : Kept P s) (h_take : ∀ x, (Kept P) x → Kept P (take x)) : Kept P (domainMessage s p h take) := by
  unfold domainMessage
  repeat' first
    | with_reducible (first
        | assumption | intro _ | apply h_take | apply discardMessage_inv | apply ite_inv)
    | exact Kept.congr ‹Kept P _› rfl | assumption | split

theorem execLeaseRenew_inv (p : Nat) (h : MgmtHdr) (_d : List Byte) (s : State) (h_s : Kept P s) : OutInv P (execLeaseRenew p h _d s) := by
  unfold execLeaseRenew
  repeat' first
    | with_reducible (first
        | assumption | intro _ | apply done_inv | apply domainMessage_inv | apply toHost_inv | apply ite_inv | apply OutInv.mk_next)
    | exact Kept.congr ‹Kept P _› rfl | assumption | split

theorem grant_inv (s : State) (mstat : Nat) (d : List Byte) (h_s : Kept P s) : Kept P (grant s mstat d) := by
  unfold grant
  repeat' first
    | with_reducible (first
        | assumption | intro _)
    | exact True.intro | exact ⟨rfl, rfl⟩
    | with_reducible (first
        | apply foldl_bind_inv | apply bind_inv | apply ite_snd | apply ite_inv | apply ite_opt | apply ite_cmd | apply ite_out | apply findSome_inv
        | apply each_inv | apply iter_inv | apply foldl_inv | apply foldl_inv2 | apply getD_inv | apply elim_inv | apply JudgedInv.mk | apply JudgedInv.take
        | apply JudgedInv.discard | apply ite_judged | apply OptInv.mk_some | apply OptInv.mk_none | apply ExcInv.mk_ok | apply ExcInv.mk_error
        | apply OutInv.mk_next | apply CmdInv.mk_commit | apply DirInv.mk_sent | apply DirRoomInv.mk_freeing)
    | exact Kept.congr ‹Kept P _› rfl | assumption | split | dsimp only

theorem execLeaseGrant_inv (p : Nat) (h : MgmtHdr) (d : List Byte) (s : State) (h_s : Kept P s) : OutInv P (execLeaseGrant p h d s) := by
  unfold execLeaseGrant
  repeat' first
    | with_reducible (first
        | assumption | intro _ | apply done_inv | apply domainMessage_inv | apply grant_inv | apply ite_inv | apply OutInv.mk_next)
    | exact Kept.congr ‹Kept P _› rfl | assumption | split

theorem quorumCommand_inv (hP : Closed P) (s : State) (p : Nat) (h : MgmtHdr) (d : List Byte) (h_s : Kept P s) : Kept P (quorumCommand s p h d) := by
  unfold quorumCommand
  repeat' first
    | with_reducible (first
        | assumption | intro _ | apply send_inv | apply updCmd_inv | apply takeCmd_inv | apply (settleAll_inv hP) | apply (runMailboxes_inv hP) | apply ite_inv)
    | exact Kept.congr ‹Kept P _› rfl | assumption | split

theorem execQuorum_inv (hP : Closed P) (p : Nat) (h : MgmtHdr) (d : List Byte) (s : State) (h_s : Kept P s) : OutInv P (execQuorum p h d s) := by
  unfold execQuorum
  repeat' first
    | with_reducible (first
        | assumption | intro _ | apply done_inv | apply domainMessage_inv | apply toHost_inv | apply (quorumCommand_inv hP) | apply ite_inv | apply OutInv.mk_next)
    | exact Kept.congr ‹Kept P _› rfl | assumption | split

theorem hostReply_inv (s : State) (xid : Nat) (mstat : Nat) (d : List Byte) (h_s : Kept P s) : Kept P (hostReply s xid mstat d) := by
  unfold hostReply
  repeat' first
    | with_reducible (first
        | assumption | intro _ | apply grant_inv | apply sendMgmt_inv | apply ite_inv)
    | exact Kept.congr ‹Kept P _› rfl | assumption | split

theorem execHostDieReply_inv (xid : Nat) (mstat : Nat) (d : List Byte) (s : State) (h_s : Kept P s) : OutInv P (execHostDieReply xid mstat d s) := by
  unfold execHostDieReply
  repeat' first
    | with_reducible (first
        | assumption | intro _ | apply done_inv | apply hostReply_inv | apply ite_inv | apply OutInv.mk_next)
    | exact Kept.congr ‹Kept P _› rfl | assumption | split

/-! ### DomainRows -/

theorem renewLease_inv (s : State) (h_s : Kept P s) : Kept P (renewLease s) := by
  unfold renewLease
  repeat' first
    | with_reducible (first
        | assumption | intro _)
    | exact True.intro | exact ⟨rfl, rfl⟩
    | with_reducible (first
        | apply sendMgmt_inv | apply foldl_bind_inv | apply bind_inv | apply ite_snd | apply ite_inv | apply ite_opt | apply ite_cmd | apply ite_out
        | apply findSome_inv | apply each_inv | apply iter_inv | apply foldl_inv | apply foldl_inv2 | apply getD_inv | apply elim_inv | apply JudgedInv.mk
        | apply JudgedInv.take | apply JudgedInv.discard | apply ite_judged | apply OptInv.mk_some | apply OptInv.mk_none | apply ExcInv.mk_ok
        | apply ExcInv.mk_error | apply OutInv.mk_next | apply CmdInv.mk_commit | apply DirInv.mk_sent | apply DirRoomInv.mk_freeing)
    | exact Kept.congr ‹Kept P _› rfl | assumption | split | dsimp only

theorem execLeaseRenewalDue_inv (s : State) (h_s : Kept P s) : OutInv P (execLeaseRenewalDue s) := by
  unfold execLeaseRenewalDue
  repeat' first
    | with_reducible (first
        | assumption | intro _ | apply done_inv | apply renewLease_inv | apply ite_inv | apply OutInv.mk_next)
    | exact Kept.congr ‹Kept P _› rfl | assumption | split

theorem setFenced_inv (s : State) (f : Bool) (h_s : Kept P s) : Kept P (setFenced s f) := by
  unfold setFenced
  repeat' first
    | with_reducible (first
        | assumption | intro _ | apply ite_inv)
    | exact Kept.congr ‹Kept P _› rfl | assumption | split

theorem dropHeldStores_inv (s : State) (h_s : Kept P s) : Kept P (dropHeldStores s) := by
  unfold dropHeldStores
  repeat' first
    | with_reducible (first
        | assumption | intro _)
    | exact True.intro | exact ⟨rfl, rfl⟩
    | with_reducible (first
        | apply finish_inv | apply cancelDeltas_inv | apply foldl_bind_inv | apply bind_inv | apply ite_snd | apply ite_inv | apply ite_opt | apply ite_cmd
        | apply ite_out | apply findSome_inv | apply each_inv | apply iter_inv | apply foldl_inv | apply foldl_inv2 | apply getD_inv | apply elim_inv
        | apply JudgedInv.mk | apply JudgedInv.take | apply JudgedInv.discard | apply ite_judged | apply OptInv.mk_some | apply OptInv.mk_none
        | apply ExcInv.mk_ok | apply ExcInv.mk_error | apply OutInv.mk_next | apply CmdInv.mk_commit | apply DirInv.mk_sent | apply DirRoomInv.mk_freeing)
    | exact Kept.congr ‹Kept P _› rfl | assumption | split | dsimp only

theorem domainRecord_inv (s : State) (code : Nat) (princ : Nat) (p0 : Word) (p1 : Word) (p2 : Word) (p3 : Word) (h_s : Kept P s) : Kept P (domainRecord s code princ p0 p1 p2 p3) := by
  unfold domainRecord
  repeat' first
    | with_reducible (first
        | assumption | intro _ | apply record_inv | apply ite_inv)
    | exact Kept.congr ‹Kept P _› rfl | assumption | split

theorem fenceNow_inv (hP : Closed P) (s : State) (h_s : Kept P s) : Kept P (fenceNow s) := by
  unfold fenceNow
  repeat' first
    | with_reducible (first
        | assumption | intro _ | apply dropHeldStores_inv | apply setFenced_inv | apply (settleAll_inv hP) | apply domainRecord_inv | apply ite_inv)
    | exact Kept.congr ‹Kept P _› rfl | assumption | split

theorem leaseLost_inv (hP : Closed P) (s : State) (h_s : Kept P s) : Kept P (leaseLost s) := by
  unfold leaseLost
  repeat' first
    | with_reducible (first
        | assumption | intro _ | apply (fenceNow_inv hP) | apply ite_inv)
    | exact Kept.congr ‹Kept P _› rfl | assumption | split

theorem execLeaseLost_inv (hP : Closed P) (s : State) (h_s : Kept P s) : OutInv P (execLeaseLost s) := by
  unfold execLeaseLost
  repeat' first
    | with_reducible (first
        | assumption | intro _ | apply done_inv | apply (leaseLost_inv hP) | apply ite_inv | apply OutInv.mk_next)
    | exact Kept.congr ‹Kept P _› rfl | assumption | split

theorem liftFence_inv (hP : Closed P) (s : State) (h_s : Kept P s) : Kept P (liftFence s) := by
  unfold liftFence
  repeat' first
    | with_reducible (first
        | assumption | intro _ | apply setFenced_inv | apply (settleAll_inv hP) | apply domainRecord_inv | apply ite_inv)
    | exact Kept.congr ‹Kept P _› rfl | assumption | split

theorem leaseRegained_inv (hP : Closed P) (s : State) (h_s : Kept P s) : Kept P (leaseRegained s) := by
  unfold leaseRegained
  repeat' first
    | with_reducible (first
        | assumption | intro _ | apply (liftFence_inv hP) | apply ite_inv)
    | exact Kept.congr ‹Kept P _› rfl | assumption | split

theorem execLeaseRegained_inv (hP : Closed P) (s : State) (h_s : Kept P s) : OutInv P (execLeaseRegained s) := by
  unfold execLeaseRegained
  repeat' first
    | with_reducible (first
        | assumption | intro _ | apply done_inv | apply (leaseRegained_inv hP) | apply ite_inv | apply OutInv.mk_next)
    | exact Kept.congr ‹Kept P _› rfl | assumption | split

theorem scrubNext_inv (hP : Closed P) (s : State) (h : Nat) (h_s : Kept P s) : Kept P (scrubNext s h) := by
  unfold scrubNext
  repeat' first
    | with_reducible (first
        | assumption | intro _ | apply updSheaf_inv | apply (settleAll_inv hP) | apply askPage_inv | apply ite_inv)
    | exact Kept.congr ‹Kept P _› rfl | assumption | split

theorem execScrubPage_inv (hP : Closed P) (handle : Nat) (s : State) (h_s : Kept P s) : OutInv P (execScrubPage handle s) := by
  unfold execScrubPage
  repeat' first
    | with_reducible (first
        | assumption | intro _ | apply done_inv | apply (scrubNext_inv hP) | apply ite_inv | apply OutInv.mk_next)
    | exact Kept.congr ‹Kept P _› rfl | assumption | split

theorem pushDone_inv (hP : Closed P) (s : State) (h : Nat) (h_s : Kept P s) : Kept P (pushDone s h) := by
  unfold pushDone
  repeat' first
    | with_reducible (first
        | assumption | intro _ | apply (settleAll_inv hP) | apply endDrains_inv | apply updSheaf_inv | apply ite_inv)
    | exact Kept.congr ‹Kept P _› rfl | assumption | split

theorem execSheafPushDone_inv (hP : Closed P) (handle : Nat) (s : State) (h_s : Kept P s) : OutInv P (execSheafPushDone handle s) := by
  unfold execSheafPushDone
  repeat' first
    | with_reducible (first
        | assumption | intro _ | apply done_inv | apply (pushDone_inv hP) | apply ite_inv | apply OutInv.mk_next)
    | exact Kept.congr ‹Kept P _› rfl | assumption | split

theorem keysIssued_inv (s : State) (h : Nat) (h_s : Kept P s) : Kept P (keysIssued s h) := by
  unfold keysIssued
  repeat' first
    | with_reducible (first
        | assumption | intro _ | apply ite_inv)
    | exact Kept.congr ‹Kept P _› rfl | assumption | split

theorem rebuilt_inv (hP : Closed P) (s : State) (h : Nat) (h_s : Kept P s) : Kept P (rebuilt s h) := by
  unfold rebuilt
  repeat' first
    | with_reducible (first
        | assumption | intro _ | apply updRegion_inv | apply updSheaf_inv | apply domainRecord_inv | apply keysIssued_inv | apply (settleAll_inv hP)
        | apply endDrains_inv | apply ite_inv)
    | exact Kept.congr ‹Kept P _› rfl | assumption | split

theorem execRebuildDone_inv (hP : Closed P) (handle : Nat) (s : State) (h_s : Kept P s) : OutInv P (execRebuildDone handle s) := by
  unfold execRebuildDone
  repeat' first
    | with_reducible (first
        | assumption | intro _ | apply done_inv | apply (rebuilt_inv hP) | apply ite_inv | apply OutInv.mk_next)
    | exact Kept.congr ‹Kept P _› rfl | assumption | split

theorem reencoded_inv (hP : Closed P) (s : State) (h : Nat) (h_s : Kept P s) : Kept P (reencoded s h) := by
  unfold reencoded
  repeat' first
    | with_reducible (first
        | assumption | intro _ | apply updSheaf_inv | apply (settleAll_inv hP) | apply endDrains_inv | apply ite_inv)
    | exact Kept.congr ‹Kept P _› rfl | assumption | split

theorem execReencodeDone_inv (hP : Closed P) (handle : Nat) (s : State) (h_s : Kept P s) : OutInv P (execReencodeDone handle s) := by
  unfold execReencodeDone
  repeat' first
    | with_reducible (first
        | assumption | intro _ | apply done_inv | apply (reencoded_inv hP) | apply ite_inv | apply OutInv.mk_next)
    | exact Kept.congr ‹Kept P _› rfl | assumption | split

theorem updMove_inv (s : State) (h : Nat) (f : Move → Move) (h_s : Kept P s) : Kept P (updMove s h f) := by
  unfold updMove
  repeat' first
    | with_reducible (first
        | assumption | intro _ | apply ite_inv)
    | exact Kept.congr ‹Kept P _› rfl | assumption | split

theorem copyWithin_inv (hP : Closed P) (s : State) (g : Region) (m : Move) (page : Nat) (h_s : Kept P s) : Kept P (copyWithin s g m page).2 := by
  unfold copyWithin
  repeat' first
    | with_reducible (first
        | assumption | intro _)
    | exact True.intro | exact ⟨rfl, rfl⟩
    | (extract_lets +onlyGivenNames x
       first
       | (refine ((fun (hx : Kept P x) => ?_) ?_) <;> [clear_value x; (revert x; change (Kept P) _)])
       | (refine ((fun (hx : Kept P x.2) => ?_) ?_) <;> [clear_value x; (revert x; change (Kept P) (Prod.snd _))])
       | (have _ := (x : List _); clear_value x)
       | skip)
    | with_reducible (first
        | apply (getPage_inv hP) | apply (putPage_inv hP) | apply foldl_bind_inv | apply bind_inv | apply ite_snd | apply ite_inv | apply ite_opt | apply ite_cmd
        | apply ite_out | apply findSome_inv | apply each_inv | apply iter_inv | apply foldl_inv | apply foldl_inv2 | apply getD_inv | apply elim_inv
        | apply JudgedInv.mk | apply JudgedInv.take | apply JudgedInv.discard | apply ite_judged | apply OptInv.mk_some | apply OptInv.mk_none
        | apply ExcInv.mk_ok | apply ExcInv.mk_error | apply OutInv.mk_next | apply CmdInv.mk_commit | apply DirInv.mk_sent | apply DirRoomInv.mk_freeing)
    | exact Kept.congr ‹Kept P _› rfl | assumption | split | (refine OptInv.of_eq (Q := (Kept P)) ‹_ = some _› ?_) | (refine pair_of_eq ‹_ = (_, _)› ?_)
    | (refine pair_of_eq' ‹_ = (_, _)› ?_) | (refine DirInv.of_eq ‹_ = DirStep.sent _› ?_) | (refine DirRoomInv.of_eq ‹_ = DirRoom.freeing _› ?_)
    | dsimp only

theorem moveWithin_inv (hP : Closed P) (s : State) (m : Move) (h_s : Kept P s) : Kept P (moveWithin s m) := by
  unfold moveWithin
  repeat' first
    | with_reducible (first
        | assumption | intro _)
    | exact True.intro | exact ⟨rfl, rfl⟩
    | (extract_lets +onlyGivenNames x
       first
       | (refine ((fun (hx : Kept P x) => ?_) ?_) <;> [clear_value x; (revert x; change (Kept P) _)])
       | (refine ((fun (hx : Kept P x.2) => ?_) ?_) <;> [clear_value x; (revert x; change (Kept P) (Prod.snd _))])
       | (have _ := (x : List _); clear_value x)
       | skip)
    | with_reducible (first
        | apply (copyWithin_inv hP) | apply updMove_inv | apply foldl_bind_inv | apply bind_inv | apply ite_snd | apply ite_inv | apply ite_opt | apply ite_cmd
        | apply ite_out | apply findSome_inv | apply each_inv | apply iter_inv | apply foldl_inv | apply foldl_inv2 | apply getD_inv | apply elim_inv
        | apply JudgedInv.mk | apply JudgedInv.take | apply JudgedInv.discard | apply ite_judged | apply OptInv.mk_some | apply OptInv.mk_none
        | apply ExcInv.mk_ok | apply ExcInv.mk_error | apply OutInv.mk_next | apply CmdInv.mk_commit | apply DirInv.mk_sent | apply DirRoomInv.mk_freeing)
    | exact Kept.congr ‹Kept P _› rfl | assumption | split | (refine OptInv.of_eq (Q := (Kept P)) ‹_ = some _› ?_) | (refine pair_of_eq ‹_ = (_, _)› ?_)
    | (refine pair_of_eq' ‹_ = (_, _)› ?_) | (refine DirInv.of_eq ‹_ = DirStep.sent _› ?_) | (refine DirRoomInv.of_eq ‹_ = DirRoom.freeing _› ?_)
    | dsimp only

theorem copyDone_inv (s : State) (h : Nat) (h_s : Kept P s) : Kept P (copyDone s h) := by
  unfold copyDone
  repeat' first
    | with_reducible (first
        | assumption | intro _ | apply endDrains_inv | apply updMove_inv | apply ite_inv)
    | exact Kept.congr ‹Kept P _› rfl | assumption | split

theorem execMoveCopyDone_inv (handle : Nat) (s : State) (h_s : Kept P s) : OutInv P (execMoveCopyDone handle s) := by
  unfold execMoveCopyDone
  repeat' first
    | with_reducible (first
        | assumption | intro _ | apply done_inv | apply copyDone_inv | apply ite_inv | apply OutInv.mk_next)
    | exact Kept.congr ‹Kept P _› rfl | assumption | split

theorem recallAll_inv (s : State) (g : Region) (h_s : Kept P s) : Kept P (recallAll s g) := by
  unfold recallAll
  repeat' first
    | with_reducible (first
        | assumption | intro _)
    | exact True.intro | exact ⟨rfl, rfl⟩
    | with_reducible (first
        | apply recallLine_inv | apply foldl_bind_inv | apply bind_inv | apply ite_snd | apply ite_inv | apply ite_opt | apply ite_cmd | apply ite_out
        | apply findSome_inv | apply each_inv | apply iter_inv | apply foldl_inv | apply foldl_inv2 | apply getD_inv | apply elim_inv | apply JudgedInv.mk
        | apply JudgedInv.take | apply JudgedInv.discard | apply ite_judged | apply OptInv.mk_some | apply OptInv.mk_none | apply ExcInv.mk_ok
        | apply ExcInv.mk_error | apply OutInv.mk_next | apply CmdInv.mk_commit | apply DirInv.mk_sent | apply DirRoomInv.mk_freeing)
    | exact Kept.congr ‹Kept P _› rfl | assumption | split | dsimp only

theorem sendPages_inv (hP : Closed P) (s : State) (g : Region) (m : Move) (h_s : Kept P s) : Kept P (sendPages s g m) := by
  unfold sendPages
  repeat' first
    | with_reducible (first
        | assumption | intro _)
    | exact True.intro | exact ⟨rfl, rfl⟩
    | (extract_lets +onlyGivenNames x
       first
       | (refine ((fun (hx : Kept P x) => ?_) ?_) <;> [clear_value x; (revert x; change (Kept P) _)])
       | (refine ((fun (hx : Kept P x.2) => ?_) ?_) <;> [clear_value x; (revert x; change (Kept P) (Prod.snd _))])
       | (refine ((fun (hx : OptInv (Kept P) x) => ?_) ?_) <;> [clear_value x; (revert x; change OptInv (Kept P) _)])
       | (refine ((fun (hx : CmdInv P x) => ?_) ?_) <;> [clear_value x; (revert x; change (CmdInv P) _)])
       | (have _ := (x : List _); clear_value x)
       | skip)
    | with_reducible (first
        | apply (getPage_inv hP) | apply startCopy_inv | apply foldl_bind_inv | apply bind_inv | apply ite_snd | apply ite_inv | apply ite_opt | apply ite_cmd
        | apply ite_out | apply findSome_inv | apply each_inv | apply iter_inv | apply foldl_inv | apply foldl_inv2 | apply getD_inv | apply elim_inv
        | apply JudgedInv.mk | apply JudgedInv.take | apply JudgedInv.discard | apply ite_judged | apply OptInv.mk_some | apply OptInv.mk_none
        | apply ExcInv.mk_ok | apply ExcInv.mk_error | apply OutInv.mk_next | apply CmdInv.mk_commit | apply DirInv.mk_sent | apply DirRoomInv.mk_freeing)
    | exact Kept.congr ‹Kept P _› rfl | assumption | refine Inv.congr (startCopy_inv _ _ _ _ _ ?_ ) rfl | split
    | (refine OptInv.of_eq (Q := (Kept P)) ‹_ = some _› ?_) | (refine OptInv.of_eq (Q := (CmdInv P)) ‹_ = some _› ?_) | (refine pair_of_eq ‹_ = (_, _)› ?_)
    | (refine pair_of_eq' ‹_ = (_, _)› ?_) | (refine DirInv.of_eq ‹_ = DirStep.sent _› ?_) | (refine DirRoomInv.of_eq ‹_ = DirRoom.freeing _› ?_)
    | (refine CmdInv.of_eq ‹_ = CmdResult.commit _ _ _ _› ?_) | (refine ExcInv.of_eq ‹_ = Except.ok _› ?_) | dsimp only | apply (getPage_inv hP)
    | apply startCopy_inv | exact Kept.write hP ‹Kept P _› rfl | exact Kept.cache hP ‹Kept P _› rfl
    | exact Kept.clear hP ‹Kept P _› rfl
    | exact Kept.clears hP ‹Kept P _› rfl | dsimp +zetaDelta only
    | (refine OptInv.of_eq (Q := fun (t : _ × State) => (Kept P) t.2) ‹_ = some _› ?_)
    | (refine OptInv.of_eq (Q := fun (t : _ × State) => (Kept P) t.2) (t := (_, _)) ‹_ = some (_, _)› ?_)
    | (refine ExcInv.of_eq (Q := fun (t : _ × State) => (Kept P) t.2) (t := (_, _)) ‹_ = Except.ok (_, _)› ?_)

theorem recheckHeld_inv (s : State) (h : Nat) (h_s : Kept P s) : Kept P (recheckHeld s h) := by
  unfold recheckHeld
  repeat' first
    | with_reducible (first
        | assumption | intro _)
    | exact True.intro | exact ⟨rfl, rfl⟩
    | with_reducible (first
        | apply updReq_inv | apply finish_inv | apply meterRefused_inv | apply foldl_bind_inv | apply bind_inv | apply ite_snd | apply ite_inv | apply ite_opt
        | apply ite_cmd | apply ite_out | apply findSome_inv | apply each_inv | apply iter_inv | apply foldl_inv | apply foldl_inv2 | apply getD_inv
        | apply elim_inv | apply JudgedInv.mk | apply JudgedInv.take | apply JudgedInv.discard | apply ite_judged | apply OptInv.mk_some
        | apply OptInv.mk_none | apply ExcInv.mk_ok | apply ExcInv.mk_error | apply OutInv.mk_next | apply CmdInv.mk_commit | apply DirInv.mk_sent
        | apply DirRoomInv.mk_freeing)
    | exact Kept.congr ‹Kept P _› rfl | assumption | split | dsimp only

theorem completeMove_inv (hP : Closed P) (s : State) (m : Move) (g : Region) (h_s : Kept P s) : Kept P (completeMove s m g) := by
  unfold completeMove
  repeat' first
    | with_reducible (first
        | assumption | intro _)
    | exact True.intro | exact ⟨rfl, rfl⟩
    | (extract_lets +onlyGivenNames x
       first
       | (refine ((fun (hx : Kept P x) => ?_) ?_) <;> [clear_value x; (revert x; change (Kept P) _)])
       | (refine ((fun (hx : Kept P x.2) => ?_) ?_) <;> [clear_value x; (revert x; change (Kept P) (Prod.snd _))])
       | (have _ := (x : List _); clear_value x)
       | skip)
    | with_reducible (first
        | apply putRegion_inv | apply (settleAll_inv hP) | apply recheckHeld_inv | apply keysIssued_inv | apply recallAll_inv | apply (copyWithin_inv hP)
        | apply updMove_inv | apply (sendPages_inv hP) | apply foldl_bind_inv | apply bind_inv | apply ite_snd | apply ite_inv | apply ite_opt | apply ite_cmd
        | apply ite_out | apply findSome_inv | apply each_inv | apply iter_inv | apply foldl_inv | apply foldl_inv2 | apply getD_inv | apply elim_inv
        | apply JudgedInv.mk | apply JudgedInv.take | apply JudgedInv.discard | apply ite_judged | apply OptInv.mk_some | apply OptInv.mk_none
        | apply ExcInv.mk_ok | apply ExcInv.mk_error | apply OutInv.mk_next | apply CmdInv.mk_commit | apply DirInv.mk_sent | apply DirRoomInv.mk_freeing)
    | exact Kept.congr ‹Kept P _› rfl | assumption | split | (refine OptInv.of_eq (Q := (Kept P)) ‹_ = some _› ?_) | (refine pair_of_eq ‹_ = (_, _)› ?_)
    | (refine pair_of_eq' ‹_ = (_, _)› ?_) | (refine DirInv.of_eq ‹_ = DirStep.sent _› ?_) | (refine DirRoomInv.of_eq ‹_ = DirRoom.freeing _› ?_)
    | dsimp only

theorem moveEnds_inv (hP : Closed P) (s : State) (h : Nat) (h_s : Kept P s) : Kept P (moveEnds s h) := by
  unfold moveEnds
  repeat' first
    | with_reducible (first
        | assumption | intro _ | apply (completeMove_inv hP) | apply ite_inv)
    | exact Kept.congr ‹Kept P _› rfl | assumption | split

theorem execMoveComplete_inv (hP : Closed P) (handle : Nat) (s : State) (h_s : Kept P s) : OutInv P (execMoveComplete handle s) := by
  unfold execMoveComplete
  repeat' first
    | with_reducible (first
        | assumption | intro _ | apply done_inv | apply (moveEnds_inv hP) | apply ite_inv | apply OutInv.mk_next)
    | exact Kept.congr ‹Kept P _› rfl | assumption | split

theorem freeMoved_inv (s : State) (h_s : Kept P s) : Kept P (freeMoved s) := by
  unfold freeMoved
  repeat' first
    | with_reducible (first
        | assumption | intro _)
    | exact True.intro | exact ⟨rfl, rfl⟩
    | with_reducible (first
        | apply removeRegion_inv | apply foldl_bind_inv | apply bind_inv | apply ite_snd | apply ite_inv | apply ite_opt | apply ite_cmd | apply ite_out
        | apply findSome_inv | apply each_inv | apply iter_inv | apply foldl_inv | apply foldl_inv2 | apply getD_inv | apply elim_inv | apply JudgedInv.mk
        | apply JudgedInv.take | apply JudgedInv.discard | apply ite_judged | apply OptInv.mk_some | apply OptInv.mk_none | apply ExcInv.mk_ok
        | apply ExcInv.mk_error | apply OutInv.mk_next | apply CmdInv.mk_commit | apply DirInv.mk_sent | apply DirRoomInv.mk_freeing)
    | exact Kept.congr ‹Kept P _› rfl | assumption | split | dsimp only

theorem retireMap_inv (s : State) (h_s : Kept P s) : Kept P (retireMap s) := by
  unfold retireMap
  repeat' first
    | with_reducible (first
        | assumption | intro _ | apply record_inv | apply freeMoved_inv | apply ite_inv)
    | exact Kept.congr ‹Kept P _› rfl | assumption | split

theorem execMapRetired_inv (s : State) (h_s : Kept P s) : OutInv P (execMapRetired s) := by
  unfold execMapRetired
  repeat' first
    | with_reducible (first
        | assumption | intro _ | apply done_inv | apply retireMap_inv | apply ite_inv | apply OutInv.mk_next)
    | exact Kept.congr ‹Kept P _› rfl | assumption | split

theorem destroyStep_inv (s : State) (h : Nat) (h_s : Kept P s) : Kept P (destroyStep s h) := by
  unfold destroyStep
  repeat' first
    | with_reducible (first
        | assumption | intro _)
    | exact True.intro | exact ⟨rfl, rfl⟩
    | (extract_lets +onlyGivenNames x
       first
       | (refine ((fun (hx : Kept P x) => ?_) ?_) <;> [clear_value x; (revert x; change (Kept P) _)])
       | (refine ((fun (hx : Kept P x.2) => ?_) ?_) <;> [clear_value x; (revert x; change (Kept P) (Prod.snd _))])
       | (have _ := (x : List _); clear_value x)
       | skip)
    | with_reducible (first
        | apply recallAll_inv | apply removeRegion_inv | apply dropHeldOf_inv | apply endDrains_inv | apply foldl_bind_inv | apply bind_inv | apply ite_snd
        | apply ite_inv | apply ite_opt | apply ite_cmd | apply ite_out | apply findSome_inv | apply each_inv | apply iter_inv | apply foldl_inv
        | apply foldl_inv2 | apply getD_inv | apply elim_inv | apply JudgedInv.mk | apply JudgedInv.take | apply JudgedInv.discard | apply ite_judged
        | apply OptInv.mk_some | apply OptInv.mk_none | apply ExcInv.mk_ok | apply ExcInv.mk_error | apply OutInv.mk_next | apply CmdInv.mk_commit
        | apply DirInv.mk_sent | apply DirRoomInv.mk_freeing)
    | exact Kept.congr ‹Kept P _› rfl | assumption | split | (refine OptInv.of_eq (Q := (Kept P)) ‹_ = some _› ?_) | (refine pair_of_eq ‹_ = (_, _)› ?_)
    | (refine pair_of_eq' ‹_ = (_, _)› ?_) | (refine DirInv.of_eq ‹_ = DirStep.sent _› ?_) | (refine DirRoomInv.of_eq ‹_ = DirRoom.freeing _› ?_)
    | dsimp only

theorem slotDrained_inv (hP : Closed P) (s : State) (h : Nat) (slot : Nat) (h_s : Kept P s) : Kept P (slotDrained s h slot) := by
  unfold slotDrained
  repeat' first
    | with_reducible (first
        | assumption | intro _ | apply (mirrorChanges_inv hP) | apply destroyStep_inv | apply endDrains_inv | apply ite_inv)
    | exact Kept.congr ‹Kept P _› rfl | assumption | split

theorem drainSlots_inv (hP : Closed P) (s : State) (h_s : Kept P s) : Kept P (drainSlots s) := by
  unfold drainSlots
  repeat' first
    | with_reducible (first
        | assumption | intro _)
    | exact True.intro | exact ⟨rfl, rfl⟩
    | with_reducible (first
        | apply (slotDrained_inv hP) | apply foldl_bind_inv | apply bind_inv | apply ite_snd | apply ite_inv | apply ite_opt | apply ite_cmd | apply ite_out
        | apply findSome_inv | apply each_inv | apply iter_inv | apply foldl_inv | apply foldl_inv2 | apply getD_inv | apply elim_inv | apply JudgedInv.mk
        | apply JudgedInv.take | apply JudgedInv.discard | apply ite_judged | apply OptInv.mk_some | apply OptInv.mk_none | apply ExcInv.mk_ok
        | apply ExcInv.mk_error | apply OutInv.mk_next | apply CmdInv.mk_commit | apply DirInv.mk_sent | apply DirRoomInv.mk_freeing)
    | exact Kept.congr ‹Kept P _› rfl | assumption | split | dsimp only

theorem execKeyDrained_inv (hP : Closed P) (handle : Nat) (slot : Nat) (s : State) (h_s : Kept P s) : OutInv P (execKeyDrained handle slot s) := by
  unfold execKeyDrained
  repeat' first
    | with_reducible (first
        | assumption | intro _ | apply done_inv | apply (settleAll_inv hP) | apply (slotDrained_inv hP) | apply ite_inv | apply OutInv.mk_next)
    | exact Kept.congr ‹Kept P _› rfl | assumption | split

theorem tableFrees_inv (s : State) (slot : Nat) (h_s : Kept P s) : Kept P (tableFrees s slot) := by
  unfold tableFrees
  repeat' first
    | with_reducible (first
        | assumption | intro _ | apply record_inv | apply endDrains_inv | apply ite_inv)
    | exact Kept.congr ‹Kept P _› rfl | assumption | split

theorem execTableFreed_inv (slot : Nat) (s : State) (h_s : Kept P s) : OutInv P (execTableFreed slot s) := by
  unfold execTableFreed
  repeat' first
    | with_reducible (first
        | assumption | intro _ | apply done_inv | apply tableFrees_inv | apply ite_inv | apply OutInv.mk_next)
    | exact Kept.congr ‹Kept P _› rfl | assumption | split

theorem freeTables_inv (s : State) (h_s : Kept P s) : Kept P (freeTables s) := by
  unfold freeTables
  repeat' first
    | with_reducible (first
        | assumption | intro _)
    | exact True.intro | exact ⟨rfl, rfl⟩
    | with_reducible (first
        | apply tableFrees_inv | apply foldl_bind_inv | apply bind_inv | apply ite_snd | apply ite_inv | apply ite_opt | apply ite_cmd | apply ite_out
        | apply findSome_inv | apply each_inv | apply iter_inv | apply foldl_inv | apply foldl_inv2 | apply getD_inv | apply elim_inv | apply JudgedInv.mk
        | apply JudgedInv.take | apply JudgedInv.discard | apply ite_judged | apply OptInv.mk_some | apply OptInv.mk_none | apply ExcInv.mk_ok
        | apply ExcInv.mk_error | apply OutInv.mk_next | apply CmdInv.mk_commit | apply DirInv.mk_sent | apply DirRoomInv.mk_freeing)
    | exact Kept.congr ‹Kept P _› rfl | assumption | split | dsimp only

end Sys2Proof.Machine
end

