-- ==== Sys2Proof/Laws/KeepsEngines.lean ====
section
/-! SUPPORT. Reduction, gather, winnow, search, the sequencers and engine messages keep every property of the view that memory operations keep: one lemma for each function, citing those of the
functions it calls. A function that does not write memory keeps every property of the view: its lemma asks nothing of the property. -/

namespace Sys2Proof.Machine

set_option linter.all false

variable {P : View → Prop}

/-! ### Reduction -/

theorem retain_inv (s : State) (jobid : Nat) (i : Input) (h_s : Kept P s) : Kept P (retain s jobid i) := by
  unfold retain
  repeat' first
    | with_reducible (first
        | assumption | intro _ | apply updJob_inv | apply updRed_inv | apply ite_inv)
    | exact Kept.congr ‹Kept P _› rfl | assumption | split

theorem takeContrib_inv (s : State) (r : RedJob) (h : EngHdr) (d : List Byte) (h_s : Kept P s) : Kept P (takeContrib s r h d) := by
  unfold takeContrib
  repeat' first
    | with_reducible (first
        | assumption | intro _ | apply retain_inv | apply ite_inv)
    | exact Kept.congr ‹Kept P _› rfl | assumption | split

theorem takePartial_inv (s : State) (r : RedJob) (h : EngHdr) (d : List Byte) (h_s : Kept P s) : Kept P (takePartial s r h d) := by
  unfold takePartial
  repeat' first
    | with_reducible (first
        | assumption | intro _ | apply updRed_inv | apply updJob_inv | apply retain_inv | apply ite_inv)
    | exact Kept.congr ‹Kept P _› rfl | assumption | split

theorem askSources_inv (hP : Closed P) (s : State) (jobid : Nat) (h_s : Kept P s) : Kept P (askSources s jobid) := by
  unfold askSources
  repeat' first
    | with_reducible (first
        | assumption | intro _)
    | exact True.intro | exact ⟨rfl, rfl⟩
    | with_reducible (first
        | apply updRed_inv | apply (issueReads_inv hP) | apply foldl_bind_inv | apply bind_inv | apply ite_snd | apply ite_inv | apply ite_opt | apply ite_cmd
        | apply ite_out | apply findSome_inv | apply each_inv | apply iter_inv | apply foldl_inv | apply foldl_inv2 | apply getD_inv | apply elim_inv
        | apply JudgedInv.mk | apply JudgedInv.take | apply JudgedInv.discard | apply ite_judged | apply OptInv.mk_some | apply OptInv.mk_none
        | apply ExcInv.mk_ok | apply ExcInv.mk_error | apply OutInv.mk_next | apply CmdInv.mk_commit | apply DirInv.mk_sent | apply DirRoomInv.mk_freeing)
    | exact Kept.congr ‹Kept P _› rfl | assumption | split | dsimp only

theorem takeSources_inv (hP : Closed P) (s : State) (jobid : Nat) (h_s : Kept P s) : Kept P (takeSources s jobid) := by
  unfold takeSources
  repeat' first
    | with_reducible (first
        | assumption | intro _)
    | exact True.intro | exact ⟨rfl, rfl⟩
    | with_reducible (first
        | apply takeReads_inv | apply retain_inv | apply (endJob_inv hP) | apply foldl_bind_inv | apply bind_inv | apply ite_snd | apply ite_inv | apply ite_opt
        | apply ite_cmd | apply ite_out | apply findSome_inv | apply each_inv | apply iter_inv | apply foldl_inv | apply foldl_inv2 | apply getD_inv
        | apply elim_inv | apply JudgedInv.mk | apply JudgedInv.take | apply JudgedInv.discard | apply ite_judged | apply OptInv.mk_some
        | apply OptInv.mk_none | apply ExcInv.mk_ok | apply ExcInv.mk_error | apply OutInv.mk_next | apply CmdInv.mk_commit | apply DirInv.mk_sent
        | apply DirRoomInv.mk_freeing)
    | exact Kept.congr ‹Kept P _› rfl | assumption | split | dsimp only

theorem thresherRecord_inv (s : State) (q : Nat) (t : Nat) (code : Nat) (stall : Nat) (p0 : Word) (p1 : Word) (p2 : Word) (p3 : Word) (h_s : Kept P s) : Kept P (thresherRecord s q t code stall p0 p1 p2 p3) := by
  unfold thresherRecord
  repeat' first
    | with_reducible (first
        | assumption | intro _ | apply record_inv | apply ite_inv)
    | exact Kept.congr ‹Kept P _› rfl | assumption | split

theorem chargeThresher_inv (s : State) (q : Nat) (t : Nat) (stall : Nat) (h_s : Kept P s) : Kept P (chargeThresher s q t stall) := by
  unfold chargeThresher
  repeat' first
    | with_reducible (first
        | assumption | intro _ | apply thresherRecord_inv | apply ite_inv)
    | exact Kept.congr ‹Kept P _› rfl | assumption | split

theorem mismatchRecord_inv (s : State) (j : Job) (r : RedJob) (code : Nat) (b : Nat) (ts : List Nat) (who : Nat) (x : Threshed) (y : Threshed) (h_s : Kept P s) : Kept P (mismatchRecord s j r code b ts who x y) := by
  unfold mismatchRecord
  repeat' first
    | with_reducible (first
        | assumption | intro _ | apply thresherRecord_inv | apply ite_inv)
    | exact Kept.congr ‹Kept P _› rfl | assumption | split

theorem decideThird_inv (s : State) (j : Job) (r : RedJob) (depth : Nat) (b : Nat) (ts : List Nat) (x1 : Threshed) (x2 : Threshed) (x3 : Threshed) (h_s : Kept P s) : Kept P (decideThird s j r depth b ts x1 x2 x3).2.2 := by
  unfold decideThird
  repeat' first
    | with_reducible (first
        | assumption | intro _ | apply mismatchRecord_inv | apply chargeThresher_inv | apply ite_inv | apply ite_snd)
    | exact Kept.congr ‹Kept P _› rfl | assumption | split

theorem decided_inv (s : State) (j : Job) (r : RedJob) (depth : Nat) (b : Nat) (h_s : Kept P s) : OptInv (fun (t : Threshed × Annex × State) => (Kept P) (t).2.2) (decided s j r depth b) := by
  unfold decided
  repeat' first
    | with_reducible (first
        | assumption | intro _)
    | exact True.intro | exact ⟨rfl, rfl⟩
    | with_reducible (first
        | apply decideThird_inv | apply foldl_bind_inv | apply bind_inv | apply ite_snd | apply ite_inv | apply ite_opt | apply ite_cmd | apply ite_out
        | apply findSome_inv | apply each_inv | apply iter_inv | apply foldl_inv | apply foldl_inv2 | apply getD_inv | apply elim_inv | apply JudgedInv.mk
        | apply JudgedInv.take | apply JudgedInv.discard | apply ite_judged | apply OptInv.mk_some | apply OptInv.mk_none | apply ExcInv.mk_ok
        | apply ExcInv.mk_error | apply OutInv.mk_next | apply CmdInv.mk_commit | apply DirInv.mk_sent | apply DirRoomInv.mk_freeing)
    | exact Kept.congr ‹Kept P _› rfl | assumption | split | dsimp only

theorem sendCopies_inv (hP : Closed P) (s : State) (j : Job) (r : RedJob) (b : Nat) (fmt : Nat) (parts : List (List Byte)) (h_s : Kept P s) : Kept P (sendCopies s j r b fmt parts) := by
  unfold sendCopies
  repeat' first
    | with_reducible (first
        | assumption | intro _)
    | exact True.intro | exact ⟨rfl, rfl⟩
    | with_reducible (first
        | apply sendEng_inv | apply (lostCopy_inv hP) | apply foldl_bind_inv | apply bind_inv | apply ite_snd | apply ite_inv | apply ite_opt | apply ite_cmd
        | apply ite_out | apply findSome_inv | apply each_inv | apply iter_inv | apply foldl_inv | apply foldl_inv2 | apply getD_inv | apply elim_inv
        | apply JudgedInv.mk | apply JudgedInv.take | apply JudgedInv.discard | apply ite_judged | apply OptInv.mk_some | apply OptInv.mk_none
        | apply ExcInv.mk_ok | apply ExcInv.mk_error | apply OutInv.mk_next | apply CmdInv.mk_commit | apply DirInv.mk_sent | apply DirRoomInv.mk_freeing)
    | exact Kept.congr ‹Kept P _› rfl | assumption | split | dsimp only

theorem sendPartial_inv (s : State) (j : Job) (r : RedJob) (b : Nat) (fmt : Nat) (parts : List (List Byte)) (h_s : Kept P s) : Kept P (sendPartial s j r b fmt parts) := by
  unfold sendPartial
  repeat' first
    | with_reducible (first
        | assumption | intro _)
    | exact True.intro | exact ⟨rfl, rfl⟩
    | with_reducible (first
        | apply sendEng_inv | apply foldl_bind_inv | apply bind_inv | apply ite_snd | apply ite_inv | apply ite_opt | apply ite_cmd | apply ite_out
        | apply findSome_inv | apply each_inv | apply iter_inv | apply foldl_inv | apply foldl_inv2 | apply getD_inv | apply elim_inv | apply JudgedInv.mk
        | apply JudgedInv.take | apply JudgedInv.discard | apply ite_judged | apply OptInv.mk_some | apply OptInv.mk_none | apply ExcInv.mk_ok
        | apply ExcInv.mk_error | apply OutInv.mk_next | apply CmdInv.mk_commit | apply DirInv.mk_sent | apply DirRoomInv.mk_freeing)
    | exact Kept.congr ‹Kept P _› rfl | assumption | split | dsimp only

theorem storeBlock_inv (hP : Closed P) (s : State) (j : Job) (r : RedJob) (b : Nat) (fmt : Nat) (a : Annex) (d : List Byte) (h_s : Kept P s) : Kept P (storeBlock s j r b fmt a d) := by
  unfold storeBlock
  repeat' first
    | with_reducible (first
        | assumption | intro _ | apply (issueStores_inv hP) | apply (issueMasked_inv hP) | apply updRed_inv | apply ite_inv)
    | exact Kept.congr ‹Kept P _› rfl | assumption | split

theorem fitWide_inv (s : State) (j : Job) (r : RedJob) (depth : Nat) (b : Nat) (x : Threshed) (a : Annex) (h_s : Kept P s) : Kept P (fitWide s j r depth b x a).2.2.2 := by
  unfold fitWide
  repeat' first
    | with_reducible (first
        | assumption | intro _)
    | exact True.intro | exact ⟨rfl, rfl⟩
    | with_reducible (first
        | apply engRecord_inv | apply updRed_inv | apply foldl_bind_inv | apply bind_inv | apply ite_snd | apply ite_inv | apply ite_opt | apply ite_cmd
        | apply ite_out | apply findSome_inv | apply each_inv | apply iter_inv | apply foldl_inv | apply foldl_inv2 | apply getD_inv | apply elim_inv
        | apply JudgedInv.mk | apply JudgedInv.take | apply JudgedInv.discard | apply ite_judged | apply OptInv.mk_some | apply OptInv.mk_none
        | apply ExcInv.mk_ok | apply ExcInv.mk_error | apply OutInv.mk_next | apply CmdInv.mk_commit | apply DirInv.mk_sent | apply DirRoomInv.mk_freeing)
    | exact Kept.congr ‹Kept P _› rfl | assumption | split | dsimp only

theorem closeBlock_inv (hP : Closed P) (s : State) (jobid : Nat) (b : Nat) (h_s : Kept P s) : Kept P (closeBlock s jobid b) := by
  unfold closeBlock
  cases jobOf s jobid with
  | none => exact h_s
  | some j =>
    dsimp only
    cases j.body with
    | red r =>
      dsimp only
      generalize (((r.device s.dom.devid).map (·.depth)).getD 0) = depth
      have hd := decided_inv s j r depth b h_s
      revert hd
      cases decided s j r depth b with
      | none => intro _; exact h_s
      | some t =>
        obtain ⟨x, a, u⟩ := t
        intro hu
        have hu : Kept P u := hu
        dsimp only
        have hw : Kept P (if r.root then fitWide u j r depth b x a else (x.fmt, x.bytes, a, u)).2.2.2 := by
          split
          · exact fitWide_inv u j r depth b x a hu
          · exact hu
        revert hw
        generalize (if r.root then fitWide u j r depth b x a else (x.fmt, x.bytes, a, u)) = w
        obtain ⟨fmt, d, a, v⟩ := w
        intro hv
        have hv : Kept P v := hv
        dsimp only
        have hz : ∀ f, (Kept P) (updRed v jobid f) := fun f => updRed_inv v jobid f hv
        generalize blockParts a fmt d = parts
        by_cases hr : r.root = true
        · rw [if_pos hr]
          refine ite_inv (fun _ => ite_inv (fun _ => hz _) (fun _ => (storeBlock_inv hP) _ _ _ _ _ _ _ (hz _)))
            (fun _ => (sendCopies_inv hP) _ _ _ _ _ _ (ite_inv (fun _ => hz _) (fun _ => (storeBlock_inv hP) _ _ _ _ _ _ _ (hz _))))
        · rw [if_neg hr]
          exact sendPartial_inv _ _ _ _ _ _ (hz _)
    | gather _ => exact h_s
    | winnow _ => exact h_s
    | search _ => exact h_s

theorem thresh_inv (hP : Closed P) (jobid : Nat) (c : List (Nat × Nat × Nat × BitVec 32)) (a2 : List Nat) (a3 : Nat) (a4 : Nat) (a5 : State) (h_a5 : Kept P a5) : Kept P (thresh jobid c a2 a3 a4 a5).2.2 := by
  induction a2 generalizing a3 a4 a5 with
  | nil => exact h_a5
  | cons i l ih =>
    unfold thresh
    cases jobOf a5 jobid with
    | none => exact h_a5
    | some j =>
      dsimp only
      cases j.body with
      | red r =>
        dsimp only
        cases r.exec (itemBlock i) (itemNum i) with
        | none => exact ih _ _ _ h_a5
        | some x =>
          dsimp only
          generalize RedJob.runExec r _ _ _ _ _ _ _ _ = w
          obtain ⟨room, most, y⟩ := w
          dsimp only
          exact ih _ _ _ ((closeBlock_inv hP) _ _ _ (updRed_inv _ _ _ h_a5))
      | gather _ => exact h_a5
      | winnow _ => exact h_a5
      | search _ => exact h_a5

theorem takeResult_inv (hP : Closed P) (s : State) (j : Job) (r : RedJob) (h : EngHdr) (d : List Byte) (h_s : Kept P s) : Kept P (takeResult s j r h d) := by
  unfold takeResult
  repeat' first
    | with_reducible (first
        | assumption | intro _ | apply updJob_inv | apply updRed_inv | apply (sendCopies_inv hP) | apply ite_inv)
    | exact Kept.congr ‹Kept P _› rfl | assumption | split

theorem jobTimeout_inv (hP : Closed P) (s : State) (jobid : Nat) (h_s : Kept P s) : Kept P (jobTimeout s jobid) := by
  unfold jobTimeout
  repeat' first
    | with_reducible (first
        | assumption | intro _ | apply engRecord_inv | apply (endJob_inv hP) | apply ite_inv)
    | exact Kept.congr ‹Kept P _› rfl | assumption | split

/-! ### GatherWinnow -/

theorem askIndex_inv (hP : Closed P) (s : State) (j : Job) (r : GatherJob) (first : Nat) (n : Nat) (h_s : Kept P s) : Kept P (askIndex s j r first n) := by
  unfold askIndex
  repeat' first
    | with_reducible (first
        | assumption | intro _ | apply (issueReads_inv hP) | apply ite_inv)
    | exact Kept.congr ‹Kept P _› rfl | assumption | split

theorem deliverRow_inv (hP : Closed P) (s : State) (j : Job) (r : GatherJob) (i : Nat) (row : Nat) (d : List Byte) (h_s : Kept P s) : Kept P (deliverRow s j r i row d).2 := by
  unfold deliverRow
  repeat' first
    | with_reducible (first
        | assumption | intro _)
    | exact True.intro | exact ⟨rfl, rfl⟩
    | with_reducible (first
        | apply updGather_inv | apply (issueStores_inv hP) | apply sendEng_inv | apply updJob_inv | apply updWinnow_inv | apply foldl_bind_inv | apply bind_inv
        | apply ite_snd | apply ite_inv | apply ite_opt | apply ite_cmd | apply ite_out | apply findSome_inv | apply each_inv | apply iter_inv
        | apply foldl_inv | apply foldl_inv2 | apply getD_inv | apply elim_inv | apply JudgedInv.mk | apply JudgedInv.take | apply JudgedInv.discard
        | apply ite_judged | apply OptInv.mk_some | apply OptInv.mk_none | apply ExcInv.mk_ok | apply ExcInv.mk_error | apply OutInv.mk_next
        | apply CmdInv.mk_commit | apply DirInv.mk_sent | apply DirRoomInv.mk_freeing)
    | exact Kept.congr ‹Kept P _› rfl | assumption | split | dsimp only

theorem zeroRow_inv (hP : Closed P) (s : State) (j : Job) (r : GatherJob) (i : Nat) (h_s : Kept P s) : Kept P (zeroRow s j r i) := by
  unfold zeroRow
  repeat' first
    | with_reducible (first
        | assumption | intro _ | apply (issueStores_inv hP) | apply ite_inv)
    | exact Kept.congr ‹Kept P _› rfl | assumption | split

theorem badRow_inv (hP : Closed P) (s : State) (j : Job) (i : Nat) (status : Nat) (seq : Word) (h_s : Kept P s) : Kept P (badRow s j i status seq) := by
  unfold badRow
  repeat' first
    | with_reducible (first
        | assumption | intro _ | apply engRecord_inv | apply (zeroRow_inv hP) | apply updGather_inv | apply ite_inv)
    | exact Kept.congr ‹Kept P _› rfl | assumption | split

theorem takeEntry_inv (hP : Closed P) (s : State) (jobid : Nat) (g : Nat) (i : Nat) (h_s : Kept P s) : Kept P (takeEntry s jobid g i).2 := by
  unfold takeEntry
  repeat' first
    | with_reducible (first
        | assumption | intro _ | apply updGather_inv | apply (endJob_inv hP) | apply (zeroRow_inv hP) | apply (issueReads_inv hP) | apply ite_inv | apply ite_snd)
    | exact Kept.congr ‹Kept P _› rfl | assumption | split

theorem takeEntriesOf_inv (hP : Closed P) (jobid g : Nat) (l : List Nat) (s : State) (h_s : Kept P s) : Kept P (takeEntriesOf jobid g l s).2 := by
  induction l generalizing s with
  | nil => exact h_s
  | cons i l ih =>
    have h := (takeEntry_inv hP) s jobid g i h_s
    unfold takeEntriesOf
    generalize takeEntry s jobid g i = p at h ⊢
    obtain ⟨ok, t⟩ := p
    have h2 := ih t h
    dsimp only
    split
    · exact h2
    · exact h_s

theorem rowRead_inv (hP : Closed P) (s : State) (jobid : Nat) (row : Nat) (h_s : Kept P s) : Kept P (rowRead s jobid row) := by
  unfold rowRead
  repeat' first
    | with_reducible (first
        | assumption | intro _)
    | exact True.intro | exact ⟨rfl, rfl⟩
    | (extract_lets +onlyGivenNames x
       first
       | (refine ((fun (hx : Kept P x) => ?_) ?_) <;> [clear_value x; (revert x; change (Kept P) _)])
       | (refine ((fun (hx : Kept P x.2) => ?_) ?_) <;> [clear_value x; (revert x; change (Kept P) (Prod.snd _))])
       | (have _ := (x : List _); clear_value x)
       | skip)
    | with_reducible (first
        | apply takeReads_inv | apply updGather_inv | apply updJob_inv | apply (deliverRow_inv hP) | apply (badRow_inv hP) | apply (endJob_inv hP) | apply foldl_bind_inv
        | apply bind_inv | apply ite_snd | apply ite_inv | apply ite_opt | apply ite_cmd | apply ite_out | apply findSome_inv | apply each_inv
        | apply iter_inv | apply foldl_inv | apply foldl_inv2 | apply getD_inv | apply elim_inv | apply JudgedInv.mk | apply JudgedInv.take
        | apply JudgedInv.discard | apply ite_judged | apply OptInv.mk_some | apply OptInv.mk_none | apply ExcInv.mk_ok | apply ExcInv.mk_error
        | apply OutInv.mk_next | apply CmdInv.mk_commit | apply DirInv.mk_sent | apply DirRoomInv.mk_freeing)
    | exact Kept.congr ‹Kept P _› rfl | assumption | split | (refine OptInv.of_eq (Q := (Kept P)) ‹_ = some _› ?_) | (refine pair_of_eq ‹_ = (_, _)› ?_)
    | (refine pair_of_eq' ‹_ = (_, _)› ?_) | (refine DirInv.of_eq ‹_ = DirStep.sent _› ?_) | (refine DirRoomInv.of_eq ‹_ = DirRoom.freeing _› ?_)
    | dsimp only

theorem takeIndex_inv (hP : Closed P) (s : State) (jobid : Nat) (h_s : Kept P s) : Kept P (takeIndex s jobid) := by
  unfold takeIndex
  repeat' first
    | with_reducible (first
        | assumption | intro _)
    | exact True.intro | exact ⟨rfl, rfl⟩
    | (extract_lets +onlyGivenNames x
       first
       | (refine ((fun (hx : Kept P x) => ?_) ?_) <;> [clear_value x; (revert x; change (Kept P) _)])
       | (refine ((fun (hx : Kept P x.2) => ?_) ?_) <;> [clear_value x; (revert x; change (Kept P) (Prod.snd _))])
       | (have _ := (x : List _); clear_value x)
       | skip)
    | with_reducible (first
        | apply takeReads_inv | apply updGather_inv | apply (endJob_inv hP) | apply foldl_bind_inv | apply bind_inv | apply ite_snd | apply ite_inv | apply ite_opt
        | apply ite_cmd | apply ite_out | apply findSome_inv | apply each_inv | apply iter_inv | apply foldl_inv | apply foldl_inv2 | apply getD_inv
        | apply elim_inv | apply JudgedInv.mk | apply JudgedInv.take | apply JudgedInv.discard | apply ite_judged | apply OptInv.mk_some
        | apply OptInv.mk_none | apply ExcInv.mk_ok | apply ExcInv.mk_error | apply OutInv.mk_next | apply CmdInv.mk_commit | apply DirInv.mk_sent
        | apply DirRoomInv.mk_freeing)
    | exact Kept.congr ‹Kept P _› rfl | assumption | split | (refine OptInv.of_eq (Q := (Kept P)) ‹_ = some _› ?_) | (refine pair_of_eq ‹_ = (_, _)› ?_)
    | (refine pair_of_eq' ‹_ = (_, _)› ?_) | (refine DirInv.of_eq ‹_ = DirStep.sent _› ?_) | (refine DirRoomInv.of_eq ‹_ = DirRoom.freeing _› ?_)
    | dsimp only

theorem storeBytes_inv (hP : Closed P) (s : State) (j : Job) (h : Nat) (key : Word) (off : Nat) (d : List Byte) (h_s : Kept P s) : Kept P (storeBytes s j h key off d) := by
  unfold storeBytes
  repeat' first
    | with_reducible (first
        | assumption | intro _ | apply (issueStores_inv hP) | apply (issueMasked_inv hP) | apply ite_inv)
    | exact Kept.congr ‹Kept P _› rfl | assumption | split

theorem sendSlot_inv (s : State) (j : Job) (p : Nat) (b : Nat) (d : List Byte) (h_s : Kept P s) : Kept P (sendSlot s j p b d) := by
  unfold sendSlot
  repeat' first
    | with_reducible (first
        | assumption | intro _)
    | exact True.intro | exact ⟨rfl, rfl⟩
    | with_reducible (first
        | apply sendEng_inv | apply foldl_bind_inv | apply bind_inv | apply ite_snd | apply ite_inv | apply ite_opt | apply ite_cmd | apply ite_out
        | apply findSome_inv | apply each_inv | apply iter_inv | apply foldl_inv | apply foldl_inv2 | apply getD_inv | apply elim_inv | apply JudgedInv.mk
        | apply JudgedInv.take | apply JudgedInv.discard | apply ite_judged | apply OptInv.mk_some | apply OptInv.mk_none | apply ExcInv.mk_ok
        | apply ExcInv.mk_error | apply OutInv.mk_next | apply CmdInv.mk_commit | apply DirInv.mk_sent | apply DirRoomInv.mk_freeing)
    | exact Kept.congr ‹Kept P _› rfl | assumption | split | dsimp only

theorem sparseBlock_inv (hP : Closed P) (s : State) (j : Job) (w : WinnowJob) (b : Nat) (d : List Byte) (resid : List Byte) (h_s : Kept P s) : Kept P (sparseBlock s j w b d resid) := by
  unfold sparseBlock
  repeat' first
    | with_reducible (first
        | assumption | intro _ | apply (issueStores_inv hP) | apply updWinnow_inv | apply sendSlot_inv | apply ite_inv)
    | exact Kept.congr ‹Kept P _› rfl | assumption | split

theorem sendEntries_inv (s : State) (j : Job) (p : Nat) (opc : Nat) (h : Nat → EngHdr) (l : List Entry) (h_s : Kept P s) : Kept P (sendEntries s j p opc h l) := by
  unfold sendEntries
  repeat' first
    | with_reducible (first
        | assumption | intro _)
    | exact True.intro | exact ⟨rfl, rfl⟩
    | with_reducible (first
        | apply sendEng_inv | apply foldl_bind_inv | apply bind_inv | apply ite_snd | apply ite_inv | apply ite_opt | apply ite_cmd | apply ite_out
        | apply findSome_inv | apply each_inv | apply iter_inv | apply foldl_inv | apply foldl_inv2 | apply getD_inv | apply elim_inv | apply JudgedInv.mk
        | apply JudgedInv.take | apply JudgedInv.discard | apply ite_judged | apply OptInv.mk_some | apply OptInv.mk_none | apply ExcInv.mk_ok
        | apply ExcInv.mk_error | apply OutInv.mk_next | apply CmdInv.mk_commit | apply DirInv.mk_sent | apply DirRoomInv.mk_freeing)
    | exact Kept.congr ‹Kept P _› rfl | assumption | split | dsimp only

theorem winnowOut_inv (hP : Closed P) (s : State) (j : Job) (w : WinnowJob) (h_s : Kept P s) : Kept P (winnowOut s j w) := by
  unfold winnowOut
  repeat' first
    | with_reducible (first
        | assumption | intro _ | apply updWinnow_inv | apply (storeBytes_inv hP) | apply sendEntries_inv | apply ite_inv)
    | exact Kept.congr ‹Kept P _› rfl | assumption | split

theorem askRecords_inv (hP : Closed P) (s : State) (j : Job) (w : WinnowJob) (first : Nat) (n : Nat) (h_s : Kept P s) : Kept P (askRecords s j w first n) := by
  unfold askRecords
  repeat' first
    | with_reducible (first
        | assumption | intro _)
    | exact True.intro | exact ⟨rfl, rfl⟩
    | with_reducible (first
        | apply (issueReads_inv hP) | apply foldl_bind_inv | apply bind_inv | apply ite_snd | apply ite_inv | apply ite_opt | apply ite_cmd | apply ite_out
        | apply findSome_inv | apply each_inv | apply iter_inv | apply foldl_inv | apply foldl_inv2 | apply getD_inv | apply elim_inv | apply JudgedInv.mk
        | apply JudgedInv.take | apply JudgedInv.discard | apply ite_judged | apply OptInv.mk_some | apply OptInv.mk_none | apply ExcInv.mk_ok
        | apply ExcInv.mk_error | apply OutInv.mk_next | apply CmdInv.mk_commit | apply DirInv.mk_sent | apply DirRoomInv.mk_freeing)
    | exact Kept.congr ‹Kept P _› rfl | assumption | split | dsimp only

theorem askMatrix_inv (hP : Closed P) (s : State) (j : Job) (w : WinnowJob) (h_s : Kept P s) : Kept P (askMatrix s j w) := by
  unfold askMatrix
  repeat' first
    | with_reducible (first
        | assumption | intro _ | apply (issueReads_inv hP) | apply ite_inv)
    | exact Kept.congr ‹Kept P _› rfl | assumption | split

theorem takeRecords_inv (hP : Closed P) (s : State) (jobid : Nat) (h_s : Kept P s) : Kept P (takeRecords s jobid) := by
  unfold takeRecords
  repeat' first
    | with_reducible (first
        | assumption | intro _)
    | exact True.intro | exact ⟨rfl, rfl⟩
    | (extract_lets +onlyGivenNames x
       first
       | (refine ((fun (hx : Kept P x) => ?_) ?_) <;> [clear_value x; (revert x; change (Kept P) _)])
       | (refine ((fun (hx : Kept P x.2) => ?_) ?_) <;> [clear_value x; (revert x; change (Kept P) (Prod.snd _))])
       | (have _ := (x : List _); clear_value x)
       | skip)
    | with_reducible (first
        | apply takeReads_inv | apply updJob_inv | apply updWinnow_inv | apply (endJob_inv hP) | apply foldl_bind_inv | apply bind_inv | apply ite_snd
        | apply ite_inv | apply ite_opt | apply ite_cmd | apply ite_out | apply findSome_inv | apply each_inv | apply iter_inv | apply foldl_inv
        | apply foldl_inv2 | apply getD_inv | apply elim_inv | apply JudgedInv.mk | apply JudgedInv.take | apply JudgedInv.discard | apply ite_judged
        | apply OptInv.mk_some | apply OptInv.mk_none | apply ExcInv.mk_ok | apply ExcInv.mk_error | apply OutInv.mk_next | apply CmdInv.mk_commit
        | apply DirInv.mk_sent | apply DirRoomInv.mk_freeing)
    | exact Kept.congr ‹Kept P _› rfl | assumption | split | (refine OptInv.of_eq (Q := (Kept P)) ‹_ = some _› ?_) | (refine pair_of_eq ‹_ = (_, _)› ?_)
    | (refine pair_of_eq' ‹_ = (_, _)› ?_) | (refine DirInv.of_eq ‹_ = DirStep.sent _› ?_) | (refine DirRoomInv.of_eq ‹_ = DirRoom.freeing _› ?_)
    | dsimp only

theorem winnowItem_inv (hP : Closed P) (s : State) (jobid : Nat) (i : Nat) (h_s : Kept P s) : Kept P (winnowItem s jobid i).2 := by
  unfold winnowItem
  repeat' first
    | with_reducible (first
        | assumption | intro _ | apply (sparseBlock_inv hP) | apply updWinnow_inv | apply ite_inv | apply ite_snd)
    | exact Kept.congr ‹Kept P _› rfl | assumption | split

theorem winnowItems_inv (hP : Closed P) (jobid : Nat) (l : List Nat) (s : State) (h_s : Kept P s) : Kept P (winnowItems jobid l s).2 := by
  induction l generalizing s with
  | nil => exact h_s
  | cons i l ih =>
    have h := (winnowItem_inv hP) s jobid i h_s
    unfold winnowItems
    generalize winnowItem s jobid i = p at h ⊢
    obtain ⟨ok, t⟩ := p
    have h2 := ih t h
    dsimp only
    split
    · exact h2
    · exact h_s

theorem takeList_inv (s : State) (h : EngHdr) (d : List Byte) (h_s : Kept P s) : Kept P (takeList s h d) := by
  unfold takeList
  repeat' first
    | with_reducible (first
        | assumption | intro _ | apply updJob_inv | apply updWinnow_inv | apply ite_inv)
    | exact Kept.congr ‹Kept P _› rfl | assumption | split

theorem wjobTimeout_inv (hP : Closed P) (s : State) (jobid : Nat) (h_s : Kept P s) : Kept P (wjobTimeout s jobid) := by
  unfold wjobTimeout
  repeat' first
    | with_reducible (first
        | assumption | intro _ | apply engRecord_inv | apply (endJob_inv hP) | apply ite_inv)
    | exact Kept.congr ‹Kept P _› rfl | assumption | split

/-! ### Search -/

theorem updQuery_inv (s : State) (n : Nat) (jobid : Nat) (query : Nat) (f : ShardQuery → ShardQuery) (h_s : Kept P s) : Kept P (updQuery s n jobid query f) := by
  unfold updQuery
  repeat' first
    | with_reducible (first
        | assumption | intro _ | apply updIndex_inv | apply ite_inv)
    | exact Kept.congr ‹Kept P _› rfl | assumption | split

theorem freeOld_inv (hP : Closed P) (s : State) (n : Nat) (h_s : Kept P s) : Kept P (freeOld s n) := by
  unfold freeOld
  repeat' first
    | with_reducible (first
        | assumption | intro _)
    | exact True.intro | exact ⟨rfl, rfl⟩
    | with_reducible (first
        | apply (putMeta_inv hP) | apply updIndex_inv | apply foldl_bind_inv | apply bind_inv | apply ite_snd | apply ite_inv | apply ite_opt | apply ite_cmd
        | apply ite_out | apply findSome_inv | apply each_inv | apply iter_inv | apply foldl_inv | apply foldl_inv2 | apply getD_inv | apply elim_inv
        | apply JudgedInv.mk | apply JudgedInv.take | apply JudgedInv.discard | apply ite_judged | apply OptInv.mk_some | apply OptInv.mk_none
        | apply ExcInv.mk_ok | apply ExcInv.mk_error | apply OutInv.mk_next | apply CmdInv.mk_commit | apply DirInv.mk_sent | apply DirRoomInv.mk_freeing)
    | exact Kept.congr ‹Kept P _› rfl | assumption | split | dsimp only

theorem dropQuery_inv (hP : Closed P) (s : State) (n : Nat) (jobid : Nat) (query : Nat) (h_s : Kept P s) : Kept P (dropQuery s n jobid query) := by
  unfold dropQuery
  repeat' first
    | with_reducible (first
        | assumption | intro _ | apply (freeOld_inv hP) | apply updIndex_inv | apply ite_inv)
    | exact Kept.congr ‹Kept P _› rfl | assumption | split

theorem deliverQuery_inv (hP : Closed P) (s : State) (j : Job) (r : SearchJob) (m : Merge) (h_s : Kept P s) : Kept P (deliverQuery s j r m) := by
  unfold deliverQuery
  repeat' first
    | with_reducible (first
        | assumption | intro _)
    | exact True.intro | exact ⟨rfl, rfl⟩
    | with_reducible (first
        | apply (storeBytes_inv hP) | apply sendEng_inv | apply foldl_bind_inv | apply bind_inv | apply ite_snd | apply ite_inv | apply ite_opt | apply ite_cmd
        | apply ite_out | apply findSome_inv | apply each_inv | apply iter_inv | apply foldl_inv | apply foldl_inv2 | apply getD_inv | apply elim_inv
        | apply JudgedInv.mk | apply JudgedInv.take | apply JudgedInv.discard | apply ite_judged | apply OptInv.mk_some | apply OptInv.mk_none
        | apply ExcInv.mk_ok | apply ExcInv.mk_error | apply OutInv.mk_next | apply CmdInv.mk_commit | apply DirInv.mk_sent | apply DirRoomInv.mk_freeing)
    | exact Kept.congr ‹Kept P _› rfl | assumption | split | dsimp only

theorem deliverReady_inv (hP : Closed P) (s : State) (jobid : Nat) (h_s : Kept P s) : Kept P (deliverReady s jobid) := by
  unfold deliverReady
  repeat' first
    | with_reducible (first
        | assumption | intro _)
    | exact True.intro | exact ⟨rfl, rfl⟩
    | with_reducible (first
        | apply (deliverQuery_inv hP) | apply updSearch_inv | apply foldl_bind_inv | apply bind_inv | apply ite_snd | apply ite_inv | apply ite_opt | apply ite_cmd
        | apply ite_out | apply findSome_inv | apply each_inv | apply iter_inv | apply foldl_inv | apply foldl_inv2 | apply getD_inv | apply elim_inv
        | apply JudgedInv.mk | apply JudgedInv.take | apply JudgedInv.discard | apply ite_judged | apply OptInv.mk_some | apply OptInv.mk_none
        | apply ExcInv.mk_ok | apply ExcInv.mk_error | apply OutInv.mk_next | apply CmdInv.mk_commit | apply DirInv.mk_sent | apply DirRoomInv.mk_freeing)
    | exact Kept.congr ‹Kept P _› rfl | assumption | split | dsimp only

theorem takeAtRoot_inv (hP : Closed P) (s : State) (jobid : Nat) (query : Nat) (rank : Nat) (d : List Byte) (h_s : Kept P s) : Kept P (takeAtRoot s jobid query rank d) := by
  unfold takeAtRoot
  repeat' first
    | with_reducible (first
        | assumption | intro _ | apply (deliverReady_inv hP) | apply updSearch_inv | apply ite_inv)
    | exact Kept.congr ‹Kept P _› rfl | assumption | split

theorem sendShard_inv (s : State) (x : Index) (q : ShardQuery) (dev : Nat) (opc : Nat) (h : EngHdr) (d : List Byte) (h_s : Kept P s) : Kept P (sendShard s x q dev opc h d) := by
  unfold sendShard
  repeat' first
    | with_reducible (first
        | assumption | intro _ | apply send_inv | apply ite_inv)
    | exact Kept.congr ‹Kept P _› rfl | assumption | split

theorem sendUp_inv (hP : Closed P) (s : State) (n : Nat) (jobid : Nat) (query : Nat) (h_s : Kept P s) : Kept P (sendUp s n jobid query) := by
  unfold sendUp
  repeat' first
    | with_reducible (first
        | assumption | intro _)
    | exact True.intro | exact ⟨rfl, rfl⟩
    | with_reducible (first
        | apply (dropQuery_inv hP) | apply (takeAtRoot_inv hP) | apply sendShard_inv | apply foldl_bind_inv | apply bind_inv | apply ite_snd | apply ite_inv
        | apply ite_opt | apply ite_cmd | apply ite_out | apply findSome_inv | apply each_inv | apply iter_inv | apply foldl_inv | apply foldl_inv2
        | apply getD_inv | apply elim_inv | apply JudgedInv.mk | apply JudgedInv.take | apply JudgedInv.discard | apply ite_judged | apply OptInv.mk_some
        | apply OptInv.mk_none | apply ExcInv.mk_ok | apply ExcInv.mk_error | apply OutInv.mk_next | apply CmdInv.mk_commit | apply DirInv.mk_sent
        | apply DirRoomInv.mk_freeing)
    | exact Kept.congr ‹Kept P _› rfl | assumption | split | dsimp only

theorem ownList_inv (hP : Closed P) (s : State) (x : Index) (q : ShardQuery) (sum : Summary) (es : List Entry) (h_s : Kept P s) : Kept P (ownList s x q sum es) := by
  unfold ownList
  repeat' first
    | with_reducible (first
        | assumption | intro _ | apply updQuery_inv | apply (sendUp_inv hP) | apply held_inv | apply ite_inv)
    | exact Kept.congr ‹Kept P _› rfl | assumption | split

theorem failList_inv (hP : Closed P) (s : State) (x : Index) (q : ShardQuery) (status : Nat) (h_s : Kept P s) : Kept P (failList s x q status) := by
  unfold failList
  repeat' first
    | with_reducible (first
        | assumption | intro _ | apply (ownList_inv hP) | apply ite_inv)
    | exact Kept.congr ‹Kept P _› rfl | assumption | split

theorem meterMacs_inv (s : State) (comp : Nat) (n : Nat) (h_s : Kept P s) : Kept P (meterMacs s comp n) := by
  unfold meterMacs
  repeat' first
    | with_reducible (first
        | assumption | intro _ | apply meter_inv | apply ite_inv)
    | exact Kept.congr ‹Kept P _› rfl | assumption | split

theorem startQuery_inv (hP : Closed P) (s : State) (x : Index) (q : ShardQuery) (h_s : Kept P s) : Kept P (startQuery s x q) := by
  unfold startQuery
  repeat' first
    | with_reducible (first
        | assumption | intro _ | apply (askNeeds_inv hP) | apply updQuery_inv | apply ite_inv)
    | exact Kept.congr ‹Kept P _› rfl | assumption | split

theorem buildTables_inv (hP : Closed P) (s : State) (x : Index) (q : ShardQuery) (n : Nat) (room : Nat) (h_s : Kept P s) : Kept P (buildTables s x q n room).2 := by
  unfold buildTables
  repeat' first
    | with_reducible (first
        | assumption | intro _ | apply (askNeeds_inv hP) | apply meterMacs_inv | apply updQuery_inv | apply ite_inv | apply ite_snd)
    | exact Kept.congr ‹Kept P _› rfl | assumption | split

theorem updProbe_inv (s : State) (x : Index) (q : ShardQuery) (i : Nat) (f : Probe → Probe) (h_s : Kept P s) : Kept P (updProbe s x q i f) := by
  unfold updProbe
  repeat' first
    | with_reducible (first
        | assumption | intro _ | apply updQuery_inv | apply ite_inv)
    | exact Kept.congr ‹Kept P _› rfl | assumption | split

theorem endProbe_inv (s : State) (x : Index) (q : ShardQuery) (i : Nat) (n : Nat) (h_s : Kept P s) : Kept P (endProbe s x q i n) := by
  unfold endProbe
  repeat' first
    | with_reducible (first
        | assumption | intro _ | apply updQuery_inv | apply updProbe_inv | apply ite_inv)
    | exact Kept.congr ‹Kept P _› rfl | assumption | split

theorem pageDone_inv (s : State) (x : Index) (q : ShardQuery) (i : Nat) (r : Probe) (page : Nat) (hbm : Bool) (g : PageScan) (h_s : Kept P s) : Kept P (pageDone s x q i r page hbm g) := by
  unfold pageDone
  repeat' first
    | with_reducible (first
        | assumption | intro _ | apply engRecord_inv | apply meter_inv | apply updQuery_inv | apply updProbe_inv | apply ite_inv)
    | exact Kept.congr ‹Kept P _› rfl | assumption | split

theorem scanProbe_inv (hP : Closed P) (n jobid query i a4 a5 a6 : Nat) (a7 : State) (h_a7 : Kept P a7) : Kept P (scanProbe n jobid query i a4 a5 a6 a7).2.2 := by
  induction a4 generalizing a5 a6 a7 with
  | zero => exact h_a7
  | succ fuel ih =>
    unfold scanProbe
    cases indexAt a7 n with
    | none => exact h_a7
    | some x =>
      cases queryAt a7 jobid query with
      | none => exact h_a7
      | some y =>
        obtain ⟨k, q⟩ := y
        dsimp only
        cases q.scans[i]? with
        | none => exact h_a7
        | some r =>
          dsimp only
          cases partAt x r.part with
          | none => exact h_a7
          | some p =>
            cases q.tablesIn r.quarter with
            | none => exact h_a7
            | some t =>
              dsimp only
              by_cases he : r.ended = true
              · rw [if_pos he]; exact h_a7
              rw [if_neg he]
              cases nextPage a7 x q r p with
              | none => exact endProbe_inv _ _ _ _ _ h_a7
              | some page =>
                dsimp only
                generalize scanNeeds a7 x p page = needs
                by_cases hm : (!(missingNeeds a7 needs).isEmpty) = true
                · rw [if_pos hm]; exact (askNeeds_inv hP) _ _ h_a7
                rw [if_neg hm]
                have hu : Kept P (readThrough a7 needs.flatten) := (readThrough_inv hP) _ _ h_a7
                revert hu
                generalize readThrough a7 needs.flatten = u
                intro hu
                generalize scanPage u x q t r p page _ = g
                by_cases hc : a5 < ceilDiv g.count (scanRate x t.hbm) ∨ a6 = 0
                · rw [if_pos hc]; exact hu
                rw [if_neg hc]
                exact ih _ _ _ (pageDone_inv _ _ _ _ _ _ _ _ hu)

theorem endQuery_inv (hP : Closed P) (s : State) (x : Index) (q : ShardQuery) (best : List Found) (ev : Nat) (tomb : Nat) (h_s : Kept P s) : Kept P (endQuery s x q best ev tomb) := by
  unfold endQuery
  repeat' first
    | with_reducible (first
        | assumption | intro _ | apply (ownList_inv hP) | apply ite_inv)
    | exact Kept.congr ‹Kept P _› rfl | assumption | split

theorem mergeQuery_inv (hP : Closed P) (s : State) (x : Index) (q : ShardQuery) (room : Nat) (h_s : Kept P s) : Kept P (mergeQuery s x q room).2 := by
  unfold mergeQuery
  repeat' first
    | with_reducible (first
        | assumption | intro _ | apply updQuery_inv | apply (endQuery_inv hP) | apply ite_inv | apply ite_snd)
    | exact Kept.congr ‹Kept P _› rfl | assumption | split

theorem refineQuery_inv (hP : Closed P) (n jobid query a3 a4 a5 : Nat) (a6 : State) (h_a6 : Kept P a6) : Kept P (refineQuery n jobid query a3 a4 a5 a6).2.2 := by
  induction a3 generalizing a4 a5 a6 with
  | zero => exact h_a6
  | succ fuel ih =>
    unfold refineQuery
    cases indexAt a6 n with
    | none => exact h_a6
    | some x =>
      cases queryAt a6 jobid query with
      | none => exact h_a6
      | some y =>
        obtain ⟨k, q⟩ := y
        dsimp only
        by_cases hm : (!q.merged) = true ∨ q.own = true
        · rw [if_pos hm]; exact h_a6
        rw [if_neg hm]
        by_cases hr : (!q.refine.isEmpty) = true
        · rw [if_pos hr]
          generalize (fun (z : ShardQuery) => ({ z with refine := _, refined := _ } : ShardQuery)) = f
          by_cases h1 : (!(missingNeeds a6 [vecNeeds x (List.map (fun x => x.slot) (List.take (refineGroup x) q.refine))]).isEmpty) = true
          · rw [if_pos h1]; exact (askNeeds_inv hP) _ _ h_a6
          rw [if_neg h1]
          by_cases h2 : a4 < refineCost x ∨ a5 = 0
          · rw [if_pos h2]; exact h_a6
          rw [if_neg h2]
          exact ih _ _ _ (updQuery_inv _ _ _ _ _ (meterMacs_inv _ _ _ ((readThrough_inv hP) _ _ h_a6)))
        rw [if_neg hr]
        by_cases hn : q.entry = 0
        · rw [if_pos hn]; exact (endQuery_inv hP) _ _ _ _ _ _ h_a6
        rw [if_neg hn]
        cases walkNext q (q.walk.getD (walkStart q)) with
        | none => exact (endQuery_inv hP) _ _ _ _ _ _ h_a6
        | some b =>
          dsimp only
          generalize walkExpand a6 x q _ _ b = w'
          by_cases h1 : (!(missingNeeds a6 (walkNeeds a6 x b)).isEmpty) = true
          · rw [if_pos h1]; exact (askNeeds_inv hP) _ _ h_a6
          rw [if_neg h1]
          by_cases h2 : a4 < refineCost x ∨ a5 = 0
          · rw [if_pos h2]; exact h_a6
          rw [if_neg h2]
          exact ih _ _ _ (updQuery_inv _ _ _ _ _ (meterMacs_inv _ _ _ ((readThrough_inv hP) _ _ h_a6)))

theorem discardQuery_inv (s : State) (q : Nat) (n : Nat) (h : EngHdr) (cause : Nat) (h_s : Kept P s) : Kept P (discardQuery s q n h cause) := by
  unfold discardQuery
  repeat' first
    | with_reducible (first
        | assumption | intro _ | apply recordRate_inv | apply ite_inv)
    | exact Kept.congr ‹Kept P _› rfl | assumption | split

theorem takeQuery_inv (hP : Closed P) (s : State) (h : EngHdr) (d : List Byte) (h_s : Kept P s) : Kept P (takeQuery s h d) := by
  unfold takeQuery
  repeat' first
    | with_reducible (first
        | assumption | intro _ | apply updIndex_inv | apply (failList_inv hP) | apply ite_inv)
    | exact Kept.congr ‹Kept P _› rfl | assumption | split

theorem holdExpiry_inv (hP : Closed P) (s : State) (n : Nat) (jobid : Nat) (query : Nat) (h_s : Kept P s) : Kept P (holdExpiry s n jobid query) := by
  unfold holdExpiry
  repeat' first
    | with_reducible (first
        | assumption | intro _ | apply (failList_inv hP) | apply ite_inv)
    | exact Kept.congr ‹Kept P _› rfl | assumption | split

theorem releaseHeld_inv (s : State) (h_s : Kept P s) : Kept P (releaseHeld s) := by
  unfold releaseHeld
  repeat' first
    | with_reducible (first
        | assumption | intro _ | apply held_inv | apply ite_inv)
    | exact Kept.congr ‹Kept P _› rfl | assumption | split

theorem takeSearchPart_inv (hP : Closed P) (s : State) (h : EngHdr) (d : List Byte) (h_s : Kept P s) : Kept P (takeSearchPart s h d) := by
  unfold takeSearchPart
  repeat' first
    | with_reducible (first
        | assumption | intro _ | apply updQuery_inv | apply (sendUp_inv hP) | apply (takeAtRoot_inv hP) | apply ite_inv)
    | exact Kept.congr ‹Kept P _› rfl | assumption | split

theorem shardTimeout_inv (hP : Closed P) (s : State) (jobid : Nat) (query : Nat) (rank : Nat) (h_s : Kept P s) : Kept P (shardTimeout s jobid query rank) := by
  unfold shardTimeout
  repeat' first
    | with_reducible (first
        | assumption | intro _ | apply engRecord_inv | apply (deliverReady_inv hP) | apply updSearch_inv | apply ite_inv)
    | exact Kept.congr ‹Kept P _› rfl | assumption | split

theorem askQueries_inv (hP : Closed P) (s : State) (j : Job) (r : SearchJob) (h_s : Kept P s) : Kept P (askQueries s j r) := by
  unfold askQueries
  repeat' first
    | with_reducible (first
        | assumption | intro _ | apply (issueReads_inv hP) | apply ite_inv)
    | exact Kept.congr ‹Kept P _› rfl | assumption | split

theorem takeQueries_inv (hP : Closed P) (s : State) (jobid : Nat) (h_s : Kept P s) : Kept P (takeQueries s jobid) := by
  unfold takeQueries
  repeat' first
    | with_reducible (first
        | assumption | intro _)
    | exact True.intro | exact ⟨rfl, rfl⟩
    | (extract_lets +onlyGivenNames x
       first
       | (refine ((fun (hx : Kept P x) => ?_) ?_) <;> [clear_value x; (revert x; change (Kept P) _)])
       | (refine ((fun (hx : Kept P x.2) => ?_) ?_) <;> [clear_value x; (revert x; change (Kept P) (Prod.snd _))])
       | (have _ := (x : List _); clear_value x)
       | skip)
    | with_reducible (first
        | apply takeReads_inv | apply updSearch_inv | apply (endJob_inv hP) | apply foldl_bind_inv | apply bind_inv | apply ite_snd | apply ite_inv | apply ite_opt
        | apply ite_cmd | apply ite_out | apply findSome_inv | apply each_inv | apply iter_inv | apply foldl_inv | apply foldl_inv2 | apply getD_inv
        | apply elim_inv | apply JudgedInv.mk | apply JudgedInv.take | apply JudgedInv.discard | apply ite_judged | apply OptInv.mk_some
        | apply OptInv.mk_none | apply ExcInv.mk_ok | apply ExcInv.mk_error | apply OutInv.mk_next | apply CmdInv.mk_commit | apply DirInv.mk_sent
        | apply DirRoomInv.mk_freeing)
    | exact Kept.congr ‹Kept P _› rfl | assumption | split | (refine OptInv.of_eq (Q := (Kept P)) ‹_ = some _› ?_) | (refine pair_of_eq ‹_ = (_, _)› ?_)
    | (refine pair_of_eq' ‹_ = (_, _)› ?_) | (refine DirInv.of_eq ‹_ = DirStep.sent _› ?_) | (refine DirRoomInv.of_eq ‹_ = DirRoom.freeing _› ?_)
    | dsimp only

theorem sendQuery_inv (hP : Closed P) (s : State) (j : Job) (r : SearchJob) (x : Index) (n : Nat) (h_s : Kept P s) : Kept P (sendQuery s j r x n) := by
  unfold sendQuery
  repeat' first
    | with_reducible (first
        | assumption | intro _)
    | exact True.intro | exact ⟨rfl, rfl⟩
    | with_reducible (first
        | apply updSearch_inv | apply (takeQuery_inv hP) | apply sendEng_inv | apply foldl_bind_inv | apply bind_inv | apply ite_snd | apply ite_inv
        | apply ite_opt | apply ite_cmd | apply ite_out | apply findSome_inv | apply each_inv | apply iter_inv | apply foldl_inv | apply foldl_inv2
        | apply getD_inv | apply elim_inv | apply JudgedInv.mk | apply JudgedInv.take | apply JudgedInv.discard | apply ite_judged | apply OptInv.mk_some
        | apply OptInv.mk_none | apply ExcInv.mk_ok | apply ExcInv.mk_error | apply OutInv.mk_next | apply CmdInv.mk_commit | apply DirInv.mk_sent
        | apply DirRoomInv.mk_freeing)
    | exact Kept.congr ‹Kept P _› rfl | assumption | split | dsimp only

theorem coarseWork_inv (hP : Closed P) (s : State) (jobid : Nat) (aclk : Nat) (h_s : Kept P s) : Kept P (coarseWork s jobid aclk).2 := by
  unfold coarseWork
  repeat' first
    | with_reducible (first
        | assumption | intro _)
    | exact True.intro | exact ⟨rfl, rfl⟩
    | with_reducible (first
        | apply (askNeeds_inv hP) | apply meterMacs_inv | apply updSearch_inv | apply (sendQuery_inv hP) | apply foldl_bind_inv | apply bind_inv | apply ite_snd
        | apply ite_inv | apply ite_opt | apply ite_cmd | apply ite_out | apply findSome_inv | apply each_inv | apply iter_inv | apply foldl_inv
        | apply foldl_inv2 | apply getD_inv | apply elim_inv | apply JudgedInv.mk | apply JudgedInv.take | apply JudgedInv.discard | apply ite_judged
        | apply OptInv.mk_some | apply OptInv.mk_none | apply ExcInv.mk_ok | apply ExcInv.mk_error | apply OutInv.mk_next | apply CmdInv.mk_commit
        | apply DirInv.mk_sent | apply DirRoomInv.mk_freeing)
    | exact Kept.congr ‹Kept P _› rfl | assumption | split | dsimp only

theorem compactSwitch_inv (hP : Closed P) (s : State) (n : Nat) (part : Nat) (h_s : Kept P s) : Kept P (compactSwitch s n part) := by
  unfold compactSwitch
  repeat' first
    | with_reducible (first
        | assumption | intro _)
    | exact True.intro | exact ⟨rfl, rfl⟩
    | with_reducible (first
        | apply (askNeeds_inv hP) | apply updIndex_inv | apply (pokeAt_inv hP) | apply (rewriteList_inv hP) | apply engRecord_inv | apply endDrains_inv | apply (freeOld_inv hP)
        | apply foldl_bind_inv | apply bind_inv | apply ite_snd | apply ite_inv | apply ite_opt | apply ite_cmd | apply ite_out | apply findSome_inv
        | apply each_inv | apply iter_inv | apply foldl_inv | apply foldl_inv2 | apply getD_inv | apply elim_inv | apply JudgedInv.mk | apply JudgedInv.take
        | apply JudgedInv.discard | apply ite_judged | apply OptInv.mk_some | apply OptInv.mk_none | apply ExcInv.mk_ok | apply ExcInv.mk_error
        | apply OutInv.mk_next | apply CmdInv.mk_commit | apply DirInv.mk_sent | apply DirRoomInv.mk_freeing)
    | exact Kept.congr ‹Kept P _› rfl | assumption | split | dsimp only

/-! ### Sequencer -/

theorem readPart_inv (hP : Closed P) (s : State) (n : Nat) (k : Nat) (h : Nat) (key : Word) (svc : Nat) (off : Nat) (len : Nat) (h_s : Kept P s) : Kept P (readPart s n k h key svc off len).2 := by
  unfold readPart
  repeat' first
    | with_reducible (first
        | assumption | intro _)
    | exact True.intro | exact ⟨rfl, rfl⟩
    | (extract_lets +onlyGivenNames x
       first
       | (refine ((fun (hx : Kept P x) => ?_) ?_) <;> [clear_value x; (revert x; change (Kept P) _)])
       | (refine ((fun (hx : Kept P x.2) => ?_) ?_) <;> [clear_value x; (revert x; change (Kept P) (Prod.snd _))])
       | (have _ := (x : List _); clear_value x)
       | skip)
    | with_reducible (first
        | apply (fetch_inv hP) | apply updQp_inv | apply foldl_bind_inv | apply bind_inv | apply ite_snd | apply ite_inv | apply ite_opt | apply ite_cmd
        | apply ite_out | apply findSome_inv | apply each_inv | apply iter_inv | apply foldl_inv | apply foldl_inv2 | apply getD_inv | apply elim_inv
        | apply JudgedInv.mk | apply JudgedInv.take | apply JudgedInv.discard | apply ite_judged | apply OptInv.mk_some | apply OptInv.mk_none
        | apply ExcInv.mk_ok | apply ExcInv.mk_error | apply OutInv.mk_next | apply CmdInv.mk_commit | apply DirInv.mk_sent | apply DirRoomInv.mk_freeing)
    | exact Kept.congr ‹Kept P _› rfl | assumption | split | (refine OptInv.of_eq (Q := (Kept P)) ‹_ = some _› ?_) | (refine pair_of_eq ‹_ = (_, _)› ?_)
    | (refine pair_of_eq' ‹_ = (_, _)› ?_) | (refine DirInv.of_eq ‹_ = DirStep.sent _› ?_) | (refine DirRoomInv.of_eq ‹_ = DirRoom.freeing _› ?_)
    | dsimp only

theorem askRed_inv (hP : Closed P) (s : State) (n : Nat) (retainmax : Nat) (e : List Byte) (h_s : Kept P s) : Kept P (askRed s n retainmax e).2 := by
  unfold askRed
  repeat' first
    | with_reducible (first
        | assumption | intro _)
    | exact True.intro | exact ⟨rfl, rfl⟩
    | (extract_lets +onlyGivenNames x
       first
       | (refine ((fun (hx : Kept P x) => ?_) ?_) <;> [clear_value x; (revert x; change (Kept P) _)])
       | (refine ((fun (hx : Kept P x.2) => ?_) ?_) <;> [clear_value x; (revert x; change (Kept P) (Prod.snd _))])
       | (have _ := (x : List _); clear_value x)
       | skip)
    | with_reducible (first
        | apply (readPart_inv hP) | apply foldl_bind_inv | apply bind_inv | apply ite_snd | apply ite_inv | apply ite_opt | apply ite_cmd | apply ite_out
        | apply findSome_inv | apply each_inv | apply iter_inv | apply foldl_inv | apply foldl_inv2 | apply getD_inv | apply elim_inv | apply JudgedInv.mk
        | apply JudgedInv.take | apply JudgedInv.discard | apply ite_judged | apply OptInv.mk_some | apply OptInv.mk_none | apply ExcInv.mk_ok
        | apply ExcInv.mk_error | apply OutInv.mk_next | apply CmdInv.mk_commit | apply DirInv.mk_sent | apply DirRoomInv.mk_freeing)
    | exact Kept.congr ‹Kept P _› rfl | assumption | split | (refine OptInv.of_eq (Q := (Kept P)) ‹_ = some _› ?_) | (refine pair_of_eq ‹_ = (_, _)› ?_)
    | (refine pair_of_eq' ‹_ = (_, _)› ?_) | (refine DirInv.of_eq ‹_ = DirStep.sent _› ?_) | (refine DirRoomInv.of_eq ‹_ = DirRoom.freeing _› ?_)
    | dsimp only

theorem askWinnow_inv (hP : Closed P) (s : State) (n : Nat) (k : Nat) (arrays : Nat) (e : List Byte) (h_s : Kept P s) : Kept P (askWinnow s n k arrays e).2 := by
  unfold askWinnow
  repeat' first
    | with_reducible (first
        | assumption | intro _)
    | exact True.intro | exact ⟨rfl, rfl⟩
    | with_reducible (first
        | apply (readPart_inv hP) | apply foldl_bind_inv | apply bind_inv | apply ite_snd | apply ite_inv | apply ite_opt | apply ite_cmd | apply ite_out
        | apply findSome_inv | apply each_inv | apply iter_inv | apply foldl_inv | apply foldl_inv2 | apply getD_inv | apply elim_inv | apply JudgedInv.mk
        | apply JudgedInv.take | apply JudgedInv.discard | apply ite_judged | apply OptInv.mk_some | apply OptInv.mk_none | apply ExcInv.mk_ok
        | apply ExcInv.mk_error | apply OutInv.mk_next | apply CmdInv.mk_commit | apply DirInv.mk_sent | apply DirRoomInv.mk_freeing)
    | exact Kept.congr ‹Kept P _› rfl | assumption | split | dsimp only

theorem askGather_inv (hP : Closed P) (s : State) (n : Nat) (kinds : Nat) (arrays : Nat) (c : Qp) (e : List Byte) (h_s : Kept P s) : Kept P (askGather s n kinds arrays c e).2 := by
  unfold askGather
  repeat' first
    | with_reducible (first
        | assumption | intro _)
    | exact True.intro | exact ⟨rfl, rfl⟩
    | (extract_lets +onlyGivenNames x
       first
       | (refine ((fun (hx : Kept P x) => ?_) ?_) <;> [clear_value x; (revert x; change (Kept P) _)])
       | (refine ((fun (hx : Kept P x.2) => ?_) ?_) <;> [clear_value x; (revert x; change (Kept P) (Prod.snd _))])
       | (have _ := (x : List _); clear_value x)
       | skip)
    | with_reducible (first
        | apply (readPart_inv hP) | apply (askWinnow_inv hP) | apply foldl_bind_inv | apply bind_inv | apply ite_snd | apply ite_inv | apply ite_opt | apply ite_cmd
        | apply ite_out | apply findSome_inv | apply each_inv | apply iter_inv | apply foldl_inv | apply foldl_inv2 | apply getD_inv | apply elim_inv
        | apply JudgedInv.mk | apply JudgedInv.take | apply JudgedInv.discard | apply ite_judged | apply OptInv.mk_some | apply OptInv.mk_none
        | apply ExcInv.mk_ok | apply ExcInv.mk_error | apply OutInv.mk_next | apply CmdInv.mk_commit | apply DirInv.mk_sent | apply DirRoomInv.mk_freeing)
    | exact Kept.congr ‹Kept P _› rfl | assumption | split | (refine OptInv.of_eq (Q := (Kept P)) ‹_ = some _› ?_) | (refine pair_of_eq ‹_ = (_, _)› ?_)
    | (refine pair_of_eq' ‹_ = (_, _)› ?_) | (refine DirInv.of_eq ‹_ = DirStep.sent _› ?_) | (refine DirRoomInv.of_eq ‹_ = DirRoom.freeing _› ?_)
    | dsimp only

theorem advanceSq_inv (s : State) (n : Nat) (k : Nat) (h_s : Kept P s) : Kept P (advanceSq s n k) := by
  unfold advanceSq
  repeat' first
    | with_reducible (first
        | assumption | intro _ | apply dropUses_inv | apply updQp_inv | apply ite_inv)
    | exact Kept.congr ‹Kept P _› rfl | assumption | split

theorem endEntry_inv (hP : Closed P) (s : State) (n : Nat) (e : List Byte) (status : Nat) (h_s : Kept P s) : Kept P (endEntry s n e status) := by
  unfold endEntry
  repeat' first
    | with_reducible (first
        | assumption | intro _ | apply (complete_inv hP) | apply advanceSq_inv | apply ite_inv)
    | exact Kept.congr ‹Kept P _› rfl | assumption | split

theorem admitJob_inv (hP : Closed P) (s : State) (n : Nat) (c : Qp) (comp : Nat) (e : List Byte) (b : JobKind) (jobid : Nat) (jkey : Word) (svc : Nat) (tmo : Nat) (h_s : Kept P s) : Kept P (admitJob s n c comp e b jobid jkey svc tmo).2 := by
  unfold admitJob
  repeat' first
    | with_reducible (first
        | assumption | intro _)
    | exact True.intro | exact ⟨rfl, rfl⟩
    | (extract_lets +onlyGivenNames x
       first
       | (refine ((fun (hx : Kept P x) => ?_) ?_) <;> [clear_value x; (revert x; change (Kept P) _)])
       | (refine ((fun (hx : Kept P x.2) => ?_) ?_) <;> [clear_value x; (revert x; change (Kept P) (Prod.snd _))])
       | (refine ((fun (hx : OptInv (Kept P) x) => ?_) ?_) <;> [clear_value x; (revert x; change OptInv (Kept P) _)])
       | (refine ((fun (hx : CmdInv P x) => ?_) ?_) <;> [clear_value x; (revert x; change (CmdInv P) _)])
       | (have _ := (x : List _); clear_value x)
       | skip)
    | with_reducible (first
        | apply drawKey_inv | apply drawWord_inv | apply (completeJob_inv hP) | apply foldl_bind_inv | apply bind_inv | apply ite_snd | apply ite_inv
        | apply ite_opt | apply ite_cmd | apply ite_out | apply findSome_inv | apply each_inv | apply iter_inv | apply foldl_inv | apply foldl_inv2
        | apply getD_inv | apply elim_inv | apply JudgedInv.mk | apply JudgedInv.take | apply JudgedInv.discard | apply ite_judged | apply OptInv.mk_some
        | apply OptInv.mk_none | apply ExcInv.mk_ok | apply ExcInv.mk_error | apply OutInv.mk_next | apply CmdInv.mk_commit | apply DirInv.mk_sent
        | apply DirRoomInv.mk_freeing)
    | exact Kept.congr ‹Kept P _› rfl | assumption | refine Inv.congr (drawKey_inv _ _ _ ?_ ) rfl | refine Inv.congr (drawWord_inv _ ?_ ) rfl
    | refine Inv.congr ((completeJob_inv hP) _ _ _ _ _ _ _ ?_ ) rfl | split | (refine OptInv.of_eq (Q := (Kept P)) ‹_ = some _› ?_)
    | (refine OptInv.of_eq (Q := (CmdInv P)) ‹_ = some _› ?_) | (refine pair_of_eq ‹_ = (_, _)› ?_) | (refine pair_of_eq' ‹_ = (_, _)› ?_)
    | (refine DirInv.of_eq ‹_ = DirStep.sent _› ?_) | (refine DirRoomInv.of_eq ‹_ = DirRoom.freeing _› ?_)
    | (refine CmdInv.of_eq ‹_ = CmdResult.commit _ _ _ _› ?_) | (refine ExcInv.of_eq ‹_ = Except.ok _› ?_) | dsimp only | apply drawKey_inv
    | apply drawWord_inv | apply (completeJob_inv hP) | exact Kept.write hP ‹Kept P _› rfl | exact Kept.cache hP ‹Kept P _› rfl
    | exact Kept.clear hP ‹Kept P _› rfl
    | exact Kept.clears hP ‹Kept P _› rfl | dsimp +zetaDelta only
    | (refine OptInv.of_eq (Q := fun (t : _ × State) => (Kept P) t.2) ‹_ = some _› ?_)
    | (refine OptInv.of_eq (Q := fun (t : _ × State) => (Kept P) t.2) (t := (_, _)) ‹_ = some (_, _)› ?_)
    | (refine ExcInv.of_eq (Q := fun (t : _ × State) => (Kept P) t.2) (t := (_, _)) ‹_ = Except.ok (_, _)› ?_)

theorem admitAsk_inv (hP : Closed P) (s : State) (n : Nat) (c : Qp) (comp : Nat) (e : List Byte) (a : Ask) (h_s : Kept P s) : Kept P (admitAsk s n c comp e a) := by
  unfold admitAsk
  repeat' first
    | with_reducible (first
        | assumption | intro _ | apply (admitJob_inv hP) | apply advanceSq_inv | apply updGather_inv | apply ite_inv)
    | exact Kept.congr ‹Kept P _› rfl | assumption | split

theorem askEntry_inv (hP : Closed P) (s : State) (n : Nat) (c : Qp) (allot : Nat × Nat × Nat × Nat) (e : List Byte) (h_s : Kept P s) : Kept P (askEntry s n c allot e).2 := by
  unfold askEntry
  repeat' first
    | with_reducible (first
        | assumption | intro _)
    | exact True.intro | exact ⟨rfl, rfl⟩
    | (extract_lets +onlyGivenNames x
       first
       | (refine ((fun (hx : Kept P x) => ?_) ?_) <;> [clear_value x; (revert x; change (Kept P) _)])
       | (refine ((fun (hx : Kept P x.2) => ?_) ?_) <;> [clear_value x; (revert x; change (Kept P) (Prod.snd _))])
       | (have _ := (x : List _); clear_value x)
       | skip)
    | with_reducible (first
        | apply (askRed_inv hP) | apply (askGather_inv hP) | apply (askWinnow_inv hP) | apply foldl_bind_inv | apply bind_inv | apply ite_snd | apply ite_inv | apply ite_opt
        | apply ite_cmd | apply ite_out | apply findSome_inv | apply each_inv | apply iter_inv | apply foldl_inv | apply foldl_inv2 | apply getD_inv
        | apply elim_inv | apply JudgedInv.mk | apply JudgedInv.take | apply JudgedInv.discard | apply ite_judged | apply OptInv.mk_some
        | apply OptInv.mk_none | apply ExcInv.mk_ok | apply ExcInv.mk_error | apply OutInv.mk_next | apply CmdInv.mk_commit | apply DirInv.mk_sent
        | apply DirRoomInv.mk_freeing)
    | exact Kept.congr ‹Kept P _› rfl | assumption | split | (refine OptInv.of_eq (Q := (Kept P)) ‹_ = some _› ?_) | (refine pair_of_eq ‹_ = (_, _)› ?_)
    | (refine pair_of_eq' ‹_ = (_, _)› ?_) | (refine DirInv.of_eq ‹_ = DirStep.sent _› ?_) | (refine DirRoomInv.of_eq ‹_ = DirRoom.freeing _› ?_)
    | dsimp only

theorem takeOne_inv (hP : Closed P) (s : State) (n : Nat) (h_s : Kept P s) : Kept P (takeOne s n).2 := by
  unfold takeOne
  repeat' first
    | with_reducible (first
        | assumption | intro _)
    | exact True.intro | exact ⟨rfl, rfl⟩
    | (extract_lets +onlyGivenNames x
       first
       | (refine ((fun (hx : Kept P x) => ?_) ?_) <;> [clear_value x; (revert x; change (Kept P) _)])
       | (refine ((fun (hx : Kept P x.2) => ?_) ?_) <;> [clear_value x; (revert x; change (Kept P) (Prod.snd _))])
       | (have _ := (x : List _); clear_value x)
       | skip)
    | with_reducible (first
        | apply (readPart_inv hP) | apply qpError_inv | apply advanceSq_inv | apply (endEntry_inv hP) | apply (askEntry_inv hP) | apply (admitAsk_inv hP) | apply foldl_bind_inv
        | apply bind_inv | apply ite_snd | apply ite_inv | apply ite_opt | apply ite_cmd | apply ite_out | apply findSome_inv | apply each_inv
        | apply iter_inv | apply foldl_inv | apply foldl_inv2 | apply getD_inv | apply elim_inv | apply JudgedInv.mk | apply JudgedInv.take
        | apply JudgedInv.discard | apply ite_judged | apply OptInv.mk_some | apply OptInv.mk_none | apply ExcInv.mk_ok | apply ExcInv.mk_error
        | apply OutInv.mk_next | apply CmdInv.mk_commit | apply DirInv.mk_sent | apply DirRoomInv.mk_freeing)
    | exact Kept.congr ‹Kept P _› rfl | assumption | split | (refine OptInv.of_eq (Q := (Kept P)) ‹_ = some _› ?_) | (refine pair_of_eq ‹_ = (_, _)› ?_)
    | (refine pair_of_eq' ‹_ = (_, _)› ?_) | (refine DirInv.of_eq ‹_ = DirStep.sent _› ?_) | (refine DirRoomInv.of_eq ‹_ = DirRoom.freeing _› ?_)
    | dsimp only

theorem takeLoop_inv (hP : Closed P) (a0 : Nat) (s : State) (n : Nat) (h_s : Kept P s) : Kept P (takeLoop a0 s n) := by
  induction a0 generalizing s with
  | zero => exact h_s
  | succ k ih =>
    have h := (takeOne_inv hP) s n h_s
    unfold takeLoop
    generalize takeOne s n = p at h ⊢
    obtain ⟨more, t⟩ := p
    dsimp only
    split
    · exact ih _ ((settleAll_inv hP) _ h)
    · exact h

theorem takeSubmissions_inv (hP : Closed P) (s : State) (n : Nat) (h_s : Kept P s) : Kept P (takeSubmissions s n) := by
  unfold takeSubmissions
  repeat' first
    | with_reducible (first
        | assumption | intro _ | apply (takeLoop_inv hP) | apply (settleAll_inv hP) | apply (flushCompletions_inv hP) | apply ite_inv)
    | exact Kept.congr ‹Kept P _› rfl | assumption | split

/-! ### EngineMsgs -/

def JudgedInv (P : View → Prop) (j : Judged) : Prop := (∀ s, (Kept P) s → Kept P (j.take s)) ∧ (∀ c s, (Kept P) s → Kept P (j.discard c s))
theorem JudgedInv.mk {v : Verdict} {t : State → State} {d : Nat → State → State} (h : ∀ s, (Kept P) s → Kept P (t s))
    (hd : ∀ c s, (Kept P) s → Kept P (d c s)) : JudgedInv P ⟨v, t, d⟩ := ⟨h, hd⟩
theorem JudgedInv.take {j : Judged} (h : JudgedInv P j) {s : State} (hs : Kept P s) : Kept P (j.take s) := h.1 s hs
theorem JudgedInv.discard {j : Judged} (h : JudgedInv P j) {c : Nat} {s : State} (hs : Kept P s) : Kept P (j.discard c s) := h.2 c s hs
theorem ite_judged {c : Prop} {d : Decidable c} {a b : Judged} (h1 : c → (JudgedInv P) a) (h2 : ¬c → (JudgedInv P) b) : JudgedInv P (@ite _ c d a b) := by
  split
  · exact h1 ‹_›
  · exact h2 ‹_›

theorem takeStores_inv (hP : Closed P) (s : State) (jobid : Nat) (h_s : Kept P s) : Kept P (takeStores s jobid) := by
  unfold takeStores
  repeat' first
    | with_reducible (first
        | assumption | intro _ | apply (endJob_inv hP) | apply ite_inv)
    | exact Kept.congr ‹Kept P _› rfl | assumption | split

theorem takeJob_inv (hP : Closed P) (s : State) (jobid : Nat) (h_s : Kept P s) : Kept P (takeJob s jobid) := by
  unfold takeJob
  repeat' first
    | with_reducible (first
        | assumption | intro _)
    | exact True.intro | exact ⟨rfl, rfl⟩
    | with_reducible (first
        | apply (takeStores_inv hP) | apply (takeSources_inv hP) | apply (takeIndex_inv hP) | apply (takeRecords_inv hP) | apply (winnowOut_inv hP) | apply updWinnow_inv
        | apply (takeQueries_inv hP) | apply foldl_bind_inv | apply bind_inv | apply ite_snd | apply ite_inv | apply ite_opt | apply ite_cmd | apply ite_out
        | apply findSome_inv | apply each_inv | apply iter_inv | apply foldl_inv | apply foldl_inv2 | apply getD_inv | apply elim_inv | apply JudgedInv.mk
        | apply JudgedInv.take | apply JudgedInv.discard | apply ite_judged | apply OptInv.mk_some | apply OptInv.mk_none | apply ExcInv.mk_ok
        | apply ExcInv.mk_error | apply OutInv.mk_next | apply CmdInv.mk_commit | apply DirInv.mk_sent | apply DirRoomInv.mk_freeing)
    | exact Kept.congr ‹Kept P _› rfl | assumption | split | dsimp only

theorem endIfDone_inv (hP : Closed P) (s : State) (jobid : Nat) (h_s : Kept P s) : Kept P (endIfDone s jobid) := by
  unfold endIfDone
  repeat' first
    | with_reducible (first
        | assumption | intro _ | apply (finishJob_inv hP) | apply ite_inv)
    | exact Kept.congr ‹Kept P _› rfl | assumption | split

theorem ringAnswer_inv (s : State) (a : Access) (n : Nat) (status : Nat) (h_s : Kept P s) : Kept P (ringAnswer s a n status) := by
  unfold ringAnswer
  repeat' first
    | with_reducible (first
        | assumption | intro _ | apply dropAccess_inv | apply qpError_inv | apply ite_inv)
    | exact Kept.congr ‹Kept P _› rfl | assumption | split

theorem ringAnswers_inv (s : State) (h_s : Kept P s) : Kept P (ringAnswers s) := by
  unfold ringAnswers
  repeat' first
    | with_reducible (first
        | assumption | intro _)
    | exact True.intro | exact ⟨rfl, rfl⟩
    | with_reducible (first
        | apply ringAnswer_inv | apply ring_inv | apply foldl_bind_inv | apply bind_inv | apply ite_snd | apply ite_inv | apply ite_opt | apply ite_cmd
        | apply ite_out | apply findSome_inv | apply each_inv | apply iter_inv | apply foldl_inv | apply foldl_inv2 | apply getD_inv | apply elim_inv
        | apply JudgedInv.mk | apply JudgedInv.take | apply JudgedInv.discard | apply ite_judged | apply OptInv.mk_some | apply OptInv.mk_none
        | apply ExcInv.mk_ok | apply ExcInv.mk_error | apply OutInv.mk_next | apply CmdInv.mk_commit | apply DirInv.mk_sent | apply DirRoomInv.mk_freeing)
    | exact Kept.congr ‹Kept P _› rfl | assumption | split | dsimp only

theorem workJobs_inv (hP : Closed P) (s : State) (h_s : Kept P s) : Kept P (workJobs s) := by
  unfold workJobs
  repeat' first
    | with_reducible (first
        | assumption | intro _)
    | exact True.intro | exact ⟨rfl, rfl⟩
    | with_reducible (first
        | apply ringAnswers_inv | apply (endIfDone_inv hP) | apply (takeJob_inv hP) | apply foldl_bind_inv | apply bind_inv | apply ite_snd | apply ite_inv
        | apply ite_opt | apply ite_cmd | apply ite_out | apply findSome_inv | apply each_inv | apply iter_inv | apply foldl_inv | apply foldl_inv2
        | apply getD_inv | apply elim_inv | apply JudgedInv.mk | apply JudgedInv.take | apply JudgedInv.discard | apply ite_judged | apply OptInv.mk_some
        | apply OptInv.mk_none | apply ExcInv.mk_ok | apply ExcInv.mk_error | apply OutInv.mk_next | apply CmdInv.mk_commit | apply DirInv.mk_sent
        | apply DirRoomInv.mk_freeing)
    | exact Kept.congr ‹Kept P _› rfl | assumption | split | dsimp only

theorem engGranted_inv (s : State) (w : EngWait) (h_s : Kept P s) : Kept P (engGranted s w) := by
  unfold engGranted
  repeat' first
    | with_reducible (first
        | assumption | intro _ | apply granted_inv | apply crossCells_inv | apply ite_inv)
    | exact Kept.congr ‹Kept P _› rfl | assumption | split

theorem holdEng_inv (s : State) (p : Nat) (opc : Nat) (h : EngHdr) (d : List Byte) (h_s : Kept P s) : Kept P (holdEng s p opc h d) := by
  unfold holdEng
  repeat' first
    | with_reducible (first
        | assumption | intro _ | apply poolTake_inv | apply updPort_inv | apply ite_inv)
    | exact Kept.congr ‹Kept P _› rfl | assumption | split

theorem freeEng_inv (s : State) (w : EngWait) (h_s : Kept P s) : Kept P (freeEng s w) := by
  unfold freeEng
  repeat' first
    | with_reducible (first
        | assumption | intro _ | apply poolGive_inv | apply updPort_inv | apply ite_inv)
    | exact Kept.congr ‹Kept P _› rfl | assumption | split

theorem unknownJob_inv (p : Nat) (h : EngHdr)  : JudgedInv P (unknownJob p h) := by
  unfold unknownJob
  repeat' first
    | with_reducible (first
        | assumption | intro _)
    | exact True.intro | exact ⟨rfl, rfl⟩
    | (extract_lets +onlyGivenNames x
       first
       | (refine ((fun (hx : Kept P x) => ?_) ?_) <;> [clear_value x; (revert x; change (Kept P) _)])
       | (refine ((fun (hx : Kept P x.2) => ?_) ?_) <;> [clear_value x; (revert x; change (Kept P) (Prod.snd _))])
       | (have _ := (x : List _); clear_value x)
       | skip)
    | with_reducible (first
        | apply discardRed_inv | apply foldl_bind_inv | apply bind_inv | apply ite_snd | apply ite_inv | apply ite_opt | apply ite_cmd | apply ite_out
        | apply findSome_inv | apply each_inv | apply iter_inv | apply foldl_inv | apply foldl_inv2 | apply getD_inv | apply elim_inv | apply JudgedInv.mk
        | apply JudgedInv.take | apply JudgedInv.discard | apply ite_judged | apply OptInv.mk_some | apply OptInv.mk_none | apply ExcInv.mk_ok
        | apply ExcInv.mk_error | apply OutInv.mk_next | apply CmdInv.mk_commit | apply DirInv.mk_sent | apply DirRoomInv.mk_freeing)
    | exact Kept.congr ‹Kept P _› rfl | assumption | split | (refine OptInv.of_eq (Q := (Kept P)) ‹_ = some _› ?_) | (refine pair_of_eq ‹_ = (_, _)› ?_)
    | (refine pair_of_eq' ‹_ = (_, _)› ?_) | (refine DirInv.of_eq ‹_ = DirStep.sent _› ?_) | (refine DirRoomInv.of_eq ‹_ = DirRoom.freeing _› ?_)
    | dsimp only

theorem countDup_inv (s : State) (jobid : Nat) (h_s : Kept P s) : Kept P (countDup s jobid) := by
  unfold countDup
  repeat' first
    | with_reducible (first
        | assumption | intro _ | apply updRed_inv | apply ite_inv)
    | exact Kept.congr ‹Kept P _› rfl | assumption | split

theorem countDiscard_inv (s : State) (jobid : Nat) (h_s : Kept P s) : Kept P (countDiscard s jobid) := by
  unfold countDiscard
  repeat' first
    | with_reducible (first
        | assumption | intro _ | apply updSearch_inv | apply updWinnow_inv | apply updRed_inv | apply ite_inv)
    | exact Kept.congr ‹Kept P _› rfl | assumption | split

theorem jobDiscard_inv (j : Job) (h : EngHdr) (cause : Nat) (s : State) (h_s : Kept P s) : Kept P (jobDiscard j h cause s) := by
  unfold jobDiscard
  repeat' first
    | with_reducible (first
        | assumption | intro _ | apply countDiscard_inv | apply discardEng_inv | apply discardRed_inv | apply ite_inv)
    | exact Kept.congr ‹Kept P _› rfl | assumption | split

theorem judgeEng_inv (hP : Closed P) (s : State) (p opc : Nat) (h : EngHdr) (d : List Byte) (h_s : Kept P s) : JudgedInv P (judgeEng s p opc h d) := by
  unfold judgeEng
  refine ite_judged (fun _ => ?_) (fun _ => ite_judged (fun _ => ?_) (fun _ => ?_))
  · exact JudgedInv.mk (fun s hs => (takeQuery_inv hP) _ _ _ hs) (fun c s hs => discardQuery_inv _ _ _ _ _ hs)
  · exact JudgedInv.mk (fun s hs => (takeSearchPart_inv hP) _ _ _ hs) (fun c s hs => discardRed_inv _ _ _ _ (countDiscard_inv _ _ hs))
  · split
    · exact unknownJob_inv _ _
    · split
      · refine JudgedInv.mk (fun s hs => ?_) (fun c s hs => jobDiscard_inv _ _ _ _ hs)
        exact ite_inv (fun _ => takeContrib_inv _ _ _ _ hs) (fun _ => ite_inv (fun _ => takePartial_inv _ _ _ _ hs) (fun _ => (takeResult_inv hP) _ _ _ _ _ hs))
      · exact ite_judged (fun _ => JudgedInv.mk (fun s hs => takeList_inv _ _ _ hs) (fun c s hs => jobDiscard_inv _ _ _ _ hs))
          (fun _ => unknownJob_inv _ _)
      · exact unknownJob_inv _ _

theorem applyJudged_inv (s : State) (jobid : Nat) (v : Judged) (h_s : Kept P s) (h_v : JudgedInv P v) : Kept P (applyJudged s jobid v) := by
  unfold applyJudged
  split
  · exact h_v.take h_s
  · split
    · exact countDiscard_inv _ _ h_s
    · exact countDup_inv _ _ h_s
  · exact h_v.discard h_s
  · exact h_s

theorem grantEng_inv (hP : Closed P) (s : State) (k : Nat) (h_s : Kept P s) : OptInv (Kept P) (grantEng s k) := by
  unfold grantEng
  repeat' first
    | with_reducible (first
        | assumption | intro _)
    | exact True.intro | exact ⟨rfl, rfl⟩
    | with_reducible (first
        | apply (judgeEng_inv hP) | apply applyJudged_inv | apply engGranted_inv | apply freeEng_inv | apply foldl_bind_inv | apply bind_inv | apply ite_snd
        | apply ite_inv | apply ite_opt | apply ite_cmd | apply ite_out | apply findSome_inv | apply each_inv | apply iter_inv | apply foldl_inv
        | apply foldl_inv2 | apply getD_inv | apply elim_inv | apply JudgedInv.mk | apply JudgedInv.take | apply JudgedInv.discard | apply ite_judged
        | apply OptInv.mk_some | apply OptInv.mk_none | apply ExcInv.mk_ok | apply ExcInv.mk_error | apply OutInv.mk_next | apply CmdInv.mk_commit
        | apply DirInv.mk_sent | apply DirRoomInv.mk_freeing)
    | exact Kept.congr ‹Kept P _› rfl | assumption | split | dsimp only

theorem retryN_inv (hP : Closed P) (a0 : Nat) (a1 : State) (h_a1 : Kept P a1) : Kept P (retryN a0 a1) := by
  induction a0 generalizing a1 with
  | zero => exact h_a1
  | succ n ih =>
    have h : OptInv (Kept P) ((List.range 12).findSome? (grantEng a1)) := findSome_inv _ _ (fun k => (grantEng_inv hP) a1 k h_a1)
    unfold retryN
    revert h
    cases (List.range 12).findSome? (grantEng a1) with
    | none => intro _; exact h_a1
    | some t => intro h; exact ih t h

theorem retryEng_inv (hP : Closed P) (s : State) (h_s : Kept P s) : Kept P (retryEng s) := by
  unfold retryEng
  repeat' first
    | with_reducible (first
        | assumption | intro _)
    | exact True.intro | exact ⟨rfl, rfl⟩
    | (extract_lets +onlyGivenNames x
       first
       | (refine ((fun (hx : Kept P x) => ?_) ?_) <;> [clear_value x; (revert x; change (Kept P) _)])
       | (refine ((fun (hx : Kept P x.2) => ?_) ?_) <;> [clear_value x; (revert x; change (Kept P) (Prod.snd _))])
       | (have _ := (x : List _); clear_value x)
       | skip)
    | with_reducible (first
        | apply (retryN_inv hP) | apply foldl_bind_inv | apply bind_inv | apply ite_snd | apply ite_inv | apply ite_opt | apply ite_cmd | apply ite_out
        | apply findSome_inv | apply each_inv | apply iter_inv | apply foldl_inv | apply foldl_inv2 | apply getD_inv | apply elim_inv | apply JudgedInv.mk
        | apply JudgedInv.take | apply JudgedInv.discard | apply ite_judged | apply OptInv.mk_some | apply OptInv.mk_none | apply ExcInv.mk_ok
        | apply ExcInv.mk_error | apply OutInv.mk_next | apply CmdInv.mk_commit | apply DirInv.mk_sent | apply DirRoomInv.mk_freeing)
    | exact Kept.congr ‹Kept P _› rfl | assumption | split | (refine OptInv.of_eq (Q := (Kept P)) ‹_ = some _› ?_) | (refine pair_of_eq ‹_ = (_, _)› ?_)
    | (refine pair_of_eq' ‹_ = (_, _)› ?_) | (refine DirInv.of_eq ‹_ = DirStep.sent _› ?_) | (refine DirRoomInv.of_eq ‹_ = DirRoom.freeing _› ?_)
    | dsimp only

theorem runEngines_inv (hP : Closed P) (s : State) (h_s : Kept P s) : Kept P (runEngines s) := by
  unfold runEngines
  repeat' first
    | with_reducible (first
        | assumption | intro _ | apply (settleAll_inv hP) | apply (retryEng_inv hP) | apply (workJobs_inv hP) | apply ite_inv)
    | exact Kept.congr ‹Kept P _› rfl | assumption | split

theorem takeMirror_inv (s : State) (h : EngHdr) (d : List Byte) (h_s : Kept P s) : Kept P (takeMirror s h d) := by
  unfold takeMirror
  repeat' first
    | with_reducible (first
        | assumption | intro _ | apply ite_inv)
    | exact Kept.congr ‹Kept P _› rfl | assumption | split

theorem engArrive_inv (hP : Closed P) (s : State) (p : Nat) (opc : Nat) (h : EngHdr) (d : List Byte) (h_s : Kept P s) : Kept P (engArrive s p opc h d) := by
  unfold engArrive
  repeat' first
    | with_reducible (first
        | assumption | intro _)
    | exact True.intro | exact ⟨rfl, rfl⟩
    | with_reducible (first
        | apply discardMessage_inv | apply takeMirror_inv | apply (judgeEng_inv hP) | apply holdEng_inv | apply (runEngines_inv hP) | apply applyJudged_inv
        | apply engGranted_inv | apply foldl_bind_inv | apply bind_inv | apply ite_snd | apply ite_inv | apply ite_opt | apply ite_cmd | apply ite_out
        | apply findSome_inv | apply each_inv | apply iter_inv | apply foldl_inv | apply foldl_inv2 | apply getD_inv | apply elim_inv | apply JudgedInv.mk
        | apply JudgedInv.take | apply JudgedInv.discard | apply ite_judged | apply OptInv.mk_some | apply OptInv.mk_none | apply ExcInv.mk_ok
        | apply ExcInv.mk_error | apply OutInv.mk_next | apply CmdInv.mk_commit | apply DirInv.mk_sent | apply DirRoomInv.mk_freeing)
    | exact Kept.congr ‹Kept P _› rfl | assumption | split | dsimp only

theorem execContrib_inv (hP : Closed P) (p : Nat) (h : EngHdr) (d : List Byte) (s : State) (h_s : Kept P s) : OutInv P (execContrib p h d s) := by
  unfold execContrib
  repeat' first
    | with_reducible (first
        | assumption | intro _ | apply done_inv | apply (engArrive_inv hP) | apply ite_inv | apply OutInv.mk_next)
    | exact Kept.congr ‹Kept P _› rfl | assumption | split

theorem execResult_inv (hP : Closed P) (p : Nat) (h : EngHdr) (d : List Byte) (s : State) (h_s : Kept P s) : OutInv P (execResult p h d s) := by
  unfold execResult
  repeat' first
    | with_reducible (first
        | assumption | intro _ | apply done_inv | apply (engArrive_inv hP) | apply ite_inv | apply OutInv.mk_next)
    | exact Kept.congr ‹Kept P _› rfl | assumption | split

theorem execQuery_inv (hP : Closed P) (p : Nat) (h : EngHdr) (d : List Byte) (s : State) (h_s : Kept P s) : OutInv P (execQuery p h d s) := by
  unfold execQuery
  repeat' first
    | with_reducible (first
        | assumption | intro _ | apply done_inv | apply (engArrive_inv hP) | apply ite_inv | apply OutInv.mk_next)
    | exact Kept.congr ‹Kept P _› rfl | assumption | split

theorem execPartialList_inv (hP : Closed P) (p : Nat) (h : EngHdr) (d : List Byte) (s : State) (h_s : Kept P s) : OutInv P (execPartialList p h d s) := by
  unfold execPartialList
  repeat' first
    | with_reducible (first
        | assumption | intro _ | apply done_inv | apply (engArrive_inv hP) | apply ite_inv | apply OutInv.mk_next)
    | exact Kept.congr ‹Kept P _› rfl | assumption | split

/-! ### Portions -/

theorem dealItems_inv (hP : Closed P) (s : State) (w : Work) (t : Nat) (items : List Nat) (h_s : Kept P s) : Kept P (dealItems s w t items) := by
  unfold dealItems
  repeat' first
    | with_reducible (first
        | assumption | intro _)
    | exact True.intro | exact ⟨rfl, rfl⟩
    | with_reducible (first
        | apply updJob_inv | apply updRed_inv | apply (askIndex_inv hP) | apply updGather_inv | apply (askRecords_inv hP) | apply updWinnow_inv | apply foldl_bind_inv
        | apply bind_inv | apply ite_snd | apply ite_inv | apply ite_opt | apply ite_cmd | apply ite_out | apply findSome_inv | apply each_inv
        | apply iter_inv | apply foldl_inv | apply foldl_inv2 | apply getD_inv | apply elim_inv | apply JudgedInv.mk | apply JudgedInv.take
        | apply JudgedInv.discard | apply ite_judged | apply OptInv.mk_some | apply OptInv.mk_none | apply ExcInv.mk_ok | apply ExcInv.mk_error
        | apply OutInv.mk_next | apply CmdInv.mk_commit | apply DirInv.mk_sent | apply DirRoomInv.mk_freeing)
    | exact Kept.congr ‹Kept P _› rfl | assumption | split | dsimp only

theorem dealTo_inv (hP : Closed P) (s : State) (q : Nat) (k : EngineKind) (i : Nat) (h_s : Kept P s) : Kept P (dealTo s q k i) := by
  unfold dealTo
  repeat' first
    | with_reducible (first
        | assumption | intro _)
    | exact True.intro | exact ⟨rfl, rfl⟩
    | with_reducible (first
        | apply (dealItems_inv hP) | apply foldl_bind_inv | apply bind_inv | apply ite_snd | apply ite_inv | apply ite_opt | apply ite_cmd | apply ite_out
        | apply findSome_inv | apply each_inv | apply iter_inv | apply foldl_inv | apply foldl_inv2 | apply getD_inv | apply elim_inv | apply JudgedInv.mk
        | apply JudgedInv.take | apply JudgedInv.discard | apply ite_judged | apply OptInv.mk_some | apply OptInv.mk_none | apply ExcInv.mk_ok
        | apply ExcInv.mk_error | apply OutInv.mk_next | apply CmdInv.mk_commit | apply DirInv.mk_sent | apply DirRoomInv.mk_freeing)
    | exact Kept.congr ‹Kept P _› rfl | assumption | split | dsimp only

theorem dealQuarter_inv (hP : Closed P) (s : State) (q : Nat) (h_s : Kept P s) : Kept P (dealQuarter s q) := by
  unfold dealQuarter
  repeat' first
    | with_reducible (first
        | assumption | intro _)
    | exact True.intro | exact ⟨rfl, rfl⟩
    | with_reducible (first
        | apply (dealTo_inv hP) | apply foldl_bind_inv | apply bind_inv | apply ite_snd | apply ite_inv | apply ite_opt | apply ite_cmd | apply ite_out
        | apply findSome_inv | apply each_inv | apply iter_inv | apply foldl_inv | apply foldl_inv2 | apply getD_inv | apply elim_inv | apply JudgedInv.mk
        | apply JudgedInv.take | apply JudgedInv.discard | apply ite_judged | apply OptInv.mk_some | apply OptInv.mk_none | apply ExcInv.mk_ok
        | apply ExcInv.mk_error | apply OutInv.mk_next | apply CmdInv.mk_commit | apply DirInv.mk_sent | apply DirRoomInv.mk_freeing)
    | exact Kept.congr ‹Kept P _› rfl | assumption | split | dsimp only

theorem askInputs_inv (hP : Closed P) (s : State) (h_s : Kept P s) : Kept P (askInputs s) := by
  unfold askInputs
  repeat' first
    | with_reducible (first
        | assumption | intro _)
    | exact True.intro | exact ⟨rfl, rfl⟩
    | with_reducible (first
        | apply (askSources_inv hP) | apply (askMatrix_inv hP) | apply (askQueries_inv hP) | apply foldl_bind_inv | apply bind_inv | apply ite_snd | apply ite_inv
        | apply ite_opt | apply ite_cmd | apply ite_out | apply findSome_inv | apply each_inv | apply iter_inv | apply foldl_inv | apply foldl_inv2
        | apply getD_inv | apply elim_inv | apply JudgedInv.mk | apply JudgedInv.take | apply JudgedInv.discard | apply ite_judged | apply OptInv.mk_some
        | apply OptInv.mk_none | apply ExcInv.mk_ok | apply ExcInv.mk_error | apply OutInv.mk_next | apply CmdInv.mk_commit | apply DirInv.mk_sent
        | apply DirRoomInv.mk_freeing)
    | exact Kept.congr ‹Kept P _› rfl | assumption | split | dsimp only

theorem dealPortions_inv (hP : Closed P) (s : State) (h_s : Kept P s) : Kept P (dealPortions s) := by
  unfold dealPortions
  repeat' first
    | with_reducible (first
        | assumption | intro _)
    | exact True.intro | exact ⟨rfl, rfl⟩
    | with_reducible (first
        | apply (settleAll_inv hP) | apply (dealQuarter_inv hP) | apply (runEngines_inv hP) | apply (askInputs_inv hP) | apply foldl_bind_inv | apply bind_inv | apply ite_snd
        | apply ite_inv | apply ite_opt | apply ite_cmd | apply ite_out | apply findSome_inv | apply each_inv | apply iter_inv | apply foldl_inv
        | apply foldl_inv2 | apply getD_inv | apply elim_inv | apply JudgedInv.mk | apply JudgedInv.take | apply JudgedInv.discard | apply ite_judged
        | apply OptInv.mk_some | apply OptInv.mk_none | apply ExcInv.mk_ok | apply ExcInv.mk_error | apply OutInv.mk_next | apply CmdInv.mk_commit
        | apply DirInv.mk_sent | apply DirRoomInv.mk_freeing)
    | exact Kept.congr ‹Kept P _› rfl | assumption | split | dsimp only

theorem owe_inv (s : State) (jobid : Nat) (items : List Nat) (h_s : Kept P s) : Kept P (owe s jobid items) := by
  unfold owe
  repeat' first
    | with_reducible (first
        | assumption | intro _ | apply updJob_inv | apply ite_inv)
    | exact Kept.congr ‹Kept P _› rfl | assumption | split

theorem chargePortion_inv (s : State) (p : Portion) (comp : Option Nat) (aclk : Nat) (steps : Nat) (h_s : Kept P s) : Kept P (chargePortion s p comp aclk steps) := by
  unfold chargePortion
  repeat' first
    | with_reducible (first
        | assumption | intro _)
    | exact True.intro | exact ⟨rfl, rfl⟩
    | with_reducible (first
        | apply updJob_inv | apply meter_inv | apply foldl_bind_inv | apply bind_inv | apply ite_snd | apply ite_inv | apply ite_opt | apply ite_cmd
        | apply ite_out | apply findSome_inv | apply each_inv | apply iter_inv | apply foldl_inv | apply foldl_inv2 | apply getD_inv | apply elim_inv
        | apply JudgedInv.mk | apply JudgedInv.take | apply JudgedInv.discard | apply ite_judged | apply OptInv.mk_some | apply OptInv.mk_none
        | apply ExcInv.mk_ok | apply ExcInv.mk_error | apply OutInv.mk_next | apply CmdInv.mk_commit | apply DirInv.mk_sent | apply DirRoomInv.mk_freeing)
    | exact Kept.congr ‹Kept P _› rfl | assumption | split | dsimp only

theorem shardStep_inv (hP : Closed P) (p : Portion) (n : Nat) (item : Nat) (room : Nat) (most : Nat) (s : State) (h_s : Kept P s) : Kept P (shardStep p n item room most s).2.2 := by
  unfold shardStep
  repeat' first
    | with_reducible (first
        | assumption | intro _ | apply (buildTables_inv hP) | apply (refineQuery_inv hP) | apply (scanProbe_inv hP) | apply (mergeQuery_inv hP) | apply ite_inv | apply ite_snd)
    | exact Kept.congr ‹Kept P _› rfl | assumption | split

theorem shardSteps_inv (hP : Closed P) (p : Portion) (n : Nat) (a2 : List Nat) (a3 : Nat) (a4 : Nat) (a5 : State) (h_a5 : Kept P a5) : Kept P (shardSteps p n a2 a3 a4 a5).2.2 := by
  induction a2 generalizing a3 a4 a5 with
  | nil => exact h_a5
  | cons i l ih =>
    have h := (shardStep_inv hP) p n i a3 a4 a5 h_a5
    unfold shardSteps
    revert h
    generalize shardStep p n i a3 a4 a5 = w
    obtain ⟨room, most, u⟩ := w
    intro h
    exact ih _ _ _ h

theorem closePortion_inv (hP : Closed P) (s : State) (p : Portion) (r : PortionReport) (h_s : Kept P s) : Kept P (closePortion s p r) := by
  unfold closePortion
  repeat' first
    | with_reducible (first
        | assumption | intro _)
    | exact True.intro | exact ⟨rfl, rfl⟩
    | with_reducible (first
        | apply (shardSteps_inv hP) | apply chargePortion_inv | apply (thresh_inv hP) | apply (takeEntriesOf_inv hP) | apply owe_inv | apply (winnowItems_inv hP)
        | apply meterMacs_inv | apply (coarseWork_inv hP) | apply foldl_bind_inv | apply bind_inv | apply ite_snd | apply ite_inv | apply ite_opt | apply ite_cmd
        | apply ite_out | apply findSome_inv | apply each_inv | apply iter_inv | apply foldl_inv | apply foldl_inv2 | apply getD_inv | apply elim_inv
        | apply JudgedInv.mk | apply JudgedInv.take | apply JudgedInv.discard | apply ite_judged | apply OptInv.mk_some | apply OptInv.mk_none
        | apply ExcInv.mk_ok | apply ExcInv.mk_error | apply OutInv.mk_next | apply CmdInv.mk_commit | apply DirInv.mk_sent | apply DirRoomInv.mk_freeing)
    | exact Kept.congr ‹Kept P _› rfl | assumption | split | dsimp only

theorem finishPortions_inv (hP : Closed P) (s : State) (h_s : Kept P s) : Kept P (finishPortions s) := by
  unfold finishPortions
  repeat' first
    | with_reducible (first
        | assumption | intro _)
    | exact True.intro | exact ⟨rfl, rfl⟩
    | with_reducible (first
        | apply (runEngines_inv hP) | apply (closePortion_inv hP) | apply done_inv | apply foldl_bind_inv | apply bind_inv | apply ite_snd | apply ite_inv
        | apply ite_opt | apply ite_cmd | apply ite_out | apply findSome_inv | apply each_inv | apply iter_inv | apply foldl_inv | apply foldl_inv2
        | apply getD_inv | apply elim_inv | apply JudgedInv.mk | apply JudgedInv.take | apply JudgedInv.discard | apply ite_judged | apply OptInv.mk_some
        | apply OptInv.mk_none | apply ExcInv.mk_ok | apply ExcInv.mk_error | apply OutInv.mk_next | apply CmdInv.mk_commit | apply DirInv.mk_sent
        | apply DirRoomInv.mk_freeing)
    | exact Kept.congr ‹Kept P _› rfl | assumption | split | dsimp only

theorem execPortionClose_inv (hP : Closed P) (q : Nat) (kind : EngineKind) (index : Nat) (r : PortionReport) (s : State) (h_s : Kept P s) : OutInv P (execPortionClose q kind index r s) := by
  unfold execPortionClose
  repeat' first
    | with_reducible (first
        | assumption | intro _ | apply done_inv | apply (runEngines_inv hP) | apply (closePortion_inv hP) | apply ite_inv | apply OutInv.mk_next)
    | exact Kept.congr ‹Kept P _› rfl | assumption | split

theorem placeTables_inv (s : State) (h_s : Kept P s) : Kept P (placeTables s) := by
  unfold placeTables
  repeat' first
    | with_reducible (first
        | assumption | intro _ | apply done_inv | apply ite_inv)
    | exact Kept.congr ‹Kept P _› rfl | assumption | split

theorem buildBatch_inv (hP : Closed P) (s : State) (h_s : Kept P s) : Kept P (buildBatch s) := by
  unfold buildBatch
  repeat' first
    | with_reducible (first
        | assumption | intro _)
    | exact True.intro | exact ⟨rfl, rfl⟩
    | with_reducible (first
        | apply placeTables_inv | apply (startQuery_inv hP) | apply foldl_bind_inv | apply bind_inv | apply ite_snd | apply ite_inv | apply ite_opt | apply ite_cmd
        | apply ite_out | apply findSome_inv | apply each_inv | apply iter_inv | apply foldl_inv | apply foldl_inv2 | apply getD_inv | apply elim_inv
        | apply JudgedInv.mk | apply JudgedInv.take | apply JudgedInv.discard | apply ite_judged | apply OptInv.mk_some | apply OptInv.mk_none
        | apply ExcInv.mk_ok | apply ExcInv.mk_error | apply OutInv.mk_next | apply CmdInv.mk_commit | apply DirInv.mk_sent | apply DirRoomInv.mk_freeing)
    | exact Kept.congr ‹Kept P _› rfl | assumption | split | dsimp only

theorem execJobAdmission_inv (hP : Closed P) (qp : Nat) (s : State) (h_s : Kept P s) : OutInv P (execJobAdmission qp s) := by
  unfold execJobAdmission
  repeat' first
    | with_reducible (first
        | assumption | intro _ | apply done_inv | apply (runEngines_inv hP) | apply (takeSubmissions_inv hP) | apply ite_inv | apply OutInv.mk_next)
    | exact Kept.congr ‹Kept P _› rfl | assumption | split

theorem execRowReadCompletion_inv (hP : Closed P) (jobid : Nat) (pos : Nat) (s : State) (h_s : Kept P s) : OutInv P (execRowReadCompletion jobid pos s) := by
  unfold execRowReadCompletion
  repeat' first
    | with_reducible (first
        | assumption | intro _ | apply done_inv | apply (runEngines_inv hP) | apply (rowRead_inv hP) | apply ite_inv | apply OutInv.mk_next)
    | exact Kept.congr ‹Kept P _› rfl | assumption | split

theorem execJobTimeout_inv (hP : Closed P) (jobid : Nat) (s : State) (h_s : Kept P s) : OutInv P (execJobTimeout jobid s) := by
  unfold execJobTimeout
  repeat' first
    | with_reducible (first
        | assumption | intro _ | apply done_inv | apply (runEngines_inv hP) | apply (jobTimeout_inv hP) | apply ite_inv | apply OutInv.mk_next)
    | exact Kept.congr ‹Kept P _› rfl | assumption | split

theorem execWjobTimeout_inv (hP : Closed P) (jobid : Nat) (s : State) (h_s : Kept P s) : OutInv P (execWjobTimeout jobid s) := by
  unfold execWjobTimeout
  repeat' first
    | with_reducible (first
        | assumption | intro _ | apply done_inv | apply (runEngines_inv hP) | apply (wjobTimeout_inv hP) | apply ite_inv | apply OutInv.mk_next)
    | exact Kept.congr ‹Kept P _› rfl | assumption | split

theorem execShardTimeout_inv (hP : Closed P) (jobid : Nat) (query : Nat) (rank : Nat) (s : State) (h_s : Kept P s) : OutInv P (execShardTimeout jobid query rank s) := by
  unfold execShardTimeout
  repeat' first
    | with_reducible (first
        | assumption | intro _ | apply done_inv | apply (runEngines_inv hP) | apply (shardTimeout_inv hP) | apply ite_inv | apply OutInv.mk_next)
    | exact Kept.congr ‹Kept P _› rfl | assumption | split

theorem execQueryEpochHoldExpiry_inv (hP : Closed P) (index : Nat) (jobid : Nat) (query : Nat) (s : State) (h_s : Kept P s) : OutInv P (execQueryEpochHoldExpiry index jobid query s) := by
  unfold execQueryEpochHoldExpiry
  repeat' first
    | with_reducible (first
        | assumption | intro _ | apply done_inv | apply (runEngines_inv hP) | apply (holdExpiry_inv hP) | apply ite_inv | apply OutInv.mk_next)
    | exact Kept.congr ‹Kept P _› rfl | assumption | split

theorem execCompactSwitch_inv (hP : Closed P) (index : Nat) (part : Nat) (s : State) (h_s : Kept P s) : OutInv P (execCompactSwitch index part s) := by
  unfold execCompactSwitch
  repeat' first
    | with_reducible (first
        | assumption | intro _ | apply done_inv | apply (settleAll_inv hP) | apply (compactSwitch_inv hP) | apply ite_inv | apply OutInv.mk_next)
    | exact Kept.congr ‹Kept P _› rfl | assumption | split

theorem doorbell_inv (hP : Closed P) (s : State) (fn : Nat) (lq : Nat) (isTail : Bool) (value : Word) (h_s : Kept P s) : Kept P (doorbell s fn lq isTail value) := by
  unfold doorbell
  repeat' first
    | with_reducible (first
        | assumption | intro _ | apply ring_inv | apply (runEngines_inv hP) | apply (takeSubmissions_inv hP) | apply (settleAll_inv hP) | apply (submit_inv hP) | apply ite_inv)
    | exact Kept.congr ‹Kept P _› rfl | assumption | split

theorem execSqtailDoorbell_inv (hP : Closed P) (fn : Nat) (lq : Nat) (value : Word) (s : State) (h_s : Kept P s) : OutInv P (execSqtailDoorbell fn lq value s) := by
  unfold execSqtailDoorbell
  repeat' first
    | with_reducible (first
        | assumption | intro _ | apply done_inv | apply (doorbell_inv hP) | apply ite_inv | apply OutInv.mk_next)
    | exact Kept.congr ‹Kept P _› rfl | assumption | split

theorem execCqheadDoorbell_inv (hP : Closed P) (fn : Nat) (lq : Nat) (value : Word) (s : State) (h_s : Kept P s) : OutInv P (execCqheadDoorbell fn lq value s) := by
  unfold execCqheadDoorbell
  repeat' first
    | with_reducible (first
        | assumption | intro _ | apply done_inv | apply (doorbell_inv hP) | apply ite_inv | apply OutInv.mk_next)
    | exact Kept.congr ‹Kept P _› rfl | assumption | split

theorem afterDoorbell_inv (hP : Closed P) (s : State) (r : ReqHdr) (h_s : Kept P s) : Kept P (afterDoorbell s r) := by
  unfold afterDoorbell
  repeat' first
    | with_reducible (first
        | assumption | intro _)
    | exact True.intro | exact ⟨rfl, rfl⟩
    | with_reducible (first
        | apply (takeSubmissions_inv hP) | apply foldl_bind_inv | apply bind_inv | apply ite_snd | apply ite_inv | apply ite_opt | apply ite_cmd | apply ite_out
        | apply findSome_inv | apply each_inv | apply iter_inv | apply foldl_inv | apply foldl_inv2 | apply getD_inv | apply elim_inv | apply JudgedInv.mk
        | apply JudgedInv.take | apply JudgedInv.discard | apply ite_judged | apply OptInv.mk_some | apply OptInv.mk_none | apply ExcInv.mk_ok
        | apply ExcInv.mk_error | apply OutInv.mk_next | apply CmdInv.mk_commit | apply DirInv.mk_sent | apply DirRoomInv.mk_freeing)
    | exact Kept.congr ‹Kept P _› rfl | assumption | split | dsimp only

theorem execStoreMasked_inv (hP : Closed P) (p : Nat) (h : ReqHdr) (d : List Byte) (s : State) (h_s : Kept P s) : OutInv P (execStoreMasked p h d s) := by
  unfold execStoreMasked
  repeat' first
    | with_reducible (first
        | assumption | intro _ | apply done_inv | apply (afterDoorbell_inv hP) | apply releaseFences_inv | apply (arrive_inv hP) | apply ite_inv | apply OutInv.mk_next)
    | exact Kept.congr ‹Kept P _› rfl | assumption | split

theorem execAtomicMax_inv (hP : Closed P) (p : Nat) (h : ReqHdr) (d : List Byte) (s : State) (h_s : Kept P s) : OutInv P (execAtomicMax p h d s) := by
  unfold execAtomicMax
  repeat' first
    | with_reducible (first
        | assumption | intro _ | apply done_inv | apply (afterDoorbell_inv hP) | apply releaseFences_inv | apply (arrive_inv hP) | apply ite_inv | apply OutInv.mk_next)
    | exact Kept.congr ‹Kept P _› rfl | assumption | split

theorem areaAnswer_inv (hP : Closed P) (s : State) (a : Access) (n : Nat) (status : Nat) (d : List Byte) (h_s : Kept P s) : Kept P (areaAnswer s a n status d) := by
  unfold areaAnswer
  repeat' first
    | with_reducible (first
        | assumption | intro _ | apply dropAccess_inv | apply updCmd_inv | apply (runMailboxes_inv hP) | apply ite_inv)
    | exact Kept.congr ‹Kept P _› rfl | assumption | split

theorem accessResponse_inv (hP : Closed P) (s : State) (acc : Nat) (h_s : Kept P s) : Kept P (accessResponse s acc) := by
  unfold accessResponse
  repeat' first
    | with_reducible (first
        | assumption | intro _ | apply (takeSubmissions_inv hP) | apply ringAnswer_inv | apply (areaAnswer_inv hP) | apply (sheafStep_inv hP) | apply (runEngines_inv hP)
        | apply ring_inv | apply (mailbox_inv hP) | apply ite_inv)
    | exact Kept.congr ‹Kept P _› rfl | assumption | split

theorem execEngineAccessResponse_inv (hP : Closed P) (acc : Nat) (s : State) (h_s : Kept P s) : OutInv P (execEngineAccessResponse acc s) := by
  unfold execEngineAccessResponse
  repeat' first
    | with_reducible (first
        | assumption | intro _ | apply done_inv | apply (accessResponse_inv hP) | apply ite_inv | apply OutInv.mk_next)
    | exact Kept.congr ‹Kept P _› rfl | assumption | split

end Sys2Proof.Machine
end

