-- ==== Sys2Proof/Laws/KeepsPower.lean ====
section
/-! SUPPORT. Power, resets, start-up, firmware and the strike keep every property of the view that memory operations keep: one lemma for each function, citing those of the
functions it calls. A function that does not write memory keeps every property of the view: its lemma asks nothing of the property. -/

namespace Sys2Proof.Machine

set_option linter.all false

variable {P : View → Prop}

/-! ### Power -/

theorem powerRecord_inv (s : State) (code : Nat) (p0 : Word) (p1 : Word) (p2 : Word) (p3 : Word) (h_s : Kept P s) : Kept P (powerRecord s code p0 p1 p2 p3) := by
  unfold powerRecord
  repeat' first
    | with_reducible (first
        | assumption | intro _ | apply record_inv | apply ite_inv)
    | exact Kept.congr ‹Kept P _› rfl | assumption | split

theorem updPower_inv (s : State) (f : PowerS → PowerS) (h_s : Kept P s) : Kept P (updPower s f) := by
  unfold updPower
  repeat' first
    | with_reducible (first
        | assumption | intro _ | apply ite_inv)
    | exact Kept.congr ‹Kept P _› rfl | assumption | split

theorem vinCross_inv (s : State) (mv : Nat) (h_s : Kept P s) : Kept P (vinCross s mv) := by
  unfold vinCross
  repeat' first
    | with_reducible (first
        | assumption | intro _ | apply updPower_inv | apply powerRecord_inv | apply ite_inv)
    | exact Kept.congr ‹Kept P _› rfl | assumption | split

theorem execVinWarning_inv (mv : Nat) (s : State) (h_s : Kept P s) : OutInv P (execVinWarning mv s) := by
  unfold execVinWarning
  repeat' first
    | with_reducible (first
        | assumption | intro _ | apply done_inv | apply vinCross_inv | apply ite_inv | apply OutInv.mk_next)
    | exact Kept.congr ‹Kept P _› rfl | assumption | split

theorem setPcap_inv (s : State) (w : Nat) (h_s : Kept P s) : Kept P (setPcap s w) := by
  unfold setPcap
  repeat' first
    | with_reducible (first
        | assumption | intro _ | apply updPower_inv | apply ite_inv)
    | exact Kept.congr ‹Kept P _› rfl | assumption | split

theorem execMfrPcap_inv (value : Nat) (s : State) (h_s : Kept P s) : OutInv P (execMfrPcap value s) := by
  unfold execMfrPcap
  repeat' first
    | with_reducible (first
        | assumption | intro _ | apply done_inv | apply setPcap_inv | apply ite_inv | apply OutInv.mk_next)
    | exact Kept.congr ‹Kept P _› rfl | assumption | split

theorem clearFaults_inv (s : State) (h_s : Kept P s) : Kept P (clearFaults s) := by
  unfold clearFaults
  repeat' first
    | with_reducible (first
        | assumption | intro _ | apply updPower_inv | apply ite_inv)
    | exact Kept.congr ‹Kept P _› rfl | assumption | split

theorem execClearFaults_inv (s : State) (h_s : Kept P s) : OutInv P (execClearFaults s) := by
  unfold execClearFaults
  repeat' first
    | with_reducible (first
        | assumption | intro _ | apply done_inv | apply clearFaults_inv | apply ite_inv | apply OutInv.mk_next)
    | exact Kept.congr ‹Kept P _› rfl | assumption | split

theorem lifeDie_inv (s : State) (i : Nat) (f : DieLife → DieLife) (h_s : Kept P s) : Kept P (lifeDie s i f) := by
  unfold lifeDie
  repeat' first
    | with_reducible (first
        | assumption | intro _ | apply updPower_inv | apply ite_inv)
    | exact Kept.congr ‹Kept P _› rfl | assumption | split

theorem alarmSet_inv (s : State) (place : ThermalPlace) (temp : Nat) (h_s : Kept P s) : Kept P (alarmSet s place temp) := by
  unfold alarmSet
  repeat' first
    | with_reducible (first
        | assumption | intro _ | apply updPower_inv | apply lifeDie_inv | apply alert_inv | apply powerRecord_inv | apply ite_inv)
    | exact Kept.congr ‹Kept P _› rfl | assumption | split

theorem execThermalAlarm_inv (place : ThermalPlace) (temp : Nat) (s : State) (h_s : Kept P s) : OutInv P (execThermalAlarm place temp s) := by
  unfold execThermalAlarm
  repeat' first
    | with_reducible (first
        | assumption | intro _ | apply done_inv | apply alarmSet_inv | apply ite_inv | apply OutInv.mk_next)
    | exact Kept.congr ‹Kept P _› rfl | assumption | split

theorem thermalCleared_inv (s : State) (place : ThermalPlace) (temp : Nat) (h_s : Kept P s) : Kept P (thermalCleared s place temp) := by
  unfold thermalCleared
  repeat' first
    | with_reducible (first
        | assumption | intro _ | apply updPower_inv | apply alert_inv | apply powerRecord_inv | apply ite_inv)
    | exact Kept.congr ‹Kept P _› rfl | assumption | split

theorem execThermalClear_inv (place : ThermalPlace) (temp : Nat) (s : State) (h_s : Kept P s) : OutInv P (execThermalClear place temp s) := by
  unfold execThermalClear
  repeat' first
    | with_reducible (first
        | assumption | intro _ | apply done_inv | apply thermalCleared_inv | apply telemetry_inv | apply ite_inv | apply OutInv.mk_next)
    | exact Kept.congr ‹Kept P _› rfl | assumption | split

theorem warnings_inv (s : State) (t : Telemetry) (h_s : Kept P s) : Kept P (warnings s t) := by
  unfold warnings
  repeat' first
    | with_reducible (first
        | assumption | intro _)
    | exact True.intro | exact ⟨rfl, rfl⟩
    | with_reducible (first
        | apply powerRecord_inv | apply updPower_inv | apply foldl_bind_inv | apply bind_inv | apply ite_snd | apply ite_inv | apply ite_opt | apply ite_cmd
        | apply ite_out | apply findSome_inv | apply each_inv | apply iter_inv | apply foldl_inv | apply foldl_inv2 | apply getD_inv | apply elim_inv
        | apply JudgedInv.mk | apply JudgedInv.take | apply JudgedInv.discard | apply ite_judged | apply OptInv.mk_some | apply OptInv.mk_none
        | apply ExcInv.mk_ok | apply ExcInv.mk_error | apply OutInv.mk_next | apply CmdInv.mk_commit | apply DirInv.mk_sent | apply DirRoomInv.mk_freeing)
    | exact Kept.congr ‹Kept P _› rfl | assumption | split | dsimp only

theorem telemetry_inv (s : State) (t : Telemetry) (h_s : Kept P s) : Kept P (telemetry s t) := by
  unfold telemetry
  repeat' first
    | with_reducible (first
        | assumption | intro _ | apply updPower_inv | apply vinCross_inv | apply warnings_inv | apply powerRecord_inv | apply ite_inv)
    | exact Kept.congr ‹Kept P _› rfl | assumption | split

theorem execTelemetryPeriod_inv (t : Telemetry) (s : State) (h_s : Kept P s) : OutInv P (execTelemetryPeriod t s) := by
  unfold execTelemetryPeriod
  repeat' first
    | with_reducible (first
        | assumption | intro _ | apply done_inv | apply telemetry_inv | apply throttle_inv | apply ite_inv | apply OutInv.mk_next)
    | exact Kept.congr ‹Kept P _› rfl | assumption | split

theorem countThrottle_inv (s : State) (l : Nat) (h_s : Kept P s) : Kept P (countThrottle s l) := by
  unfold countThrottle
  repeat' first
    | with_reducible (first
        | assumption | intro _ | apply updPower_inv | apply powerRecord_inv | apply ite_inv)
    | exact Kept.congr ‹Kept P _› rfl | assumption | split

theorem throttle_inv (s : State) (h_s : Kept P s) : Kept P (throttle s) := by
  unfold throttle
  repeat' first
    | with_reducible (first
        | assumption | intro _ | apply updPower_inv | apply countThrottle_inv | apply ite_inv)
    | exact Kept.congr ‹Kept P _› rfl | assumption | split

theorem capOver_inv (s : State) (h_s : Kept P s) : Kept P (capOver s) := by
  unfold capOver
  repeat' first
    | with_reducible (first
        | assumption | intro _ | apply powerRecord_inv | apply updPower_inv | apply ite_inv)
    | exact Kept.congr ‹Kept P _› rfl | assumption | split

theorem execCapOverrun_inv (s : State) (h_s : Kept P s) : OutInv P (execCapOverrun s) := by
  unfold execCapOverrun
  repeat' first
    | with_reducible (first
        | assumption | intro _ | apply done_inv | apply capOver_inv | apply ite_inv | apply OutInv.mk_next)
    | exact Kept.congr ‹Kept P _› rfl | assumption | split

theorem laneTick_inv (s : State) (lane : Nat) (margin : Nat) (bad : Bool) (h_s : Kept P s) : Kept P (laneTick s lane margin bad) := by
  unfold laneTick
  repeat' first
    | with_reducible (first
        | assumption | intro _ | apply updPower_inv | apply powerRecord_inv | apply bad_inv | apply ite_inv)
    | exact Kept.congr ‹Kept P _› rfl | assumption | split

theorem lifeTick_inv (s : State) (t : Telemetry) (margins : List Nat) (bad : List Nat) (h_s : Kept P s) : Kept P (lifeTick s t margins bad) := by
  unfold lifeTick
  repeat' first
    | with_reducible (first
        | assumption | intro _)
    | exact True.intro | exact ⟨rfl, rfl⟩
    | (extract_lets +onlyGivenNames x
       first
       | (refine ((fun (hx : Kept P x) => ?_) ?_) <;> [clear_value x; (revert x; change (Kept P) _)])
       | (refine ((fun (hx : Kept P x.2) => ?_) ?_) <;> [clear_value x; (revert x; change (Kept P) (Prod.snd _))])
       | (have _ := (x : List _); clear_value x)
       | skip)
    | with_reducible (first
        | apply updPower_inv | apply laneTick_inv | apply bad_inv | apply foldl_bind_inv | apply bind_inv | apply ite_snd | apply ite_inv | apply ite_opt
        | apply ite_cmd | apply ite_out | apply findSome_inv | apply each_inv | apply iter_inv | apply foldl_inv | apply foldl_inv2 | apply getD_inv
        | apply elim_inv | apply JudgedInv.mk | apply JudgedInv.take | apply JudgedInv.discard | apply ite_judged | apply OptInv.mk_some
        | apply OptInv.mk_none | apply ExcInv.mk_ok | apply ExcInv.mk_error | apply OutInv.mk_next | apply CmdInv.mk_commit | apply DirInv.mk_sent
        | apply DirRoomInv.mk_freeing)
    | exact Kept.congr ‹Kept P _› rfl | assumption | split | (refine OptInv.of_eq (Q := (Kept P)) ‹_ = some _› ?_) | (refine pair_of_eq ‹_ = (_, _)› ?_)
    | (refine pair_of_eq' ‹_ = (_, _)› ?_) | (refine DirInv.of_eq ‹_ = DirStep.sent _› ?_) | (refine DirRoomInv.of_eq ‹_ = DirRoom.freeing _› ?_)
    | dsimp only

theorem execLifetimeTick_inv (t : Telemetry) (margins : List Nat) (badBer : List Nat) (s : State) (h_s : Kept P s) : OutInv P (execLifetimeTick t margins badBer s) := by
  unfold execLifetimeTick
  repeat' first
    | with_reducible (first
        | assumption | intro _ | apply done_inv | apply lifeTick_inv | apply checkpoint_inv | apply ite_inv | apply OutInv.mk_next)
    | exact Kept.congr ‹Kept P _› rfl | assumption | split

theorem signOpen_inv (s : State) (h_s : Kept P s) : Kept P (signOpen s) := by
  unfold signOpen
  extract_lets n
  exact ite_inv (fun _ => h_s) (fun _ => Kept.congr h_s rfl)

theorem lifeSummary_inv (s : State) (h_s : Kept P s) : Kept P (lifeSummary s) := by
  unfold lifeSummary
  repeat' first
    | with_reducible (first
        | assumption | intro _ | apply powerRecord_inv | apply ite_inv)
    | exact Kept.congr ‹Kept P _› rfl | assumption | split

theorem checkpoint_inv (s : State) (h_s : Kept P s) : Kept P (checkpoint s) := by
  unfold checkpoint
  repeat' first
    | with_reducible (first
        | assumption | intro _ | apply signOpen_inv | apply lifeSummary_inv | apply ite_inv)
    | exact Kept.congr ‹Kept P _› rfl | assumption | split

theorem execBellCheckpoint_inv (s : State) (h_s : Kept P s) : OutInv P (execBellCheckpoint s) := by
  unfold execBellCheckpoint
  repeat' first
    | with_reducible (first
        | assumption | intro _ | apply done_inv | apply checkpoint_inv | apply ite_inv | apply OutInv.mk_next)
    | exact Kept.congr ‹Kept P _› rfl | assumption | split

theorem checkFull_inv (s : State) (h_s : Kept P s) : Kept P (checkFull s) := by
  unfold checkFull
  repeat' first
    | with_reducible (first
        | assumption | intro _ | apply record_inv | apply alert_inv | apply ite_inv)
    | exact Kept.congr ‹Kept P _› rfl | assumption | split

theorem journalPage_inv (s : State) (area : Nat) (h_s : Kept P s) : Kept P (journalPage s area) := by
  unfold journalPage
  repeat' first
    | with_reducible (first
        | assumption | intro _ | apply checkFull_inv | apply ite_inv)
    | exact Kept.congr ‹Kept P _› rfl | assumption | split

theorem execJournalWrite_inv (area : Nat) (s : State) (h_s : Kept P s) : OutInv P (execJournalWrite area s) := by
  unfold execJournalWrite
  repeat' first
    | with_reducible (first
        | assumption | intro _ | apply done_inv | apply journalPage_inv | apply ite_inv | apply OutInv.mk_next)
    | exact Kept.congr ‹Kept P _› rfl | assumption | split

theorem journalAll_inv (a0 : Nat) (s : State) (h_s : Kept P s) : Kept P (journalAll a0 s) := by
  induction a0 generalizing s with
  | zero => exact h_s
  | succ k ih =>
    have h : Kept P (each [0, 1, 2] (fun a s => if s.led.pend.any (fun e => ringArea e.1 == a) then journalPage s a else s) s) :=
      each_inv _ _ (fun a s hs => ite_inv (fun _ => journalPage_inv _ _ hs) (fun _ => hs)) _ h_s
    unfold journalAll
    generalize each [0, 1, 2] (fun a s => if s.led.pend.any (fun e => ringArea e.1 == a) then journalPage s a else s) s = t at h ⊢
    exact ite_inv (fun _ => ih _ h) (fun _ => h)

theorem overruns_inv (s : State) (h_s : Kept P s) : Kept P (overruns s) := by
  unfold overruns
  repeat' first
    | with_reducible (first
        | assumption | intro _)
    | exact True.intro | exact ⟨rfl, rfl⟩
    | with_reducible (first
        | apply record_inv | apply foldl_bind_inv | apply bind_inv | apply ite_snd | apply ite_inv | apply ite_opt | apply ite_cmd | apply ite_out
        | apply findSome_inv | apply each_inv | apply iter_inv | apply foldl_inv | apply foldl_inv2 | apply getD_inv | apply elim_inv | apply JudgedInv.mk
        | apply JudgedInv.take | apply JudgedInv.discard | apply ite_judged | apply OptInv.mk_some | apply OptInv.mk_none | apply ExcInv.mk_ok
        | apply ExcInv.mk_error | apply OutInv.mk_next | apply CmdInv.mk_commit | apply DirInv.mk_sent | apply DirRoomInv.mk_freeing)
    | exact Kept.congr ‹Kept P _› rfl | assumption | split | dsimp only

/-! ### Resets -/

theorem resetRecord_inv (s : State) (code : Nat) (p0 : Word) (p1 : Word) (p2 : Word) (p3 : Word) (h_s : Kept P s) : Kept P (resetRecord s code p0 p1 p2 p3) := by
  unfold resetRecord
  repeat' first
    | with_reducible (first
        | assumption | intro _ | apply record_inv | apply ite_inv)
    | exact Kept.congr ‹Kept P _› rfl | assumption | split

theorem removeReq_inv (s : State) (r : Req) (h_s : Kept P s) : Kept P (removeReq s r) := by
  unfold removeReq
  repeat' first
    | with_reducible (first
        | assumption | intro _)
    | exact True.intro | exact ⟨rfl, rfl⟩
    | (extract_lets +onlyGivenNames x
       first
       | (refine ((fun (hx : Kept P x) => ?_) ?_) <;> [clear_value x; (revert x; change (Kept P) _)])
       | (refine ((fun (hx : Kept P x.2) => ?_) ?_) <;> [clear_value x; (revert x; change (Kept P) (Prod.snd _))])
       | (have _ := (x : List _); clear_value x)
       | skip)
    | with_reducible (first
        | apply leaveBuffer_inv | apply freeTallies_inv | apply foldl_bind_inv | apply bind_inv | apply ite_snd | apply ite_inv | apply ite_opt
        | apply ite_cmd | apply ite_out | apply findSome_inv | apply each_inv | apply iter_inv | apply foldl_inv | apply foldl_inv2 | apply getD_inv
        | apply elim_inv | apply JudgedInv.mk | apply JudgedInv.take | apply JudgedInv.discard | apply ite_judged | apply OptInv.mk_some
        | apply OptInv.mk_none | apply ExcInv.mk_ok | apply ExcInv.mk_error | apply OutInv.mk_next | apply CmdInv.mk_commit | apply DirInv.mk_sent
        | apply DirRoomInv.mk_freeing)
    | exact Kept.congr ‹Kept P _› rfl | assumption | split | (refine OptInv.of_eq (Q := (Kept P)) ‹_ = some _› ?_) | (refine pair_of_eq ‹_ = (_, _)› ?_)
    | (refine pair_of_eq' ‹_ = (_, _)› ?_) | (refine DirInv.of_eq ‹_ = DirStep.sent _› ?_) | (refine DirRoomInv.of_eq ‹_ = DirRoom.freeing _› ?_)
    | dsimp only

theorem abortAnswer_inv (s : State) (level : Nat) (r : Req) (h_s : Kept P s) : Kept P (abortAnswer s level r) := by
  unfold abortAnswer
  repeat' first
    | with_reducible (first
        | assumption | intro _ | apply respond_inv | apply ite_inv)
    | exact Kept.congr ‹Kept P _› rfl | assumption | split

theorem abortRelay_inv (s : State) (level : Nat) (f : Relay) (h_s : Kept P s) : Kept P (abortRelay s level f) := by
  unfold abortRelay
  repeat' first
    | with_reducible (first
        | assumption | intro _ | apply endRelay_inv | apply ite_inv)
    | exact Kept.congr ‹Kept P _› rfl | assumption | split

theorem abortWaiting_inv (s : State) (p : Cmd → Bool) (h_s : Kept P s) : Kept P (abortWaiting s p) := by
  unfold abortWaiting
  repeat' first
    | with_reducible (first
        | assumption | intro _)
    | exact True.intro | exact ⟨rfl, rfl⟩
    | with_reducible (first
        | apply refuseCmd_inv | apply foldl_bind_inv | apply bind_inv | apply ite_snd | apply ite_inv | apply ite_opt | apply ite_cmd | apply ite_out
        | apply findSome_inv | apply each_inv | apply iter_inv | apply foldl_inv | apply foldl_inv2 | apply getD_inv | apply elim_inv | apply JudgedInv.mk
        | apply JudgedInv.take | apply JudgedInv.discard | apply ite_judged | apply OptInv.mk_some | apply OptInv.mk_none | apply ExcInv.mk_ok
        | apply ExcInv.mk_error | apply OutInv.mk_next | apply CmdInv.mk_commit | apply DirInv.mk_sent | apply DirRoomInv.mk_freeing)
    | exact Kept.congr ‹Kept P _› rfl | assumption | split | dsimp only

theorem releaseClaims_inv (s : State) (p : ClaimRec → Bool) (h_s : Kept P s) : Kept P (releaseClaims s p) := by
  unfold releaseClaims
  repeat' first
    | with_reducible (first
        | assumption | intro _)
    | exact True.intro | exact ⟨rfl, rfl⟩
    | with_reducible (first
        | apply dropClaim_inv | apply foldl_bind_inv | apply bind_inv | apply ite_snd | apply ite_inv | apply ite_opt | apply ite_cmd | apply ite_out
        | apply findSome_inv | apply each_inv | apply iter_inv | apply foldl_inv | apply foldl_inv2 | apply getD_inv | apply elim_inv | apply JudgedInv.mk
        | apply JudgedInv.take | apply JudgedInv.discard | apply ite_judged | apply OptInv.mk_some | apply OptInv.mk_none | apply ExcInv.mk_ok
        | apply ExcInv.mk_error | apply OutInv.mk_next | apply CmdInv.mk_commit | apply DirInv.mk_sent | apply DirRoomInv.mk_freeing)
    | exact Kept.congr ‹Kept P _› rfl | assumption | split | dsimp only

theorem trustServes_inv (s : State) (standby : Bool) (h_s : Kept P s) : Kept P (trustServes s standby) := by
  unfold trustServes
  repeat' first
    | with_reducible (first
        | assumption | intro _ | apply abortWaiting_inv | apply ite_inv)
    | exact Kept.congr ‹Kept P _› rfl | assumption | split

theorem dumpRecord_inv (s : State) (d : Dump) (area : Nat) (h_s : Kept P s) : Kept P (dumpRecord s d area) := by
  unfold dumpRecord
  repeat' first
    | with_reducible (first
        | assumption | intro _ | apply resetRecord_inv | apply ite_inv)
    | exact Kept.congr ‹Kept P _› rfl | assumption | split

theorem dumpQuarter_inv (s : State) (q : Nat) (d : Dump) (h_s : Kept P s) : Kept P (dumpQuarter s q d) := by
  unfold dumpQuarter
  repeat' first
    | with_reducible (first
        | assumption | intro _ | apply dumpRecord_inv | apply ite_inv)
    | exact Kept.congr ‹Kept P _› rfl | assumption | split

theorem dumpFlash_inv (s : State) (d : Dump) (h_s : Kept P s) : Kept P (dumpFlash s d) := by
  unfold dumpFlash
  repeat' first
    | with_reducible (first
        | assumption | intro _ | apply dumpRecord_inv | apply ite_inv)
    | exact Kept.congr ‹Kept P _› rfl | assumption | split

theorem resetBegin_inv (s : State) (x : ResetScope) (cause : Nat) (dseq : Nat) (aborted : Nat) (h_s : Kept P s) : Kept P (resetBegin s x cause dseq aborted) := by
  unfold resetBegin
  repeat' first
    | with_reducible (first
        | assumption | intro _ | apply resetRecord_inv | apply ite_inv)
    | exact Kept.congr ‹Kept P _› rfl | assumption | split

theorem addRun_inv (s : State) (r : ResetRun) (h_s : Kept P s) : Kept P (addRun s r) := by
  unfold addRun
  repeat' first
    | with_reducible (first
        | assumption | intro _ | apply ite_inv)
    | exact Kept.congr ‹Kept P _› rfl | assumption | split

theorem beginContext_inv (hP : Closed P) (s : State) (qp : Nat) (cause : Nat) (unit : Option HangUnit) (h_s : Kept P s) : Kept P (beginContext s qp cause unit) := by
  unfold beginContext
  repeat' first
    | with_reducible (first
        | assumption | intro _)
    | exact True.intro | exact ⟨rfl, rfl⟩
    | with_reducible (first
        | apply resetBegin_inv | apply addRun_inv | apply (endJob_inv hP) | apply foldl_bind_inv | apply bind_inv | apply ite_snd | apply ite_inv | apply ite_opt
        | apply ite_cmd | apply ite_out | apply findSome_inv | apply each_inv | apply iter_inv | apply foldl_inv | apply foldl_inv2 | apply getD_inv
        | apply elim_inv | apply JudgedInv.mk | apply JudgedInv.take | apply JudgedInv.discard | apply ite_judged | apply OptInv.mk_some
        | apply OptInv.mk_none | apply ExcInv.mk_ok | apply ExcInv.mk_error | apply OutInv.mk_next | apply CmdInv.mk_commit | apply DirInv.mk_sent
        | apply DirRoomInv.mk_freeing)
    | exact Kept.congr ‹Kept P _› rfl | assumption | split | dsimp only

theorem dropQueries_inv (hP : Closed P) (s : State) (p : Index → ShardQuery → Bool) (h_s : Kept P s) : Kept P (dropQueries s p) := by
  unfold dropQueries
  repeat' first
    | with_reducible (first
        | assumption | intro _)
    | exact True.intro | exact ⟨rfl, rfl⟩
    | with_reducible (first
        | apply (dropQuery_inv hP) | apply foldl_bind_inv | apply bind_inv | apply ite_snd | apply ite_inv | apply ite_opt | apply ite_cmd | apply ite_out
        | apply findSome_inv | apply each_inv | apply iter_inv | apply foldl_inv | apply foldl_inv2 | apply getD_inv | apply elim_inv | apply JudgedInv.mk
        | apply JudgedInv.take | apply JudgedInv.discard | apply ite_judged | apply OptInv.mk_some | apply OptInv.mk_none | apply ExcInv.mk_ok
        | apply ExcInv.mk_error | apply OutInv.mk_next | apply CmdInv.mk_commit | apply DirInv.mk_sent | apply DirRoomInv.mk_freeing)
    | exact Kept.congr ‹Kept P _› rfl | assumption | split | dsimp only

theorem beginEngine_inv (hP : Closed P) (s : State) (q : Nat) (k : EngineKind) (i : Nat) (cause : Nat) (unit : Option HangUnit) (h_s : Kept P s) : Kept P (beginEngine s q k i cause unit) := by
  unfold beginEngine
  repeat' first
    | with_reducible (first
        | assumption | intro _)
    | exact True.intro | exact ⟨rfl, rfl⟩
    | (extract_lets +onlyGivenNames x
       first
       | (refine ((fun (hx : Kept P x) => ?_) ?_) <;> [clear_value x; (revert x; change (Kept P) _)])
       | (refine ((fun (hx : Kept P x.2) => ?_) ?_) <;> [clear_value x; (revert x; change (Kept P) (Prod.snd _))])
       | (have _ := (x : List _); clear_value x)
       | skip)
    | with_reducible (first
        | apply resetBegin_inv | apply dumpQuarter_inv | apply addRun_inv | apply (endJob_inv hP) | apply (dropQueries_inv hP) | apply removeReq_inv
        | apply abortAnswer_inv | apply held_inv | apply foldl_bind_inv | apply bind_inv | apply ite_snd | apply ite_inv | apply ite_opt | apply ite_cmd
        | apply ite_out | apply findSome_inv | apply each_inv | apply iter_inv | apply foldl_inv | apply foldl_inv2 | apply getD_inv | apply elim_inv
        | apply JudgedInv.mk | apply JudgedInv.take | apply JudgedInv.discard | apply ite_judged | apply OptInv.mk_some | apply OptInv.mk_none
        | apply ExcInv.mk_ok | apply ExcInv.mk_error | apply OutInv.mk_next | apply CmdInv.mk_commit | apply DirInv.mk_sent | apply DirRoomInv.mk_freeing)
    | exact Kept.congr ‹Kept P _› rfl | assumption | split | (refine OptInv.of_eq (Q := (Kept P)) ‹_ = some _› ?_) | (refine pair_of_eq ‹_ = (_, _)› ?_)
    | (refine pair_of_eq' ‹_ = (_, _)› ?_) | (refine DirInv.of_eq ‹_ = DirStep.sent _› ?_) | (refine DirRoomInv.of_eq ‹_ = DirRoom.freeing _› ?_)
    | dsimp only

theorem poisonUnsaved_inv (hP : Closed P) (s : State) (q : Nat) (h_s : Kept P s) : Kept P (poisonUnsaved s q) := by
  unfold poisonUnsaved
  repeat' first
    | with_reducible (first
        | assumption | intro _)
    | exact True.intro | exact ⟨rfl, rfl⟩
    | (extract_lets +onlyGivenNames x
       first
       | (refine ((fun (hx : Kept P x) => ?_) ?_) <;> [clear_value x; (revert x; change (Kept P) _)])
       | (refine ((fun (hx : Kept P x.2) => ?_) ?_) <;> [clear_value x; (revert x; change (Kept P) (Prod.snd _))])
       | (refine ((fun (hx : OptInv (Kept P) x) => ?_) ?_) <;> [clear_value x; (revert x; change OptInv (Kept P) _)])
       | (refine ((fun (hx : CmdInv P x) => ?_) ?_) <;> [clear_value x; (revert x; change (CmdInv P) _)])
       | (have _ := (x : List _); clear_value x)
       | skip)
    | with_reducible (first
        | apply setPoison_inv | apply foldl_bind_inv | apply bind_inv | apply ite_snd | apply ite_inv | apply ite_opt | apply ite_cmd | apply ite_out
        | apply findSome_inv | apply each_inv | apply iter_inv | apply foldl_inv | apply foldl_inv2 | apply getD_inv | apply elim_inv | apply JudgedInv.mk
        | apply JudgedInv.take | apply JudgedInv.discard | apply ite_judged | apply OptInv.mk_some | apply OptInv.mk_none | apply ExcInv.mk_ok
        | apply ExcInv.mk_error | apply OutInv.mk_next | apply CmdInv.mk_commit | apply DirInv.mk_sent | apply DirRoomInv.mk_freeing)
    | exact Kept.congr ‹Kept P _› rfl | assumption | refine Inv.congr (setPoison_inv _ _ _ ?_ ) rfl | split
    | (refine OptInv.of_eq (Q := (Kept P)) ‹_ = some _› ?_) | (refine OptInv.of_eq (Q := (CmdInv P)) ‹_ = some _› ?_) | (refine pair_of_eq ‹_ = (_, _)› ?_)
    | (refine pair_of_eq' ‹_ = (_, _)› ?_) | (refine DirInv.of_eq ‹_ = DirStep.sent _› ?_) | (refine DirRoomInv.of_eq ‹_ = DirRoom.freeing _› ?_)
    | (refine CmdInv.of_eq ‹_ = CmdResult.commit _ _ _ _› ?_) | (refine ExcInv.of_eq ‹_ = Except.ok _› ?_) | dsimp only
    | exact Kept.write hP ‹Kept P _› rfl | exact Kept.cache hP ‹Kept P _› rfl | exact Kept.clear hP ‹Kept P _› rfl
    | exact Kept.clears hP ‹Kept P _› rfl | dsimp +zetaDelta only
    | (refine OptInv.of_eq (Q := fun (t : _ × State) => (Kept P) t.2) ‹_ = some _› ?_)
    | (refine OptInv.of_eq (Q := fun (t : _ × State) => (Kept P) t.2) (t := (_, _)) ‹_ = some (_, _)› ?_)
    | (refine ExcInv.of_eq (Q := fun (t : _ × State) => (Kept P) t.2) (t := (_, _)) ‹_ = Except.ok (_, _)› ?_)

theorem recordsSaved_inv (s : State) (q : Nat) (h_s : Kept P s) : Kept P (recordsSaved s q) := by
  unfold recordsSaved
  repeat' first
    | with_reducible (first
        | assumption | intro _ | apply ite_inv)
    | exact Kept.congr ‹Kept P _› rfl | assumption | split

theorem homeDown_inv (hP : Closed P) (s : State) (q : Nat) (saved : Bool) (h_s : Kept P s) : Kept P (homeDown s q saved) := by
  unfold homeDown
  repeat' first
    | with_reducible (first
        | assumption | intro _)
    | exact True.intro | exact ⟨rfl, rfl⟩
    | (extract_lets +onlyGivenNames x
       first
       | (refine ((fun (hx : Kept P x) => ?_) ?_) <;> [clear_value x; (revert x; change (Kept P) _)])
       | (refine ((fun (hx : Kept P x.2) => ?_) ?_) <;> [clear_value x; (revert x; change (Kept P) (Prod.snd _))])
       | (have _ := (x : List _); clear_value x)
       | skip)
    | with_reducible (first
        | apply recordsSaved_inv | apply (poisonUnsaved_inv hP) | apply foldl_bind_inv | apply bind_inv | apply ite_snd | apply ite_inv | apply ite_opt
        | apply ite_cmd | apply ite_out | apply findSome_inv | apply each_inv | apply iter_inv | apply foldl_inv | apply foldl_inv2 | apply getD_inv
        | apply elim_inv | apply JudgedInv.mk | apply JudgedInv.take | apply JudgedInv.discard | apply ite_judged | apply OptInv.mk_some
        | apply OptInv.mk_none | apply ExcInv.mk_ok | apply ExcInv.mk_error | apply OutInv.mk_next | apply CmdInv.mk_commit | apply DirInv.mk_sent
        | apply DirRoomInv.mk_freeing)
    | exact Kept.congr ‹Kept P _› rfl | assumption | split | (refine OptInv.of_eq (Q := (Kept P)) ‹_ = some _› ?_) | (refine pair_of_eq ‹_ = (_, _)› ?_)
    | (refine pair_of_eq' ‹_ = (_, _)› ?_) | (refine DirInv.of_eq ‹_ = DirStep.sent _› ?_) | (refine DirRoomInv.of_eq ‹_ = DirRoom.freeing _› ?_)
    | dsimp only

theorem blocksDown_inv (s : State) (q : Nat) (h_s : Kept P s) : Kept P (blocksDown s q) := by
  unfold blocksDown
  repeat' first
    | with_reducible (first
        | assumption | intro _ | apply held_inv | apply ite_inv)
    | exact Kept.congr ‹Kept P _› rfl | assumption | split

theorem linksDown_inv (hP : Closed P) (s : State) (q : Nat) (h_s : Kept P s) : Kept P (linksDown s q) := by
  unfold linksDown
  repeat' first
    | with_reducible (first
        | assumption | intro _)
    | exact True.intro | exact ⟨rfl, rfl⟩
    | with_reducible (first
        | apply (dropPort_inv hP) | apply (cxlDown_inv hP) | apply foldl_bind_inv | apply bind_inv | apply ite_snd | apply ite_inv | apply ite_opt | apply ite_cmd
        | apply ite_out | apply findSome_inv | apply each_inv | apply iter_inv | apply foldl_inv | apply foldl_inv2 | apply getD_inv | apply elim_inv
        | apply JudgedInv.mk | apply JudgedInv.take | apply JudgedInv.discard | apply ite_judged | apply OptInv.mk_some | apply OptInv.mk_none
        | apply ExcInv.mk_ok | apply ExcInv.mk_error | apply OutInv.mk_next | apply CmdInv.mk_commit | apply DirInv.mk_sent | apply DirRoomInv.mk_freeing)
    | exact Kept.congr ‹Kept P _› rfl | assumption | split | dsimp only

theorem beginQuarter_inv (hP : Closed P) (s : State) (q cause : Nat) (unit : Option HangUnit) (held : Bool) (h_s : Kept P s) :
    (Kept P) (beginQuarter s q cause unit held) := by
  unfold beginQuarter
  extract_lets x
  have h0 := freeWord_inv s h_s
  generalize freeWord s = p at h0 ⊢
  obtain ⟨w, t⟩ := p
  dsimp -zeta only at h0 ⊢
  extract_lets +onlyGivenNames saved s1
  have h1 : Kept P s1 := abortWaiting_inv _ _ h0
  clear_value s1
  extract_lets +onlyGivenNames s2
  have h2 : Kept P s2 := ite_inv (fun _ => trustServes_inv _ _ h1) (fun _ => ite_inv (fun _ => trustServes_inv _ _ h1) (fun _ => h1))
  clear_value s2
  extract_lets +onlyGivenNames jobs reqs relays d0 d s3
  have h3 : Kept P s3 := resetBegin_inv _ _ _ _ _ h2
  clear_value s3 d
  extract_lets +onlyGivenNames a4 b4 s4
  have h4 : Kept P s4 := Kept.congr h3 rfl
  clear_value s4
  extract_lets +onlyGivenNames s5
  have h5 : Kept P s5 := addRun_inv _ _ h4
  clear_value s5
  extract_lets +onlyGivenNames a6 s6
  have h6 : Kept P s6 := Kept.congr h5 rfl
  clear_value s6
  extract_lets +onlyGivenNames s7
  have h7 : Kept P s7 := dropUses_inv _ _ h6
  clear_value s7
  extract_lets +onlyGivenNames s8
  have h8 : Kept P s8 := each_inv _ _ (fun r s hs => removeReq_inv _ _ hs) _ h7
  clear_value s8
  extract_lets +onlyGivenNames s9
  have h9 : Kept P s9 := (linksDown_inv hP) _ _ h8
  clear_value s9
  extract_lets +onlyGivenNames d3 s10
  have h10 : Kept P s10 := each_inv _ _ (fun r s hs => abortAnswer_inv _ _ _ hs) _ h9
  clear_value s10 d3
  extract_lets +onlyGivenNames s11
  have h11 : Kept P s11 := each_inv _ _ (fun r s hs => abortRelay_inv _ _ _ hs) _ h10
  clear_value s11
  extract_lets +onlyGivenNames s12
  have h12 : Kept P s12 := (homeDown_inv hP) _ _ _ (blocksDown_inv _ _ ((dropQueries_inv hP) _ _ h11))
  clear_value s12
  extract_lets +onlyGivenNames s13
  have h13 : Kept P s13 := releaseClaims_inv _ _ h12
  clear_value s13
  extract_lets +onlyGivenNames s14
  have h14 : Kept P s14 := dumpQuarter_inv _ _ _ h13
  clear_value s14
  extract_lets +onlyGivenNames a15 s15
  have h15 : Kept P s15 := Kept.congr h14 rfl
  clear_value s15
  exact updPower_inv _ _ h15

theorem restoreDomain_inv (s : State) (h_s : Kept P s) : Kept P (restoreDomain s) := by
  unfold restoreDomain
  repeat' first
    | with_reducible (first
        | assumption | intro _ | apply ite_inv)
    | exact Kept.congr ‹Kept P _› rfl | assumption | split

theorem assertDevice_inv (hP : Closed P) (s : State) (h_s : Kept P s) : Kept P (assertDevice s) := by
  unfold assertDevice
  exact restoreDomain_inv _ (Kept.mk (hP.empty s.view [] h_s))

theorem quenchDevice_inv (hP : Closed P) (s : State) (level : Nat) (h_s : Kept P s) : Kept P (quenchDevice s level) := by
  unfold quenchDevice
  repeat' first
    | with_reducible (first
        | assumption | intro _)
    | exact True.intro | exact ⟨rfl, rfl⟩
    | with_reducible (first
        | apply removeReq_inv | apply abortAnswer_inv | apply abortRelay_inv | apply (endJob_inv hP) | apply (completeJob_inv hP) | apply endRecord_inv
        | apply abortWaiting_inv | apply endCmd_inv | apply foldl_bind_inv | apply bind_inv | apply ite_snd | apply ite_inv | apply ite_opt | apply ite_cmd
        | apply ite_out | apply findSome_inv | apply each_inv | apply iter_inv | apply foldl_inv | apply foldl_inv2 | apply getD_inv | apply elim_inv
        | apply JudgedInv.mk | apply JudgedInv.take | apply JudgedInv.discard | apply ite_judged | apply OptInv.mk_some | apply OptInv.mk_none
        | apply ExcInv.mk_ok | apply ExcInv.mk_error | apply OutInv.mk_next | apply CmdInv.mk_commit | apply DirInv.mk_sent | apply DirRoomInv.mk_freeing)
    | exact Kept.congr ‹Kept P _› rfl | assumption | split | dsimp only

theorem lapseAll_inv (s : State) (h_s : Kept P s) : Kept P (lapseAll s) := by
  unfold lapseAll
  exact Kept.congr (each_inv _ _ (fun r s h => removeReq_inv s r h) s h_s) rfl

theorem captureDevice_inv (s : State) (x : ResetScope) (cause : Nat) (unit : Option HangUnit) (discard : Bool) (h_s : Kept P s) : Kept P (captureDevice s x cause unit discard) := by
  unfold captureDevice
  repeat' first
    | with_reducible (first
        | assumption | intro _ | apply dumpQuarter_inv | apply dumpFlash_inv | apply ite_inv)
    | exact Kept.congr ‹Kept P _› rfl | assumption | split

theorem markOrderly_inv (s : State) (h_s : Kept P s) : Kept P (markOrderly s) := by
  unfold markOrderly
  repeat' first
    | with_reducible (first
        | assumption | intro _ | apply ite_inv)
    | exact Kept.congr ‹Kept P _› rfl | assumption | split

theorem beginDevice_inv (hP : Closed P) (s : State) (x : ResetScope) (cause : Nat) (unit : Option HangUnit) (orderly : Bool) (h_s : Kept P s) : Kept P (beginDevice s x cause unit orderly) := by
  unfold beginDevice
  repeat' first
    | with_reducible (first
        | assumption | intro _)
    | exact True.intro | exact ⟨rfl, rfl⟩
    | (extract_lets +onlyGivenNames x
       first
       | (refine ((fun (hx : Kept P x) => ?_) ?_) <;> [clear_value x; (revert x; change (Kept P) _)])
       | (refine ((fun (hx : Kept P x.2) => ?_) ?_) <;> [clear_value x; (revert x; change (Kept P) (Prod.snd _))])
       | (have _ := (x : List _); clear_value x)
       | skip)
    | with_reducible (first
        | apply (quenchDevice_inv hP) | apply lapseAll_inv | apply resetBegin_inv | apply captureDevice_inv | apply releaseClaims_inv | apply updPower_inv | apply (settleAll_inv hP)
        | apply (writeBack_inv hP) | apply (assertDevice_inv hP) | apply held_inv | apply foldl_bind_inv | apply bind_inv | apply ite_snd | apply ite_inv
        | apply ite_opt | apply ite_cmd | apply ite_out | apply findSome_inv | apply each_inv | apply iter_inv | apply foldl_inv | apply foldl_inv2
        | apply getD_inv | apply elim_inv | apply JudgedInv.mk | apply JudgedInv.take | apply JudgedInv.discard | apply ite_judged | apply OptInv.mk_some
        | apply OptInv.mk_none | apply ExcInv.mk_ok | apply ExcInv.mk_error | apply OutInv.mk_next | apply CmdInv.mk_commit | apply DirInv.mk_sent
        | apply DirRoomInv.mk_freeing)
    | exact Kept.congr ‹Kept P _› rfl | assumption | split | (refine OptInv.of_eq (Q := (Kept P)) ‹_ = some _› ?_) | (refine pair_of_eq ‹_ = (_, _)› ?_)
    | (refine pair_of_eq' ‹_ = (_, _)› ?_) | (refine DirInv.of_eq ‹_ = DirStep.sent _› ?_) | (refine DirRoomInv.of_eq ‹_ = DirRoom.freeing _› ?_)
    | dsimp only

theorem flushEnds_inv (hP : Closed P) (s : State) (h_s : Kept P s) : Kept P (flushEnds s) := by
  unfold flushEnds
  repeat' first
    | with_reducible (first
        | assumption | intro _)
    | exact True.intro | exact ⟨rfl, rfl⟩
    | (extract_lets +onlyGivenNames x
       first
       | (refine ((fun (hx : Kept P x) => ?_) ?_) <;> [clear_value x; (revert x; change (Kept P) _)])
       | (refine ((fun (hx : Kept P x.2) => ?_) ?_) <;> [clear_value x; (revert x; change (Kept P) (Prod.snd _))])
       | (have _ := (x : List _); clear_value x)
       | skip)
    | with_reducible (first
        | apply checkpoint_inv | apply journalAll_inv | apply markOrderly_inv | apply (assertDevice_inv hP) | apply foldl_bind_inv | apply bind_inv | apply ite_snd
        | apply ite_inv | apply ite_opt | apply ite_cmd | apply ite_out | apply findSome_inv | apply each_inv | apply iter_inv | apply foldl_inv
        | apply foldl_inv2 | apply getD_inv | apply elim_inv | apply JudgedInv.mk | apply JudgedInv.take | apply JudgedInv.discard | apply ite_judged
        | apply OptInv.mk_some | apply OptInv.mk_none | apply ExcInv.mk_ok | apply ExcInv.mk_error | apply OutInv.mk_next | apply CmdInv.mk_commit
        | apply DirInv.mk_sent | apply DirRoomInv.mk_freeing)
    | exact Kept.congr ‹Kept P _› rfl | assumption | split | (refine OptInv.of_eq (Q := (Kept P)) ‹_ = some _› ?_) | (refine pair_of_eq ‹_ = (_, _)› ?_)
    | (refine pair_of_eq' ‹_ = (_, _)› ?_) | (refine DirInv.of_eq ‹_ = DirStep.sent _› ?_) | (refine DirRoomInv.of_eq ‹_ = DirRoom.freeing _› ?_)
    | dsimp only

theorem flushAbandoned_inv (hP : Closed P) (s : State) (h_s : Kept P s) : Kept P (flushAbandoned s) := by
  unfold flushAbandoned
  repeat' first
    | with_reducible (first
        | assumption | intro _ | apply (assertDevice_inv hP) | apply ite_inv)
    | exact Kept.congr ‹Kept P _› rfl | assumption | split

theorem execOrderlyFlushAbandoned_inv (hP : Closed P) (s : State) (h_s : Kept P s) : OutInv P (execOrderlyFlushAbandoned s) := by
  unfold execOrderlyFlushAbandoned
  repeat' first
    | with_reducible (first
        | assumption | intro _ | apply done_inv | apply (flushAbandoned_inv hP) | apply ite_inv | apply OutInv.mk_next)
    | exact Kept.congr ‹Kept P _› rfl | assumption | split

theorem escalatedRecord_inv (s : State) (x : ResetScope) (y : ResetScope) (cause : Nat) (h_s : Kept P s) : Kept P (escalatedRecord s x y cause) := by
  unfold escalatedRecord
  repeat' first
    | with_reducible (first
        | assumption | intro _ | apply resetRecord_inv | apply ite_inv)
    | exact Kept.congr ‹Kept P _› rfl | assumption | split

theorem beginReset_inv (hP : Closed P) (s : State) (x : ResetScope) (cause : Nat) (unit : Option HangUnit) (held : Bool) (h_s : Kept P s) : Kept P (beginReset s x cause unit held) := by
  unfold beginReset
  repeat' first
    | with_reducible (first
        | assumption | intro _)
    | exact True.intro | exact ⟨rfl, rfl⟩
    | (extract_lets +onlyGivenNames x
       first
       | (refine ((fun (hx : Kept P x) => ?_) ?_) <;> [clear_value x; (revert x; change (Kept P) _)])
       | (refine ((fun (hx : Kept P x.2) => ?_) ?_) <;> [clear_value x; (revert x; change (Kept P) (Prod.snd _))])
       | (have _ := (x : List _); clear_value x)
       | skip)
    | with_reducible (first
        | apply (beginContext_inv hP) | apply (beginEngine_inv hP) | apply (beginDevice_inv hP) | apply escalatedRecord_inv | apply (beginQuarter_inv hP) | apply held_inv
        | apply foldl_bind_inv | apply bind_inv | apply ite_snd | apply ite_inv | apply ite_opt | apply ite_cmd | apply ite_out | apply findSome_inv
        | apply each_inv | apply iter_inv | apply foldl_inv | apply foldl_inv2 | apply getD_inv | apply elim_inv | apply JudgedInv.mk | apply JudgedInv.take
        | apply JudgedInv.discard | apply ite_judged | apply OptInv.mk_some | apply OptInv.mk_none | apply ExcInv.mk_ok | apply ExcInv.mk_error
        | apply OutInv.mk_next | apply CmdInv.mk_commit | apply DirInv.mk_sent | apply DirRoomInv.mk_freeing)
    | exact Kept.congr ‹Kept P _› rfl | assumption | split | (refine OptInv.of_eq (Q := (Kept P)) ‹_ = some _› ?_) | (refine pair_of_eq ‹_ = (_, _)› ?_)
    | (refine pair_of_eq' ‹_ = (_, _)› ?_) | (refine DirInv.of_eq ‹_ = DirStep.sent _› ?_) | (refine DirRoomInv.of_eq ‹_ = DirRoom.freeing _› ?_)
    | dsimp only

theorem askPower_inv (s : State) (cause : Nat) (h_s : Kept P s) : Kept P (askPower s cause) := by
  unfold askPower
  repeat' first
    | with_reducible (first
        | assumption | intro _ | apply resetRecord_inv | apply ite_inv)
    | exact Kept.congr ‹Kept P _› rfl | assumption | split

theorem powerDue_inv (s : State) (h_s : Kept P s) : Kept P (powerDue s) := by
  unfold powerDue
  repeat' first
    | with_reducible (first
        | assumption | intro _ | apply askPower_inv | apply ite_inv)
    | exact Kept.congr ‹Kept P _› rfl | assumption | split

theorem execPwrcycReq_inv (s : State) (h_s : Kept P s) : OutInv P (execPwrcycReq s) := by
  unfold execPwrcycReq
  repeat' first
    | with_reducible (first
        | assumption | intro _ | apply done_inv | apply powerDue_inv | apply ite_inv | apply OutInv.mk_next)
    | exact Kept.congr ‹Kept P _› rfl | assumption | split

theorem powerTimeout_inv (s : State) (h_s : Kept P s) : Kept P (powerTimeout s) := by
  unfold powerTimeout
  repeat' first
    | with_reducible (first
        | assumption | intro _ | apply resetRecord_inv | apply ite_inv)
    | exact Kept.congr ‹Kept P _› rfl | assumption | split

theorem execPwrcycTimeout_inv (s : State) (h_s : Kept P s) : OutInv P (execPwrcycTimeout s) := by
  unfold execPwrcycTimeout
  repeat' first
    | with_reducible (first
        | assumption | intro _ | apply done_inv | apply powerTimeout_inv | apply ite_inv | apply OutInv.mk_next)
    | exact Kept.congr ‹Kept P _› rfl | assumption | split

theorem escalate_inv (hP : Closed P) (s : State) (x : ResetScope) (h_s : Kept P s) : Kept P (escalate s x) := by
  unfold escalate
  repeat' first
    | with_reducible (first
        | assumption | intro _)
    | exact True.intro | exact ⟨rfl, rfl⟩
    | (extract_lets +onlyGivenNames x
       first
       | (refine ((fun (hx : Kept P x) => ?_) ?_) <;> [clear_value x; (revert x; change (Kept P) _)])
       | (refine ((fun (hx : Kept P x.2) => ?_) ?_) <;> [clear_value x; (revert x; change (Kept P) (Prod.snd _))])
       | (refine ((fun (hx : OptInv (Kept P) x) => ?_) ?_) <;> [clear_value x; (revert x; change OptInv (Kept P) _)])
       | (refine ((fun (hx : CmdInv P x) => ?_) ?_) <;> [clear_value x; (revert x; change (CmdInv P) _)])
       | (have _ := (x : List _); clear_value x)
       | skip)
    | with_reducible (first
        | apply escalatedRecord_inv | apply askPower_inv | apply (beginDevice_inv hP) | apply (beginReset_inv hP) | apply foldl_bind_inv | apply bind_inv
        | apply ite_snd | apply ite_inv | apply ite_opt | apply ite_cmd | apply ite_out | apply findSome_inv | apply each_inv | apply iter_inv
        | apply foldl_inv | apply foldl_inv2 | apply getD_inv | apply elim_inv | apply JudgedInv.mk | apply JudgedInv.take | apply JudgedInv.discard
        | apply ite_judged | apply OptInv.mk_some | apply OptInv.mk_none | apply ExcInv.mk_ok | apply ExcInv.mk_error | apply OutInv.mk_next
        | apply CmdInv.mk_commit | apply DirInv.mk_sent | apply DirRoomInv.mk_freeing)
    | exact Kept.congr ‹Kept P _› rfl | assumption | refine Inv.congr (escalatedRecord_inv _ _ _ _ ?_ ) rfl | refine Inv.congr (askPower_inv _ _ ?_ ) rfl
    | refine Inv.congr ((beginDevice_inv hP) _ _ _ _ _ ?_ ) rfl | refine Inv.congr ((beginReset_inv hP) _ _ _ _ _ ?_ ) rfl | split
    | (refine OptInv.of_eq (Q := (Kept P)) ‹_ = some _› ?_) | (refine OptInv.of_eq (Q := (CmdInv P)) ‹_ = some _› ?_) | (refine pair_of_eq ‹_ = (_, _)› ?_)
    | (refine pair_of_eq' ‹_ = (_, _)› ?_) | (refine DirInv.of_eq ‹_ = DirStep.sent _› ?_) | (refine DirRoomInv.of_eq ‹_ = DirRoom.freeing _› ?_)
    | (refine CmdInv.of_eq ‹_ = CmdResult.commit _ _ _ _› ?_) | (refine ExcInv.of_eq ‹_ = Except.ok _› ?_) | dsimp only
    | exact Kept.write hP ‹Kept P _› rfl | exact Kept.cache hP ‹Kept P _› rfl | exact Kept.clear hP ‹Kept P _› rfl
    | exact Kept.clears hP ‹Kept P _› rfl | dsimp +zetaDelta only
    | (refine OptInv.of_eq (Q := fun (t : _ × State) => (Kept P) t.2) ‹_ = some _› ?_)
    | (refine OptInv.of_eq (Q := fun (t : _ × State) => (Kept P) t.2) (t := (_, _)) ‹_ = some (_, _)› ?_)
    | (refine ExcInv.of_eq (Q := fun (t : _ × State) => (Kept P) t.2) (t := (_, _)) ‹_ = Except.ok (_, _)› ?_)

theorem execEscalated_inv (hP : Closed P) (scope : ResetScope) (s : State) (h_s : Kept P s) : OutInv P (execEscalated scope s) := by
  unfold execEscalated
  repeat' first
    | with_reducible (first
        | assumption | intro _ | apply done_inv | apply (escalate_inv hP) | apply ite_inv | apply OutInv.mk_next)
    | exact Kept.congr ‹Kept P _› rfl | assumption | split

theorem trustChange_inv (s : State) (h_s : Kept P s) : Kept P (trustChange s) := by
  unfold trustChange
  repeat' first
    | with_reducible (first
        | assumption | intro _ | apply trustServes_inv | apply ite_inv)
    | exact Kept.congr ‹Kept P _› rfl | assumption | split

theorem claimSpare_inv (s : State) (q : Nat) (core : Nat) (h_s : Kept P s) : Kept P (claimSpare s q core) := by
  unfold claimSpare
  repeat' first
    | with_reducible (first
        | assumption | intro _ | apply makeClaim_inv | apply ite_inv)
    | exact Kept.congr ‹Kept P _› rfl | assumption | split

theorem freeSpare_inv (s : State) (q : Nat) (h_s : Kept P s) : Kept P (freeSpare s q) := by
  unfold freeSpare
  repeat' first
    | with_reducible (first
        | assumption | intro _ | apply releaseClaims_inv | apply ite_inv)
    | exact Kept.congr ‹Kept P _› rfl | assumption | split

theorem coreFails_inv (hP : Closed P) (s : State) (q : Nat) (core : Nat) (unit : Option HangUnit) (h_s : Kept P s) : Kept P (coreFails s q core unit) := by
  unfold coreFails
  repeat' first
    | with_reducible (first
        | assumption | intro _ | apply abortWaiting_inv | apply releaseClaims_inv | apply claimSpare_inv | apply updCores_inv | apply (beginReset_inv hP)
        | apply ite_inv)
    | exact Kept.congr ‹Kept P _› rfl | assumption | split

theorem execCoreHealthFail_inv (hP : Closed P) (q : Nat) (core : Nat) (s : State) (h_s : Kept P s) : OutInv P (execCoreHealthFail q core s) := by
  unfold execCoreHealthFail
  repeat' first
    | with_reducible (first
        | assumption | intro _ | apply done_inv | apply (coreFails_inv hP) | apply ite_inv | apply OutInv.mk_next)
    | exact Kept.congr ‹Kept P _› rfl | assumption | split

theorem corePasses_inv (s : State) (q : Nat) (core : Nat) (h_s : Kept P s) : Kept P (corePasses s q core) := by
  unfold corePasses
  repeat' first
    | with_reducible (first
        | assumption | intro _ | apply updCores_inv | apply freeSpare_inv | apply ite_inv)
    | exact Kept.congr ‹Kept P _› rfl | assumption | split

theorem execCoreHealthCheckPassed_inv (q : Nat) (core : Nat) (s : State) (h_s : Kept P s) : OutInv P (execCoreHealthCheckPassed q core s) := by
  unfold execCoreHealthCheckPassed
  repeat' first
    | with_reducible (first
        | assumption | intro _ | apply done_inv | apply corePasses_inv | apply ite_inv | apply OutInv.mk_next)
    | exact Kept.congr ‹Kept P _› rfl | assumption | split

theorem haltCore_inv (s : State) (q : Nat) (core : Nat) (on : Bool) (h_s : Kept P s) : Kept P (haltCore s q core on) := by
  unfold haltCore
  repeat' first
    | with_reducible (first
        | assumption | intro _ | apply updCores_inv | apply ite_inv)
    | exact Kept.congr ‹Kept P _› rfl | assumption | split

theorem latchUnits_inv (s : State) (h_s : Kept P s) : Kept P (latchUnits s) := by
  unfold latchUnits
  repeat' first
    | with_reducible (first
        | assumption | intro _ | apply ite_inv)
    | exact Kept.congr ‹Kept P _› rfl | assumption | split

theorem hang_inv (hP : Closed P) (s : State) (u : HangUnit) (stalled : Nat) (h_s : Kept P s) : Kept P (hang s u stalled) := by
  unfold hang
  repeat' first
    | with_reducible (first
        | assumption | intro _)
    | exact True.intro | exact ⟨rfl, rfl⟩
    | (extract_lets +onlyGivenNames x
       first
       | (refine ((fun (hx : Kept P x) => ?_) ?_) <;> [clear_value x; (revert x; change (Kept P) _)])
       | (refine ((fun (hx : Kept P x.2) => ?_) ?_) <;> [clear_value x; (revert x; change (Kept P) (Prod.snd _))])
       | (refine ((fun (hx : OptInv (Kept P) x) => ?_) ?_) <;> [clear_value x; (revert x; change OptInv (Kept P) _)])
       | (refine ((fun (hx : CmdInv P x) => ?_) ?_) <;> [clear_value x; (revert x; change (CmdInv P) _)])
       | (have _ := (x : List _); clear_value x)
       | skip)
    | with_reducible (first
        | apply resetRecord_inv | apply (coreFails_inv hP) | apply trustChange_inv | apply (beginReset_inv hP) | apply escalatedRecord_inv | apply foldl_bind_inv
        | apply bind_inv | apply ite_snd | apply ite_inv | apply ite_opt | apply ite_cmd | apply ite_out | apply findSome_inv | apply each_inv
        | apply iter_inv | apply foldl_inv | apply foldl_inv2 | apply getD_inv | apply elim_inv | apply JudgedInv.mk | apply JudgedInv.take
        | apply JudgedInv.discard | apply ite_judged | apply OptInv.mk_some | apply OptInv.mk_none | apply ExcInv.mk_ok | apply ExcInv.mk_error
        | apply OutInv.mk_next | apply CmdInv.mk_commit | apply DirInv.mk_sent | apply DirRoomInv.mk_freeing)
    | exact Kept.congr ‹Kept P _› rfl | assumption | refine Inv.congr (resetRecord_inv _ _ _ _ _ _ ?_ ) rfl
    | refine Inv.congr ((coreFails_inv hP) _ _ _ _ ?_ ) rfl | refine Inv.congr (trustChange_inv _ ?_ ) rfl
    | refine Inv.congr ((beginReset_inv hP) _ _ _ _ _ ?_ ) rfl | refine Inv.congr (escalatedRecord_inv _ _ _ _ ?_ ) rfl | split
    | (refine OptInv.of_eq (Q := (Kept P)) ‹_ = some _› ?_) | (refine OptInv.of_eq (Q := (CmdInv P)) ‹_ = some _› ?_) | (refine pair_of_eq ‹_ = (_, _)› ?_)
    | (refine pair_of_eq' ‹_ = (_, _)› ?_) | (refine DirInv.of_eq ‹_ = DirStep.sent _› ?_) | (refine DirRoomInv.of_eq ‹_ = DirRoom.freeing _› ?_)
    | (refine CmdInv.of_eq ‹_ = CmdResult.commit _ _ _ _› ?_) | (refine ExcInv.of_eq ‹_ = Except.ok _› ?_) | dsimp only | apply resetRecord_inv
    | apply (coreFails_inv hP) | apply trustChange_inv | apply (beginReset_inv hP) | apply escalatedRecord_inv
    | exact Kept.write hP ‹Kept P _› rfl | exact Kept.cache hP ‹Kept P _› rfl | exact Kept.clear hP ‹Kept P _› rfl
    | exact Kept.clears hP ‹Kept P _› rfl | dsimp +zetaDelta only
    | (refine OptInv.of_eq (Q := fun (t : _ × State) => (Kept P) t.2) ‹_ = some _› ?_)
    | (refine OptInv.of_eq (Q := fun (t : _ × State) => (Kept P) t.2) (t := (_, _)) ‹_ = some (_, _)› ?_)
    | (refine ExcInv.of_eq (Q := fun (t : _ × State) => (Kept P) t.2) (t := (_, _)) ‹_ = Except.ok (_, _)› ?_)

theorem compareUnits_inv (hP : Closed P) (s : State) (h_s : Kept P s) : Kept P (compareUnits s) := by
  unfold compareUnits
  repeat' first
    | with_reducible (first
        | assumption | intro _)
    | exact True.intro | exact ⟨rfl, rfl⟩
    | with_reducible (first
        | apply (hang_inv hP) | apply (progress_inv hP) | apply foldl_bind_inv | apply bind_inv | apply ite_snd | apply ite_inv | apply ite_opt | apply ite_cmd
        | apply ite_out | apply findSome_inv | apply each_inv | apply iter_inv | apply foldl_inv | apply foldl_inv2 | apply getD_inv | apply elim_inv
        | apply JudgedInv.mk | apply JudgedInv.take | apply JudgedInv.discard | apply ite_judged | apply OptInv.mk_some | apply OptInv.mk_none
        | apply ExcInv.mk_ok | apply ExcInv.mk_error | apply OutInv.mk_next | apply CmdInv.mk_commit | apply DirInv.mk_sent | apply DirRoomInv.mk_freeing)
    | exact Kept.congr ‹Kept P _› rfl | assumption | split | dsimp only

theorem skipCompare_inv (hP : Closed P) (s : State) (h_s : Kept P s) : Kept P (skipCompare s) := by
  unfold skipCompare
  repeat' first
    | with_reducible (first
        | assumption | intro _ | apply (progress_inv hP) | apply ite_inv)
    | exact Kept.congr ‹Kept P _› rfl | assumption | split

theorem execHangDetected_inv (hP : Closed P) (u : HangUnit) (s : State) (h_s : Kept P s) : OutInv P (execHangDetected u s) := by
  unfold execHangDetected
  repeat' first
    | with_reducible (first
        | assumption | intro _ | apply done_inv | apply (hang_inv hP) | apply ite_inv | apply OutInv.mk_next)
    | exact Kept.congr ‹Kept P _› rfl | assumption | split

theorem execWatchdogExpiry_inv (hP : Closed P) (q : Nat) (s : State) (h_s : Kept P s) : OutInv P (execWatchdogExpiry q s) := by
  unfold execWatchdogExpiry
  repeat' first
    | with_reducible (first
        | assumption | intro _ | apply done_inv | apply (beginReset_inv hP) | apply ite_inv | apply OutInv.mk_next)
    | exact Kept.congr ‹Kept P _› rfl | assumption | split

theorem tripSet_inv (hP : Closed P) (s : State) (place : ThermalPlace) (temp : Nat) (h_s : Kept P s) : Kept P (tripSet s place temp) := by
  unfold tripSet
  repeat' first
    | with_reducible (first
        | assumption | intro _ | apply updPower_inv | apply powerRecord_inv | apply (beginReset_inv hP) | apply held_inv | apply ite_inv)
    | exact Kept.congr ‹Kept P _› rfl | assumption | split

theorem execThermalTrip_inv (hP : Closed P) (place : ThermalPlace) (temp : Nat) (s : State) (h_s : Kept P s) : OutInv P (execThermalTrip place temp s) := by
  unfold execThermalTrip
  repeat' first
    | with_reducible (first
        | assumption | intro _ | apply done_inv | apply (tripSet_inv hP) | apply ite_inv | apply OutInv.mk_next)
    | exact Kept.congr ‹Kept P _› rfl | assumption | split

theorem tripCleared_inv (s : State) (q : Nat) (h_s : Kept P s) : Kept P (tripCleared s q) := by
  unfold tripCleared
  repeat' first
    | with_reducible (first
        | assumption | intro _ | apply updPower_inv | apply held_inv | apply ite_inv)
    | exact Kept.congr ‹Kept P _› rfl | assumption | split

theorem execTripCleared_inv (q : Nat) (s : State) (h_s : Kept P s) : OutInv P (execTripCleared q s) := by
  unfold execTripCleared
  repeat' first
    | with_reducible (first
        | assumption | intro _ | apply done_inv | apply tripCleared_inv | apply ite_inv | apply OutInv.mk_next)
    | exact Kept.congr ‹Kept P _› rfl | assumption | split

theorem portsStart_inv (s : State) (ports : List Nat) (h_s : Kept P s) : Kept P (portsStart s ports) := by
  unfold portsStart
  repeat' first
    | with_reducible (first
        | assumption | intro _)
    | exact True.intro | exact ⟨rfl, rfl⟩
    | with_reducible (first
        | apply enterState_inv | apply foldl_bind_inv | apply bind_inv | apply ite_snd | apply ite_inv | apply ite_opt | apply ite_cmd | apply ite_out
        | apply findSome_inv | apply each_inv | apply iter_inv | apply foldl_inv | apply foldl_inv2 | apply getD_inv | apply elim_inv | apply JudgedInv.mk
        | apply JudgedInv.take | apply JudgedInv.discard | apply ite_judged | apply OptInv.mk_some | apply OptInv.mk_none | apply ExcInv.mk_ok
        | apply ExcInv.mk_error | apply OutInv.mk_next | apply CmdInv.mk_commit | apply DirInv.mk_sent | apply DirRoomInv.mk_freeing)
    | exact Kept.congr ‹Kept P _› rfl | assumption | split | dsimp only

theorem endRun_inv (s : State) (r : ResetRun) (out : Nat) (h_s : Kept P s) : Kept P (endRun s r out) := by
  unfold endRun
  repeat' first
    | with_reducible (first
        | assumption | intro _ | apply resetRecord_inv | apply endDrains_inv | apply ite_inv)
    | exact Kept.congr ‹Kept P _› rfl | assumption | split

theorem endEngine_inv (s : State) (r : ResetRun) (q : Nat) (k : EngineKind) (i : Nat) (failed : List Nat) (h_s : Kept P s) : Kept P (endEngine s r q k i failed) := by
  unfold endEngine
  repeat' first
    | with_reducible (first
        | assumption | intro _)
    | exact True.intro | exact ⟨rfl, rfl⟩
    | (extract_lets +onlyGivenNames x
       first
       | (refine ((fun (hx : Kept P x) => ?_) ?_) <;> [clear_value x; (revert x; change (Kept P) _)])
       | (refine ((fun (hx : Kept P x.2) => ?_) ?_) <;> [clear_value x; (revert x; change (Kept P) (Prod.snd _))])
       | (have _ := (x : List _); clear_value x)
       | skip)
    | with_reducible (first
        | apply endRun_inv | apply foldl_bind_inv | apply bind_inv | apply ite_snd | apply ite_inv | apply ite_opt | apply ite_cmd | apply ite_out
        | apply findSome_inv | apply each_inv | apply iter_inv | apply foldl_inv | apply foldl_inv2 | apply getD_inv | apply elim_inv | apply JudgedInv.mk
        | apply JudgedInv.take | apply JudgedInv.discard | apply ite_judged | apply OptInv.mk_some | apply OptInv.mk_none | apply ExcInv.mk_ok
        | apply ExcInv.mk_error | apply OutInv.mk_next | apply CmdInv.mk_commit | apply DirInv.mk_sent | apply DirRoomInv.mk_freeing)
    | exact Kept.congr ‹Kept P _› rfl | assumption | split | (refine OptInv.of_eq (Q := (Kept P)) ‹_ = some _› ?_) | (refine pair_of_eq ‹_ = (_, _)› ?_)
    | (refine pair_of_eq' ‹_ = (_, _)› ?_) | (refine DirInv.of_eq ‹_ = DirStep.sent _› ?_) | (refine DirRoomInv.of_eq ‹_ = DirRoom.freeing _› ?_)
    | dsimp only

theorem resumeQueues_inv (hP : Closed P) (s : State) (q : Nat) (jobs : List Job) (h_s : Kept P s) : Kept P (resumeQueues s q jobs) := by
  unfold resumeQueues
  repeat' first
    | with_reducible (first
        | assumption | intro _)
    | exact True.intro | exact ⟨rfl, rfl⟩
    | with_reducible (first
        | apply (completeJob_inv hP) | apply endRecord_inv | apply (takeSubmissions_inv hP) | apply ring_inv | apply updQp_inv | apply foldl_bind_inv | apply bind_inv
        | apply ite_snd | apply ite_inv | apply ite_opt | apply ite_cmd | apply ite_out | apply findSome_inv | apply each_inv | apply iter_inv
        | apply foldl_inv | apply foldl_inv2 | apply getD_inv | apply elim_inv | apply JudgedInv.mk | apply JudgedInv.take | apply JudgedInv.discard
        | apply ite_judged | apply OptInv.mk_some | apply OptInv.mk_none | apply ExcInv.mk_ok | apply ExcInv.mk_error | apply OutInv.mk_next
        | apply CmdInv.mk_commit | apply DirInv.mk_sent | apply DirRoomInv.mk_freeing)
    | exact Kept.congr ‹Kept P _› rfl | assumption | split | dsimp only

theorem endQuarter_inv (hP : Closed P) (s : State) (r : ResetRun) (q : Nat) (failed : List Nat) (h_s : Kept P s) : Kept P (endQuarter s r q failed) := by
  unfold endQuarter
  repeat' first
    | with_reducible (first
        | assumption | intro _)
    | exact True.intro | exact ⟨rfl, rfl⟩
    | (extract_lets +onlyGivenNames x
       first
       | (refine ((fun (hx : Kept P x) => ?_) ?_) <;> [clear_value x; (revert x; change (Kept P) _)])
       | (refine ((fun (hx : Kept P x.2) => ?_) ?_) <;> [clear_value x; (revert x; change (Kept P) (Prod.snd _))])
       | (have _ := (x : List _); clear_value x)
       | skip)
    | with_reducible (first
        | apply endRun_inv | apply trustServes_inv | apply portsStart_inv | apply (runEngines_inv hP) | apply (resumeQueues_inv hP) | apply bad_inv
        | apply foldl_bind_inv | apply bind_inv | apply ite_snd | apply ite_inv | apply ite_opt | apply ite_cmd | apply ite_out | apply findSome_inv
        | apply each_inv | apply iter_inv | apply foldl_inv | apply foldl_inv2 | apply getD_inv | apply elim_inv | apply JudgedInv.mk | apply JudgedInv.take
        | apply JudgedInv.discard | apply ite_judged | apply OptInv.mk_some | apply OptInv.mk_none | apply ExcInv.mk_ok | apply ExcInv.mk_error
        | apply OutInv.mk_next | apply CmdInv.mk_commit | apply DirInv.mk_sent | apply DirRoomInv.mk_freeing)
    | exact Kept.congr ‹Kept P _› rfl | assumption | split | (refine OptInv.of_eq (Q := (Kept P)) ‹_ = some _› ?_) | (refine pair_of_eq ‹_ = (_, _)› ?_)
    | (refine pair_of_eq' ‹_ = (_, _)› ?_) | (refine DirInv.of_eq ‹_ = DirStep.sent _› ?_) | (refine DirRoomInv.of_eq ‹_ = DirRoom.freeing _› ?_)
    | dsimp only

theorem enterRecovery_inv (s : State) (h_s : Kept P s) : Kept P (enterRecovery s) := by
  unfold enterRecovery
  repeat' first
    | with_reducible (first
        | assumption | intro _ | apply trustRecord_inv | apply ite_inv)
    | exact Kept.congr ‹Kept P _› rfl | assumption | split

theorem readCatalogues_inv (s : State) (h_s : Kept P s) : Kept P (readCatalogues s) := by
  unfold readCatalogues
  repeat' first
    | with_reducible (first
        | assumption | intro _)
    | exact True.intro | exact ⟨rfl, rfl⟩
    | (extract_lets +onlyGivenNames x
       first
       | (refine ((fun (hx : Kept P x) => ?_) ?_) <;> [clear_value x; (revert x; change (Kept P) _)])
       | (refine ((fun (hx : Kept P x.2) => ?_) ?_) <;> [clear_value x; (revert x; change (Kept P) (Prod.snd _))])
       | (have _ := (x : List _); clear_value x)
       | skip)
    | with_reducible (first
        | apply putRegion_inv | apply foldl_bind_inv | apply bind_inv | apply ite_snd | apply ite_inv | apply ite_opt | apply ite_cmd | apply ite_out
        | apply findSome_inv | apply each_inv | apply iter_inv | apply foldl_inv | apply foldl_inv2 | apply getD_inv | apply elim_inv | apply JudgedInv.mk
        | apply JudgedInv.take | apply JudgedInv.discard | apply ite_judged | apply OptInv.mk_some | apply OptInv.mk_none | apply ExcInv.mk_ok
        | apply ExcInv.mk_error | apply OutInv.mk_next | apply CmdInv.mk_commit | apply DirInv.mk_sent | apply DirRoomInv.mk_freeing)
    | exact Kept.congr ‹Kept P _› rfl | assumption | split | (refine OptInv.of_eq (Q := (Kept P)) ‹_ = some _› ?_) | (refine pair_of_eq ‹_ = (_, _)› ?_)
    | (refine pair_of_eq' ‹_ = (_, _)› ?_) | (refine DirInv.of_eq ‹_ = DirStep.sent _› ?_) | (refine DirRoomInv.of_eq ‹_ = DirRoom.freeing _› ?_)
    | dsimp only

theorem restorePorts_inv (s : State) (h_s : Kept P s) : Kept P (restorePorts s) := by
  unfold restorePorts
  repeat' first
    | with_reducible (first
        | assumption | intro _)
    | exact True.intro | exact ⟨rfl, rfl⟩
    | with_reducible (first
        | apply updPort_inv | apply foldl_bind_inv | apply bind_inv | apply ite_snd | apply ite_inv | apply ite_opt | apply ite_cmd | apply ite_out
        | apply findSome_inv | apply each_inv | apply iter_inv | apply foldl_inv | apply foldl_inv2 | apply getD_inv | apply elim_inv | apply JudgedInv.mk
        | apply JudgedInv.take | apply JudgedInv.discard | apply ite_judged | apply OptInv.mk_some | apply OptInv.mk_none | apply ExcInv.mk_ok
        | apply ExcInv.mk_error | apply OutInv.mk_next | apply CmdInv.mk_commit | apply DirInv.mk_sent | apply DirRoomInv.mk_freeing)
    | exact Kept.congr ‹Kept P _› rfl | assumption | split | dsimp only

theorem becomeReady_inv (s : State) (h_s : Kept P s) : Kept P (becomeReady s) := by
  unfold becomeReady
  repeat' first
    | with_reducible (first
        | assumption | intro _)
    | exact True.intro | exact ⟨rfl, rfl⟩
    | (extract_lets +onlyGivenNames x
       first
       | (refine ((fun (hx : Kept P x) => ?_) ?_) <;> [clear_value x; (revert x; change (Kept P) _)])
       | (refine ((fun (hx : Kept P x.2) => ?_) ?_) <;> [clear_value x; (revert x; change (Kept P) (Prod.snd _))])
       | (have _ := (x : List _); clear_value x)
       | skip)
    | with_reducible (first
        | apply readCatalogues_inv | apply portsStart_inv | apply restorePorts_inv | apply foldl_bind_inv | apply bind_inv | apply ite_snd | apply ite_inv
        | apply ite_opt | apply ite_cmd | apply ite_out | apply findSome_inv | apply each_inv | apply iter_inv | apply foldl_inv | apply foldl_inv2
        | apply getD_inv | apply elim_inv | apply JudgedInv.mk | apply JudgedInv.take | apply JudgedInv.discard | apply ite_judged | apply OptInv.mk_some
        | apply OptInv.mk_none | apply ExcInv.mk_ok | apply ExcInv.mk_error | apply OutInv.mk_next | apply CmdInv.mk_commit | apply DirInv.mk_sent
        | apply DirRoomInv.mk_freeing)
    | exact Kept.congr ‹Kept P _› rfl | assumption | split | (refine OptInv.of_eq (Q := (Kept P)) ‹_ = some _› ?_) | (refine pair_of_eq ‹_ = (_, _)› ?_)
    | (refine pair_of_eq' ‹_ = (_, _)› ?_) | (refine DirInv.of_eq ‹_ = DirStep.sent _› ?_) | (refine DirRoomInv.of_eq ‹_ = DirRoom.freeing _› ?_)
    | dsimp only

theorem restoreCold_inv (hT : Started P) (s : State) (h_s : Kept P s) : Kept P (restoreCold s) := by
  unfold restoreCold
  generalize word (2 ^ 30) = n
  refine ite_inv (fun _ => h_s) (fun _ => ?_)
  extract_lets f bell life t
  exact restoreDomain_inv _ (Kept.mk (hT s.view _ h_s))

theorem endDevice_inv (hT : Started P) (s : State) (r : ResetRun) (failed : List Nat) (h_s : Kept P s) : Kept P (endDevice s r failed) := by
  unfold endDevice
  repeat' first
    | with_reducible (first
        | assumption | intro _)
    | exact True.intro | exact ⟨rfl, rfl⟩
    | (extract_lets +onlyGivenNames x
       first
       | (refine ((fun (hx : Kept P x) => ?_) ?_) <;> [clear_value x; (revert x; change (Kept P) _)])
       | (refine ((fun (hx : Kept P x.2) => ?_) ?_) <;> [clear_value x; (revert x; change (Kept P) (Prod.snd _))])
       | (have _ := (x : List _); clear_value x)
       | skip)
    | with_reducible (first
        | apply enterRecovery_inv | apply endRun_inv | apply (restoreCold_inv hT) | apply becomeReady_inv | apply bad_inv | apply foldl_bind_inv | apply bind_inv
        | apply ite_snd | apply ite_inv | apply ite_opt | apply ite_cmd | apply ite_out | apply findSome_inv | apply each_inv | apply iter_inv
        | apply foldl_inv | apply foldl_inv2 | apply getD_inv | apply elim_inv | apply JudgedInv.mk | apply JudgedInv.take | apply JudgedInv.discard
        | apply ite_judged | apply OptInv.mk_some | apply OptInv.mk_none | apply ExcInv.mk_ok | apply ExcInv.mk_error | apply OutInv.mk_next
        | apply CmdInv.mk_commit | apply DirInv.mk_sent | apply DirRoomInv.mk_freeing)
    | exact Kept.congr ‹Kept P _› rfl | assumption | split | (refine OptInv.of_eq (Q := (Kept P)) ‹_ = some _› ?_) | (refine pair_of_eq ‹_ = (_, _)› ?_)
    | (refine pair_of_eq' ‹_ = (_, _)› ?_) | (refine DirInv.of_eq ‹_ = DirStep.sent _› ?_) | (refine DirRoomInv.of_eq ‹_ = DirRoom.freeing _› ?_)
    | dsimp only

theorem resetEnds_inv (hP : Closed P) (hT : Started P) (s : State) (x : ResetScope) (failed : List Nat) (h_s : Kept P s) : Kept P (resetEnds s x failed) := by
  unfold resetEnds
  repeat' first
    | with_reducible (first
        | assumption | intro _ | apply (runEngines_inv hP) | apply endRun_inv | apply (settleAll_inv hP) | apply endEngine_inv | apply (endQuarter_inv hP)
        | apply (endDevice_inv hT) | apply ite_inv)
    | exact Kept.congr ‹Kept P _› rfl | assumption | split

theorem execResetEnd_inv (hP : Closed P) (hT : Started P) (scope : ResetScope) (selfTestFailed : List Nat) (s : State) (h_s : Kept P s) : OutInv P (execResetEnd scope selfTestFailed s) := by
  unfold execResetEnd
  repeat' first
    | with_reducible (first
        | assumption | intro _ | apply done_inv | apply (resetEnds_inv hP hT) | apply ite_inv | apply OutInv.mk_next)
    | exact Kept.congr ‹Kept P _› rfl | assumption | split

theorem releaseHeldResets_inv (s : State) (h_s : Kept P s) : Kept P (releaseHeldResets s) := by
  unfold releaseHeldResets
  repeat' first
    | with_reducible (first
        | assumption | intro _ | apply held_inv | apply ite_inv)
    | exact Kept.congr ‹Kept P _› rfl | assumption | split

theorem resetPin_inv (hP : Closed P) (s : State) (us : Nat) (h_s : Kept P s) : Kept P (resetPin s us) := by
  unfold resetPin
  repeat' first
    | with_reducible (first
        | assumption | intro _)
    | exact True.intro | exact ⟨rfl, rfl⟩
    | (extract_lets +onlyGivenNames x
       first
       | (refine ((fun (hx : Kept P x) => ?_) ?_) <;> [clear_value x; (revert x; change (Kept P) _)])
       | (refine ((fun (hx : Kept P x.2) => ?_) ?_) <;> [clear_value x; (revert x; change (Kept P) (Prod.snd _))])
       | (have _ := (x : List _); clear_value x)
       | skip)
    | with_reducible (first
        | apply resetBegin_inv | apply releaseClaims_inv | apply updPower_inv | apply (assertDevice_inv hP) | apply held_inv | apply foldl_bind_inv
        | apply bind_inv | apply ite_snd | apply ite_inv | apply ite_opt | apply ite_cmd | apply ite_out | apply findSome_inv | apply each_inv
        | apply iter_inv | apply foldl_inv | apply foldl_inv2 | apply getD_inv | apply elim_inv | apply JudgedInv.mk | apply JudgedInv.take
        | apply JudgedInv.discard | apply ite_judged | apply OptInv.mk_some | apply OptInv.mk_none | apply ExcInv.mk_ok | apply ExcInv.mk_error
        | apply OutInv.mk_next | apply CmdInv.mk_commit | apply DirInv.mk_sent | apply DirRoomInv.mk_freeing)
    | exact Kept.congr ‹Kept P _› rfl | assumption | split | (refine OptInv.of_eq (Q := (Kept P)) ‹_ = some _› ?_) | (refine pair_of_eq ‹_ = (_, _)› ?_)
    | (refine pair_of_eq' ‹_ = (_, _)› ?_) | (refine DirInv.of_eq ‹_ = DirStep.sent _› ?_) | (refine DirRoomInv.of_eq ‹_ = DirRoom.freeing _› ?_)
    | dsimp only

theorem execResetN_inv (hP : Closed P) (microseconds : Nat) (s : State) (h_s : Kept P s) : OutInv P (execResetN microseconds s) := by
  unfold execResetN
  repeat' first
    | with_reducible (first
        | assumption | intro _ | apply done_inv | apply (resetPin_inv hP) | apply ite_inv | apply OutInv.mk_next)
    | exact Kept.congr ‹Kept P _› rfl | assumption | split

theorem resetRelease_inv (s : State) (h_s : Kept P s) : Kept P (resetRelease s) := by
  unfold resetRelease
  repeat' first
    | with_reducible (first
        | assumption | intro _ | apply releaseHeldResets_inv | apply ite_inv)
    | exact Kept.congr ‹Kept P _› rfl | assumption | split

theorem execResetNRelease_inv (s : State) (h_s : Kept P s) : OutInv P (execResetNRelease s) := by
  unfold execResetNRelease
  repeat' first
    | with_reducible (first
        | assumption | intro _ | apply done_inv | apply resetRelease_inv | apply ite_inv | apply OutInv.mk_next)
    | exact Kept.congr ‹Kept P _› rfl | assumption | split

theorem flashDone_inv (s : State) (h_s : Kept P s) : Kept P (flashDone s) := by
  unfold flashDone
  repeat' first
    | with_reducible (first
        | assumption | intro _ | apply releaseHeldResets_inv | apply ite_inv)
    | exact Kept.congr ‹Kept P _› rfl | assumption | split

theorem execFlashOpDone_inv (s : State) (h_s : Kept P s) : OutInv P (execFlashOpDone s) := by
  unfold execFlashOpDone
  repeat' first
    | with_reducible (first
        | assumption | intro _ | apply done_inv | apply flashDone_inv | apply ite_inv | apply OutInv.mk_next)
    | exact Kept.congr ‹Kept P _› rfl | assumption | split

/-! ### Package -/

theorem resumeRing_inv (s : State) (ring : Nat) (h_s : Kept P s) : Kept P (resumeRing s ring) := by
  unfold resumeRing
  repeat' first
    | with_reducible (first
        | assumption | intro _ | apply ring_inv | apply ite_inv)
    | exact Kept.congr ‹Kept P _› rfl | assumption | split

theorem coldBegin_inv (s : State) (h_s : Kept P s) : Kept P (coldBegin s) := by
  unfold coldBegin
  repeat' first
    | with_reducible (first
        | assumption | intro _)
    | exact True.intro | exact ⟨rfl, rfl⟩
    | with_reducible (first
        | apply checkFull_inv | apply resumeRing_inv | apply foldl_bind_inv | apply bind_inv | apply ite_snd | apply ite_inv | apply ite_opt | apply ite_cmd
        | apply ite_out | apply findSome_inv | apply each_inv | apply iter_inv | apply foldl_inv | apply foldl_inv2 | apply getD_inv | apply elim_inv
        | apply JudgedInv.mk | apply JudgedInv.take | apply JudgedInv.discard | apply ite_judged | apply OptInv.mk_some | apply OptInv.mk_none
        | apply ExcInv.mk_ok | apply ExcInv.mk_error | apply OutInv.mk_next | apply CmdInv.mk_commit | apply DirInv.mk_sent | apply DirRoomInv.mk_freeing)
    | exact Kept.congr ‹Kept P _› rfl | assumption | split | dsimp only

theorem execColdStart_inv (s : State) (h_s : Kept P s) : OutInv P (execColdStart s) := by
  unfold execColdStart
  repeat' first
    | with_reducible (first
        | assumption | intro _)
    | exact True.intro | exact ⟨rfl, rfl⟩
    | with_reducible (first
        | apply done_inv | apply coldBegin_inv | apply foldl_bind_inv | apply bind_inv | apply ite_snd | apply ite_inv | apply ite_opt | apply ite_cmd
        | apply ite_out | apply findSome_inv | apply each_inv | apply iter_inv | apply foldl_inv | apply foldl_inv2 | apply getD_inv | apply elim_inv
        | apply JudgedInv.mk | apply JudgedInv.take | apply JudgedInv.discard | apply ite_judged | apply OptInv.mk_some | apply OptInv.mk_none
        | apply ExcInv.mk_ok | apply ExcInv.mk_error | apply OutInv.mk_next | apply CmdInv.mk_commit | apply DirInv.mk_sent | apply DirRoomInv.mk_freeing)
    | exact Kept.congr ‹Kept P _› rfl | assumption | split | dsimp only

theorem latchStraps_inv (s : State) (r : PhaseReport) (h_s : Kept P s) : Kept P (latchStraps s r) := by
  unfold latchStraps
  repeat' first
    | with_reducible (first
        | assumption | intro _ | apply ite_inv)
    | exact Kept.congr ‹Kept P _› rfl | assumption | split

theorem bootImage_inv (s : State) (h_s : Kept P s) : Kept P (bootImage s) := by
  unfold bootImage
  repeat' first
    | with_reducible (first
        | assumption | intro _ | apply enterRecovery_inv | apply ite_inv)
    | exact Kept.congr ‹Kept P _› rfl | assumption | split

theorem phaseEnds_inv (hT : Started P) (s : State) (r : PhaseReport) (h_s : Kept P s) : Kept P (phaseEnds s r) := by
  unfold phaseEnds
  repeat' first
    | with_reducible (first
        | assumption | intro _)
    | exact True.intro | exact ⟨rfl, rfl⟩
    | (extract_lets +onlyGivenNames x
       first
       | (refine ((fun (hx : Kept P x) => ?_) ?_) <;> [clear_value x; (revert x; change (Kept P) _)])
       | (refine ((fun (hx : Kept P x.2) => ?_) ?_) <;> [clear_value x; (revert x; change (Kept P) (Prod.snd _))])
       | (refine ((fun (hx : OptInv (Kept P) x) => ?_) ?_) <;> [clear_value x; (revert x; change OptInv (Kept P) _)])
       | (refine ((fun (hx : CmdInv P x) => ?_) ?_) <;> [clear_value x; (revert x; change (CmdInv P) _)])
       | (have _ := (x : List _); clear_value x)
       | skip)
    | with_reducible (first
        | apply latchStraps_inv | apply bootImage_inv | apply (restoreCold_inv hT) | apply becomeReady_inv | apply foldl_bind_inv | apply bind_inv | apply ite_snd
        | apply ite_inv | apply ite_opt | apply ite_cmd | apply ite_out | apply findSome_inv | apply each_inv | apply iter_inv | apply foldl_inv
        | apply foldl_inv2 | apply getD_inv | apply elim_inv | apply JudgedInv.mk | apply JudgedInv.take | apply JudgedInv.discard | apply ite_judged
        | apply OptInv.mk_some | apply OptInv.mk_none | apply ExcInv.mk_ok | apply ExcInv.mk_error | apply OutInv.mk_next | apply CmdInv.mk_commit
        | apply DirInv.mk_sent | apply DirRoomInv.mk_freeing)
    | exact Kept.congr ‹Kept P _› rfl | assumption | refine Inv.congr (latchStraps_inv _ _ ?_ ) rfl | refine Inv.congr (bootImage_inv _ ?_ ) rfl
    | refine Inv.congr ((restoreCold_inv hT) _ ?_ ) rfl | refine Inv.congr (becomeReady_inv _ ?_ ) rfl | split
    | (refine OptInv.of_eq (Q := (Kept P)) ‹_ = some _› ?_) | (refine OptInv.of_eq (Q := (CmdInv P)) ‹_ = some _› ?_) | (refine pair_of_eq ‹_ = (_, _)› ?_)
    | (refine pair_of_eq' ‹_ = (_, _)› ?_) | (refine DirInv.of_eq ‹_ = DirStep.sent _› ?_) | (refine DirRoomInv.of_eq ‹_ = DirRoom.freeing _› ?_)
    | (refine CmdInv.of_eq ‹_ = CmdResult.commit _ _ _ _› ?_) | (refine ExcInv.of_eq ‹_ = Except.ok _› ?_) | dsimp only | apply latchStraps_inv
    | apply bootImage_inv | apply (restoreCold_inv hT) | apply becomeReady_inv
   
    | dsimp +zetaDelta only
    | (refine OptInv.of_eq (Q := fun (t : _ × State) => (Kept P) t.2) ‹_ = some _› ?_)
    | (refine OptInv.of_eq (Q := fun (t : _ × State) => (Kept P) t.2) (t := (_, _)) ‹_ = some (_, _)› ?_)
    | (refine ExcInv.of_eq (Q := fun (t : _ × State) => (Kept P) t.2) (t := (_, _)) ‹_ = Except.ok (_, _)› ?_)

theorem execStartupPhaseEnd_inv (hT : Started P) (r : PhaseReport) (s : State) (h_s : Kept P s) : OutInv P (execStartupPhaseEnd r s) := by
  unfold execStartupPhaseEnd
  repeat' first
    | with_reducible (first
        | assumption | intro _ | apply done_inv | apply (phaseEnds_inv hT) | apply ite_inv | apply OutInv.mk_next)
    | exact Kept.congr ‹Kept P _› rfl | assumption | split

theorem phaseOverrun_inv (hP : Closed P) (s : State) (h_s : Kept P s) : Kept P (phaseOverrun s) := by
  unfold phaseOverrun
  repeat' first
    | with_reducible (first
        | assumption | intro _ | apply (beginDevice_inv hP) | apply ite_inv)
    | exact Kept.congr ‹Kept P _› rfl | assumption | split

theorem execStartupPhaseOverrun_inv (hP : Closed P) (s : State) (h_s : Kept P s) : OutInv P (execStartupPhaseOverrun s) := by
  unfold execStartupPhaseOverrun
  repeat' first
    | with_reducible (first
        | assumption | intro _ | apply done_inv | apply (phaseOverrun_inv hP) | apply ite_inv | apply OutInv.mk_next)
    | exact Kept.congr ‹Kept P _› rfl | assumption | split

theorem unpowered_inv (hT : Unpowered P) (s : State) (a1 : Bool) (h_s : Kept P s) : Kept P (unpowered s a1) := by
  unfold unpowered
  exact Kept.mk (hT s.view h_s)

theorem execInputOutOfRange_inv (hT : Unpowered P) (exceeds : Bool) (s : State) (h_s : Kept P s) : OutInv P (execInputOutOfRange exceeds s) := by
  unfold execInputOutOfRange
  repeat' first
    | with_reducible (first
        | assumption | intro _ | apply done_inv | apply (unpowered_inv hT) | apply ite_inv | apply OutInv.mk_next)
    | exact Kept.congr ‹Kept P _› rfl | assumption | split

theorem recoveryGo_inv (s : State) (value : Word) (image : List Byte) (h_s : Kept P s) : Kept P (recoveryGo s value image) := by
  unfold recoveryGo
  repeat' first
    | with_reducible (first
        | assumption | intro _ | apply ite_inv)
    | exact Kept.congr ‹Kept P _› rfl | assumption | split

theorem execRcvGo_inv (value : Word) (image : List Byte) (s : State) (h_s : Kept P s) : OutInv P (execRcvGo value image s) := by
  unfold execRcvGo
  repeat' first
    | with_reducible (first
        | assumption | intro _ | apply done_inv | apply recoveryGo_inv | apply ite_inv | apply OutInv.mk_next)
    | exact Kept.congr ‹Kept P _› rfl | assumption | split

theorem assignAddress_inv (s : State) (dynamic : Nat) (h_s : Kept P s) : Kept P (assignAddress s dynamic) := by
  unfold assignAddress
  repeat' first
    | with_reducible (first
        | assumption | intro _ | apply ite_inv)
    | exact Kept.congr ‹Kept P _› rfl | assumption | split

theorem execSetdasa_inv (addr : Nat) (dynamic : Nat) (s : State) (h_s : Kept P s) : OutInv P (execSetdasa addr dynamic s) := by
  unfold execSetdasa
  repeat' first
    | with_reducible (first
        | assumption | intro _ | apply done_inv | apply assignAddress_inv | apply ite_inv | apply OutInv.mk_next)
    | exact Kept.congr ‹Kept P _› rfl | assumption | split

theorem execEntdaa_inv (dynamic : Nat) (s : State) (h_s : Kept P s) : OutInv P (execEntdaa dynamic s) := by
  unfold execEntdaa
  repeat' first
    | with_reducible (first
        | assumption | intro _ | apply done_inv | apply assignAddress_inv | apply ite_inv | apply OutInv.mk_next)
    | exact Kept.congr ‹Kept P _› rfl | assumption | split

theorem tapTest_inv (s : State) (test : Nat) (h_s : Kept P s) : Kept P (tapTest s test) := by
  unfold tapTest
  repeat' first
    | with_reducible (first
        | assumption | intro _ | apply ite_inv)
    | exact Kept.congr ‹Kept P _› rfl | assumption | split

theorem execExtest_inv (s : State) (h_s : Kept P s) : OutInv P (execExtest s) := by
  unfold execExtest
  repeat' first
    | with_reducible (first
        | assumption | intro _ | apply done_inv | apply tapTest_inv | apply ite_inv | apply OutInv.mk_next)
    | exact Kept.congr ‹Kept P _› rfl | assumption | split

theorem execExtestPulse_inv (s : State) (h_s : Kept P s) : OutInv P (execExtestPulse s) := by
  unfold execExtestPulse
  repeat' first
    | with_reducible (first
        | assumption | intro _ | apply done_inv | apply tapTest_inv | apply ite_inv | apply OutInv.mk_next)
    | exact Kept.congr ‹Kept P _› rfl | assumption | split

theorem execExtestTrain_inv (s : State) (h_s : Kept P s) : OutInv P (execExtestTrain s) := by
  unfold execExtestTrain
  repeat' first
    | with_reducible (first
        | assumption | intro _ | apply done_inv | apply tapTest_inv | apply ite_inv | apply OutInv.mk_next)
    | exact Kept.congr ‹Kept P _› rfl | assumption | split

theorem execTrstN_inv (s : State) (h_s : Kept P s) : OutInv P (execTrstN s) := by
  unfold execTrstN
  repeat' first
    | with_reducible (first
        | assumption | intro _ | apply done_inv | apply ite_inv | apply OutInv.mk_next)
    | exact Kept.congr ‹Kept P _› rfl | assumption | split

theorem timeRecord_inv (s : State) (code : Nat) (p0 : Word) (p1 : Word) (h_s : Kept P s) : Kept P (timeRecord s code p0 p1) := by
  unfold timeRecord
  repeat' first
    | with_reducible (first
        | assumption | intro _ | apply record_inv | apply ite_inv)
    | exact Kept.congr ‹Kept P _› rfl | assumption | split

theorem updTime_inv (s : State) (f : TimeS → TimeS) (h_f : ∀ t, (f t).bell = t.bell ∧ (f t).phase = t.phase) (h_s : Kept P s) : Kept P (updTime s f) :=
  Kept.congr h_s (by
    show ({ s.view with bell := (f s.time).bell, phase := (f s.time).phase } : View) = s.view
    rw [(h_f s.time).1, (h_f s.time).2])

theorem leaveHoldover_inv (s : State) (offset : Int) (h_s : Kept P s) : Kept P (leaveHoldover s offset) := by
  unfold leaveHoldover
  repeat' first
    | with_reducible (first
        | assumption | intro _)
    | exact True.intro | exact ⟨rfl, rfl⟩
    | with_reducible (first
        | apply timeRecord_inv | apply updTime_inv | apply foldl_bind_inv | apply bind_inv | apply ite_snd | apply ite_inv | apply ite_opt | apply ite_cmd
        | apply ite_out | apply findSome_inv | apply each_inv | apply iter_inv | apply foldl_inv | apply foldl_inv2 | apply getD_inv | apply elim_inv
        | apply JudgedInv.mk | apply JudgedInv.take | apply JudgedInv.discard | apply ite_judged | apply OptInv.mk_some | apply OptInv.mk_none
        | apply ExcInv.mk_ok | apply ExcInv.mk_error | apply OutInv.mk_next | apply CmdInv.mk_commit | apply DirInv.mk_sent | apply DirRoomInv.mk_freeing)
    | exact Kept.congr ‹Kept P _› rfl | assumption | split | dsimp only

theorem ppsIn_inv (s : State) (width : Nat) (gap : Nat) (h_s : Kept P s) : Kept P (ppsIn s width gap) := by
  unfold ppsIn
  repeat' first
    | with_reducible (first
        | assumption | intro _)
    | exact True.intro | exact ⟨rfl, rfl⟩
    | with_reducible (first
        | apply updTime_inv | apply leaveHoldover_inv | apply foldl_bind_inv | apply bind_inv | apply ite_snd | apply ite_inv | apply ite_opt | apply ite_cmd
        | apply ite_out | apply findSome_inv | apply each_inv | apply iter_inv | apply foldl_inv | apply foldl_inv2 | apply getD_inv | apply elim_inv
        | apply JudgedInv.mk | apply JudgedInv.take | apply JudgedInv.discard | apply ite_judged | apply OptInv.mk_some | apply OptInv.mk_none
        | apply ExcInv.mk_ok | apply ExcInv.mk_error | apply OutInv.mk_next | apply CmdInv.mk_commit | apply DirInv.mk_sent | apply DirRoomInv.mk_freeing)
    | exact Kept.congr ‹Kept P _› rfl | assumption | split | dsimp only

theorem execPpsEdge_inv (widthNs : Nat) (sinceNs : Nat) (s : State) (h_s : Kept P s) : OutInv P (execPpsEdge widthNs sinceNs s) := by
  unfold execPpsEdge
  repeat' first
    | with_reducible (first
        | assumption | intro _ | apply done_inv | apply ppsIn_inv | apply ite_inv | apply OutInv.mk_next)
    | exact Kept.congr ‹Kept P _› rfl | assumption | split

theorem ptpIn_inv (s : State) (tai : Word) (h_s : Kept P s) : Kept P (ptpIn s tai) := by
  unfold ptpIn
  repeat' first
    | with_reducible (first
        | assumption | intro _)
    | exact True.intro | exact ⟨rfl, rfl⟩
    | with_reducible (first
        | apply updTime_inv | apply timeRecord_inv | apply leaveHoldover_inv | apply foldl_bind_inv | apply bind_inv | apply ite_snd | apply ite_inv
        | apply ite_opt | apply ite_cmd | apply ite_out | apply findSome_inv | apply each_inv | apply iter_inv | apply foldl_inv | apply foldl_inv2
        | apply getD_inv | apply elim_inv | apply JudgedInv.mk | apply JudgedInv.take | apply JudgedInv.discard | apply ite_judged | apply OptInv.mk_some
        | apply OptInv.mk_none | apply ExcInv.mk_ok | apply ExcInv.mk_error | apply OutInv.mk_next | apply CmdInv.mk_commit | apply DirInv.mk_sent
        | apply DirRoomInv.mk_freeing)
    | exact Kept.congr ‹Kept P _› rfl | assumption | split | dsimp only

theorem execPtpTime_inv (tai : Word) (s : State) (h_s : Kept P s) : OutInv P (execPtpTime tai s) := by
  unfold execPtpTime
  repeat' first
    | with_reducible (first
        | assumption | intro _ | apply done_inv | apply ptpIn_inv | apply ite_inv | apply OutInv.mk_next)
    | exact Kept.congr ‹Kept P _› rfl | assumption | split

theorem holdoverIn_inv (s : State) (h_s : Kept P s) : Kept P (holdoverIn s) := by
  unfold holdoverIn
  repeat' first
    | with_reducible (first
        | assumption | intro _)
    | exact True.intro | exact ⟨rfl, rfl⟩
    | with_reducible (first
        | apply timeRecord_inv | apply updTime_inv | apply foldl_bind_inv | apply bind_inv | apply ite_snd | apply ite_inv | apply ite_opt | apply ite_cmd
        | apply ite_out | apply findSome_inv | apply each_inv | apply iter_inv | apply foldl_inv | apply foldl_inv2 | apply getD_inv | apply elim_inv
        | apply JudgedInv.mk | apply JudgedInv.take | apply JudgedInv.discard | apply ite_judged | apply OptInv.mk_some | apply OptInv.mk_none
        | apply ExcInv.mk_ok | apply ExcInv.mk_error | apply OutInv.mk_next | apply CmdInv.mk_commit | apply DirInv.mk_sent | apply DirRoomInv.mk_freeing)
    | exact Kept.congr ‹Kept P _› rfl | assumption | split | dsimp only

theorem execHoldover_inv (s : State) (h_s : Kept P s) : OutInv P (execHoldover s) := by
  unfold execHoldover
  repeat' first
    | with_reducible (first
        | assumption | intro _ | apply done_inv | apply holdoverIn_inv | apply ite_inv | apply OutInv.mk_next)
    | exact Kept.congr ‹Kept P _› rfl | assumption | split

theorem execRefclkLoss_inv (s : State) (h_s : Kept P s) : OutInv P (execRefclkLoss s) := by
  unfold execRefclkLoss
  repeat' first
    | with_reducible (first
        | assumption | intro _)
    | exact True.intro | exact ⟨rfl, rfl⟩
    | with_reducible (first
        | apply done_inv | apply updTime_inv | apply foldl_bind_inv | apply bind_inv | apply ite_snd | apply ite_inv | apply ite_opt | apply ite_cmd
        | apply ite_out | apply findSome_inv | apply each_inv | apply iter_inv | apply foldl_inv | apply foldl_inv2 | apply getD_inv | apply elim_inv
        | apply JudgedInv.mk | apply JudgedInv.take | apply JudgedInv.discard | apply ite_judged | apply OptInv.mk_some | apply OptInv.mk_none
        | apply ExcInv.mk_ok | apply ExcInv.mk_error | apply OutInv.mk_next | apply CmdInv.mk_commit | apply DirInv.mk_sent | apply DirRoomInv.mk_freeing)
    | exact Kept.congr ‹Kept P _› rfl | assumption | split | dsimp only

theorem execRefclkRestored_inv (s : State) (h_s : Kept P s) : OutInv P (execRefclkRestored s) := by
  unfold execRefclkRestored
  repeat' first
    | with_reducible (first
        | assumption | intro _)
    | exact True.intro | exact ⟨rfl, rfl⟩
    | with_reducible (first
        | apply done_inv | apply updTime_inv | apply foldl_bind_inv | apply bind_inv | apply ite_snd | apply ite_inv | apply ite_opt | apply ite_cmd
        | apply ite_out | apply findSome_inv | apply each_inv | apply iter_inv | apply foldl_inv | apply foldl_inv2 | apply getD_inv | apply elim_inv
        | apply JudgedInv.mk | apply JudgedInv.take | apply JudgedInv.discard | apply ite_judged | apply OptInv.mk_some | apply OptInv.mk_none
        | apply ExcInv.mk_ok | apply ExcInv.mk_error | apply OutInv.mk_next | apply CmdInv.mk_commit | apply DirInv.mk_sent | apply DirRoomInv.mk_freeing)
    | exact Kept.congr ‹Kept P _› rfl | assumption | split | dsimp only

/-! ### Firmware -/

theorem rollRecord_inv (s : State) (r : Roll) (core : Nat) (version : Nat) (result : Nat) (h_s : Kept P s) : Kept P (rollRecord s r core version result) := by
  unfold rollRecord
  repeat' first
    | with_reducible (first
        | assumption | intro _ | apply trustRecord_inv | apply ite_inv)
    | exact Kept.congr ‹Kept P _› rfl | assumption | split

theorem rollEnd_inv (s : State) (r : Roll) (version : Nat) (b3 : Nat) (b4 : Nat) (bell : Word) (h_s : Kept P s) : Kept P (rollEnd s r version b3 b4 bell) := by
  unfold rollEnd
  repeat' first
    | with_reducible (first
        | assumption | intro _ | apply trustRecord_inv | apply endDrains_inv | apply ite_inv)
    | exact Kept.congr ‹Kept P _› rfl | assumption | split

theorem startFlashWrite_inv (s : State) (r : Roll) (h_s : Kept P s) : Kept P (startFlashWrite s r) := by
  unfold startFlashWrite
  repeat' first
    | with_reducible (first
        | assumption | intro _ | apply ite_inv)
    | exact Kept.congr ‹Kept P _› rfl | assumption | split

theorem corePassed_inv (s : State) (r : Roll) (core : Nat) (h_s : Kept P s) : Kept P (corePassed s r core) := by
  unfold corePassed
  repeat' first
    | with_reducible (first
        | assumption | intro _ | apply rollRecord_inv | apply startFlashWrite_inv | apply ite_inv)
    | exact Kept.congr ‹Kept P _› rfl | assumption | split

theorem coreFailed_inv (hP : Closed P) (s : State) (r : Roll) (core : Nat) (h_s : Kept P s) : Kept P (coreFailed s r core) := by
  unfold coreFailed
  repeat' first
    | with_reducible (first
        | assumption | intro _)
    | exact True.intro | exact ⟨rfl, rfl⟩
    | (extract_lets +onlyGivenNames x
       first
       | (refine ((fun (hx : Kept P x) => ?_) ?_) <;> [clear_value x; (revert x; change (Kept P) _)])
       | (refine ((fun (hx : Kept P x.2) => ?_) ?_) <;> [clear_value x; (revert x; change (Kept P) (Prod.snd _))])
       | (have _ := (x : List _); clear_value x)
       | skip)
    | with_reducible (first
        | apply rollRecord_inv | apply (coreFails_inv hP) | apply rollEnd_inv | apply foldl_bind_inv | apply bind_inv | apply ite_snd | apply ite_inv
        | apply ite_opt | apply ite_cmd | apply ite_out | apply findSome_inv | apply each_inv | apply iter_inv | apply foldl_inv | apply foldl_inv2
        | apply getD_inv | apply elim_inv | apply JudgedInv.mk | apply JudgedInv.take | apply JudgedInv.discard | apply ite_judged | apply OptInv.mk_some
        | apply OptInv.mk_none | apply ExcInv.mk_ok | apply ExcInv.mk_error | apply OutInv.mk_next | apply CmdInv.mk_commit | apply DirInv.mk_sent
        | apply DirRoomInv.mk_freeing)
    | exact Kept.congr ‹Kept P _› rfl | assumption | split | (refine OptInv.of_eq (Q := (Kept P)) ‹_ = some _› ?_) | (refine pair_of_eq ‹_ = (_, _)› ?_)
    | (refine pair_of_eq' ‹_ = (_, _)› ?_) | (refine DirInv.of_eq ‹_ = DirStep.sent _› ?_) | (refine DirRoomInv.of_eq ‹_ = DirRoom.freeing _› ?_)
    | dsimp only

theorem coreChecked_inv (hP : Closed P) (s : State) (q : Nat) (core : Nat) (passed : Bool) (h_s : Kept P s) : Kept P (coreChecked s q core passed) := by
  unfold coreChecked
  repeat' first
    | with_reducible (first
        | assumption | intro _ | apply corePassed_inv | apply (coreFailed_inv hP) | apply ite_inv)
    | exact Kept.congr ‹Kept P _› rfl | assumption | split

theorem execFwCoreCheck_inv (hP : Closed P) (q : Nat) (core : Nat) (passed : Bool) (s : State) (h_s : Kept P s) : OutInv P (execFwCoreCheck q core passed s) := by
  unfold execFwCoreCheck
  repeat' first
    | with_reducible (first
        | assumption | intro _ | apply done_inv | apply (coreChecked_inv hP) | apply ite_inv | apply OutInv.mk_next)
    | exact Kept.congr ‹Kept P _› rfl | assumption | split

theorem rollSwap_inv (s : State) (h_s : Kept P s) : Kept P (rollSwap s) := by
  unfold rollSwap
  repeat' first
    | with_reducible (first
        | assumption | intro _)
    | exact True.intro | exact ⟨rfl, rfl⟩
    | with_reducible (first
        | apply updCores_inv | apply foldl_bind_inv | apply bind_inv | apply ite_snd | apply ite_inv | apply ite_opt | apply ite_cmd | apply ite_out
        | apply findSome_inv | apply each_inv | apply iter_inv | apply foldl_inv | apply foldl_inv2 | apply getD_inv | apply elim_inv | apply JudgedInv.mk
        | apply JudgedInv.take | apply JudgedInv.discard | apply ite_judged | apply OptInv.mk_some | apply OptInv.mk_none | apply ExcInv.mk_ok
        | apply ExcInv.mk_error | apply OutInv.mk_next | apply CmdInv.mk_commit | apply DirInv.mk_sent | apply DirRoomInv.mk_freeing)
    | exact Kept.congr ‹Kept P _› rfl | assumption | split | dsimp only

theorem flashWritten_inv (hT : Rolled P) (s : State) (h_s : Kept P s) : Kept P (flashWritten s) := by
  unfold flashWritten
  repeat' first
    | assumption | exact Inv.congr ‹Kept P _› rfl | (refine ite_inv (fun _ => ?_) (fun _ => ?_)) | split
  all_goals
    extract_lets t
    exact rollEnd_inv _ _ _ _ _ _ (Kept.mk (hT s.view _ h_s))

theorem execFwFlashWriteDone_inv (hT : Rolled P) (s : State) (h_s : Kept P s) : OutInv P (execFwFlashWriteDone s) := by
  unfold execFwFlashWriteDone
  repeat' first
    | with_reducible (first
        | assumption | intro _ | apply done_inv | apply (flashWritten_inv hT) | apply ite_inv | apply OutInv.mk_next)
    | exact Kept.congr ‹Kept P _› rfl | assumption | split

theorem updRotation_inv (s : State) (comp : Nat) (f : MemRotation → MemRotation) (h_s : Kept P s) : Kept P (updRotation s comp f) := by
  unfold updRotation
  repeat' first
    | with_reducible (first
        | assumption | intro _ | apply ite_inv)
    | exact Kept.congr ‹Kept P _› rfl | assumption | split

theorem rotationEnd_inv (s : State) (comp : Nat) (h_s : Kept P s) : Kept P (rotationEnd s comp) := by
  unfold rotationEnd
  repeat' first
    | with_reducible (first
        | assumption | intro _ | apply trustRecord_inv | apply endDrains_inv | apply ite_inv)
    | exact Kept.congr ‹Kept P _› rfl | assumption | split

theorem unitRotated_inv (hP : Closed P) (s : State) (comp : Nat) (h_s : Kept P s) : Kept P (unitRotated s comp) := by
  unfold unitRotated
  repeat' first
    | with_reducible (first
        | assumption | intro _)
    | exact True.intro | exact ⟨rfl, rfl⟩
    | with_reducible (first
        | apply rotationEnd_inv | apply updRotation_inv | apply (writeBack_inv hP) | apply (dropFrame_inv hP) | apply foldl_bind_inv | apply bind_inv | apply ite_snd
        | apply ite_inv | apply ite_opt | apply ite_cmd | apply ite_out | apply findSome_inv | apply each_inv | apply iter_inv | apply foldl_inv
        | apply foldl_inv2 | apply getD_inv | apply elim_inv | apply JudgedInv.mk | apply JudgedInv.take | apply JudgedInv.discard | apply ite_judged
        | apply OptInv.mk_some | apply OptInv.mk_none | apply ExcInv.mk_ok | apply ExcInv.mk_error | apply OutInv.mk_next | apply CmdInv.mk_commit
        | apply DirInv.mk_sent | apply DirRoomInv.mk_freeing)
    | exact Kept.congr ‹Kept P _› rfl | assumption | split | dsimp only

theorem execMemoryKeyUnitDone_inv (hP : Closed P) (comp : Nat) (s : State) (h_s : Kept P s) : OutInv P (execMemoryKeyUnitDone comp s) := by
  unfold execMemoryKeyUnitDone
  repeat' first
    | with_reducible (first
        | assumption | intro _ | apply done_inv | apply (settleAll_inv hP) | apply (unitRotated_inv hP) | apply ite_inv | apply OutInv.mk_next)
    | exact Kept.congr ‹Kept P _› rfl | assumption | split

/-! ### Strike -/

theorem tick_phase (t : TimeS) : (tick t).phase = 0 := rfl
theorem tick_bell (t : TimeS) : (tick t).bell = t.bell + 1 := rfl
theorem performMirror_mem (hP : Closed P) (v : View) (m : List Host.Cell) (d : List Byte) (h : P { v with mem := m }) :
    P { v with mem := (performMirror m d).1 } := by
  have pick : ∀ {β : Type} {c : Prop} {d : Decidable c} {x y : List Host.Cell × β}, P { v with mem := x.1 } → P { v with mem := y.1 } →
      P { v with mem := (@ite _ c d x y).1 } := by
    intro β c d x y hx hy
    by_cases h : c <;> simp only [h, if_true, if_false] <;> assumption
  unfold performMirror
  extract_lets u1 opc status a p op at_ old
  clear_value u1 opc status a p op at_ old
  refine pick h ?_
  refine pick ?_ ?_
  · exact hP.write { v with mem := m } _ _ v.cache h
  refine pick ?_ ?_
  · generalize maskedLine p (Memory.read m a 64) = q
    exact hP.write { v with mem := m } a q v.cache h
  refine pick ?_ ?_
  · exact hP.write { v with mem := m } _ _ v.cache h
  exact pick h h
theorem mirrors_mem {β : Type} (v : View) (f : List Host.Cell × β → Nat × List Byte → List Host.Cell × β) (l : List (Nat × List Byte))
    (p : List Host.Cell × β) (hf : ∀ p e, P { v with mem := p.1 } → P { v with mem := (f p e).1 }) (h : P { v with mem := p.1 }) :
    P { v with mem := (l.foldl f p).1 } := by
  induction l generalizing p with
  | nil => exact h
  | cons e l ih => exact ih _ (hf p e h)

theorem heartbeats_inv (s : State) (h_s : Kept P s) : Kept P (heartbeats s) := by
  unfold heartbeats
  repeat' first
    | with_reducible (first
        | assumption | intro _ | apply ite_inv)
    | exact Kept.congr ‹Kept P _› rfl | assumption | split

theorem countCredit_inv (s : State) (h_s : Kept P s) : Kept P (countCredit s) := by
  unfold countCredit
  repeat' first
    | with_reducible (first
        | assumption | intro _)
    | exact True.intro | exact ⟨rfl, rfl⟩
    | with_reducible (first
        | apply updPort_inv | apply recordRate_inv | apply foldl_bind_inv | apply bind_inv | apply ite_snd | apply ite_inv | apply ite_opt | apply ite_cmd
        | apply ite_out | apply findSome_inv | apply each_inv | apply iter_inv | apply foldl_inv | apply foldl_inv2 | apply getD_inv | apply elim_inv
        | apply JudgedInv.mk | apply JudgedInv.take | apply JudgedInv.discard | apply ite_judged | apply OptInv.mk_some | apply OptInv.mk_none
        | apply ExcInv.mk_ok | apply ExcInv.mk_error | apply OutInv.mk_next | apply CmdInv.mk_commit | apply DirInv.mk_sent | apply DirRoomInv.mk_freeing)
    | exact Kept.congr ‹Kept P _› rfl | assumption | split | dsimp only

theorem quarterMoves_inv (s : State) (h_s : Kept P s) : Kept P (quarterMoves s) := by
  unfold quarterMoves
  repeat' first
    | with_reducible (first
        | assumption | intro _)
    | exact True.intro | exact ⟨rfl, rfl⟩
    | with_reducible (first
        | apply updRegion_inv | apply foldl_bind_inv | apply bind_inv | apply ite_snd | apply ite_inv | apply ite_opt | apply ite_cmd | apply ite_out
        | apply findSome_inv | apply each_inv | apply iter_inv | apply foldl_inv | apply foldl_inv2 | apply getD_inv | apply elim_inv | apply JudgedInv.mk
        | apply JudgedInv.take | apply JudgedInv.discard | apply ite_judged | apply OptInv.mk_some | apply OptInv.mk_none | apply ExcInv.mk_ok
        | apply ExcInv.mk_error | apply OutInv.mk_next | apply CmdInv.mk_commit | apply DirInv.mk_sent | apply DirRoomInv.mk_freeing)
    | exact Kept.congr ‹Kept P _› rfl | assumption | split | dsimp only

theorem mapSwitched_inv (hP : Closed P) (s : State) (h_s : Kept P s) : Kept P (mapSwitched s) := by
  unfold mapSwitched
  repeat' first
    | with_reducible (first
        | assumption | intro _)
    | exact True.intro | exact ⟨rfl, rfl⟩
    | (extract_lets +onlyGivenNames x
       first
       | (refine ((fun (hx : Kept P x) => ?_) ?_) <;> [clear_value x; (revert x; change (Kept P) _)])
       | (refine ((fun (hx : Kept P x.2) => ?_) ?_) <;> [clear_value x; (revert x; change (Kept P) (Prod.snd _))])
       | (have _ := (x : List _); clear_value x)
       | skip)
    | with_reducible (first
        | apply quarterMoves_inv | apply updRegion_inv | apply dropOffer_inv | apply (settleAll_inv hP) | apply copyPush_inv | apply foldl_bind_inv
        | apply bind_inv | apply ite_snd | apply ite_inv | apply ite_opt | apply ite_cmd | apply ite_out | apply findSome_inv | apply each_inv
        | apply iter_inv | apply foldl_inv | apply foldl_inv2 | apply getD_inv | apply elim_inv | apply JudgedInv.mk | apply JudgedInv.take
        | apply JudgedInv.discard | apply ite_judged | apply OptInv.mk_some | apply OptInv.mk_none | apply ExcInv.mk_ok | apply ExcInv.mk_error
        | apply OutInv.mk_next | apply CmdInv.mk_commit | apply DirInv.mk_sent | apply DirRoomInv.mk_freeing)
    | exact Kept.congr ‹Kept P _› rfl | assumption | split | (refine OptInv.of_eq (Q := (Kept P)) ‹_ = some _› ?_) | (refine pair_of_eq ‹_ = (_, _)› ?_)
    | (refine pair_of_eq' ‹_ = (_, _)› ?_) | (refine DirInv.of_eq ‹_ = DirStep.sent _› ?_) | (refine DirRoomInv.of_eq ‹_ = DirRoom.freeing _› ?_)
    | dsimp only

theorem moveBegins_inv (hP : Closed P) (s : State) (m : Move) (h_s : Kept P s) : Kept P (moveBegins s m) := by
  unfold moveBegins
  repeat' first
    | with_reducible (first
        | assumption | intro _)
    | exact True.intro | exact ⟨rfl, rfl⟩
    | with_reducible (first
        | apply (putPage_inv hP) | apply updMove_inv | apply movePull_inv | apply foldl_bind_inv | apply bind_inv | apply ite_snd | apply ite_inv | apply ite_opt
        | apply ite_cmd | apply ite_out | apply findSome_inv | apply each_inv | apply iter_inv | apply foldl_inv | apply foldl_inv2 | apply getD_inv
        | apply elim_inv | apply JudgedInv.mk | apply JudgedInv.take | apply JudgedInv.discard | apply ite_judged | apply OptInv.mk_some
        | apply OptInv.mk_none | apply ExcInv.mk_ok | apply ExcInv.mk_error | apply OutInv.mk_next | apply CmdInv.mk_commit | apply DirInv.mk_sent
        | apply DirRoomInv.mk_freeing)
    | exact Kept.congr ‹Kept P _› rfl | assumption | split | dsimp only

theorem discardTray_inv (hP : Closed P) (s : State) (c : Nat) (h_s : Kept P s) : Kept P (discardTray s c) := by
  unfold discardTray
  repeat' first
    | with_reducible (first
        | assumption | intro _)
    | exact True.intro | exact ⟨rfl, rfl⟩
    | (extract_lets +onlyGivenNames x
       first
       | (refine ((fun (hx : Kept P x) => ?_) ?_) <;> [clear_value x; (revert x; change (Kept P) _)])
       | (refine ((fun (hx : Kept P x.2) => ?_) ?_) <;> [clear_value x; (revert x; change (Kept P) (Prod.snd _))])
       | (refine ((fun (hx : OptInv (Kept P) x) => ?_) ?_) <;> [clear_value x; (revert x; change OptInv (Kept P) _)])
       | (refine ((fun (hx : CmdInv P x) => ?_) ?_) <;> [clear_value x; (revert x; change (CmdInv P) _)])
       | (have _ := (x : List _); clear_value x)
       | skip)
    | with_reducible (first
        | apply setPoison_inv | apply updFrame_inv | apply traySettle_inv | apply updCxl_inv | apply foldl_bind_inv | apply bind_inv | apply ite_snd
        | apply ite_inv | apply ite_opt | apply ite_cmd | apply ite_out | apply findSome_inv | apply each_inv | apply iter_inv | apply foldl_inv
        | apply foldl_inv2 | apply getD_inv | apply elim_inv | apply JudgedInv.mk | apply JudgedInv.take | apply JudgedInv.discard | apply ite_judged
        | apply OptInv.mk_some | apply OptInv.mk_none | apply ExcInv.mk_ok | apply ExcInv.mk_error | apply OutInv.mk_next | apply CmdInv.mk_commit
        | apply DirInv.mk_sent | apply DirRoomInv.mk_freeing)
    | exact Kept.congr ‹Kept P _› rfl | assumption | refine Inv.congr (setPoison_inv _ _ _ ?_ ) rfl | refine Inv.congr (updFrame_inv _ _ _ _ ?_ ) rfl
    | refine Inv.congr (traySettle_inv _ _ ?_ ) rfl | refine Inv.congr (updCxl_inv _ _ _ ?_ ) rfl | split
    | (refine OptInv.of_eq (Q := (Kept P)) ‹_ = some _› ?_) | (refine OptInv.of_eq (Q := (CmdInv P)) ‹_ = some _› ?_) | (refine pair_of_eq ‹_ = (_, _)› ?_)
    | (refine pair_of_eq' ‹_ = (_, _)› ?_) | (refine DirInv.of_eq ‹_ = DirStep.sent _› ?_) | (refine DirRoomInv.of_eq ‹_ = DirRoom.freeing _› ?_)
    | (refine CmdInv.of_eq ‹_ = CmdResult.commit _ _ _ _› ?_) | (refine ExcInv.of_eq ‹_ = Except.ok _› ?_) | dsimp only
    | exact Kept.write hP ‹Kept P _› rfl | exact Kept.cache hP ‹Kept P _› rfl | exact Kept.clear hP ‹Kept P _› rfl
    | exact Kept.clears hP ‹Kept P _› rfl | dsimp +zetaDelta only
    | (refine OptInv.of_eq (Q := fun (t : _ × State) => (Kept P) t.2) ‹_ = some _› ?_)
    | (refine OptInv.of_eq (Q := fun (t : _ × State) => (Kept P) t.2) (t := (_, _)) ‹_ = some (_, _)› ?_)
    | (refine ExcInv.of_eq (Q := fun (t : _ × State) => (Kept P) t.2) (t := (_, _)) ‹_ = Except.ok (_, _)› ?_)

theorem expelled_inv (hP : Closed P) (s : State) (d : Nat) (h_s : Kept P s) : Kept P (expelled s d) := by
  unfold expelled
  repeat' first
    | with_reducible (first
        | assumption | intro _)
    | exact True.intro | exact ⟨rfl, rfl⟩
    | with_reducible (first
        | apply (fenceNow_inv hP) | apply (settleAll_inv hP) | apply (dropPort_inv hP) | apply foldl_bind_inv | apply bind_inv | apply ite_snd | apply ite_inv
        | apply ite_opt | apply ite_cmd | apply ite_out | apply findSome_inv | apply each_inv | apply iter_inv | apply foldl_inv | apply foldl_inv2
        | apply getD_inv | apply elim_inv | apply JudgedInv.mk | apply JudgedInv.take | apply JudgedInv.discard | apply ite_judged | apply OptInv.mk_some
        | apply OptInv.mk_none | apply ExcInv.mk_ok | apply ExcInv.mk_error | apply OutInv.mk_next | apply CmdInv.mk_commit | apply DirInv.mk_sent
        | apply DirRoomInv.mk_freeing)
    | exact Kept.congr ‹Kept P _› rfl | assumption | split | dsimp only

theorem indexCommitted_inv (s : State) (old : Index) (e : Nat) (h_s : Kept P s) : Kept P (indexCommitted s old e) := by
  unfold indexCommitted
  repeat' first
    | with_reducible (first
        | assumption | intro _ | apply updIndex_inv | apply engRecord_inv | apply releaseHeld_inv | apply ite_inv)
    | exact Kept.congr ‹Kept P _› rfl | assumption | split

theorem tableEvent_inv (s : State) (code : Nat) (slot : Nat) (p3 : Word) (h_s : Kept P s) : Kept P (tableEvent s code slot p3) := by
  unfold tableEvent
  repeat' first
    | with_reducible (first
        | assumption | intro _ | apply record_inv | apply ite_inv)
    | exact Kept.congr ‹Kept P _› rfl | assumption | split

theorem sheafSeen_inv (hP : Closed P) (s : State) (x : Sheaf) (h_s : Kept P s) : Kept P (sheafSeen s x) := by
  unfold sheafSeen
  repeat' first
    | with_reducible (first
        | assumption | intro _ | apply (settleAll_inv hP) | apply (pushPage_inv hP) | apply mirrorRecord_inv | apply ite_inv)
    | exact Kept.congr ‹Kept P _› rfl | assumption | split

theorem rotateBegins_inv (s : State) (kind : Nat) (comp : Nat) (h_s : Kept P s) : Kept P (rotateBegins s kind comp) := by
  unfold rotateBegins
  repeat' first
    | with_reducible (first
        | assumption | intro _)
    | exact True.intro | exact ⟨rfl, rfl⟩
    | with_reducible (first
        | apply rekey_inv | apply foldl_bind_inv | apply bind_inv | apply ite_snd | apply ite_inv | apply ite_opt | apply ite_cmd | apply ite_out
        | apply findSome_inv | apply each_inv | apply iter_inv | apply foldl_inv | apply foldl_inv2 | apply getD_inv | apply elim_inv | apply JudgedInv.mk
        | apply JudgedInv.take | apply JudgedInv.discard | apply ite_judged | apply OptInv.mk_some | apply OptInv.mk_none | apply ExcInv.mk_ok
        | apply ExcInv.mk_error | apply OutInv.mk_next | apply CmdInv.mk_commit | apply DirInv.mk_sent | apply DirRoomInv.mk_freeing)
    | exact Kept.congr ‹Kept P _› rfl | assumption | split | dsimp only

theorem changeSeen_inv (hP : Closed P) (old : State) (s : State) (a2 : Change) (h_old : Kept P old) (h_s : Kept P s) : Kept P (changeSeen old s a2) := by
  unfold changeSeen
  repeat' first
    | with_reducible (first
        | assumption | intro _)
    | exact True.intro | exact ⟨rfl, rfl⟩
    | with_reducible (first
        | apply copyPush_inv | apply recallAll_inv | apply dropOffer_inv | apply (mapSwitched_inv hP) | apply (moveBegins_inv hP) | apply qpRecord_inv
        | apply tableEvent_inv | apply indexCommitted_inv | apply setFenced_inv | apply (expelled_inv hP) | apply (sheafSeen_inv hP) | apply (discardTray_inv hP)
        | apply haltCore_inv | apply barWrite_inv | apply (setPort_inv hP) | apply rotateBegins_inv | apply (beginReset_inv hP) | apply foldl_bind_inv | apply bind_inv
        | apply ite_snd | apply ite_inv | apply ite_opt | apply ite_cmd | apply ite_out | apply findSome_inv | apply each_inv | apply iter_inv
        | apply foldl_inv | apply foldl_inv2 | apply getD_inv | apply elim_inv | apply JudgedInv.mk | apply JudgedInv.take | apply JudgedInv.discard
        | apply ite_judged | apply OptInv.mk_some | apply OptInv.mk_none | apply ExcInv.mk_ok | apply ExcInv.mk_error | apply OutInv.mk_next
        | apply CmdInv.mk_commit | apply DirInv.mk_sent | apply DirRoomInv.mk_freeing)
    | exact Kept.congr ‹Kept P _› rfl | assumption | split | dsimp only

theorem makeVisible_inv (hP : Closed P) (s : State) (h_s : Kept P s) : Kept P (makeVisible s) := by
  unfold makeVisible
  repeat' first
    | with_reducible (first
        | assumption | intro _)
    | exact True.intro | exact ⟨rfl, rfl⟩
    | with_reducible (first
        | apply (changeSeen_inv hP) | apply (applyChange_inv hP) | apply foldl_bind_inv | apply bind_inv | apply ite_snd | apply ite_inv | apply ite_opt | apply ite_cmd
        | apply ite_out | apply findSome_inv | apply each_inv | apply iter_inv | apply foldl_inv | apply foldl_inv2 | apply getD_inv | apply elim_inv
        | apply JudgedInv.mk | apply JudgedInv.take | apply JudgedInv.discard | apply ite_judged | apply OptInv.mk_some | apply OptInv.mk_none
        | apply ExcInv.mk_ok | apply ExcInv.mk_error | apply OutInv.mk_next | apply CmdInv.mk_commit | apply DirInv.mk_sent | apply DirRoomInv.mk_freeing)
    | exact Kept.congr ‹Kept P _› rfl | assumption | split | dsimp only

theorem answerCommands_inv (hP : Closed P) (s : State) (h_s : Kept P s) : Kept P (answerCommands s) := by
  unfold answerCommands
  repeat' first
    | with_reducible (first
        | assumption | intro _)
    | exact True.intro | exact ⟨rfl, rfl⟩
    | with_reducible (first
        | apply phaseZero_inv | apply mbAnswer_inv | apply dropCmd_inv | apply (strike_inv hP hT) | apply foldl_bind_inv | apply bind_inv | apply ite_snd
        | apply ite_inv | apply ite_opt | apply ite_cmd | apply ite_out | apply findSome_inv | apply each_inv | apply iter_inv | apply foldl_inv
        | apply foldl_inv2 | apply getD_inv | apply elim_inv | apply JudgedInv.mk | apply JudgedInv.take | apply JudgedInv.discard | apply ite_judged
        | apply OptInv.mk_some | apply OptInv.mk_none | apply ExcInv.mk_ok | apply ExcInv.mk_error | apply OutInv.mk_next | apply CmdInv.mk_commit
        | apply DirInv.mk_sent | apply DirRoomInv.mk_freeing)
    | exact Kept.congr ‹Kept P _› rfl | assumption | split | dsimp only

theorem splitDrain_inv (hP : Closed P) (s : State) (c : Cmd) (q : Nat) (h_s : Kept P s) : Kept P (splitDrain s c q) := by
  unfold splitDrain
  repeat' first
    | with_reducible (first
        | assumption | intro _)
    | exact True.intro | exact ⟨rfl, rfl⟩
    | with_reducible (first
        | apply endCmd_inv | apply (clearFrames_inv hP) | apply (applyChange_inv hP) | apply foldl_bind_inv | apply bind_inv | apply ite_snd | apply ite_inv
        | apply ite_opt | apply ite_cmd | apply ite_out | apply findSome_inv | apply each_inv | apply iter_inv | apply foldl_inv | apply foldl_inv2
        | apply getD_inv | apply elim_inv | apply JudgedInv.mk | apply JudgedInv.take | apply JudgedInv.discard | apply ite_judged | apply OptInv.mk_some
        | apply OptInv.mk_none | apply ExcInv.mk_ok | apply ExcInv.mk_error | apply OutInv.mk_next | apply CmdInv.mk_commit | apply DirInv.mk_sent
        | apply DirRoomInv.mk_freeing)
    | exact Kept.congr ‹Kept P _› rfl | assumption | split | dsimp only

theorem portsDrain_inv (s : State) (kind : Nat) (ports : List (Nat × Nat)) (h_s : Kept P s) : Kept P (portsDrain s kind ports) := by
  unfold portsDrain
  repeat' first
    | with_reducible (first
        | assumption | intro _ | apply trustRecord_inv | apply endDrains_inv | apply ite_inv)
    | exact Kept.congr ‹Kept P _› rfl | assumption | split

theorem unloadDrain_inv (s : State) (n : Nat) (h_s : Kept P s) : Kept P (unloadDrain s n) := by
  unfold unloadDrain
  repeat' first
    | with_reducible (first
        | assumption | intro _)
    | exact True.intro | exact ⟨rfl, rfl⟩
    | (extract_lets +onlyGivenNames x
       first
       | (refine ((fun (hx : Kept P x) => ?_) ?_) <;> [clear_value x; (revert x; change (Kept P) _)])
       | (refine ((fun (hx : Kept P x.2) => ?_) ?_) <;> [clear_value x; (revert x; change (Kept P) (Prod.snd _))])
       | (have _ := (x : List _); clear_value x)
       | skip)
    | with_reducible (first
        | apply endDrains_inv | apply foldl_bind_inv | apply bind_inv | apply ite_snd | apply ite_inv | apply ite_opt | apply ite_cmd | apply ite_out
        | apply findSome_inv | apply each_inv | apply iter_inv | apply foldl_inv | apply foldl_inv2 | apply getD_inv | apply elim_inv | apply JudgedInv.mk
        | apply JudgedInv.take | apply JudgedInv.discard | apply ite_judged | apply OptInv.mk_some | apply OptInv.mk_none | apply ExcInv.mk_ok
        | apply ExcInv.mk_error | apply OutInv.mk_next | apply CmdInv.mk_commit | apply DirInv.mk_sent | apply DirRoomInv.mk_freeing)
    | exact Kept.congr ‹Kept P _› rfl | assumption | split | (refine OptInv.of_eq (Q := (Kept P)) ‹_ = some _› ?_) | (refine pair_of_eq ‹_ = (_, _)› ?_)
    | (refine pair_of_eq' ‹_ = (_, _)› ?_) | (refine DirInv.of_eq ‹_ = DirStep.sent _› ?_) | (refine DirRoomInv.of_eq ‹_ = DirRoom.freeing _› ?_)
    | dsimp only

theorem drainCommand_inv (hP : Closed P) (s : State) (c : Cmd) (d : DrainOn) (h_s : Kept P s) : Kept P (drainCommand s c d) := by
  unfold drainCommand
  repeat' first
    | with_reducible (first
        | assumption | intro _ | apply destroyStep_inv | apply (splitDrain_inv hP) | apply unloadDrain_inv | apply rotationEnd_inv | apply portsDrain_inv
        | apply endCmd_inv | apply ite_inv)
    | exact Kept.congr ‹Kept P _› rfl | assumption | split

theorem drainCommands_inv (hP : Closed P) (s : State) (h_s : Kept P s) : Kept P (drainCommands s) := by
  unfold drainCommands
  repeat' first
    | with_reducible (first
        | assumption | intro _)
    | exact True.intro | exact ⟨rfl, rfl⟩
    | with_reducible (first
        | apply (drainCommand_inv hP) | apply foldl_bind_inv | apply bind_inv | apply ite_snd | apply ite_inv | apply ite_opt | apply ite_cmd | apply ite_out
        | apply findSome_inv | apply each_inv | apply iter_inv | apply foldl_inv | apply foldl_inv2 | apply getD_inv | apply elim_inv | apply JudgedInv.mk
        | apply JudgedInv.take | apply JudgedInv.discard | apply ite_judged | apply OptInv.mk_some | apply OptInv.mk_none | apply ExcInv.mk_ok
        | apply ExcInv.mk_error | apply OutInv.mk_next | apply CmdInv.mk_commit | apply DirInv.mk_sent | apply DirRoomInv.mk_freeing)
    | exact Kept.congr ‹Kept P _› rfl | assumption | split | dsimp only

theorem closeMeters_inv (s : State) (h_s : Kept P s) : Kept P (closeMeters s) := by
  unfold closeMeters
  repeat' first
    | with_reducible (first
        | assumption | intro _)
    | exact True.intro | exact ⟨rfl, rfl⟩
    | (extract_lets +onlyGivenNames x
       first
       | (refine ((fun (hx : Kept P x) => ?_) ?_) <;> [clear_value x; (revert x; change (Kept P) _)])
       | (refine ((fun (hx : Kept P x.2) => ?_) ?_) <;> [clear_value x; (revert x; change (Kept P) (Prod.snd _))])
       | (have _ := (x : List _); clear_value x)
       | skip)
    | with_reducible (first
        | apply meter_inv | apply foldl_bind_inv | apply bind_inv | apply ite_snd | apply ite_inv | apply ite_opt | apply ite_cmd | apply ite_out
        | apply findSome_inv | apply each_inv | apply iter_inv | apply foldl_inv | apply foldl_inv2 | apply getD_inv | apply elim_inv | apply JudgedInv.mk
        | apply JudgedInv.take | apply JudgedInv.discard | apply ite_judged | apply OptInv.mk_some | apply OptInv.mk_none | apply ExcInv.mk_ok
        | apply ExcInv.mk_error | apply OutInv.mk_next | apply CmdInv.mk_commit | apply DirInv.mk_sent | apply DirRoomInv.mk_freeing)
    | exact Kept.congr ‹Kept P _› rfl | assumption | split | (refine OptInv.of_eq (Q := (Kept P)) ‹_ = some _› ?_) | (refine pair_of_eq ‹_ = (_, _)› ?_)
    | (refine pair_of_eq' ‹_ = (_, _)› ?_) | (refine DirInv.of_eq ‹_ = DirStep.sent _› ?_) | (refine DirRoomInv.of_eq ‹_ = DirRoom.freeing _› ?_)
    | dsimp only

theorem refill_inv (s : State) (h_s : Kept P s) : Kept P (refill s) := by
  unfold refill
  repeat' first
    | with_reducible (first
        | assumption | intro _ | apply ite_inv)
    | exact Kept.congr ‹Kept P _› rfl | assumption | split

theorem rollCounts_inv (hP : Closed P) (s : State) (h_s : Kept P s) : Kept P (rollCounts s) := by
  unfold rollCounts
  repeat' first
    | with_reducible (first
        | assumption | intro _ | apply (strike_inv hP hT) | apply ite_inv)
    | exact Kept.congr ‹Kept P _› rfl | assumption | split

theorem openCapacity_inv (s : State) (h_s : Kept P s) : Kept P (openCapacity s) := by
  unfold openCapacity
  repeat' first
    | with_reducible (first
        | assumption | intro _ | apply ite_inv)
    | exact Kept.congr ‹Kept P _› rfl | assumption | split

theorem resumeRetirements_inv (hP : Closed P) (s : State) (h_s : Kept P s) : Kept P (resumeRetirements s) := by
  unfold resumeRetirements
  repeat' first
    | with_reducible (first
        | assumption | intro _)
    | exact True.intro | exact ⟨rfl, rfl⟩
    | with_reducible (first
        | apply (startDrain_inv hP) | apply held_inv | apply foldl_bind_inv | apply bind_inv | apply ite_snd | apply ite_inv | apply ite_opt | apply ite_cmd
        | apply ite_out | apply findSome_inv | apply each_inv | apply iter_inv | apply foldl_inv | apply foldl_inv2 | apply getD_inv | apply elim_inv
        | apply JudgedInv.mk | apply JudgedInv.take | apply JudgedInv.discard | apply ite_judged | apply OptInv.mk_some | apply OptInv.mk_none
        | apply ExcInv.mk_ok | apply ExcInv.mk_error | apply OutInv.mk_next | apply CmdInv.mk_commit | apply DirInv.mk_sent | apply DirRoomInv.mk_freeing)
    | exact Kept.congr ‹Kept P _› rfl | assumption | split | dsimp only

theorem shadowStep_inv (hP : Closed P) (s : State) (x : Shadow) (c : Bool) (h_s : Kept P s) : Kept P (shadowStep s x c) := by
  unfold shadowStep
  extract_lets +onlyGivenNames ready rest
  have h : P { s.view with mem := (ready.foldl (fun (acc : List Host.Cell × Word × Word) e =>
    let (m, theirs, own) := acc
    let (m, data) := performMirror m e.2
    let hash := wordAt e.2 32
    (m, theirs ^^^ hash, own ^^^ (match data with | some d => respHash (fld (wordAt e.2 8) 55 48) d | none => hash))) (s.tier.mem, 0, 0)).1 } :=
    mirrors_mem s.view _ _ _ (fun p e hp => performMirror_mem hP s.view p.1 e.2 hp) h_s
  clear_value ready rest
  revert h
  generalize ready.foldl _ (s.tier.mem, (0 : Word), (0 : Word)) = p
  intro h
  obtain ⟨m, theirs, own⟩ := p
  dsimp only
  refine ite_inv (fun _ => ?_) (fun _ => domainRecord_inv _ _ _ _ _ _ _ ?_)
  · exact Kept.mk h
  · exact Kept.mk h

theorem compareShadows_inv (hP : Closed P) (s : State) (compare : Bool) (h_s : Kept P s) : Kept P (compareShadows s compare) := by
  unfold compareShadows
  repeat' first
    | with_reducible (first
        | assumption | intro _)
    | exact True.intro | exact ⟨rfl, rfl⟩
    | (extract_lets +onlyGivenNames x
       first
       | (refine ((fun (hx : Kept P x) => ?_) ?_) <;> [clear_value x; (revert x; change (Kept P) _)])
       | (refine ((fun (hx : Kept P x.2) => ?_) ?_) <;> [clear_value x; (revert x; change (Kept P) (Prod.snd _))])
       | (refine ((fun (hx : OptInv (Kept P) x) => ?_) ?_) <;> [clear_value x; (revert x; change OptInv (Kept P) _)])
       | (refine ((fun (hx : CmdInv P x) => ?_) ?_) <;> [clear_value x; (revert x; change (CmdInv P) _)])
       | (have _ := (x : List _); clear_value x)
       | skip)
    | with_reducible (first
        | apply (shadowStep_inv hP) | apply foldl_bind_inv | apply bind_inv | apply ite_snd | apply ite_inv | apply ite_opt | apply ite_cmd | apply ite_out
        | apply findSome_inv | apply each_inv | apply iter_inv | apply foldl_inv | apply foldl_inv2 | apply getD_inv | apply elim_inv | apply JudgedInv.mk
        | apply JudgedInv.take | apply JudgedInv.discard | apply ite_judged | apply OptInv.mk_some | apply OptInv.mk_none | apply ExcInv.mk_ok
        | apply ExcInv.mk_error | apply OutInv.mk_next | apply CmdInv.mk_commit | apply DirInv.mk_sent | apply DirRoomInv.mk_freeing)
    | exact Kept.congr ‹Kept P _› rfl | assumption | refine Inv.congr ((shadowStep_inv hP) _ _ _ ?_ ) rfl | split
    | (refine OptInv.of_eq (Q := (Kept P)) ‹_ = some _› ?_) | (refine OptInv.of_eq (Q := (CmdInv P)) ‹_ = some _› ?_) | (refine pair_of_eq ‹_ = (_, _)› ?_)
    | (refine pair_of_eq' ‹_ = (_, _)› ?_) | (refine DirInv.of_eq ‹_ = DirStep.sent _› ?_) | (refine DirRoomInv.of_eq ‹_ = DirRoom.freeing _› ?_)
    | (refine CmdInv.of_eq ‹_ = CmdResult.commit _ _ _ _› ?_) | (refine ExcInv.of_eq ‹_ = Except.ok _› ?_) | dsimp only | apply (shadowStep_inv hP)
    | exact Kept.write hP ‹Kept P _› rfl | exact Kept.cache hP ‹Kept P _› rfl | exact Kept.clear hP ‹Kept P _› rfl
    | exact Kept.clears hP ‹Kept P _› rfl | dsimp +zetaDelta only
    | (refine OptInv.of_eq (Q := fun (t : _ × State) => (Kept P) t.2) ‹_ = some _› ?_)
    | (refine OptInv.of_eq (Q := fun (t : _ × State) => (Kept P) t.2) (t := (_, _)) ‹_ = some (_, _)› ?_)
    | (refine ExcInv.of_eq (Q := fun (t : _ × State) => (Kept P) t.2) (t := (_, _)) ‹_ = Except.ok (_, _)› ?_)

theorem engineSettings_inv (s : State) (h_s : Kept P s) : Kept P (engineSettings s) := by
  unfold engineSettings
  repeat' first
    | with_reducible (first
        | assumption | intro _ | apply ite_inv)
    | exact Kept.congr ‹Kept P _› rfl | assumption | split

theorem dealEngines_inv (hP : Closed P) (s : State) (h_s : Kept P s) : Kept P (dealEngines s) := by
  unfold dealEngines
  repeat' first
    | with_reducible (first
        | assumption | intro _)
    | exact True.intro | exact ⟨rfl, rfl⟩
    | with_reducible (first
        | apply engineSettings_inv | apply (takeSubmissions_inv hP) | apply (dealPortions_inv hP) | apply (buildBatch_inv hP) | apply (strike_inv hP hT) | apply foldl_bind_inv
        | apply bind_inv | apply ite_snd | apply ite_inv | apply ite_opt | apply ite_cmd | apply ite_out | apply findSome_inv | apply each_inv
        | apply iter_inv | apply foldl_inv | apply foldl_inv2 | apply getD_inv | apply elim_inv | apply JudgedInv.mk | apply JudgedInv.take
        | apply JudgedInv.discard | apply ite_judged | apply OptInv.mk_some | apply OptInv.mk_none | apply ExcInv.mk_ok | apply ExcInv.mk_error
        | apply OutInv.mk_next | apply CmdInv.mk_commit | apply DirInv.mk_sent | apply DirRoomInv.mk_freeing)
    | exact Kept.congr ‹Kept P _› rfl | assumption | split | dsimp only

theorem resetsDue_inv (hP : Closed P) (s : State) (h_s : Kept P s) : Kept P (resetsDue s) := by
  unfold resetsDue
  repeat' first
    | with_reducible (first
        | assumption | intro _ | apply (beginDevice_inv hP) | apply (flushEnds_inv hP) | apply ite_inv)
    | exact Kept.congr ‹Kept P _› rfl | assumption | split

theorem domainStrike_inv (hP : Closed P) (s : State) (h_s : Kept P s) : Kept P (domainStrike s) := by
  unfold domainStrike
  repeat' first
    | with_reducible (first
        | assumption | intro _)
    | exact True.intro | exact ⟨rfl, rfl⟩
    | (extract_lets +onlyGivenNames x
       first
       | (refine ((fun (hx : Kept P x) => ?_) ?_) <;> [clear_value x; (revert x; change (Kept P) _)])
       | (refine ((fun (hx : Kept P x.2) => ?_) ?_) <;> [clear_value x; (revert x; change (Kept P) (Prod.snd _))])
       | (have _ := (x : List _); clear_value x)
       | skip)
    | with_reducible (first
        | apply (moveWithin_inv hP) | apply (leaseRegained_inv hP) | apply (leaseLost_inv hP) | apply foldl_bind_inv | apply bind_inv | apply ite_snd | apply ite_inv
        | apply ite_opt | apply ite_cmd | apply ite_out | apply findSome_inv | apply each_inv | apply iter_inv | apply foldl_inv | apply foldl_inv2
        | apply getD_inv | apply elim_inv | apply JudgedInv.mk | apply JudgedInv.take | apply JudgedInv.discard | apply ite_judged | apply OptInv.mk_some
        | apply OptInv.mk_none | apply ExcInv.mk_ok | apply ExcInv.mk_error | apply OutInv.mk_next | apply CmdInv.mk_commit | apply DirInv.mk_sent
        | apply DirRoomInv.mk_freeing)
    | exact Kept.congr ‹Kept P _› rfl | assumption | split | (refine OptInv.of_eq (Q := (Kept P)) ‹_ = some _› ?_) | (refine pair_of_eq ‹_ = (_, _)› ?_)
    | (refine pair_of_eq' ‹_ = (_, _)› ?_) | (refine DirInv.of_eq ‹_ = DirStep.sent _› ?_) | (refine DirRoomInv.of_eq ‹_ = DirRoom.freeing _› ?_)
    | dsimp only

theorem watchdogs_inv (hP : Closed P) (s : State) (h_s : Kept P s) : Kept P (watchdogs s) := by
  unfold watchdogs
  repeat' first
    | with_reducible (first
        | assumption | intro _)
    | exact True.intro | exact ⟨rfl, rfl⟩
    | with_reducible (first
        | apply (beginReset_inv hP) | apply foldl_bind_inv | apply bind_inv | apply ite_snd | apply ite_inv | apply ite_opt | apply ite_cmd | apply ite_out
        | apply findSome_inv | apply each_inv | apply iter_inv | apply foldl_inv | apply foldl_inv2 | apply getD_inv | apply elim_inv | apply JudgedInv.mk
        | apply JudgedInv.take | apply JudgedInv.discard | apply ite_judged | apply OptInv.mk_some | apply OptInv.mk_none | apply ExcInv.mk_ok
        | apply ExcInv.mk_error | apply OutInv.mk_next | apply CmdInv.mk_commit | apply DirInv.mk_sent | apply DirRoomInv.mk_freeing)
    | exact Kept.congr ‹Kept P _› rfl | assumption | split | dsimp only

theorem pumpAll_inv (s : State) (h_s : Kept P s) : Kept P (pumpAll s) := by
  unfold pumpAll
  repeat' first
    | with_reducible (first
        | assumption | intro _)
    | exact True.intro | exact ⟨rfl, rfl⟩
    | with_reducible (first
        | apply pump_inv | apply foldl_bind_inv | apply bind_inv | apply ite_snd | apply ite_inv | apply ite_opt | apply ite_cmd | apply ite_out
        | apply findSome_inv | apply each_inv | apply iter_inv | apply foldl_inv | apply foldl_inv2 | apply getD_inv | apply elim_inv | apply JudgedInv.mk
        | apply JudgedInv.take | apply JudgedInv.discard | apply ite_judged | apply OptInv.mk_some | apply OptInv.mk_none | apply ExcInv.mk_ok
        | apply ExcInv.mk_error | apply OutInv.mk_next | apply CmdInv.mk_commit | apply DirInv.mk_sent | apply DirRoomInv.mk_freeing)
    | exact Kept.congr ‹Kept P _› rfl | assumption | split | dsimp only

theorem recordAbandoned_inv (s : State) (h_s : Kept P s) : Kept P (recordAbandoned s) := by
  unfold recordAbandoned
  repeat' first
    | with_reducible (first
        | assumption | intro _)
    | exact True.intro | exact ⟨rfl, rfl⟩
    | with_reducible (first
        | apply record_inv | apply foldl_bind_inv | apply bind_inv | apply ite_snd | apply ite_inv | apply ite_opt | apply ite_cmd | apply ite_out
        | apply findSome_inv | apply each_inv | apply iter_inv | apply foldl_inv | apply foldl_inv2 | apply getD_inv | apply elim_inv | apply JudgedInv.mk
        | apply JudgedInv.take | apply JudgedInv.discard | apply ite_judged | apply OptInv.mk_some | apply OptInv.mk_none | apply ExcInv.mk_ok
        | apply ExcInv.mk_error | apply OutInv.mk_next | apply CmdInv.mk_commit | apply DirInv.mk_sent | apply DirRoomInv.mk_freeing)
    | exact Kept.congr ‹Kept P _› rfl | assumption | split | dsimp only

theorem strikeFirst_inv (hP : Closed P) (hT : Struck P) (s : State) (h_s : Kept P s) : Kept P (strikeFirst s) := by
  unfold strikeFirst
  dsimp only
  have h0 : Kept P (recordAbandoned s) := recordAbandoned_inv s h_s
  revert h0
  generalize recordAbandoned s = r
  intro h0
  have h1 : Kept P { r with time := tick r.time } := Kept.mk (hT r.view h0)
  have h2 : Kept P (heartbeats { r with time := tick r.time }) := heartbeats_inv _ h1
  revert h2
  generalize heartbeats { r with time := tick r.time } = t
  intro h2
  have h3 : Kept P { t with regs := { t.regs with strikeAdmits := admitCounts t } } := Kept.congr h2 rfl
  have h4 := (makeVisible_inv hP) _ (countCredit_inv _ (latchUnits_inv _ h3))
  exact Kept.congr h4 rfl

theorem strikeWindows_inv (hP : Closed P) (s : State) (h_s : Kept P s) : Kept P (strikeWindows s) := by
  unfold strikeWindows
  repeat' first
    | with_reducible (first
        | assumption | intro _ | apply (rollCounts_inv hP) | apply refill_inv | apply closeMeters_inv | apply ite_inv)
    | exact Kept.congr ‹Kept P _› rfl | assumption | split

theorem strikeUnits_inv (hP : Closed P) (s : State) (h_s : Kept P s) : Kept P (strikeUnits s) := by
  unfold strikeUnits
  repeat' first
    | with_reducible (first
        | assumption | intro _)
    | exact True.intro | exact ⟨rfl, rfl⟩
    | with_reducible (first
        | apply (drainCommands_inv hP) | apply freeTables_inv | apply (drainSlots_inv hP) | apply retireMap_inv | apply (answerCommands_inv hP) | apply (drainSteps_inv hP)
        | apply (resumeRetirements_inv hP) | apply openCapacity_inv | apply traySettle_inv | apply (resetsDue_inv hP) | apply (watchdogs_inv hP) | apply rollSwap_inv
        | apply (domainStrike_inv hP) | apply pumpAll_inv | apply (settleAll_inv hP) | apply foldl_bind_inv | apply bind_inv | apply ite_snd | apply ite_inv
        | apply ite_opt | apply ite_cmd | apply ite_out | apply findSome_inv | apply each_inv | apply iter_inv | apply foldl_inv | apply foldl_inv2
        | apply getD_inv | apply elim_inv | apply JudgedInv.mk | apply JudgedInv.take | apply JudgedInv.discard | apply ite_judged | apply OptInv.mk_some
        | apply OptInv.mk_none | apply ExcInv.mk_ok | apply ExcInv.mk_error | apply OutInv.mk_next | apply CmdInv.mk_commit | apply DirInv.mk_sent
        | apply DirRoomInv.mk_freeing)
    | exact Kept.congr ‹Kept P _› rfl | assumption | split | dsimp only

theorem strikeCores_inv (hP : Closed P) (s : State) (h_s : Kept P s) : Kept P (strikeCores s) := by
  unfold strikeCores
  repeat' first
    | with_reducible (first
        | assumption | intro _ | apply freeWord_inv | apply (skipCompare_inv hP) | apply (compareUnits_inv hP) | apply (compareShadows_inv hP) | apply overruns_inv
        | apply throttle_inv | apply ite_inv)
    | exact Kept.congr ‹Kept P _› rfl | assumption | split

theorem strike_inv (hP : Closed P) (hT : Struck P) (s : State) (h_s : Kept P s) : Kept P (strike s) := by
  unfold strike
  repeat' first
    | with_reducible (first
        | assumption | intro _ | apply (strikeCores_inv hP) | apply (dealEngines_inv hP) | apply (strikeUnits_inv hP) | apply (strikeWindows_inv hP) | apply (strikeFirst_inv hP hT)
        | apply (finishPortions_inv hP) | apply ite_inv)
    | exact Kept.congr ‹Kept P _› rfl | assumption | split

theorem execBellStrike_inv (hP : Closed P) (hT : Struck P) (s : State) (h_s : Kept P s) : OutInv P (execBellStrike s) := by
  unfold execBellStrike
  repeat' first
    | with_reducible (first
        | assumption | intro _ | apply done_inv | apply (strike_inv hP hT) | apply ite_inv | apply OutInv.mk_next)
    | exact Kept.congr ‹Kept P _› rfl | assumption | split

end Sys2Proof.Machine
end

