-- ==== Sys2Proof/Laws/KeepsStep.lean ====
section
/-! SUPPORT. Every command keeps every property of the view that memory operations keep: one lemma for each function, citing those of the
functions it calls. A function that does not write memory keeps every property of the view: its lemma asks nothing of the property. -/

namespace Sys2Proof.Machine

set_option linter.all false

variable {P : View → Prop}

/-! ### Dispatch -/

/-- Every command keeps a property of the view that memory operations keep, the four kinds of command that set the rest of the view apart:
those keep it if it is kept by what they do to the view. -/
theorem exec_inv (hP : Closed P) (i : Instr) (s : State) (hS : i = .bellStrike → Struck P) (hA : startsBell i = true → Started P)
    (hU : losesPower i = true → Unpowered P) (hR : i = .fwFlashWriteDone → Rolled P) (h_s : Kept P s) : OutInv P (exec i s) :=
  match i with
  | .load p h d => execLoad_inv hP p h d s h_s
  | .store p h d => execStore_inv hP p h d s h_s
  | .storeMasked p h d => execStoreMasked_inv hP p h d s h_s
  | .loadShared p h d => execLoadShared_inv hP p h d s h_s
  | .loadExcl p h d => execLoadExcl_inv hP p h d s h_s
  | .writeback p h d => execWriteback_inv hP p h d s h_s
  | .evictClean p h d => execEvictClean_inv hP p h d s h_s
  | .atomicAdd p h d => execAtomicAdd_inv hP p h d s h_s
  | .atomicMin p h d => execAtomicMin_inv hP p h d s h_s
  | .atomicMax p h d => execAtomicMax_inv hP p h d s h_s
  | .atomicCas p h d => execAtomicCas_inv hP p h d s h_s
  | .atomicSwap p h d => execAtomicSwap_inv hP p h d s h_s
  | .atomicAnd p h d => execAtomicAnd_inv hP p h d s h_s
  | .atomicOr p h d => execAtomicOr_inv hP p h d s h_s
  | .atomicXor p h d => execAtomicXor_inv hP p h d s h_s
  | .fence p h d => execFence_inv hP p h d s h_s
  | .publish p h d => execPublish_inv hP p h d s h_s
  | .offer p h d => execOffer_inv hP p h d s h_s
  | .accept p h d => execAccept_inv hP p h d s h_s
  | .confirm p h d => execConfirm_inv hP p h d s h_s
  | .xferRead p h d => execXferRead_inv hP p h d s h_s
  | .xferWrite p h d => execXferWrite_inv hP p h d s h_s
  | .snoopResponse p h d => execSnoopResponse_inv hP p h d s h_s
  | .forwardedResponse p h d => execForwardedResponse_inv hP p h d s h_s
  | .parityDeltaResponse p h d => execParityDeltaResponse_inv hP p h d s h_s
  | .gatewayXferResponse p h d => execGatewayXferResponse_inv hP p h d s h_s
  | .linkFrame p f check m => execLinkFrame_inv hP p f check m s h_s
  | .hello p h d => execHello_inv hP p h d s h_s
  | .helloAck p h d => execHelloAck_inv hP p h d s h_s
  | .sessInit p h d => execSessInit_inv hP p h d s h_s
  | .sessResp p h d => execSessResp_inv hP p h d s h_s
  | .sessFin p h d => execSessFin_inv hP p h d s h_s
  | .sessAck p h d => execSessAck_inv hP p h d s h_s
  | .spareReq p h lane frame => execSpareReq_inv p h lane frame s h_s
  | .spareAck p h lane frame => execSpareAck_inv p h lane frame s h_s
  | .window p h d => execWindow_inv p h d s h_s
  | .windowAck p h d => execWindowAck_inv p h d s h_s
  | .mboxCmd p h d => execMboxCmd_inv hP p h d s h_s
  | .mboxRsp p h d => execMboxRsp_inv p h d s h_s
  | .leaseRenew p h d => execLeaseRenew_inv p h d s h_s
  | .leaseGrant p h d => execLeaseGrant_inv p h d s h_s
  | .quorum p h d => execQuorum_inv hP p h d s h_s
  | .contrib p h d => execContrib_inv hP p h d s h_s
  | .partialList p h d => execPartialList_inv hP p h d s h_s
  | .result p h d => execResult_inv hP p h d s h_s
  | .query p h d => execQuery_inv hP p h d s h_s
  | .cxlmemAccess fn handle slot offset len write => execCxlmemAccess_inv hP fn handle slot offset len write s h_s
  | .regionCreate iss e => execRegionCreate_inv hP iss e s h_s
  | .regionDestroy iss e => execRegionDestroy_inv hP iss e s h_s
  | .regionRead iss e => execRegionRead_inv hP iss e s h_s
  | .keyIssue iss e => execKeyIssue_inv hP iss e s h_s
  | .keyRevoke iss e => execKeyRevoke_inv hP iss e s h_s
  | .ownerSet iss e => execOwnerSet_inv hP iss e s h_s
  | .gwBind iss e => execGwBind_inv hP iss e s h_s
  | .hbmSplit iss e => execHbmSplit_inv hP iss e s h_s
  | .trayDiscard iss e => execTrayDiscard_inv hP iss e s h_s
  | .trayRelease iss e => execTrayRelease_inv hP iss e s h_s
  | .mapStage iss e => execMapStage_inv hP iss e s h_s
  | .mapSwitch iss e => execMapSwitch_inv hP iss e s h_s
  | .mapStatus iss e => execMapStatus_inv hP iss e s h_s
  | .movePrepare iss e => execMovePrepare_inv hP iss e s h_s
  | .stallSet iss e => execStallSet_inv hP iss e s h_s
  | .stallBind iss e => execStallBind_inv hP iss e s h_s
  | .quotaSet iss e => execQuotaSet_inv hP iss e s h_s
  | .policeSet iss e => execPoliceSet_inv hP iss e s h_s
  | .schedSet iss e => execSchedSet_inv hP iss e s h_s
  | .meterRead iss e => execMeterRead_inv hP iss e s h_s
  | .engineSet iss e => execEngineSet_inv hP iss e s h_s
  | .qpAssign iss e => execQpAssign_inv hP iss e s h_s
  | .qpRead iss e => execQpRead_inv hP iss e s h_s
  | .qpRelease iss e => execQpRelease_inv hP iss e s h_s
  | .thresherReturn iss e => execThresherReturn_inv hP iss e s h_s
  | .tableLoad iss e => execTableLoad_inv hP iss e s h_s
  | .tableRetire iss e => execTableRetire_inv hP iss e s h_s
  | .indexLoad iss e => execIndexLoad_inv hP iss e s h_s
  | .indexPart iss e => execIndexPart_inv hP iss e s h_s
  | .indexBatch iss e => execIndexBatch_inv hP iss e s h_s
  | .indexCommit iss e => execIndexCommit_inv hP iss e s h_s
  | .indexQepoch iss e => execIndexQepoch_inv hP iss e s h_s
  | .indexCompact iss e => execIndexCompact_inv hP iss e s h_s
  | .indexUnload iss e => execIndexUnload_inv hP iss e s h_s
  | .sealInstall iss e => execSealInstall_inv hP iss e s h_s
  | .sealRemove iss e => execSealRemove_inv hP iss e s h_s
  | .attest iss e => execAttest_inv hP iss e s h_s
  | .fwStage iss e => execFwStage_inv hP iss e s h_s
  | .fwRoll iss e => execFwRoll_inv hP iss e s h_s
  | .keyRotate iss e => execKeyRotate_inv hP iss e s h_s
  | .reset iss e => execReset_inv hP iss e s h_s
  | .debugHalt iss e => execDebugHalt_inv hP iss e s h_s
  | .loopback iss e => execLoopback_inv hP iss e s h_s
  | .dirRead iss e => execDirRead_inv hP iss e s h_s
  | .regRead iss e => execRegRead_inv hP iss e s h_s
  | .regWrite iss e => execRegWrite_inv hP iss e s h_s
  | .portSet iss e => execPortSet_inv hP iss e s h_s
  | .domainJoin iss e => execDomainJoin_inv hP iss e s h_s
  | .leaseStatus iss e => execLeaseStatus_inv hP iss e s h_s
  | .deviceExpel iss e => execDeviceExpel_inv hP iss e s h_s
  | .quorumSet iss e => execQuorumSet_inv hP iss e s h_s
  | .sheafSet iss e => execSheafSet_inv hP iss e s h_s
  | .claim iss e => execClaim_inv hP iss e s h_s
  | .release iss e => execRelease_inv hP iss e s h_s
  | .claimList iss e => execClaimList_inv hP iss e s h_s
  | .snap fn => execSnap_inv fn s h_s
  | .go fn => execGo_inv hP fn s h_s
  | .pop fn => execPop_inv fn s h_s
  | .sqtailDoorbell fn lq value => execSqtailDoorbell_inv hP fn lq value s h_s
  | .cqheadDoorbell fn lq value => execCqheadDoorbell_inv hP fn lq value s h_s
  | .lwSel fn offset size value => execLwSel_inv fn offset size value s h_s
  | .rcvGo value image => execRcvGo_inv value image s h_s
  | .registerWrite fn offset size value => execRegisterWrite_inv fn offset size value s h_s
  | .clearFaults => execClearFaults_inv s h_s
  | .mfrPcap value => execMfrPcap_inv value s h_s
  | .setdasa addr dynamic => execSetdasa_inv addr dynamic s h_s
  | .entdaa dynamic => execEntdaa_inv dynamic s h_s
  | .extest => execExtest_inv s h_s
  | .extestPulse => execExtestPulse_inv s h_s
  | .extestTrain => execExtestTrain_inv s h_s
  | .trstN => execTrstN_inv s h_s
  | .coldStart => execColdStart_inv s h_s
  | .startupPhaseEnd r => execStartupPhaseEnd_inv (hA rfl) r s h_s
  | .startupPhaseOverrun => execStartupPhaseOverrun_inv hP s h_s
  | .inputOutOfRange exceeds => execInputOutOfRange_inv (hU rfl) exceeds s h_s
  | .resetN microseconds => execResetN_inv hP microseconds s h_s
  | .resetNRelease => execResetNRelease_inv s h_s
  | .ppsEdge widthNs sinceNs => execPpsEdge_inv widthNs sinceNs s h_s
  | .ptpTime tai => execPtpTime_inv tai s h_s
  | .holdover => execHoldover_inv s h_s
  | .refclkLoss => execRefclkLoss_inv s h_s
  | .thermalAlarm place temp => execThermalAlarm_inv place temp s h_s
  | .thermalTrip place temp => execThermalTrip_inv hP place temp s h_s
  | .thermalClear place temp => execThermalClear_inv place temp s h_s
  | .laneFault p lane cause => execLaneFault_inv hP p lane cause s h_s
  | .signalDetected p => execSignalDetected_inv p s h_s
  | .trainingDone p => execTrainingDone_inv p s h_s
  | .alignDone p => execAlignDone_inv p s h_s
  | .portStateTimeout p => execPortStateTimeout_inv hP p s h_s
  | .authRetry p => execAuthRetry_inv hP p s h_s
  | .linkDown p => execLinkDown_inv hP p s h_s
  | .rekeyDue p => execRekeyDue_inv p s h_s
  | .rekeyRetry p => execRekeyRetry_inv p s h_s
  | .sessionKeysExpired p => execSessionKeysExpired_inv hP p s h_s
  | .cxlPortUp c link => execCxlPortUp_inv hP c link s h_s
  | .cxlPortDown c => execCxlPortDown_inv hP c s h_s
  | .dynamicCapacityAdd c dpa units => execDynamicCapacityAdd_inv c dpa units s h_s
  | .trayReadCompletion c line answer => execTrayReadCompletion_inv hP c line answer s h_s
  | .trayReadTimeout c line => execTrayReadTimeout_inv hP c line s h_s
  | .trayWriteCompletion c line answer => execTrayWriteCompletion_inv hP c line answer s h_s
  | .trayWriteTimeout c line => execTrayWriteTimeout_inv c line s h_s
  | .trayTableEntryFree c => execTrayTableEntryFree_inv c s h_s
  | .hbmCorrectableError q stack pc row => execHbmCorrectableError_inv hP q stack pc row s h_s
  | .hbmUncorrectableError q stack pc bank line => execHbmUncorrectableError_inv hP q stack pc bank line s h_s
  | .pcDrainDone q stack pc => execPcDrainDone_inv hP q stack pc s h_s
  | .bellStrike => execBellStrike_inv hP (hS rfl) s h_s
  | .portionClose q kind index r => execPortionClose_inv hP q kind index r s h_s
  | .hangDetected u => execHangDetected_inv hP u s h_s
  | .watchdogExpiry q => execWatchdogExpiry_inv hP q s h_s
  | .coreHealthFail q core => execCoreHealthFail_inv hP q core s h_s
  | .resetEnd scope selfTestFailed => execResetEnd_inv hP (hA rfl) scope selfTestFailed s h_s
  | .escalated scope => execEscalated_inv hP scope s h_s
  | .orderlyFlushAbandoned => execOrderlyFlushAbandoned_inv hP s h_s
  | .pwrcycReq => execPwrcycReq_inv s h_s
  | .pwrcycTimeout => execPwrcycTimeout_inv s h_s
  | .flashOpDone => execFlashOpDone_inv s h_s
  | .leaseRenewalDue => execLeaseRenewalDue_inv s h_s
  | .leaseLost => execLeaseLost_inv hP s h_s
  | .leaseRegained => execLeaseRegained_inv hP s h_s
  | .telemetryPeriod t => execTelemetryPeriod_inv t s h_s
  | .capOverrun => execCapOverrun_inv s h_s
  | .lifetimeTick t margins badBer => execLifetimeTick_inv t margins badBer s h_s
  | .bellCheckpoint => execBellCheckpoint_inv s h_s
  | .deferredDue p src tag => execDeferredDue_inv p src tag s h_s
  | .aged p src tag => execAged_inv hP p src tag s h_s
  | .requestExpired p src tag => execRequestExpired_inv hP p src tag s h_s
  | .snoopTimeout q agent tag => execSnoopTimeout_inv hP q agent tag s h_s
  | .offerLapsed handle => execOfferLapsed_inv hP handle s h_s
  | .offerTableEntryFree q => execOfferTableEntryFree_inv hP q s h_s
  | .keyDrained handle slot => execKeyDrained_inv hP handle slot s h_s
  | .mapRetired => execMapRetired_inv s h_s
  | .moveCopyDone handle => execMoveCopyDone_inv handle s h_s
  | .moveComplete handle => execMoveComplete_inv hP handle s h_s
  | .tableFreed slot => execTableFreed_inv slot s h_s
  | .combiningGroupClose q line => execCombiningGroupClose_inv hP q line s h_s
  | .tallyAbsorb q line => execTallyAbsorb_inv hP q line s h_s
  | .tallyDemote q line => execTallyDemote_inv hP q line s h_s
  | .lineQueuePresentation p src tag => execLineQueuePresentation_inv hP p src tag s h_s
  | .frameAvailable q set => execFrameAvailable_inv hP q set s h_s
  | .dirtyWritebackDue q line => execDirtyWritebackDue_inv hP q line s h_s
  | .refusingStateTimeout q point src stall svc qp => execRefusingStateTimeout_inv q point src stall svc qp s h_s
  | .refuseTableClear q point => execRefuseTableClear_inv q point s h_s
  | .gatewayFlush handle block => execGatewayFlush_inv handle block s h_s
  | .scrubPage handle => execScrubPage_inv hP handle s h_s
  | .sheafPushDone handle => execSheafPushDone_inv hP handle s h_s
  | .rebuildDone handle => execRebuildDone_inv hP handle s h_s
  | .reencodeDone handle => execReencodeDone_inv hP handle s h_s
  | .jobAdmission qp => execJobAdmission_inv hP qp s h_s
  | .rowReadCompletion jobid pos => execRowReadCompletion_inv hP jobid pos s h_s
  | .jobTimeout jobid => execJobTimeout_inv hP jobid s h_s
  | .wjobTimeout jobid => execWjobTimeout_inv hP jobid s h_s
  | .shardTimeout jobid query rank => execShardTimeout_inv hP jobid query rank s h_s
  | .queryEpochHoldExpiry index jobid query => execQueryEpochHoldExpiry_inv hP index jobid query s h_s
  | .compactSwitch index part => execCompactSwitch_inv hP index part s h_s
  | .qpReleased qp => execQpReleased_inv qp s h_s
  | .interruptDelayExpiry qp => execInterruptDelayExpiry_inv qp s h_s
  | .fwCoreCheck q core passed => execFwCoreCheck_inv hP q core passed s h_s
  | .fwFlashWriteDone => execFwFlashWriteDone_inv (hR rfl) s h_s
  | .memoryKeyUnitDone comp => execMemoryKeyUnitDone_inv hP comp s h_s
  | .journalWrite area => execJournalWrite_inv area s h_s
  | .hostDieReply xid mstat d => execHostDieReply_inv xid mstat d s h_s
  | .refclkRestored => execRefclkRestored_inv s h_s
  | .tripCleared q => execTripCleared_inv q s h_s
  | .sessionStepTimeout p => execSessionStepTimeout_inv hP p s h_s
  | .vinWarning mv => execVinWarning_inv mv s h_s
  | .ledgerWindowRead fn slots => execLedgerWindowRead_inv fn slots s h_s
  | .engineAccessResponse acc => execEngineAccessResponse_inv hP acc s h_s
  | .fineWheelSlot q slot => execFineWheelSlot_inv q slot s h_s
  | .coreHealthCheckPassed q core => execCoreHealthCheckPassed_inv q core s h_s
  | .lineQueueAgeing p src tag => execLineQueueAgeing_inv hP p src tag s h_s

end Sys2Proof.Machine
end

