-- ==== Sys2Proof/Laws/State.lean ====
section
/-! SUPPORT. What each update of the state leaves as it was, and what it writes: one lemma for each field, so that no later proof unfolds a record update. -/

namespace Sys2Proof.Machine

/-! ### updFunc -/

@[simp] theorem updFunc_time (s : State) (fn : Nat) (f : FuncS → FuncS) : (updFunc s fn f).time = s.time := rfl
@[simp] theorem updFunc_funcs (s : State) (fn : Nat) (f : FuncS → FuncS) : (updFunc s fn f).funcs = Tab.upd s.funcs fn {} f := rfl
@[simp] theorem updFunc_ports (s : State) (fn : Nat) (f : FuncS → FuncS) : (updFunc s fn f).ports = s.ports := rfl
@[simp] theorem updFunc_fab (s : State) (fn : Nat) (f : FuncS → FuncS) : (updFunc s fn f).fab = s.fab := rfl
@[simp] theorem updFunc_regs (s : State) (fn : Nat) (f : FuncS → FuncS) : (updFunc s fn f).regs = s.regs := rfl
@[simp] theorem updFunc_maps (s : State) (fn : Nat) (f : FuncS → FuncS) : (updFunc s fn f).maps = s.maps := rfl
@[simp] theorem updFunc_stalls (s : State) (fn : Nat) (f : FuncS → FuncS) : (updFunc s fn f).stalls = s.stalls := rfl
@[simp] theorem updFunc_home (s : State) (fn : Nat) (f : FuncS → FuncS) : (updFunc s fn f).home = s.home := rfl
@[simp] theorem updFunc_tier (s : State) (fn : Nat) (f : FuncS → FuncS) : (updFunc s fn f).tier = s.tier := rfl
@[simp] theorem updFunc_ecx (s : State) (fn : Nat) (f : FuncS → FuncS) : (updFunc s fn f).ecx = s.ecx := rfl
@[simp] theorem updFunc_eng (s : State) (fn : Nat) (f : FuncS → FuncS) : (updFunc s fn f).eng = s.eng := rfl
@[simp] theorem updFunc_idx (s : State) (fn : Nat) (f : FuncS → FuncS) : (updFunc s fn f).idx = s.idx := rfl
@[simp] theorem updFunc_sw (s : State) (fn : Nat) (f : FuncS → FuncS) : (updFunc s fn f).sw = s.sw := rfl
@[simp] theorem updFunc_qps (s : State) (fn : Nat) (f : FuncS → FuncS) : (updFunc s fn f).qps = s.qps := rfl
@[simp] theorem updFunc_mb (s : State) (fn : Nat) (f : FuncS → FuncS) : (updFunc s fn f).mb = s.mb := rfl
@[simp] theorem updFunc_dom (s : State) (fn : Nat) (f : FuncS → FuncS) : (updFunc s fn f).dom = s.dom := rfl
@[simp] theorem updFunc_rst (s : State) (fn : Nat) (f : FuncS → FuncS) : (updFunc s fn f).rst = s.rst := rfl
@[simp] theorem updFunc_sec (s : State) (fn : Nat) (f : FuncS → FuncS) : (updFunc s fn f).sec = s.sec := rfl
@[simp] theorem updFunc_led (s : State) (fn : Nat) (f : FuncS → FuncS) : (updFunc s fn f).led = s.led := rfl
@[simp] theorem updFunc_pwr (s : State) (fn : Nat) (f : FuncS → FuncS) : (updFunc s fn f).pwr = s.pwr := rfl
@[simp] theorem updFunc_pkg (s : State) (fn : Nat) (f : FuncS → FuncS) : (updFunc s fn f).pkg = s.pkg := rfl
@[simp] theorem updFunc_free (s : State) (fn : Nat) (f : FuncS → FuncS) : (updFunc s fn f).free = s.free := rfl
@[simp] theorem updFunc_pending (s : State) (fn : Nat) (f : FuncS → FuncS) : (updFunc s fn f).pending = s.pending := rfl

/-! ### updPort -/

@[simp] theorem updPort_time (s : State) (p : Nat) (f : PortS → PortS) : (updPort s p f).time = s.time := rfl
@[simp] theorem updPort_funcs (s : State) (p : Nat) (f : PortS → PortS) : (updPort s p f).funcs = s.funcs := rfl
@[simp] theorem updPort_ports (s : State) (p : Nat) (f : PortS → PortS) : (updPort s p f).ports = Tab.upd s.ports p {} f := rfl
@[simp] theorem updPort_fab (s : State) (p : Nat) (f : PortS → PortS) : (updPort s p f).fab = s.fab := rfl
@[simp] theorem updPort_regs (s : State) (p : Nat) (f : PortS → PortS) : (updPort s p f).regs = s.regs := rfl
@[simp] theorem updPort_maps (s : State) (p : Nat) (f : PortS → PortS) : (updPort s p f).maps = s.maps := rfl
@[simp] theorem updPort_stalls (s : State) (p : Nat) (f : PortS → PortS) : (updPort s p f).stalls = s.stalls := rfl
@[simp] theorem updPort_home (s : State) (p : Nat) (f : PortS → PortS) : (updPort s p f).home = s.home := rfl
@[simp] theorem updPort_tier (s : State) (p : Nat) (f : PortS → PortS) : (updPort s p f).tier = s.tier := rfl
@[simp] theorem updPort_ecx (s : State) (p : Nat) (f : PortS → PortS) : (updPort s p f).ecx = s.ecx := rfl
@[simp] theorem updPort_eng (s : State) (p : Nat) (f : PortS → PortS) : (updPort s p f).eng = s.eng := rfl
@[simp] theorem updPort_idx (s : State) (p : Nat) (f : PortS → PortS) : (updPort s p f).idx = s.idx := rfl
@[simp] theorem updPort_sw (s : State) (p : Nat) (f : PortS → PortS) : (updPort s p f).sw = s.sw := rfl
@[simp] theorem updPort_qps (s : State) (p : Nat) (f : PortS → PortS) : (updPort s p f).qps = s.qps := rfl
@[simp] theorem updPort_mb (s : State) (p : Nat) (f : PortS → PortS) : (updPort s p f).mb = s.mb := rfl
@[simp] theorem updPort_dom (s : State) (p : Nat) (f : PortS → PortS) : (updPort s p f).dom = s.dom := rfl
@[simp] theorem updPort_rst (s : State) (p : Nat) (f : PortS → PortS) : (updPort s p f).rst = s.rst := rfl
@[simp] theorem updPort_sec (s : State) (p : Nat) (f : PortS → PortS) : (updPort s p f).sec = s.sec := rfl
@[simp] theorem updPort_led (s : State) (p : Nat) (f : PortS → PortS) : (updPort s p f).led = s.led := rfl
@[simp] theorem updPort_pwr (s : State) (p : Nat) (f : PortS → PortS) : (updPort s p f).pwr = s.pwr := rfl
@[simp] theorem updPort_pkg (s : State) (p : Nat) (f : PortS → PortS) : (updPort s p f).pkg = s.pkg := rfl
@[simp] theorem updPort_free (s : State) (p : Nat) (f : PortS → PortS) : (updPort s p f).free = s.free := rfl
@[simp] theorem updPort_pending (s : State) (p : Nat) (f : PortS → PortS) : (updPort s p f).pending = s.pending := rfl

/-! ### updPower -/

@[simp] theorem updPower_time (s : State) (f : PowerS → PowerS) : (updPower s f).time = s.time := rfl
@[simp] theorem updPower_funcs (s : State) (f : PowerS → PowerS) : (updPower s f).funcs = s.funcs := rfl
@[simp] theorem updPower_ports (s : State) (f : PowerS → PowerS) : (updPower s f).ports = s.ports := rfl
@[simp] theorem updPower_fab (s : State) (f : PowerS → PowerS) : (updPower s f).fab = s.fab := rfl
@[simp] theorem updPower_regs (s : State) (f : PowerS → PowerS) : (updPower s f).regs = s.regs := rfl
@[simp] theorem updPower_maps (s : State) (f : PowerS → PowerS) : (updPower s f).maps = s.maps := rfl
@[simp] theorem updPower_stalls (s : State) (f : PowerS → PowerS) : (updPower s f).stalls = s.stalls := rfl
@[simp] theorem updPower_home (s : State) (f : PowerS → PowerS) : (updPower s f).home = s.home := rfl
@[simp] theorem updPower_tier (s : State) (f : PowerS → PowerS) : (updPower s f).tier = s.tier := rfl
@[simp] theorem updPower_ecx (s : State) (f : PowerS → PowerS) : (updPower s f).ecx = s.ecx := rfl
@[simp] theorem updPower_eng (s : State) (f : PowerS → PowerS) : (updPower s f).eng = s.eng := rfl
@[simp] theorem updPower_idx (s : State) (f : PowerS → PowerS) : (updPower s f).idx = s.idx := rfl
@[simp] theorem updPower_sw (s : State) (f : PowerS → PowerS) : (updPower s f).sw = s.sw := rfl
@[simp] theorem updPower_qps (s : State) (f : PowerS → PowerS) : (updPower s f).qps = s.qps := rfl
@[simp] theorem updPower_mb (s : State) (f : PowerS → PowerS) : (updPower s f).mb = s.mb := rfl
@[simp] theorem updPower_dom (s : State) (f : PowerS → PowerS) : (updPower s f).dom = s.dom := rfl
@[simp] theorem updPower_rst (s : State) (f : PowerS → PowerS) : (updPower s f).rst = s.rst := rfl
@[simp] theorem updPower_sec (s : State) (f : PowerS → PowerS) : (updPower s f).sec = s.sec := rfl
@[simp] theorem updPower_led (s : State) (f : PowerS → PowerS) : (updPower s f).led = s.led := rfl
@[simp] theorem updPower_pwr (s : State) (f : PowerS → PowerS) : (updPower s f).pwr = f s.pwr := rfl
@[simp] theorem updPower_pkg (s : State) (f : PowerS → PowerS) : (updPower s f).pkg = s.pkg := rfl
@[simp] theorem updPower_free (s : State) (f : PowerS → PowerS) : (updPower s f).free = s.free := rfl
@[simp] theorem updPower_pending (s : State) (f : PowerS → PowerS) : (updPower s f).pending = s.pending := rfl

/-! ### updTime -/

@[simp] theorem updTime_time (s : State) (f : TimeS → TimeS) : (updTime s f).time = f s.time := rfl
@[simp] theorem updTime_funcs (s : State) (f : TimeS → TimeS) : (updTime s f).funcs = s.funcs := rfl
@[simp] theorem updTime_ports (s : State) (f : TimeS → TimeS) : (updTime s f).ports = s.ports := rfl
@[simp] theorem updTime_fab (s : State) (f : TimeS → TimeS) : (updTime s f).fab = s.fab := rfl
@[simp] theorem updTime_regs (s : State) (f : TimeS → TimeS) : (updTime s f).regs = s.regs := rfl
@[simp] theorem updTime_maps (s : State) (f : TimeS → TimeS) : (updTime s f).maps = s.maps := rfl
@[simp] theorem updTime_stalls (s : State) (f : TimeS → TimeS) : (updTime s f).stalls = s.stalls := rfl
@[simp] theorem updTime_home (s : State) (f : TimeS → TimeS) : (updTime s f).home = s.home := rfl
@[simp] theorem updTime_tier (s : State) (f : TimeS → TimeS) : (updTime s f).tier = s.tier := rfl
@[simp] theorem updTime_ecx (s : State) (f : TimeS → TimeS) : (updTime s f).ecx = s.ecx := rfl
@[simp] theorem updTime_eng (s : State) (f : TimeS → TimeS) : (updTime s f).eng = s.eng := rfl
@[simp] theorem updTime_idx (s : State) (f : TimeS → TimeS) : (updTime s f).idx = s.idx := rfl
@[simp] theorem updTime_sw (s : State) (f : TimeS → TimeS) : (updTime s f).sw = s.sw := rfl
@[simp] theorem updTime_qps (s : State) (f : TimeS → TimeS) : (updTime s f).qps = s.qps := rfl
@[simp] theorem updTime_mb (s : State) (f : TimeS → TimeS) : (updTime s f).mb = s.mb := rfl
@[simp] theorem updTime_dom (s : State) (f : TimeS → TimeS) : (updTime s f).dom = s.dom := rfl
@[simp] theorem updTime_rst (s : State) (f : TimeS → TimeS) : (updTime s f).rst = s.rst := rfl
@[simp] theorem updTime_sec (s : State) (f : TimeS → TimeS) : (updTime s f).sec = s.sec := rfl
@[simp] theorem updTime_led (s : State) (f : TimeS → TimeS) : (updTime s f).led = s.led := rfl
@[simp] theorem updTime_pwr (s : State) (f : TimeS → TimeS) : (updTime s f).pwr = s.pwr := rfl
@[simp] theorem updTime_pkg (s : State) (f : TimeS → TimeS) : (updTime s f).pkg = s.pkg := rfl
@[simp] theorem updTime_free (s : State) (f : TimeS → TimeS) : (updTime s f).free = s.free := rfl
@[simp] theorem updTime_pending (s : State) (f : TimeS → TimeS) : (updTime s f).pending = s.pending := rfl

/-! ### updCxl -/

@[simp] theorem updCxl_time (s : State) (c : Nat) (f : CxlS → CxlS) : (updCxl s c f).time = s.time := rfl
@[simp] theorem updCxl_funcs (s : State) (c : Nat) (f : CxlS → CxlS) : (updCxl s c f).funcs = s.funcs := rfl
@[simp] theorem updCxl_ports (s : State) (c : Nat) (f : CxlS → CxlS) : (updCxl s c f).ports = s.ports := rfl
@[simp] theorem updCxl_fab (s : State) (c : Nat) (f : CxlS → CxlS) : (updCxl s c f).fab = s.fab := rfl
@[simp] theorem updCxl_regs (s : State) (c : Nat) (f : CxlS → CxlS) : (updCxl s c f).regs = s.regs := rfl
@[simp] theorem updCxl_maps (s : State) (c : Nat) (f : CxlS → CxlS) : (updCxl s c f).maps = s.maps := rfl
@[simp] theorem updCxl_stalls (s : State) (c : Nat) (f : CxlS → CxlS) : (updCxl s c f).stalls = s.stalls := rfl
@[simp] theorem updCxl_home (s : State) (c : Nat) (f : CxlS → CxlS) : (updCxl s c f).home = s.home := rfl
@[simp] theorem updCxl_ecx (s : State) (c : Nat) (f : CxlS → CxlS) : (updCxl s c f).ecx = s.ecx := rfl
@[simp] theorem updCxl_eng (s : State) (c : Nat) (f : CxlS → CxlS) : (updCxl s c f).eng = s.eng := rfl
@[simp] theorem updCxl_idx (s : State) (c : Nat) (f : CxlS → CxlS) : (updCxl s c f).idx = s.idx := rfl
@[simp] theorem updCxl_sw (s : State) (c : Nat) (f : CxlS → CxlS) : (updCxl s c f).sw = s.sw := rfl
@[simp] theorem updCxl_qps (s : State) (c : Nat) (f : CxlS → CxlS) : (updCxl s c f).qps = s.qps := rfl
@[simp] theorem updCxl_mb (s : State) (c : Nat) (f : CxlS → CxlS) : (updCxl s c f).mb = s.mb := rfl
@[simp] theorem updCxl_dom (s : State) (c : Nat) (f : CxlS → CxlS) : (updCxl s c f).dom = s.dom := rfl
@[simp] theorem updCxl_rst (s : State) (c : Nat) (f : CxlS → CxlS) : (updCxl s c f).rst = s.rst := rfl
@[simp] theorem updCxl_sec (s : State) (c : Nat) (f : CxlS → CxlS) : (updCxl s c f).sec = s.sec := rfl
@[simp] theorem updCxl_led (s : State) (c : Nat) (f : CxlS → CxlS) : (updCxl s c f).led = s.led := rfl
@[simp] theorem updCxl_pwr (s : State) (c : Nat) (f : CxlS → CxlS) : (updCxl s c f).pwr = s.pwr := rfl
@[simp] theorem updCxl_pkg (s : State) (c : Nat) (f : CxlS → CxlS) : (updCxl s c f).pkg = s.pkg := rfl
@[simp] theorem updCxl_free (s : State) (c : Nat) (f : CxlS → CxlS) : (updCxl s c f).free = s.free := rfl
@[simp] theorem updCxl_pending (s : State) (c : Nat) (f : CxlS → CxlS) : (updCxl s c f).pending = s.pending := rfl

/-! ### updFrame -/

@[simp] theorem updFrame_time (s : State) (q a : Nat) (f : Frame → Frame) : (updFrame s q a f).time = s.time := rfl
@[simp] theorem updFrame_funcs (s : State) (q a : Nat) (f : Frame → Frame) : (updFrame s q a f).funcs = s.funcs := rfl
@[simp] theorem updFrame_ports (s : State) (q a : Nat) (f : Frame → Frame) : (updFrame s q a f).ports = s.ports := rfl
@[simp] theorem updFrame_fab (s : State) (q a : Nat) (f : Frame → Frame) : (updFrame s q a f).fab = s.fab := rfl
@[simp] theorem updFrame_regs (s : State) (q a : Nat) (f : Frame → Frame) : (updFrame s q a f).regs = s.regs := rfl
@[simp] theorem updFrame_maps (s : State) (q a : Nat) (f : Frame → Frame) : (updFrame s q a f).maps = s.maps := rfl
@[simp] theorem updFrame_stalls (s : State) (q a : Nat) (f : Frame → Frame) : (updFrame s q a f).stalls = s.stalls := rfl
@[simp] theorem updFrame_home (s : State) (q a : Nat) (f : Frame → Frame) : (updFrame s q a f).home = s.home := rfl
@[simp] theorem updFrame_ecx (s : State) (q a : Nat) (f : Frame → Frame) : (updFrame s q a f).ecx = s.ecx := rfl
@[simp] theorem updFrame_eng (s : State) (q a : Nat) (f : Frame → Frame) : (updFrame s q a f).eng = s.eng := rfl
@[simp] theorem updFrame_idx (s : State) (q a : Nat) (f : Frame → Frame) : (updFrame s q a f).idx = s.idx := rfl
@[simp] theorem updFrame_sw (s : State) (q a : Nat) (f : Frame → Frame) : (updFrame s q a f).sw = s.sw := rfl
@[simp] theorem updFrame_qps (s : State) (q a : Nat) (f : Frame → Frame) : (updFrame s q a f).qps = s.qps := rfl
@[simp] theorem updFrame_mb (s : State) (q a : Nat) (f : Frame → Frame) : (updFrame s q a f).mb = s.mb := rfl
@[simp] theorem updFrame_dom (s : State) (q a : Nat) (f : Frame → Frame) : (updFrame s q a f).dom = s.dom := rfl
@[simp] theorem updFrame_rst (s : State) (q a : Nat) (f : Frame → Frame) : (updFrame s q a f).rst = s.rst := rfl
@[simp] theorem updFrame_sec (s : State) (q a : Nat) (f : Frame → Frame) : (updFrame s q a f).sec = s.sec := rfl
@[simp] theorem updFrame_led (s : State) (q a : Nat) (f : Frame → Frame) : (updFrame s q a f).led = s.led := rfl
@[simp] theorem updFrame_pwr (s : State) (q a : Nat) (f : Frame → Frame) : (updFrame s q a f).pwr = s.pwr := rfl
@[simp] theorem updFrame_pkg (s : State) (q a : Nat) (f : Frame → Frame) : (updFrame s q a f).pkg = s.pkg := rfl
@[simp] theorem updFrame_free (s : State) (q a : Nat) (f : Frame → Frame) : (updFrame s q a f).free = s.free := rfl
@[simp] theorem updFrame_pending (s : State) (q a : Nat) (f : Frame → Frame) : (updFrame s q a f).pending = s.pending := rfl

/-! ### updReq -/

@[simp] theorem updReq_time (s : State) (id : Nat) (f : Req → Req) : (updReq s id f).time = s.time := rfl
@[simp] theorem updReq_funcs (s : State) (id : Nat) (f : Req → Req) : (updReq s id f).funcs = s.funcs := rfl
@[simp] theorem updReq_ports (s : State) (id : Nat) (f : Req → Req) : (updReq s id f).ports = s.ports := rfl
@[simp] theorem updReq_fab (s : State) (id : Nat) (f : Req → Req) : (updReq s id f).fab = s.fab := rfl
@[simp] theorem updReq_regs (s : State) (id : Nat) (f : Req → Req) : (updReq s id f).regs = s.regs := rfl
@[simp] theorem updReq_maps (s : State) (id : Nat) (f : Req → Req) : (updReq s id f).maps = s.maps := rfl
@[simp] theorem updReq_stalls (s : State) (id : Nat) (f : Req → Req) : (updReq s id f).stalls = s.stalls := rfl
@[simp] theorem updReq_tier (s : State) (id : Nat) (f : Req → Req) : (updReq s id f).tier = s.tier := rfl
@[simp] theorem updReq_ecx (s : State) (id : Nat) (f : Req → Req) : (updReq s id f).ecx = s.ecx := rfl
@[simp] theorem updReq_eng (s : State) (id : Nat) (f : Req → Req) : (updReq s id f).eng = s.eng := rfl
@[simp] theorem updReq_idx (s : State) (id : Nat) (f : Req → Req) : (updReq s id f).idx = s.idx := rfl
@[simp] theorem updReq_sw (s : State) (id : Nat) (f : Req → Req) : (updReq s id f).sw = s.sw := rfl
@[simp] theorem updReq_qps (s : State) (id : Nat) (f : Req → Req) : (updReq s id f).qps = s.qps := rfl
@[simp] theorem updReq_mb (s : State) (id : Nat) (f : Req → Req) : (updReq s id f).mb = s.mb := rfl
@[simp] theorem updReq_dom (s : State) (id : Nat) (f : Req → Req) : (updReq s id f).dom = s.dom := rfl
@[simp] theorem updReq_rst (s : State) (id : Nat) (f : Req → Req) : (updReq s id f).rst = s.rst := rfl
@[simp] theorem updReq_sec (s : State) (id : Nat) (f : Req → Req) : (updReq s id f).sec = s.sec := rfl
@[simp] theorem updReq_led (s : State) (id : Nat) (f : Req → Req) : (updReq s id f).led = s.led := rfl
@[simp] theorem updReq_pwr (s : State) (id : Nat) (f : Req → Req) : (updReq s id f).pwr = s.pwr := rfl
@[simp] theorem updReq_pkg (s : State) (id : Nat) (f : Req → Req) : (updReq s id f).pkg = s.pkg := rfl
@[simp] theorem updReq_free (s : State) (id : Nat) (f : Req → Req) : (updReq s id f).free = s.free := rfl
@[simp] theorem updReq_pending (s : State) (id : Nat) (f : Req → Req) : (updReq s id f).pending = s.pending := rfl

/-! ### updCmd -/

@[simp] theorem updCmd_time (s : State) (n : Nat) (f : Cmd → Cmd) : (updCmd s n f).time = s.time := rfl
@[simp] theorem updCmd_funcs (s : State) (n : Nat) (f : Cmd → Cmd) : (updCmd s n f).funcs = s.funcs := rfl
@[simp] theorem updCmd_ports (s : State) (n : Nat) (f : Cmd → Cmd) : (updCmd s n f).ports = s.ports := rfl
@[simp] theorem updCmd_fab (s : State) (n : Nat) (f : Cmd → Cmd) : (updCmd s n f).fab = s.fab := rfl
@[simp] theorem updCmd_regs (s : State) (n : Nat) (f : Cmd → Cmd) : (updCmd s n f).regs = s.regs := rfl
@[simp] theorem updCmd_maps (s : State) (n : Nat) (f : Cmd → Cmd) : (updCmd s n f).maps = s.maps := rfl
@[simp] theorem updCmd_stalls (s : State) (n : Nat) (f : Cmd → Cmd) : (updCmd s n f).stalls = s.stalls := rfl
@[simp] theorem updCmd_home (s : State) (n : Nat) (f : Cmd → Cmd) : (updCmd s n f).home = s.home := rfl
@[simp] theorem updCmd_tier (s : State) (n : Nat) (f : Cmd → Cmd) : (updCmd s n f).tier = s.tier := rfl
@[simp] theorem updCmd_ecx (s : State) (n : Nat) (f : Cmd → Cmd) : (updCmd s n f).ecx = s.ecx := rfl
@[simp] theorem updCmd_eng (s : State) (n : Nat) (f : Cmd → Cmd) : (updCmd s n f).eng = s.eng := rfl
@[simp] theorem updCmd_idx (s : State) (n : Nat) (f : Cmd → Cmd) : (updCmd s n f).idx = s.idx := rfl
@[simp] theorem updCmd_sw (s : State) (n : Nat) (f : Cmd → Cmd) : (updCmd s n f).sw = s.sw := rfl
@[simp] theorem updCmd_qps (s : State) (n : Nat) (f : Cmd → Cmd) : (updCmd s n f).qps = s.qps := rfl
@[simp] theorem updCmd_dom (s : State) (n : Nat) (f : Cmd → Cmd) : (updCmd s n f).dom = s.dom := rfl
@[simp] theorem updCmd_rst (s : State) (n : Nat) (f : Cmd → Cmd) : (updCmd s n f).rst = s.rst := rfl
@[simp] theorem updCmd_sec (s : State) (n : Nat) (f : Cmd → Cmd) : (updCmd s n f).sec = s.sec := rfl
@[simp] theorem updCmd_led (s : State) (n : Nat) (f : Cmd → Cmd) : (updCmd s n f).led = s.led := rfl
@[simp] theorem updCmd_pwr (s : State) (n : Nat) (f : Cmd → Cmd) : (updCmd s n f).pwr = s.pwr := rfl
@[simp] theorem updCmd_pkg (s : State) (n : Nat) (f : Cmd → Cmd) : (updCmd s n f).pkg = s.pkg := rfl
@[simp] theorem updCmd_free (s : State) (n : Nat) (f : Cmd → Cmd) : (updCmd s n f).free = s.free := rfl
@[simp] theorem updCmd_pending (s : State) (n : Nat) (f : Cmd → Cmd) : (updCmd s n f).pending = s.pending := rfl

/-! ### dropCmd -/

@[simp] theorem dropCmd_time (s : State) (n : Nat) : (dropCmd s n).time = s.time := rfl
@[simp] theorem dropCmd_funcs (s : State) (n : Nat) : (dropCmd s n).funcs = s.funcs := rfl
@[simp] theorem dropCmd_ports (s : State) (n : Nat) : (dropCmd s n).ports = s.ports := rfl
@[simp] theorem dropCmd_fab (s : State) (n : Nat) : (dropCmd s n).fab = s.fab := rfl
@[simp] theorem dropCmd_regs (s : State) (n : Nat) : (dropCmd s n).regs = s.regs := rfl
@[simp] theorem dropCmd_maps (s : State) (n : Nat) : (dropCmd s n).maps = s.maps := rfl
@[simp] theorem dropCmd_stalls (s : State) (n : Nat) : (dropCmd s n).stalls = s.stalls := rfl
@[simp] theorem dropCmd_home (s : State) (n : Nat) : (dropCmd s n).home = s.home := rfl
@[simp] theorem dropCmd_tier (s : State) (n : Nat) : (dropCmd s n).tier = s.tier := rfl
@[simp] theorem dropCmd_ecx (s : State) (n : Nat) : (dropCmd s n).ecx = s.ecx := rfl
@[simp] theorem dropCmd_eng (s : State) (n : Nat) : (dropCmd s n).eng = s.eng := rfl
@[simp] theorem dropCmd_idx (s : State) (n : Nat) : (dropCmd s n).idx = s.idx := rfl
@[simp] theorem dropCmd_sw (s : State) (n : Nat) : (dropCmd s n).sw = s.sw := rfl
@[simp] theorem dropCmd_qps (s : State) (n : Nat) : (dropCmd s n).qps = s.qps := rfl
@[simp] theorem dropCmd_dom (s : State) (n : Nat) : (dropCmd s n).dom = s.dom := rfl
@[simp] theorem dropCmd_rst (s : State) (n : Nat) : (dropCmd s n).rst = s.rst := rfl
@[simp] theorem dropCmd_sec (s : State) (n : Nat) : (dropCmd s n).sec = s.sec := rfl
@[simp] theorem dropCmd_led (s : State) (n : Nat) : (dropCmd s n).led = s.led := rfl
@[simp] theorem dropCmd_pwr (s : State) (n : Nat) : (dropCmd s n).pwr = s.pwr := rfl
@[simp] theorem dropCmd_pkg (s : State) (n : Nat) : (dropCmd s n).pkg = s.pkg := rfl
@[simp] theorem dropCmd_free (s : State) (n : Nat) : (dropCmd s n).free = s.free := rfl
@[simp] theorem dropCmd_pending (s : State) (n : Nat) : (dropCmd s n).pending = s.pending := rfl

/-! ### updIndex -/

@[simp] theorem updIndex_time (s : State) (n : Nat) (f : Index → Index) : (updIndex s n f).time = s.time := rfl
@[simp] theorem updIndex_funcs (s : State) (n : Nat) (f : Index → Index) : (updIndex s n f).funcs = s.funcs := rfl
@[simp] theorem updIndex_ports (s : State) (n : Nat) (f : Index → Index) : (updIndex s n f).ports = s.ports := rfl
@[simp] theorem updIndex_fab (s : State) (n : Nat) (f : Index → Index) : (updIndex s n f).fab = s.fab := rfl
@[simp] theorem updIndex_regs (s : State) (n : Nat) (f : Index → Index) : (updIndex s n f).regs = s.regs := rfl
@[simp] theorem updIndex_maps (s : State) (n : Nat) (f : Index → Index) : (updIndex s n f).maps = s.maps := rfl
@[simp] theorem updIndex_stalls (s : State) (n : Nat) (f : Index → Index) : (updIndex s n f).stalls = s.stalls := rfl
@[simp] theorem updIndex_home (s : State) (n : Nat) (f : Index → Index) : (updIndex s n f).home = s.home := rfl
@[simp] theorem updIndex_tier (s : State) (n : Nat) (f : Index → Index) : (updIndex s n f).tier = s.tier := rfl
@[simp] theorem updIndex_ecx (s : State) (n : Nat) (f : Index → Index) : (updIndex s n f).ecx = s.ecx := rfl
@[simp] theorem updIndex_eng (s : State) (n : Nat) (f : Index → Index) : (updIndex s n f).eng = s.eng := rfl
@[simp] theorem updIndex_sw (s : State) (n : Nat) (f : Index → Index) : (updIndex s n f).sw = s.sw := rfl
@[simp] theorem updIndex_qps (s : State) (n : Nat) (f : Index → Index) : (updIndex s n f).qps = s.qps := rfl
@[simp] theorem updIndex_mb (s : State) (n : Nat) (f : Index → Index) : (updIndex s n f).mb = s.mb := rfl
@[simp] theorem updIndex_dom (s : State) (n : Nat) (f : Index → Index) : (updIndex s n f).dom = s.dom := rfl
@[simp] theorem updIndex_rst (s : State) (n : Nat) (f : Index → Index) : (updIndex s n f).rst = s.rst := rfl
@[simp] theorem updIndex_sec (s : State) (n : Nat) (f : Index → Index) : (updIndex s n f).sec = s.sec := rfl
@[simp] theorem updIndex_led (s : State) (n : Nat) (f : Index → Index) : (updIndex s n f).led = s.led := rfl
@[simp] theorem updIndex_pwr (s : State) (n : Nat) (f : Index → Index) : (updIndex s n f).pwr = s.pwr := rfl
@[simp] theorem updIndex_pkg (s : State) (n : Nat) (f : Index → Index) : (updIndex s n f).pkg = s.pkg := rfl
@[simp] theorem updIndex_free (s : State) (n : Nat) (f : Index → Index) : (updIndex s n f).free = s.free := rfl
@[simp] theorem updIndex_pending (s : State) (n : Nat) (f : Index → Index) : (updIndex s n f).pending = s.pending := rfl

/-! ### updQp -/

@[simp] theorem updQp_time (s : State) (n : Nat) (f : Qp → Qp) : (updQp s n f).time = s.time := rfl
@[simp] theorem updQp_funcs (s : State) (n : Nat) (f : Qp → Qp) : (updQp s n f).funcs = s.funcs := rfl
@[simp] theorem updQp_ports (s : State) (n : Nat) (f : Qp → Qp) : (updQp s n f).ports = s.ports := rfl
@[simp] theorem updQp_fab (s : State) (n : Nat) (f : Qp → Qp) : (updQp s n f).fab = s.fab := rfl
@[simp] theorem updQp_regs (s : State) (n : Nat) (f : Qp → Qp) : (updQp s n f).regs = s.regs := rfl
@[simp] theorem updQp_maps (s : State) (n : Nat) (f : Qp → Qp) : (updQp s n f).maps = s.maps := rfl
@[simp] theorem updQp_stalls (s : State) (n : Nat) (f : Qp → Qp) : (updQp s n f).stalls = s.stalls := rfl
@[simp] theorem updQp_home (s : State) (n : Nat) (f : Qp → Qp) : (updQp s n f).home = s.home := rfl
@[simp] theorem updQp_tier (s : State) (n : Nat) (f : Qp → Qp) : (updQp s n f).tier = s.tier := rfl
@[simp] theorem updQp_ecx (s : State) (n : Nat) (f : Qp → Qp) : (updQp s n f).ecx = s.ecx := rfl
@[simp] theorem updQp_eng (s : State) (n : Nat) (f : Qp → Qp) : (updQp s n f).eng = s.eng := rfl
@[simp] theorem updQp_idx (s : State) (n : Nat) (f : Qp → Qp) : (updQp s n f).idx = s.idx := rfl
@[simp] theorem updQp_sw (s : State) (n : Nat) (f : Qp → Qp) : (updQp s n f).sw = s.sw := rfl
@[simp] theorem updQp_qps (s : State) (n : Nat) (f : Qp → Qp) : (updQp s n f).qps = Tab.adjust s.qps n f := rfl
@[simp] theorem updQp_mb (s : State) (n : Nat) (f : Qp → Qp) : (updQp s n f).mb = s.mb := rfl
@[simp] theorem updQp_dom (s : State) (n : Nat) (f : Qp → Qp) : (updQp s n f).dom = s.dom := rfl
@[simp] theorem updQp_rst (s : State) (n : Nat) (f : Qp → Qp) : (updQp s n f).rst = s.rst := rfl
@[simp] theorem updQp_sec (s : State) (n : Nat) (f : Qp → Qp) : (updQp s n f).sec = s.sec := rfl
@[simp] theorem updQp_led (s : State) (n : Nat) (f : Qp → Qp) : (updQp s n f).led = s.led := rfl
@[simp] theorem updQp_pwr (s : State) (n : Nat) (f : Qp → Qp) : (updQp s n f).pwr = s.pwr := rfl
@[simp] theorem updQp_pkg (s : State) (n : Nat) (f : Qp → Qp) : (updQp s n f).pkg = s.pkg := rfl
@[simp] theorem updQp_free (s : State) (n : Nat) (f : Qp → Qp) : (updQp s n f).free = s.free := rfl
@[simp] theorem updQp_pending (s : State) (n : Nat) (f : Qp → Qp) : (updQp s n f).pending = s.pending := rfl

/-! ### updJob -/

@[simp] theorem updJob_time (s : State) (jobid : Nat) (f : Job → Job) : (updJob s jobid f).time = s.time := rfl
@[simp] theorem updJob_funcs (s : State) (jobid : Nat) (f : Job → Job) : (updJob s jobid f).funcs = s.funcs := rfl
@[simp] theorem updJob_ports (s : State) (jobid : Nat) (f : Job → Job) : (updJob s jobid f).ports = s.ports := rfl
@[simp] theorem updJob_fab (s : State) (jobid : Nat) (f : Job → Job) : (updJob s jobid f).fab = s.fab := rfl
@[simp] theorem updJob_regs (s : State) (jobid : Nat) (f : Job → Job) : (updJob s jobid f).regs = s.regs := rfl
@[simp] theorem updJob_maps (s : State) (jobid : Nat) (f : Job → Job) : (updJob s jobid f).maps = s.maps := rfl
@[simp] theorem updJob_stalls (s : State) (jobid : Nat) (f : Job → Job) : (updJob s jobid f).stalls = s.stalls := rfl
@[simp] theorem updJob_home (s : State) (jobid : Nat) (f : Job → Job) : (updJob s jobid f).home = s.home := rfl
@[simp] theorem updJob_tier (s : State) (jobid : Nat) (f : Job → Job) : (updJob s jobid f).tier = s.tier := rfl
@[simp] theorem updJob_ecx (s : State) (jobid : Nat) (f : Job → Job) : (updJob s jobid f).ecx = s.ecx := rfl
@[simp] theorem updJob_idx (s : State) (jobid : Nat) (f : Job → Job) : (updJob s jobid f).idx = s.idx := rfl
@[simp] theorem updJob_sw (s : State) (jobid : Nat) (f : Job → Job) : (updJob s jobid f).sw = s.sw := rfl
@[simp] theorem updJob_qps (s : State) (jobid : Nat) (f : Job → Job) : (updJob s jobid f).qps = s.qps := rfl
@[simp] theorem updJob_mb (s : State) (jobid : Nat) (f : Job → Job) : (updJob s jobid f).mb = s.mb := rfl
@[simp] theorem updJob_dom (s : State) (jobid : Nat) (f : Job → Job) : (updJob s jobid f).dom = s.dom := rfl
@[simp] theorem updJob_rst (s : State) (jobid : Nat) (f : Job → Job) : (updJob s jobid f).rst = s.rst := rfl
@[simp] theorem updJob_sec (s : State) (jobid : Nat) (f : Job → Job) : (updJob s jobid f).sec = s.sec := rfl
@[simp] theorem updJob_led (s : State) (jobid : Nat) (f : Job → Job) : (updJob s jobid f).led = s.led := rfl
@[simp] theorem updJob_pwr (s : State) (jobid : Nat) (f : Job → Job) : (updJob s jobid f).pwr = s.pwr := rfl
@[simp] theorem updJob_pkg (s : State) (jobid : Nat) (f : Job → Job) : (updJob s jobid f).pkg = s.pkg := rfl
@[simp] theorem updJob_free (s : State) (jobid : Nat) (f : Job → Job) : (updJob s jobid f).free = s.free := rfl
@[simp] theorem updJob_pending (s : State) (jobid : Nat) (f : Job → Job) : (updJob s jobid f).pending = s.pending := rfl

/-! ### updCores -/

@[simp] theorem updCores_time (s : State) (q : Nat) (f : CoreS → CoreS) : (updCores s q f).time = s.time := rfl
@[simp] theorem updCores_funcs (s : State) (q : Nat) (f : CoreS → CoreS) : (updCores s q f).funcs = s.funcs := rfl
@[simp] theorem updCores_ports (s : State) (q : Nat) (f : CoreS → CoreS) : (updCores s q f).ports = s.ports := rfl
@[simp] theorem updCores_fab (s : State) (q : Nat) (f : CoreS → CoreS) : (updCores s q f).fab = s.fab := rfl
@[simp] theorem updCores_regs (s : State) (q : Nat) (f : CoreS → CoreS) : (updCores s q f).regs = s.regs := rfl
@[simp] theorem updCores_maps (s : State) (q : Nat) (f : CoreS → CoreS) : (updCores s q f).maps = s.maps := rfl
@[simp] theorem updCores_stalls (s : State) (q : Nat) (f : CoreS → CoreS) : (updCores s q f).stalls = s.stalls := rfl
@[simp] theorem updCores_home (s : State) (q : Nat) (f : CoreS → CoreS) : (updCores s q f).home = s.home := rfl
@[simp] theorem updCores_tier (s : State) (q : Nat) (f : CoreS → CoreS) : (updCores s q f).tier = s.tier := rfl
@[simp] theorem updCores_ecx (s : State) (q : Nat) (f : CoreS → CoreS) : (updCores s q f).ecx = s.ecx := rfl
@[simp] theorem updCores_eng (s : State) (q : Nat) (f : CoreS → CoreS) : (updCores s q f).eng = s.eng := rfl
@[simp] theorem updCores_idx (s : State) (q : Nat) (f : CoreS → CoreS) : (updCores s q f).idx = s.idx := rfl
@[simp] theorem updCores_sw (s : State) (q : Nat) (f : CoreS → CoreS) : (updCores s q f).sw = s.sw := rfl
@[simp] theorem updCores_qps (s : State) (q : Nat) (f : CoreS → CoreS) : (updCores s q f).qps = s.qps := rfl
@[simp] theorem updCores_mb (s : State) (q : Nat) (f : CoreS → CoreS) : (updCores s q f).mb = s.mb := rfl
@[simp] theorem updCores_dom (s : State) (q : Nat) (f : CoreS → CoreS) : (updCores s q f).dom = s.dom := rfl
@[simp] theorem updCores_sec (s : State) (q : Nat) (f : CoreS → CoreS) : (updCores s q f).sec = s.sec := rfl
@[simp] theorem updCores_led (s : State) (q : Nat) (f : CoreS → CoreS) : (updCores s q f).led = s.led := rfl
@[simp] theorem updCores_pwr (s : State) (q : Nat) (f : CoreS → CoreS) : (updCores s q f).pwr = s.pwr := rfl
@[simp] theorem updCores_pkg (s : State) (q : Nat) (f : CoreS → CoreS) : (updCores s q f).pkg = s.pkg := rfl
@[simp] theorem updCores_free (s : State) (q : Nat) (f : CoreS → CoreS) : (updCores s q f).free = s.free := rfl
@[simp] theorem updCores_pending (s : State) (q : Nat) (f : CoreS → CoreS) : (updCores s q f).pending = s.pending := rfl

/-! ### updSheaf -/

@[simp] theorem updSheaf_time (s : State) (h : Nat) (f : Sheaf → Sheaf) : (updSheaf s h f).time = s.time := rfl
@[simp] theorem updSheaf_funcs (s : State) (h : Nat) (f : Sheaf → Sheaf) : (updSheaf s h f).funcs = s.funcs := rfl
@[simp] theorem updSheaf_ports (s : State) (h : Nat) (f : Sheaf → Sheaf) : (updSheaf s h f).ports = s.ports := rfl
@[simp] theorem updSheaf_fab (s : State) (h : Nat) (f : Sheaf → Sheaf) : (updSheaf s h f).fab = s.fab := rfl
@[simp] theorem updSheaf_regs (s : State) (h : Nat) (f : Sheaf → Sheaf) : (updSheaf s h f).regs = s.regs := rfl
@[simp] theorem updSheaf_maps (s : State) (h : Nat) (f : Sheaf → Sheaf) : (updSheaf s h f).maps = s.maps := rfl
@[simp] theorem updSheaf_stalls (s : State) (h : Nat) (f : Sheaf → Sheaf) : (updSheaf s h f).stalls = s.stalls := rfl
@[simp] theorem updSheaf_home (s : State) (h : Nat) (f : Sheaf → Sheaf) : (updSheaf s h f).home = s.home := rfl
@[simp] theorem updSheaf_tier (s : State) (h : Nat) (f : Sheaf → Sheaf) : (updSheaf s h f).tier = s.tier := rfl
@[simp] theorem updSheaf_ecx (s : State) (h : Nat) (f : Sheaf → Sheaf) : (updSheaf s h f).ecx = s.ecx := rfl
@[simp] theorem updSheaf_eng (s : State) (h : Nat) (f : Sheaf → Sheaf) : (updSheaf s h f).eng = s.eng := rfl
@[simp] theorem updSheaf_idx (s : State) (h : Nat) (f : Sheaf → Sheaf) : (updSheaf s h f).idx = s.idx := rfl
@[simp] theorem updSheaf_sw (s : State) (h : Nat) (f : Sheaf → Sheaf) : (updSheaf s h f).sw = s.sw := rfl
@[simp] theorem updSheaf_qps (s : State) (h : Nat) (f : Sheaf → Sheaf) : (updSheaf s h f).qps = s.qps := rfl
@[simp] theorem updSheaf_mb (s : State) (h : Nat) (f : Sheaf → Sheaf) : (updSheaf s h f).mb = s.mb := rfl
@[simp] theorem updSheaf_rst (s : State) (h : Nat) (f : Sheaf → Sheaf) : (updSheaf s h f).rst = s.rst := rfl
@[simp] theorem updSheaf_sec (s : State) (h : Nat) (f : Sheaf → Sheaf) : (updSheaf s h f).sec = s.sec := rfl
@[simp] theorem updSheaf_led (s : State) (h : Nat) (f : Sheaf → Sheaf) : (updSheaf s h f).led = s.led := rfl
@[simp] theorem updSheaf_pwr (s : State) (h : Nat) (f : Sheaf → Sheaf) : (updSheaf s h f).pwr = s.pwr := rfl
@[simp] theorem updSheaf_pkg (s : State) (h : Nat) (f : Sheaf → Sheaf) : (updSheaf s h f).pkg = s.pkg := rfl
@[simp] theorem updSheaf_free (s : State) (h : Nat) (f : Sheaf → Sheaf) : (updSheaf s h f).free = s.free := rfl
@[simp] theorem updSheaf_pending (s : State) (h : Nat) (f : Sheaf → Sheaf) : (updSheaf s h f).pending = s.pending := rfl

/-! ### updMove -/

@[simp] theorem updMove_time (s : State) (h : Nat) (f : Move → Move) : (updMove s h f).time = s.time := rfl
@[simp] theorem updMove_funcs (s : State) (h : Nat) (f : Move → Move) : (updMove s h f).funcs = s.funcs := rfl
@[simp] theorem updMove_ports (s : State) (h : Nat) (f : Move → Move) : (updMove s h f).ports = s.ports := rfl
@[simp] theorem updMove_fab (s : State) (h : Nat) (f : Move → Move) : (updMove s h f).fab = s.fab := rfl
@[simp] theorem updMove_maps (s : State) (h : Nat) (f : Move → Move) : (updMove s h f).maps = s.maps := rfl
@[simp] theorem updMove_stalls (s : State) (h : Nat) (f : Move → Move) : (updMove s h f).stalls = s.stalls := rfl
@[simp] theorem updMove_home (s : State) (h : Nat) (f : Move → Move) : (updMove s h f).home = s.home := rfl
@[simp] theorem updMove_tier (s : State) (h : Nat) (f : Move → Move) : (updMove s h f).tier = s.tier := rfl
@[simp] theorem updMove_ecx (s : State) (h : Nat) (f : Move → Move) : (updMove s h f).ecx = s.ecx := rfl
@[simp] theorem updMove_eng (s : State) (h : Nat) (f : Move → Move) : (updMove s h f).eng = s.eng := rfl
@[simp] theorem updMove_idx (s : State) (h : Nat) (f : Move → Move) : (updMove s h f).idx = s.idx := rfl
@[simp] theorem updMove_sw (s : State) (h : Nat) (f : Move → Move) : (updMove s h f).sw = s.sw := rfl
@[simp] theorem updMove_qps (s : State) (h : Nat) (f : Move → Move) : (updMove s h f).qps = s.qps := rfl
@[simp] theorem updMove_mb (s : State) (h : Nat) (f : Move → Move) : (updMove s h f).mb = s.mb := rfl
@[simp] theorem updMove_dom (s : State) (h : Nat) (f : Move → Move) : (updMove s h f).dom = s.dom := rfl
@[simp] theorem updMove_rst (s : State) (h : Nat) (f : Move → Move) : (updMove s h f).rst = s.rst := rfl
@[simp] theorem updMove_sec (s : State) (h : Nat) (f : Move → Move) : (updMove s h f).sec = s.sec := rfl
@[simp] theorem updMove_led (s : State) (h : Nat) (f : Move → Move) : (updMove s h f).led = s.led := rfl
@[simp] theorem updMove_pwr (s : State) (h : Nat) (f : Move → Move) : (updMove s h f).pwr = s.pwr := rfl
@[simp] theorem updMove_pkg (s : State) (h : Nat) (f : Move → Move) : (updMove s h f).pkg = s.pkg := rfl
@[simp] theorem updMove_free (s : State) (h : Nat) (f : Move → Move) : (updMove s h f).free = s.free := rfl
@[simp] theorem updMove_pending (s : State) (h : Nat) (f : Move → Move) : (updMove s h f).pending = s.pending := rfl

/-! ### updBlock -/

@[simp] theorem updBlock_time (s : State) (h b : Nat) (f : GwBlock → GwBlock) : (updBlock s h b f).time = s.time := rfl
@[simp] theorem updBlock_funcs (s : State) (h b : Nat) (f : GwBlock → GwBlock) : (updBlock s h b f).funcs = s.funcs := rfl
@[simp] theorem updBlock_ports (s : State) (h b : Nat) (f : GwBlock → GwBlock) : (updBlock s h b f).ports = s.ports := rfl
@[simp] theorem updBlock_fab (s : State) (h b : Nat) (f : GwBlock → GwBlock) : (updBlock s h b f).fab = s.fab := rfl
@[simp] theorem updBlock_maps (s : State) (h b : Nat) (f : GwBlock → GwBlock) : (updBlock s h b f).maps = s.maps := rfl
@[simp] theorem updBlock_stalls (s : State) (h b : Nat) (f : GwBlock → GwBlock) : (updBlock s h b f).stalls = s.stalls := rfl
@[simp] theorem updBlock_home (s : State) (h b : Nat) (f : GwBlock → GwBlock) : (updBlock s h b f).home = s.home := rfl
@[simp] theorem updBlock_tier (s : State) (h b : Nat) (f : GwBlock → GwBlock) : (updBlock s h b f).tier = s.tier := rfl
@[simp] theorem updBlock_ecx (s : State) (h b : Nat) (f : GwBlock → GwBlock) : (updBlock s h b f).ecx = s.ecx := rfl
@[simp] theorem updBlock_eng (s : State) (h b : Nat) (f : GwBlock → GwBlock) : (updBlock s h b f).eng = s.eng := rfl
@[simp] theorem updBlock_idx (s : State) (h b : Nat) (f : GwBlock → GwBlock) : (updBlock s h b f).idx = s.idx := rfl
@[simp] theorem updBlock_sw (s : State) (h b : Nat) (f : GwBlock → GwBlock) : (updBlock s h b f).sw = s.sw := rfl
@[simp] theorem updBlock_qps (s : State) (h b : Nat) (f : GwBlock → GwBlock) : (updBlock s h b f).qps = s.qps := rfl
@[simp] theorem updBlock_mb (s : State) (h b : Nat) (f : GwBlock → GwBlock) : (updBlock s h b f).mb = s.mb := rfl
@[simp] theorem updBlock_dom (s : State) (h b : Nat) (f : GwBlock → GwBlock) : (updBlock s h b f).dom = s.dom := rfl
@[simp] theorem updBlock_rst (s : State) (h b : Nat) (f : GwBlock → GwBlock) : (updBlock s h b f).rst = s.rst := rfl
@[simp] theorem updBlock_sec (s : State) (h b : Nat) (f : GwBlock → GwBlock) : (updBlock s h b f).sec = s.sec := rfl
@[simp] theorem updBlock_led (s : State) (h b : Nat) (f : GwBlock → GwBlock) : (updBlock s h b f).led = s.led := rfl
@[simp] theorem updBlock_pwr (s : State) (h b : Nat) (f : GwBlock → GwBlock) : (updBlock s h b f).pwr = s.pwr := rfl
@[simp] theorem updBlock_pkg (s : State) (h b : Nat) (f : GwBlock → GwBlock) : (updBlock s h b f).pkg = s.pkg := rfl
@[simp] theorem updBlock_free (s : State) (h b : Nat) (f : GwBlock → GwBlock) : (updBlock s h b f).free = s.free := rfl
@[simp] theorem updBlock_pending (s : State) (h b : Nat) (f : GwBlock → GwBlock) : (updBlock s h b f).pending = s.pending := rfl

/-! ### updRotation -/

@[simp] theorem updRotation_time (s : State) (comp : Nat) (f : MemRotation → MemRotation) : (updRotation s comp f).time = s.time := rfl
@[simp] theorem updRotation_funcs (s : State) (comp : Nat) (f : MemRotation → MemRotation) : (updRotation s comp f).funcs = s.funcs := rfl
@[simp] theorem updRotation_ports (s : State) (comp : Nat) (f : MemRotation → MemRotation) : (updRotation s comp f).ports = s.ports := rfl
@[simp] theorem updRotation_fab (s : State) (comp : Nat) (f : MemRotation → MemRotation) : (updRotation s comp f).fab = s.fab := rfl
@[simp] theorem updRotation_regs (s : State) (comp : Nat) (f : MemRotation → MemRotation) : (updRotation s comp f).regs = s.regs := rfl
@[simp] theorem updRotation_maps (s : State) (comp : Nat) (f : MemRotation → MemRotation) : (updRotation s comp f).maps = s.maps := rfl
@[simp] theorem updRotation_stalls (s : State) (comp : Nat) (f : MemRotation → MemRotation) : (updRotation s comp f).stalls = s.stalls := rfl
@[simp] theorem updRotation_home (s : State) (comp : Nat) (f : MemRotation → MemRotation) : (updRotation s comp f).home = s.home := rfl
@[simp] theorem updRotation_tier (s : State) (comp : Nat) (f : MemRotation → MemRotation) : (updRotation s comp f).tier = s.tier := rfl
@[simp] theorem updRotation_ecx (s : State) (comp : Nat) (f : MemRotation → MemRotation) : (updRotation s comp f).ecx = s.ecx := rfl
@[simp] theorem updRotation_eng (s : State) (comp : Nat) (f : MemRotation → MemRotation) : (updRotation s comp f).eng = s.eng := rfl
@[simp] theorem updRotation_idx (s : State) (comp : Nat) (f : MemRotation → MemRotation) : (updRotation s comp f).idx = s.idx := rfl
@[simp] theorem updRotation_sw (s : State) (comp : Nat) (f : MemRotation → MemRotation) : (updRotation s comp f).sw = s.sw := rfl
@[simp] theorem updRotation_qps (s : State) (comp : Nat) (f : MemRotation → MemRotation) : (updRotation s comp f).qps = s.qps := rfl
@[simp] theorem updRotation_mb (s : State) (comp : Nat) (f : MemRotation → MemRotation) : (updRotation s comp f).mb = s.mb := rfl
@[simp] theorem updRotation_dom (s : State) (comp : Nat) (f : MemRotation → MemRotation) : (updRotation s comp f).dom = s.dom := rfl
@[simp] theorem updRotation_rst (s : State) (comp : Nat) (f : MemRotation → MemRotation) : (updRotation s comp f).rst = s.rst := rfl
@[simp] theorem updRotation_led (s : State) (comp : Nat) (f : MemRotation → MemRotation) : (updRotation s comp f).led = s.led := rfl
@[simp] theorem updRotation_pwr (s : State) (comp : Nat) (f : MemRotation → MemRotation) : (updRotation s comp f).pwr = s.pwr := rfl
@[simp] theorem updRotation_pkg (s : State) (comp : Nat) (f : MemRotation → MemRotation) : (updRotation s comp f).pkg = s.pkg := rfl
@[simp] theorem updRotation_free (s : State) (comp : Nat) (f : MemRotation → MemRotation) : (updRotation s comp f).free = s.free := rfl
@[simp] theorem updRotation_pending (s : State) (comp : Nat) (f : MemRotation → MemRotation) : (updRotation s comp f).pending = s.pending := rfl

/-! ### interrupt -/

@[simp] theorem interrupt_time (s : State) (fn vec : Nat) : (interrupt s fn vec).time = s.time := rfl
@[simp] theorem interrupt_ports (s : State) (fn vec : Nat) : (interrupt s fn vec).ports = s.ports := rfl
@[simp] theorem interrupt_fab (s : State) (fn vec : Nat) : (interrupt s fn vec).fab = s.fab := rfl
@[simp] theorem interrupt_regs (s : State) (fn vec : Nat) : (interrupt s fn vec).regs = s.regs := rfl
@[simp] theorem interrupt_maps (s : State) (fn vec : Nat) : (interrupt s fn vec).maps = s.maps := rfl
@[simp] theorem interrupt_stalls (s : State) (fn vec : Nat) : (interrupt s fn vec).stalls = s.stalls := rfl
@[simp] theorem interrupt_home (s : State) (fn vec : Nat) : (interrupt s fn vec).home = s.home := rfl
@[simp] theorem interrupt_tier (s : State) (fn vec : Nat) : (interrupt s fn vec).tier = s.tier := rfl
@[simp] theorem interrupt_ecx (s : State) (fn vec : Nat) : (interrupt s fn vec).ecx = s.ecx := rfl
@[simp] theorem interrupt_eng (s : State) (fn vec : Nat) : (interrupt s fn vec).eng = s.eng := rfl
@[simp] theorem interrupt_idx (s : State) (fn vec : Nat) : (interrupt s fn vec).idx = s.idx := rfl
@[simp] theorem interrupt_sw (s : State) (fn vec : Nat) : (interrupt s fn vec).sw = s.sw := rfl
@[simp] theorem interrupt_qps (s : State) (fn vec : Nat) : (interrupt s fn vec).qps = s.qps := rfl
@[simp] theorem interrupt_mb (s : State) (fn vec : Nat) : (interrupt s fn vec).mb = s.mb := rfl
@[simp] theorem interrupt_dom (s : State) (fn vec : Nat) : (interrupt s fn vec).dom = s.dom := rfl
@[simp] theorem interrupt_rst (s : State) (fn vec : Nat) : (interrupt s fn vec).rst = s.rst := rfl
@[simp] theorem interrupt_sec (s : State) (fn vec : Nat) : (interrupt s fn vec).sec = s.sec := rfl
@[simp] theorem interrupt_led (s : State) (fn vec : Nat) : (interrupt s fn vec).led = s.led := rfl
@[simp] theorem interrupt_pwr (s : State) (fn vec : Nat) : (interrupt s fn vec).pwr = s.pwr := rfl
@[simp] theorem interrupt_pkg (s : State) (fn vec : Nat) : (interrupt s fn vec).pkg = s.pkg := rfl
@[simp] theorem interrupt_free (s : State) (fn vec : Nat) : (interrupt s fn vec).free = s.free := rfl
@[simp] theorem interrupt_pending (s : State) (fn vec : Nat) : (interrupt s fn vec).pending = s.pending := rfl

/-! ### alert -/

@[simp] theorem alert_time (s : State)  : (alert s).time = s.time := rfl
@[simp] theorem alert_funcs (s : State)  : (alert s).funcs = s.funcs := rfl
@[simp] theorem alert_ports (s : State)  : (alert s).ports = s.ports := rfl
@[simp] theorem alert_fab (s : State)  : (alert s).fab = s.fab := rfl
@[simp] theorem alert_regs (s : State)  : (alert s).regs = s.regs := rfl
@[simp] theorem alert_maps (s : State)  : (alert s).maps = s.maps := rfl
@[simp] theorem alert_stalls (s : State)  : (alert s).stalls = s.stalls := rfl
@[simp] theorem alert_home (s : State)  : (alert s).home = s.home := rfl
@[simp] theorem alert_tier (s : State)  : (alert s).tier = s.tier := rfl
@[simp] theorem alert_ecx (s : State)  : (alert s).ecx = s.ecx := rfl
@[simp] theorem alert_eng (s : State)  : (alert s).eng = s.eng := rfl
@[simp] theorem alert_idx (s : State)  : (alert s).idx = s.idx := rfl
@[simp] theorem alert_sw (s : State)  : (alert s).sw = s.sw := rfl
@[simp] theorem alert_qps (s : State)  : (alert s).qps = s.qps := rfl
@[simp] theorem alert_mb (s : State)  : (alert s).mb = s.mb := rfl
@[simp] theorem alert_dom (s : State)  : (alert s).dom = s.dom := rfl
@[simp] theorem alert_rst (s : State)  : (alert s).rst = s.rst := rfl
@[simp] theorem alert_sec (s : State)  : (alert s).sec = s.sec := rfl
@[simp] theorem alert_led (s : State)  : (alert s).led = s.led := rfl
@[simp] theorem alert_pkg (s : State)  : (alert s).pkg = s.pkg := rfl
@[simp] theorem alert_free (s : State)  : (alert s).free = s.free := rfl
@[simp] theorem alert_pending (s : State)  : (alert s).pending = s.pending := rfl

/-! ### tapTest -/

@[simp] theorem tapTest_time (s : State) (test : Nat) : (tapTest s test).time = s.time := rfl
@[simp] theorem tapTest_funcs (s : State) (test : Nat) : (tapTest s test).funcs = s.funcs := rfl
@[simp] theorem tapTest_ports (s : State) (test : Nat) : (tapTest s test).ports = s.ports := rfl
@[simp] theorem tapTest_fab (s : State) (test : Nat) : (tapTest s test).fab = s.fab := rfl
@[simp] theorem tapTest_regs (s : State) (test : Nat) : (tapTest s test).regs = s.regs := rfl
@[simp] theorem tapTest_maps (s : State) (test : Nat) : (tapTest s test).maps = s.maps := rfl
@[simp] theorem tapTest_stalls (s : State) (test : Nat) : (tapTest s test).stalls = s.stalls := rfl
@[simp] theorem tapTest_home (s : State) (test : Nat) : (tapTest s test).home = s.home := rfl
@[simp] theorem tapTest_tier (s : State) (test : Nat) : (tapTest s test).tier = s.tier := rfl
@[simp] theorem tapTest_ecx (s : State) (test : Nat) : (tapTest s test).ecx = s.ecx := rfl
@[simp] theorem tapTest_eng (s : State) (test : Nat) : (tapTest s test).eng = s.eng := rfl
@[simp] theorem tapTest_idx (s : State) (test : Nat) : (tapTest s test).idx = s.idx := rfl
@[simp] theorem tapTest_sw (s : State) (test : Nat) : (tapTest s test).sw = s.sw := rfl
@[simp] theorem tapTest_qps (s : State) (test : Nat) : (tapTest s test).qps = s.qps := rfl
@[simp] theorem tapTest_mb (s : State) (test : Nat) : (tapTest s test).mb = s.mb := rfl
@[simp] theorem tapTest_dom (s : State) (test : Nat) : (tapTest s test).dom = s.dom := rfl
@[simp] theorem tapTest_rst (s : State) (test : Nat) : (tapTest s test).rst = s.rst := rfl
@[simp] theorem tapTest_sec (s : State) (test : Nat) : (tapTest s test).sec = s.sec := rfl
@[simp] theorem tapTest_led (s : State) (test : Nat) : (tapTest s test).led = s.led := rfl
@[simp] theorem tapTest_pwr (s : State) (test : Nat) : (tapTest s test).pwr = s.pwr := rfl
@[simp] theorem tapTest_free (s : State) (test : Nat) : (tapTest s test).free = s.free := rfl
@[simp] theorem tapTest_pending (s : State) (test : Nat) : (tapTest s test).pending = s.pending := rfl

/-! ### record -/

@[simp] theorem record_time (s : State) (r : Rec) : (record s r).time = s.time := rfl
@[simp] theorem record_funcs (s : State) (r : Rec) : (record s r).funcs = s.funcs := rfl
@[simp] theorem record_ports (s : State) (r : Rec) : (record s r).ports = s.ports := rfl
@[simp] theorem record_fab (s : State) (r : Rec) : (record s r).fab = s.fab := rfl
@[simp] theorem record_regs (s : State) (r : Rec) : (record s r).regs = s.regs := rfl
@[simp] theorem record_maps (s : State) (r : Rec) : (record s r).maps = s.maps := rfl
@[simp] theorem record_stalls (s : State) (r : Rec) : (record s r).stalls = s.stalls := rfl
@[simp] theorem record_home (s : State) (r : Rec) : (record s r).home = s.home := rfl
@[simp] theorem record_tier (s : State) (r : Rec) : (record s r).tier = s.tier := rfl
@[simp] theorem record_ecx (s : State) (r : Rec) : (record s r).ecx = s.ecx := rfl
@[simp] theorem record_eng (s : State) (r : Rec) : (record s r).eng = s.eng := rfl
@[simp] theorem record_idx (s : State) (r : Rec) : (record s r).idx = s.idx := rfl
@[simp] theorem record_sw (s : State) (r : Rec) : (record s r).sw = s.sw := rfl
@[simp] theorem record_qps (s : State) (r : Rec) : (record s r).qps = s.qps := rfl
@[simp] theorem record_mb (s : State) (r : Rec) : (record s r).mb = s.mb := rfl
@[simp] theorem record_dom (s : State) (r : Rec) : (record s r).dom = s.dom := rfl
@[simp] theorem record_rst (s : State) (r : Rec) : (record s r).rst = s.rst := rfl
@[simp] theorem record_sec (s : State) (r : Rec) : (record s r).sec = s.sec := rfl
@[simp] theorem record_pwr (s : State) (r : Rec) : (record s r).pwr = s.pwr := rfl
@[simp] theorem record_pkg (s : State) (r : Rec) : (record s r).pkg = s.pkg := rfl
@[simp] theorem record_free (s : State) (r : Rec) : (record s r).free = s.free := rfl
@[simp] theorem record_pending (s : State) (r : Rec) : (record s r).pending = s.pending := rfl

/-! ### powerRecord -/

@[simp] theorem powerRecord_time (s : State) (code : Nat) (p0 p1 p2 p3 : Word) : (powerRecord s code p0 p1 p2 p3).time = s.time := rfl
@[simp] theorem powerRecord_funcs (s : State) (code : Nat) (p0 p1 p2 p3 : Word) : (powerRecord s code p0 p1 p2 p3).funcs = s.funcs := rfl
@[simp] theorem powerRecord_ports (s : State) (code : Nat) (p0 p1 p2 p3 : Word) : (powerRecord s code p0 p1 p2 p3).ports = s.ports := rfl
@[simp] theorem powerRecord_fab (s : State) (code : Nat) (p0 p1 p2 p3 : Word) : (powerRecord s code p0 p1 p2 p3).fab = s.fab := rfl
@[simp] theorem powerRecord_regs (s : State) (code : Nat) (p0 p1 p2 p3 : Word) : (powerRecord s code p0 p1 p2 p3).regs = s.regs := rfl
@[simp] theorem powerRecord_maps (s : State) (code : Nat) (p0 p1 p2 p3 : Word) : (powerRecord s code p0 p1 p2 p3).maps = s.maps := rfl
@[simp] theorem powerRecord_stalls (s : State) (code : Nat) (p0 p1 p2 p3 : Word) : (powerRecord s code p0 p1 p2 p3).stalls = s.stalls := rfl
@[simp] theorem powerRecord_home (s : State) (code : Nat) (p0 p1 p2 p3 : Word) : (powerRecord s code p0 p1 p2 p3).home = s.home := rfl
@[simp] theorem powerRecord_tier (s : State) (code : Nat) (p0 p1 p2 p3 : Word) : (powerRecord s code p0 p1 p2 p3).tier = s.tier := rfl
@[simp] theorem powerRecord_ecx (s : State) (code : Nat) (p0 p1 p2 p3 : Word) : (powerRecord s code p0 p1 p2 p3).ecx = s.ecx := rfl
@[simp] theorem powerRecord_eng (s : State) (code : Nat) (p0 p1 p2 p3 : Word) : (powerRecord s code p0 p1 p2 p3).eng = s.eng := rfl
@[simp] theorem powerRecord_idx (s : State) (code : Nat) (p0 p1 p2 p3 : Word) : (powerRecord s code p0 p1 p2 p3).idx = s.idx := rfl
@[simp] theorem powerRecord_sw (s : State) (code : Nat) (p0 p1 p2 p3 : Word) : (powerRecord s code p0 p1 p2 p3).sw = s.sw := rfl
@[simp] theorem powerRecord_qps (s : State) (code : Nat) (p0 p1 p2 p3 : Word) : (powerRecord s code p0 p1 p2 p3).qps = s.qps := rfl
@[simp] theorem powerRecord_mb (s : State) (code : Nat) (p0 p1 p2 p3 : Word) : (powerRecord s code p0 p1 p2 p3).mb = s.mb := rfl
@[simp] theorem powerRecord_dom (s : State) (code : Nat) (p0 p1 p2 p3 : Word) : (powerRecord s code p0 p1 p2 p3).dom = s.dom := rfl
@[simp] theorem powerRecord_rst (s : State) (code : Nat) (p0 p1 p2 p3 : Word) : (powerRecord s code p0 p1 p2 p3).rst = s.rst := rfl
@[simp] theorem powerRecord_sec (s : State) (code : Nat) (p0 p1 p2 p3 : Word) : (powerRecord s code p0 p1 p2 p3).sec = s.sec := rfl
@[simp] theorem powerRecord_pwr (s : State) (code : Nat) (p0 p1 p2 p3 : Word) : (powerRecord s code p0 p1 p2 p3).pwr = s.pwr := rfl
@[simp] theorem powerRecord_pkg (s : State) (code : Nat) (p0 p1 p2 p3 : Word) : (powerRecord s code p0 p1 p2 p3).pkg = s.pkg := rfl
@[simp] theorem powerRecord_free (s : State) (code : Nat) (p0 p1 p2 p3 : Word) : (powerRecord s code p0 p1 p2 p3).free = s.free := rfl
@[simp] theorem powerRecord_pending (s : State) (code : Nat) (p0 p1 p2 p3 : Word) : (powerRecord s code p0 p1 p2 p3).pending = s.pending := rfl

/-! ### resetRecord -/

@[simp] theorem resetRecord_time (s : State) (code : Nat) (p0 p1 p2 p3 : Word) : (resetRecord s code p0 p1 p2 p3).time = s.time := rfl
@[simp] theorem resetRecord_funcs (s : State) (code : Nat) (p0 p1 p2 p3 : Word) : (resetRecord s code p0 p1 p2 p3).funcs = s.funcs := rfl
@[simp] theorem resetRecord_ports (s : State) (code : Nat) (p0 p1 p2 p3 : Word) : (resetRecord s code p0 p1 p2 p3).ports = s.ports := rfl
@[simp] theorem resetRecord_fab (s : State) (code : Nat) (p0 p1 p2 p3 : Word) : (resetRecord s code p0 p1 p2 p3).fab = s.fab := rfl
@[simp] theorem resetRecord_regs (s : State) (code : Nat) (p0 p1 p2 p3 : Word) : (resetRecord s code p0 p1 p2 p3).regs = s.regs := rfl
@[simp] theorem resetRecord_maps (s : State) (code : Nat) (p0 p1 p2 p3 : Word) : (resetRecord s code p0 p1 p2 p3).maps = s.maps := rfl
@[simp] theorem resetRecord_stalls (s : State) (code : Nat) (p0 p1 p2 p3 : Word) : (resetRecord s code p0 p1 p2 p3).stalls = s.stalls := rfl
@[simp] theorem resetRecord_home (s : State) (code : Nat) (p0 p1 p2 p3 : Word) : (resetRecord s code p0 p1 p2 p3).home = s.home := rfl
@[simp] theorem resetRecord_tier (s : State) (code : Nat) (p0 p1 p2 p3 : Word) : (resetRecord s code p0 p1 p2 p3).tier = s.tier := rfl
@[simp] theorem resetRecord_ecx (s : State) (code : Nat) (p0 p1 p2 p3 : Word) : (resetRecord s code p0 p1 p2 p3).ecx = s.ecx := rfl
@[simp] theorem resetRecord_eng (s : State) (code : Nat) (p0 p1 p2 p3 : Word) : (resetRecord s code p0 p1 p2 p3).eng = s.eng := rfl
@[simp] theorem resetRecord_idx (s : State) (code : Nat) (p0 p1 p2 p3 : Word) : (resetRecord s code p0 p1 p2 p3).idx = s.idx := rfl
@[simp] theorem resetRecord_sw (s : State) (code : Nat) (p0 p1 p2 p3 : Word) : (resetRecord s code p0 p1 p2 p3).sw = s.sw := rfl
@[simp] theorem resetRecord_qps (s : State) (code : Nat) (p0 p1 p2 p3 : Word) : (resetRecord s code p0 p1 p2 p3).qps = s.qps := rfl
@[simp] theorem resetRecord_mb (s : State) (code : Nat) (p0 p1 p2 p3 : Word) : (resetRecord s code p0 p1 p2 p3).mb = s.mb := rfl
@[simp] theorem resetRecord_dom (s : State) (code : Nat) (p0 p1 p2 p3 : Word) : (resetRecord s code p0 p1 p2 p3).dom = s.dom := rfl
@[simp] theorem resetRecord_rst (s : State) (code : Nat) (p0 p1 p2 p3 : Word) : (resetRecord s code p0 p1 p2 p3).rst = s.rst := rfl
@[simp] theorem resetRecord_sec (s : State) (code : Nat) (p0 p1 p2 p3 : Word) : (resetRecord s code p0 p1 p2 p3).sec = s.sec := rfl
@[simp] theorem resetRecord_pwr (s : State) (code : Nat) (p0 p1 p2 p3 : Word) : (resetRecord s code p0 p1 p2 p3).pwr = s.pwr := rfl
@[simp] theorem resetRecord_pkg (s : State) (code : Nat) (p0 p1 p2 p3 : Word) : (resetRecord s code p0 p1 p2 p3).pkg = s.pkg := rfl
@[simp] theorem resetRecord_free (s : State) (code : Nat) (p0 p1 p2 p3 : Word) : (resetRecord s code p0 p1 p2 p3).free = s.free := rfl
@[simp] theorem resetRecord_pending (s : State) (code : Nat) (p0 p1 p2 p3 : Word) : (resetRecord s code p0 p1 p2 p3).pending = s.pending := rfl

/-! ### portRecord -/

@[simp] theorem portRecord_time (s : State) (p code : Nat) (p1 p2 p3 : Word) : (portRecord s p code p1 p2 p3).time = s.time := rfl
@[simp] theorem portRecord_funcs (s : State) (p code : Nat) (p1 p2 p3 : Word) : (portRecord s p code p1 p2 p3).funcs = s.funcs := rfl
@[simp] theorem portRecord_ports (s : State) (p code : Nat) (p1 p2 p3 : Word) : (portRecord s p code p1 p2 p3).ports = s.ports := rfl
@[simp] theorem portRecord_fab (s : State) (p code : Nat) (p1 p2 p3 : Word) : (portRecord s p code p1 p2 p3).fab = s.fab := rfl
@[simp] theorem portRecord_regs (s : State) (p code : Nat) (p1 p2 p3 : Word) : (portRecord s p code p1 p2 p3).regs = s.regs := rfl
@[simp] theorem portRecord_maps (s : State) (p code : Nat) (p1 p2 p3 : Word) : (portRecord s p code p1 p2 p3).maps = s.maps := rfl
@[simp] theorem portRecord_stalls (s : State) (p code : Nat) (p1 p2 p3 : Word) : (portRecord s p code p1 p2 p3).stalls = s.stalls := rfl
@[simp] theorem portRecord_home (s : State) (p code : Nat) (p1 p2 p3 : Word) : (portRecord s p code p1 p2 p3).home = s.home := rfl
@[simp] theorem portRecord_tier (s : State) (p code : Nat) (p1 p2 p3 : Word) : (portRecord s p code p1 p2 p3).tier = s.tier := rfl
@[simp] theorem portRecord_ecx (s : State) (p code : Nat) (p1 p2 p3 : Word) : (portRecord s p code p1 p2 p3).ecx = s.ecx := rfl
@[simp] theorem portRecord_eng (s : State) (p code : Nat) (p1 p2 p3 : Word) : (portRecord s p code p1 p2 p3).eng = s.eng := rfl
@[simp] theorem portRecord_idx (s : State) (p code : Nat) (p1 p2 p3 : Word) : (portRecord s p code p1 p2 p3).idx = s.idx := rfl
@[simp] theorem portRecord_sw (s : State) (p code : Nat) (p1 p2 p3 : Word) : (portRecord s p code p1 p2 p3).sw = s.sw := rfl
@[simp] theorem portRecord_qps (s : State) (p code : Nat) (p1 p2 p3 : Word) : (portRecord s p code p1 p2 p3).qps = s.qps := rfl
@[simp] theorem portRecord_mb (s : State) (p code : Nat) (p1 p2 p3 : Word) : (portRecord s p code p1 p2 p3).mb = s.mb := rfl
@[simp] theorem portRecord_dom (s : State) (p code : Nat) (p1 p2 p3 : Word) : (portRecord s p code p1 p2 p3).dom = s.dom := rfl
@[simp] theorem portRecord_rst (s : State) (p code : Nat) (p1 p2 p3 : Word) : (portRecord s p code p1 p2 p3).rst = s.rst := rfl
@[simp] theorem portRecord_sec (s : State) (p code : Nat) (p1 p2 p3 : Word) : (portRecord s p code p1 p2 p3).sec = s.sec := rfl
@[simp] theorem portRecord_pwr (s : State) (p code : Nat) (p1 p2 p3 : Word) : (portRecord s p code p1 p2 p3).pwr = s.pwr := rfl
@[simp] theorem portRecord_pkg (s : State) (p code : Nat) (p1 p2 p3 : Word) : (portRecord s p code p1 p2 p3).pkg = s.pkg := rfl
@[simp] theorem portRecord_free (s : State) (p code : Nat) (p1 p2 p3 : Word) : (portRecord s p code p1 p2 p3).free = s.free := rfl
@[simp] theorem portRecord_pending (s : State) (p code : Nat) (p1 p2 p3 : Word) : (portRecord s p code p1 p2 p3).pending = s.pending := rfl

/-! ### domainRecord -/

@[simp] theorem domainRecord_time (s : State) (code princ : Nat) (p0 p1 p2 p3 : Word) : (domainRecord s code princ p0 p1 p2 p3).time = s.time := rfl
@[simp] theorem domainRecord_funcs (s : State) (code princ : Nat) (p0 p1 p2 p3 : Word) : (domainRecord s code princ p0 p1 p2 p3).funcs = s.funcs := rfl
@[simp] theorem domainRecord_ports (s : State) (code princ : Nat) (p0 p1 p2 p3 : Word) : (domainRecord s code princ p0 p1 p2 p3).ports = s.ports := rfl
@[simp] theorem domainRecord_fab (s : State) (code princ : Nat) (p0 p1 p2 p3 : Word) : (domainRecord s code princ p0 p1 p2 p3).fab = s.fab := rfl
@[simp] theorem domainRecord_regs (s : State) (code princ : Nat) (p0 p1 p2 p3 : Word) : (domainRecord s code princ p0 p1 p2 p3).regs = s.regs := rfl
@[simp] theorem domainRecord_maps (s : State) (code princ : Nat) (p0 p1 p2 p3 : Word) : (domainRecord s code princ p0 p1 p2 p3).maps = s.maps := rfl
@[simp] theorem domainRecord_stalls (s : State) (code princ : Nat) (p0 p1 p2 p3 : Word) : (domainRecord s code princ p0 p1 p2 p3).stalls = s.stalls := rfl
@[simp] theorem domainRecord_home (s : State) (code princ : Nat) (p0 p1 p2 p3 : Word) : (domainRecord s code princ p0 p1 p2 p3).home = s.home := rfl
@[simp] theorem domainRecord_tier (s : State) (code princ : Nat) (p0 p1 p2 p3 : Word) : (domainRecord s code princ p0 p1 p2 p3).tier = s.tier := rfl
@[simp] theorem domainRecord_ecx (s : State) (code princ : Nat) (p0 p1 p2 p3 : Word) : (domainRecord s code princ p0 p1 p2 p3).ecx = s.ecx := rfl
@[simp] theorem domainRecord_eng (s : State) (code princ : Nat) (p0 p1 p2 p3 : Word) : (domainRecord s code princ p0 p1 p2 p3).eng = s.eng := rfl
@[simp] theorem domainRecord_idx (s : State) (code princ : Nat) (p0 p1 p2 p3 : Word) : (domainRecord s code princ p0 p1 p2 p3).idx = s.idx := rfl
@[simp] theorem domainRecord_sw (s : State) (code princ : Nat) (p0 p1 p2 p3 : Word) : (domainRecord s code princ p0 p1 p2 p3).sw = s.sw := rfl
@[simp] theorem domainRecord_qps (s : State) (code princ : Nat) (p0 p1 p2 p3 : Word) : (domainRecord s code princ p0 p1 p2 p3).qps = s.qps := rfl
@[simp] theorem domainRecord_mb (s : State) (code princ : Nat) (p0 p1 p2 p3 : Word) : (domainRecord s code princ p0 p1 p2 p3).mb = s.mb := rfl
@[simp] theorem domainRecord_dom (s : State) (code princ : Nat) (p0 p1 p2 p3 : Word) : (domainRecord s code princ p0 p1 p2 p3).dom = s.dom := rfl
@[simp] theorem domainRecord_rst (s : State) (code princ : Nat) (p0 p1 p2 p3 : Word) : (domainRecord s code princ p0 p1 p2 p3).rst = s.rst := rfl
@[simp] theorem domainRecord_sec (s : State) (code princ : Nat) (p0 p1 p2 p3 : Word) : (domainRecord s code princ p0 p1 p2 p3).sec = s.sec := rfl
@[simp] theorem domainRecord_pwr (s : State) (code princ : Nat) (p0 p1 p2 p3 : Word) : (domainRecord s code princ p0 p1 p2 p3).pwr = s.pwr := rfl
@[simp] theorem domainRecord_pkg (s : State) (code princ : Nat) (p0 p1 p2 p3 : Word) : (domainRecord s code princ p0 p1 p2 p3).pkg = s.pkg := rfl
@[simp] theorem domainRecord_free (s : State) (code princ : Nat) (p0 p1 p2 p3 : Word) : (domainRecord s code princ p0 p1 p2 p3).free = s.free := rfl
@[simp] theorem domainRecord_pending (s : State) (code princ : Nat) (p0 p1 p2 p3 : Word) : (domainRecord s code princ p0 p1 p2 p3).pending = s.pending := rfl

/-! ### engRecord -/

@[simp] theorem engRecord_time (s : State) (quarter code stall : Nat) (p0 p1 p2 p3 : Word) : (engRecord s quarter code stall p0 p1 p2 p3).time = s.time := rfl
@[simp] theorem engRecord_funcs (s : State) (quarter code stall : Nat) (p0 p1 p2 p3 : Word) : (engRecord s quarter code stall p0 p1 p2 p3).funcs = s.funcs := rfl
@[simp] theorem engRecord_ports (s : State) (quarter code stall : Nat) (p0 p1 p2 p3 : Word) : (engRecord s quarter code stall p0 p1 p2 p3).ports = s.ports := rfl
@[simp] theorem engRecord_fab (s : State) (quarter code stall : Nat) (p0 p1 p2 p3 : Word) : (engRecord s quarter code stall p0 p1 p2 p3).fab = s.fab := rfl
@[simp] theorem engRecord_regs (s : State) (quarter code stall : Nat) (p0 p1 p2 p3 : Word) : (engRecord s quarter code stall p0 p1 p2 p3).regs = s.regs := rfl
@[simp] theorem engRecord_maps (s : State) (quarter code stall : Nat) (p0 p1 p2 p3 : Word) : (engRecord s quarter code stall p0 p1 p2 p3).maps = s.maps := rfl
@[simp] theorem engRecord_stalls (s : State) (quarter code stall : Nat) (p0 p1 p2 p3 : Word) : (engRecord s quarter code stall p0 p1 p2 p3).stalls = s.stalls := rfl
@[simp] theorem engRecord_home (s : State) (quarter code stall : Nat) (p0 p1 p2 p3 : Word) : (engRecord s quarter code stall p0 p1 p2 p3).home = s.home := rfl
@[simp] theorem engRecord_tier (s : State) (quarter code stall : Nat) (p0 p1 p2 p3 : Word) : (engRecord s quarter code stall p0 p1 p2 p3).tier = s.tier := rfl
@[simp] theorem engRecord_ecx (s : State) (quarter code stall : Nat) (p0 p1 p2 p3 : Word) : (engRecord s quarter code stall p0 p1 p2 p3).ecx = s.ecx := rfl
@[simp] theorem engRecord_eng (s : State) (quarter code stall : Nat) (p0 p1 p2 p3 : Word) : (engRecord s quarter code stall p0 p1 p2 p3).eng = s.eng := rfl
@[simp] theorem engRecord_idx (s : State) (quarter code stall : Nat) (p0 p1 p2 p3 : Word) : (engRecord s quarter code stall p0 p1 p2 p3).idx = s.idx := rfl
@[simp] theorem engRecord_sw (s : State) (quarter code stall : Nat) (p0 p1 p2 p3 : Word) : (engRecord s quarter code stall p0 p1 p2 p3).sw = s.sw := rfl
@[simp] theorem engRecord_qps (s : State) (quarter code stall : Nat) (p0 p1 p2 p3 : Word) : (engRecord s quarter code stall p0 p1 p2 p3).qps = s.qps := rfl
@[simp] theorem engRecord_mb (s : State) (quarter code stall : Nat) (p0 p1 p2 p3 : Word) : (engRecord s quarter code stall p0 p1 p2 p3).mb = s.mb := rfl
@[simp] theorem engRecord_dom (s : State) (quarter code stall : Nat) (p0 p1 p2 p3 : Word) : (engRecord s quarter code stall p0 p1 p2 p3).dom = s.dom := rfl
@[simp] theorem engRecord_rst (s : State) (quarter code stall : Nat) (p0 p1 p2 p3 : Word) : (engRecord s quarter code stall p0 p1 p2 p3).rst = s.rst := rfl
@[simp] theorem engRecord_sec (s : State) (quarter code stall : Nat) (p0 p1 p2 p3 : Word) : (engRecord s quarter code stall p0 p1 p2 p3).sec = s.sec := rfl
@[simp] theorem engRecord_pwr (s : State) (quarter code stall : Nat) (p0 p1 p2 p3 : Word) : (engRecord s quarter code stall p0 p1 p2 p3).pwr = s.pwr := rfl
@[simp] theorem engRecord_pkg (s : State) (quarter code stall : Nat) (p0 p1 p2 p3 : Word) : (engRecord s quarter code stall p0 p1 p2 p3).pkg = s.pkg := rfl
@[simp] theorem engRecord_free (s : State) (quarter code stall : Nat) (p0 p1 p2 p3 : Word) : (engRecord s quarter code stall p0 p1 p2 p3).free = s.free := rfl
@[simp] theorem engRecord_pending (s : State) (quarter code stall : Nat) (p0 p1 p2 p3 : Word) : (engRecord s quarter code stall p0 p1 p2 p3).pending = s.pending := rfl

/-! ### snapNow -/

@[simp] theorem snapNow_time (s : State) (fn : Nat) : (snapNow s fn).time = s.time := rfl
@[simp] theorem snapNow_ports (s : State) (fn : Nat) : (snapNow s fn).ports = s.ports := rfl
@[simp] theorem snapNow_fab (s : State) (fn : Nat) : (snapNow s fn).fab = s.fab := rfl
@[simp] theorem snapNow_regs (s : State) (fn : Nat) : (snapNow s fn).regs = s.regs := rfl
@[simp] theorem snapNow_maps (s : State) (fn : Nat) : (snapNow s fn).maps = s.maps := rfl
@[simp] theorem snapNow_stalls (s : State) (fn : Nat) : (snapNow s fn).stalls = s.stalls := rfl
@[simp] theorem snapNow_home (s : State) (fn : Nat) : (snapNow s fn).home = s.home := rfl
@[simp] theorem snapNow_tier (s : State) (fn : Nat) : (snapNow s fn).tier = s.tier := rfl
@[simp] theorem snapNow_ecx (s : State) (fn : Nat) : (snapNow s fn).ecx = s.ecx := rfl
@[simp] theorem snapNow_eng (s : State) (fn : Nat) : (snapNow s fn).eng = s.eng := rfl
@[simp] theorem snapNow_idx (s : State) (fn : Nat) : (snapNow s fn).idx = s.idx := rfl
@[simp] theorem snapNow_sw (s : State) (fn : Nat) : (snapNow s fn).sw = s.sw := rfl
@[simp] theorem snapNow_qps (s : State) (fn : Nat) : (snapNow s fn).qps = s.qps := rfl
@[simp] theorem snapNow_mb (s : State) (fn : Nat) : (snapNow s fn).mb = s.mb := rfl
@[simp] theorem snapNow_dom (s : State) (fn : Nat) : (snapNow s fn).dom = s.dom := rfl
@[simp] theorem snapNow_rst (s : State) (fn : Nat) : (snapNow s fn).rst = s.rst := rfl
@[simp] theorem snapNow_sec (s : State) (fn : Nat) : (snapNow s fn).sec = s.sec := rfl
@[simp] theorem snapNow_led (s : State) (fn : Nat) : (snapNow s fn).led = s.led := rfl
@[simp] theorem snapNow_pwr (s : State) (fn : Nat) : (snapNow s fn).pwr = s.pwr := rfl
@[simp] theorem snapNow_pkg (s : State) (fn : Nat) : (snapNow s fn).pkg = s.pkg := rfl
@[simp] theorem snapNow_free (s : State) (fn : Nat) : (snapNow s fn).free = s.free := rfl
@[simp] theorem snapNow_pending (s : State) (fn : Nat) : (snapNow s fn).pending = s.pending := rfl

/-! ### addFrame -/

@[simp] theorem addFrame_time (s : State) (q set a way : Nat) : (addFrame s q set a way).time = s.time := rfl
@[simp] theorem addFrame_funcs (s : State) (q set a way : Nat) : (addFrame s q set a way).funcs = s.funcs := rfl
@[simp] theorem addFrame_ports (s : State) (q set a way : Nat) : (addFrame s q set a way).ports = s.ports := rfl
@[simp] theorem addFrame_fab (s : State) (q set a way : Nat) : (addFrame s q set a way).fab = s.fab := rfl
@[simp] theorem addFrame_regs (s : State) (q set a way : Nat) : (addFrame s q set a way).regs = s.regs := rfl
@[simp] theorem addFrame_maps (s : State) (q set a way : Nat) : (addFrame s q set a way).maps = s.maps := rfl
@[simp] theorem addFrame_stalls (s : State) (q set a way : Nat) : (addFrame s q set a way).stalls = s.stalls := rfl
@[simp] theorem addFrame_home (s : State) (q set a way : Nat) : (addFrame s q set a way).home = s.home := rfl
@[simp] theorem addFrame_ecx (s : State) (q set a way : Nat) : (addFrame s q set a way).ecx = s.ecx := rfl
@[simp] theorem addFrame_eng (s : State) (q set a way : Nat) : (addFrame s q set a way).eng = s.eng := rfl
@[simp] theorem addFrame_idx (s : State) (q set a way : Nat) : (addFrame s q set a way).idx = s.idx := rfl
@[simp] theorem addFrame_sw (s : State) (q set a way : Nat) : (addFrame s q set a way).sw = s.sw := rfl
@[simp] theorem addFrame_qps (s : State) (q set a way : Nat) : (addFrame s q set a way).qps = s.qps := rfl
@[simp] theorem addFrame_mb (s : State) (q set a way : Nat) : (addFrame s q set a way).mb = s.mb := rfl
@[simp] theorem addFrame_dom (s : State) (q set a way : Nat) : (addFrame s q set a way).dom = s.dom := rfl
@[simp] theorem addFrame_rst (s : State) (q set a way : Nat) : (addFrame s q set a way).rst = s.rst := rfl
@[simp] theorem addFrame_sec (s : State) (q set a way : Nat) : (addFrame s q set a way).sec = s.sec := rfl
@[simp] theorem addFrame_led (s : State) (q set a way : Nat) : (addFrame s q set a way).led = s.led := rfl
@[simp] theorem addFrame_pwr (s : State) (q set a way : Nat) : (addFrame s q set a way).pwr = s.pwr := rfl
@[simp] theorem addFrame_pkg (s : State) (q set a way : Nat) : (addFrame s q set a way).pkg = s.pkg := rfl
@[simp] theorem addFrame_free (s : State) (q set a way : Nat) : (addFrame s q set a way).free = s.free := rfl
@[simp] theorem addFrame_pending (s : State) (q set a way : Nat) : (addFrame s q set a way).pending = s.pending := rfl

/-! ### dropChain -/

@[simp] theorem dropChain_time (s : State) (g : Region) : (dropChain s g).time = s.time := rfl
@[simp] theorem dropChain_funcs (s : State) (g : Region) : (dropChain s g).funcs = s.funcs := rfl
@[simp] theorem dropChain_ports (s : State) (g : Region) : (dropChain s g).ports = s.ports := rfl
@[simp] theorem dropChain_fab (s : State) (g : Region) : (dropChain s g).fab = s.fab := rfl
@[simp] theorem dropChain_maps (s : State) (g : Region) : (dropChain s g).maps = s.maps := rfl
@[simp] theorem dropChain_stalls (s : State) (g : Region) : (dropChain s g).stalls = s.stalls := rfl
@[simp] theorem dropChain_home (s : State) (g : Region) : (dropChain s g).home = s.home := rfl
@[simp] theorem dropChain_tier (s : State) (g : Region) : (dropChain s g).tier = s.tier := rfl
@[simp] theorem dropChain_ecx (s : State) (g : Region) : (dropChain s g).ecx = s.ecx := rfl
@[simp] theorem dropChain_eng (s : State) (g : Region) : (dropChain s g).eng = s.eng := rfl
@[simp] theorem dropChain_idx (s : State) (g : Region) : (dropChain s g).idx = s.idx := rfl
@[simp] theorem dropChain_sw (s : State) (g : Region) : (dropChain s g).sw = s.sw := rfl
@[simp] theorem dropChain_qps (s : State) (g : Region) : (dropChain s g).qps = s.qps := rfl
@[simp] theorem dropChain_mb (s : State) (g : Region) : (dropChain s g).mb = s.mb := rfl
@[simp] theorem dropChain_dom (s : State) (g : Region) : (dropChain s g).dom = s.dom := rfl
@[simp] theorem dropChain_rst (s : State) (g : Region) : (dropChain s g).rst = s.rst := rfl
@[simp] theorem dropChain_sec (s : State) (g : Region) : (dropChain s g).sec = s.sec := rfl
@[simp] theorem dropChain_led (s : State) (g : Region) : (dropChain s g).led = s.led := rfl
@[simp] theorem dropChain_pwr (s : State) (g : Region) : (dropChain s g).pwr = s.pwr := rfl
@[simp] theorem dropChain_pkg (s : State) (g : Region) : (dropChain s g).pkg = s.pkg := rfl
@[simp] theorem dropChain_free (s : State) (g : Region) : (dropChain s g).free = s.free := rfl
@[simp] theorem dropChain_pending (s : State) (g : Region) : (dropChain s g).pending = s.pending := rfl

/-! ### popResponse -/

@[simp] theorem popResponse_time (s : State) (fn : Nat) : (popResponse s fn).time = s.time := rfl
@[simp] theorem popResponse_ports (s : State) (fn : Nat) : (popResponse s fn).ports = s.ports := rfl
@[simp] theorem popResponse_fab (s : State) (fn : Nat) : (popResponse s fn).fab = s.fab := rfl
@[simp] theorem popResponse_regs (s : State) (fn : Nat) : (popResponse s fn).regs = s.regs := rfl
@[simp] theorem popResponse_maps (s : State) (fn : Nat) : (popResponse s fn).maps = s.maps := rfl
@[simp] theorem popResponse_stalls (s : State) (fn : Nat) : (popResponse s fn).stalls = s.stalls := rfl
@[simp] theorem popResponse_home (s : State) (fn : Nat) : (popResponse s fn).home = s.home := rfl
@[simp] theorem popResponse_tier (s : State) (fn : Nat) : (popResponse s fn).tier = s.tier := rfl
@[simp] theorem popResponse_ecx (s : State) (fn : Nat) : (popResponse s fn).ecx = s.ecx := rfl
@[simp] theorem popResponse_eng (s : State) (fn : Nat) : (popResponse s fn).eng = s.eng := rfl
@[simp] theorem popResponse_idx (s : State) (fn : Nat) : (popResponse s fn).idx = s.idx := rfl
@[simp] theorem popResponse_sw (s : State) (fn : Nat) : (popResponse s fn).sw = s.sw := rfl
@[simp] theorem popResponse_qps (s : State) (fn : Nat) : (popResponse s fn).qps = s.qps := rfl
@[simp] theorem popResponse_mb (s : State) (fn : Nat) : (popResponse s fn).mb = s.mb := rfl
@[simp] theorem popResponse_dom (s : State) (fn : Nat) : (popResponse s fn).dom = s.dom := rfl
@[simp] theorem popResponse_rst (s : State) (fn : Nat) : (popResponse s fn).rst = s.rst := rfl
@[simp] theorem popResponse_sec (s : State) (fn : Nat) : (popResponse s fn).sec = s.sec := rfl
@[simp] theorem popResponse_led (s : State) (fn : Nat) : (popResponse s fn).led = s.led := rfl
@[simp] theorem popResponse_pwr (s : State) (fn : Nat) : (popResponse s fn).pwr = s.pwr := rfl
@[simp] theorem popResponse_pkg (s : State) (fn : Nat) : (popResponse s fn).pkg = s.pkg := rfl
@[simp] theorem popResponse_free (s : State) (fn : Nat) : (popResponse s fn).free = s.free := rfl
@[simp] theorem popResponse_pending (s : State) (fn : Nat) : (popResponse s fn).pending = s.pending := rfl

/-! ### touchRec and updRegion: a region record and the record cache that it goes through -/

@[simp] theorem touchRec_time (s : State) (h : Nat) (c : Bool) : (touchRec s h c).time = s.time := by unfold touchRec; split <;> rfl
@[simp] theorem touchRec_funcs (s : State) (h : Nat) (c : Bool) : (touchRec s h c).funcs = s.funcs := by unfold touchRec; split <;> rfl
@[simp] theorem touchRec_ports (s : State) (h : Nat) (c : Bool) : (touchRec s h c).ports = s.ports := by unfold touchRec; split <;> rfl
@[simp] theorem touchRec_fab (s : State) (h : Nat) (c : Bool) : (touchRec s h c).fab = s.fab := by unfold touchRec; split <;> rfl
@[simp] theorem touchRec_regs (s : State) (h : Nat) (c : Bool) : (touchRec s h c).regs = s.regs := by unfold touchRec; split <;> rfl
@[simp] theorem touchRec_maps (s : State) (h : Nat) (c : Bool) : (touchRec s h c).maps = s.maps := by unfold touchRec; split <;> rfl
@[simp] theorem touchRec_stalls (s : State) (h : Nat) (c : Bool) : (touchRec s h c).stalls = s.stalls := by unfold touchRec; split <;> rfl
@[simp] theorem touchRec_home (s : State) (h : Nat) (c : Bool) : (touchRec s h c).home = s.home := by unfold touchRec; split <;> rfl
@[simp] theorem touchRec_ecx (s : State) (h : Nat) (c : Bool) : (touchRec s h c).ecx = s.ecx := by unfold touchRec; split <;> rfl
@[simp] theorem touchRec_eng (s : State) (h : Nat) (c : Bool) : (touchRec s h c).eng = s.eng := by unfold touchRec; split <;> rfl
@[simp] theorem touchRec_idx (s : State) (h : Nat) (c : Bool) : (touchRec s h c).idx = s.idx := by unfold touchRec; split <;> rfl
@[simp] theorem touchRec_sw (s : State) (h : Nat) (c : Bool) : (touchRec s h c).sw = s.sw := by unfold touchRec; split <;> rfl
@[simp] theorem touchRec_qps (s : State) (h : Nat) (c : Bool) : (touchRec s h c).qps = s.qps := by unfold touchRec; split <;> rfl
@[simp] theorem touchRec_mb (s : State) (h : Nat) (c : Bool) : (touchRec s h c).mb = s.mb := by unfold touchRec; split <;> rfl
@[simp] theorem touchRec_dom (s : State) (h : Nat) (c : Bool) : (touchRec s h c).dom = s.dom := by unfold touchRec; split <;> rfl
@[simp] theorem touchRec_rst (s : State) (h : Nat) (c : Bool) : (touchRec s h c).rst = s.rst := by unfold touchRec; split <;> rfl
@[simp] theorem touchRec_sec (s : State) (h : Nat) (c : Bool) : (touchRec s h c).sec = s.sec := by unfold touchRec; split <;> rfl
@[simp] theorem touchRec_led (s : State) (h : Nat) (c : Bool) : (touchRec s h c).led = s.led := by unfold touchRec; split <;> rfl
@[simp] theorem touchRec_pwr (s : State) (h : Nat) (c : Bool) : (touchRec s h c).pwr = s.pwr := by unfold touchRec; split <;> rfl
@[simp] theorem touchRec_pkg (s : State) (h : Nat) (c : Bool) : (touchRec s h c).pkg = s.pkg := by unfold touchRec; split <;> rfl
@[simp] theorem touchRec_free (s : State) (h : Nat) (c : Bool) : (touchRec s h c).free = s.free := by unfold touchRec; split <;> rfl
@[simp] theorem touchRec_pending (s : State) (h : Nat) (c : Bool) : (touchRec s h c).pending = s.pending := by unfold touchRec; split <;> rfl
@[simp] theorem touchRec_tier_mem (s : State) (h : Nat) (c : Bool) : (touchRec s h c).tier.mem = s.tier.mem := by unfold touchRec; split <;> rfl
@[simp] theorem touchRec_tier_split (s : State) (h : Nat) (c : Bool) : (touchRec s h c).tier.split = s.tier.split := by unfold touchRec; split <;> rfl
@[simp] theorem touchRec_tier_lineCache (s : State) (h : Nat) (c : Bool) : (touchRec s h c).tier.lineCache = s.tier.lineCache := by unfold touchRec; split <;> rfl
@[simp] theorem touchRec_tier_frames (s : State) (h : Nat) (c : Bool) : (touchRec s h c).tier.frames = s.tier.frames := by unfold touchRec; split <;> rfl
@[simp] theorem touchRec_tier_cxl (s : State) (h : Nat) (c : Bool) : (touchRec s h c).tier.cxl = s.tier.cxl := by unfold touchRec; split <;> rfl
@[simp] theorem touchRec_tier_hbmOps (s : State) (h : Nat) (c : Bool) : (touchRec s h c).tier.hbmOps = s.tier.hbmOps := by unfold touchRec; split <;> rfl
@[simp] theorem touchRec_tier_rowErrors (s : State) (h : Nat) (c : Bool) : (touchRec s h c).tier.rowErrors = s.tier.rowErrors := by unfold touchRec; split <;> rfl
@[simp] theorem touchRec_tier_repaired (s : State) (h : Nat) (c : Bool) : (touchRec s h c).tier.repaired = s.tier.repaired := by unfold touchRec; split <;> rfl
@[simp] theorem touchRec_tier_badBanks (s : State) (h : Nat) (c : Bool) : (touchRec s h c).tier.badBanks = s.tier.badBanks := by unfold touchRec; split <;> rfl
@[simp] theorem touchRec_tier_drains (s : State) (h : Nat) (c : Bool) : (touchRec s h c).tier.drains = s.tier.drains := by unfold touchRec; split <;> rfl
@[simp] theorem touchRec_tier_retired (s : State) (h : Nat) (c : Bool) : (touchRec s h c).tier.retired = s.tier.retired := by unfold touchRec; split <;> rfl
@[simp] theorem touchRec_tier_held (s : State) (h : Nat) (c : Bool) : (touchRec s h c).tier.held = s.tier.held := by unfold touchRec; split <;> rfl
@[simp] theorem updRegion_time (s : State) (h : Nat) (f : Region → Region) : (updRegion s h f).time = s.time := touchRec_time _ _ _
@[simp] theorem updRegion_funcs (s : State) (h : Nat) (f : Region → Region) : (updRegion s h f).funcs = s.funcs := touchRec_funcs _ _ _
@[simp] theorem updRegion_ports (s : State) (h : Nat) (f : Region → Region) : (updRegion s h f).ports = s.ports := touchRec_ports _ _ _
@[simp] theorem updRegion_fab (s : State) (h : Nat) (f : Region → Region) : (updRegion s h f).fab = s.fab := touchRec_fab _ _ _
@[simp] theorem updRegion_regs (s : State) (h : Nat) (f : Region → Region) :
    (updRegion s h f).regs = { s.regs with recs := Tab.adjust s.regs.recs h f } := touchRec_regs _ _ _
@[simp] theorem updRegion_maps (s : State) (h : Nat) (f : Region → Region) : (updRegion s h f).maps = s.maps := touchRec_maps _ _ _
@[simp] theorem updRegion_stalls (s : State) (h : Nat) (f : Region → Region) : (updRegion s h f).stalls = s.stalls := touchRec_stalls _ _ _
@[simp] theorem updRegion_home (s : State) (h : Nat) (f : Region → Region) : (updRegion s h f).home = s.home := touchRec_home _ _ _
@[simp] theorem updRegion_ecx (s : State) (h : Nat) (f : Region → Region) : (updRegion s h f).ecx = s.ecx := touchRec_ecx _ _ _
@[simp] theorem updRegion_eng (s : State) (h : Nat) (f : Region → Region) : (updRegion s h f).eng = s.eng := touchRec_eng _ _ _
@[simp] theorem updRegion_idx (s : State) (h : Nat) (f : Region → Region) : (updRegion s h f).idx = s.idx := touchRec_idx _ _ _
@[simp] theorem updRegion_sw (s : State) (h : Nat) (f : Region → Region) : (updRegion s h f).sw = s.sw := touchRec_sw _ _ _
@[simp] theorem updRegion_qps (s : State) (h : Nat) (f : Region → Region) : (updRegion s h f).qps = s.qps := touchRec_qps _ _ _
@[simp] theorem updRegion_mb (s : State) (h : Nat) (f : Region → Region) : (updRegion s h f).mb = s.mb := touchRec_mb _ _ _
@[simp] theorem updRegion_dom (s : State) (h : Nat) (f : Region → Region) : (updRegion s h f).dom = s.dom := touchRec_dom _ _ _
@[simp] theorem updRegion_rst (s : State) (h : Nat) (f : Region → Region) : (updRegion s h f).rst = s.rst := touchRec_rst _ _ _
@[simp] theorem updRegion_sec (s : State) (h : Nat) (f : Region → Region) : (updRegion s h f).sec = s.sec := touchRec_sec _ _ _
@[simp] theorem updRegion_led (s : State) (h : Nat) (f : Region → Region) : (updRegion s h f).led = s.led := touchRec_led _ _ _
@[simp] theorem updRegion_pwr (s : State) (h : Nat) (f : Region → Region) : (updRegion s h f).pwr = s.pwr := touchRec_pwr _ _ _
@[simp] theorem updRegion_pkg (s : State) (h : Nat) (f : Region → Region) : (updRegion s h f).pkg = s.pkg := touchRec_pkg _ _ _
@[simp] theorem updRegion_free (s : State) (h : Nat) (f : Region → Region) : (updRegion s h f).free = s.free := touchRec_free _ _ _
@[simp] theorem updRegion_pending (s : State) (h : Nat) (f : Region → Region) : (updRegion s h f).pending = s.pending := touchRec_pending _ _ _
@[simp] theorem updRegion_tier_mem (s : State) (h : Nat) (f : Region → Region) : (updRegion s h f).tier.mem = s.tier.mem :=
  touchRec_tier_mem _ _ _
@[simp] theorem updRegion_tier_split (s : State) (h : Nat) (f : Region → Region) : (updRegion s h f).tier.split = s.tier.split :=
  touchRec_tier_split _ _ _
@[simp] theorem updRegion_tier_lineCache (s : State) (h : Nat) (f : Region → Region) : (updRegion s h f).tier.lineCache = s.tier.lineCache :=
  touchRec_tier_lineCache _ _ _
@[simp] theorem updRegion_tier_frames (s : State) (h : Nat) (f : Region → Region) : (updRegion s h f).tier.frames = s.tier.frames :=
  touchRec_tier_frames _ _ _
@[simp] theorem updRegion_tier_cxl (s : State) (h : Nat) (f : Region → Region) : (updRegion s h f).tier.cxl = s.tier.cxl :=
  touchRec_tier_cxl _ _ _
@[simp] theorem updRegion_tier_hbmOps (s : State) (h : Nat) (f : Region → Region) : (updRegion s h f).tier.hbmOps = s.tier.hbmOps :=
  touchRec_tier_hbmOps _ _ _
@[simp] theorem updRegion_tier_rowErrors (s : State) (h : Nat) (f : Region → Region) : (updRegion s h f).tier.rowErrors = s.tier.rowErrors :=
  touchRec_tier_rowErrors _ _ _
@[simp] theorem updRegion_tier_repaired (s : State) (h : Nat) (f : Region → Region) : (updRegion s h f).tier.repaired = s.tier.repaired :=
  touchRec_tier_repaired _ _ _
@[simp] theorem updRegion_tier_badBanks (s : State) (h : Nat) (f : Region → Region) : (updRegion s h f).tier.badBanks = s.tier.badBanks :=
  touchRec_tier_badBanks _ _ _
@[simp] theorem updRegion_tier_drains (s : State) (h : Nat) (f : Region → Region) : (updRegion s h f).tier.drains = s.tier.drains :=
  touchRec_tier_drains _ _ _
@[simp] theorem updRegion_tier_retired (s : State) (h : Nat) (f : Region → Region) : (updRegion s h f).tier.retired = s.tier.retired :=
  touchRec_tier_retired _ _ _
@[simp] theorem updRegion_tier_held (s : State) (h : Nat) (f : Region → Region) : (updRegion s h f).tier.held = s.tier.held :=
  touchRec_tier_held _ _ _

end Sys2Proof.Machine
end

