-- ==== Sys2Proof/Laws/Tab.lean ====
section
/-! SUPPORT. What a sparse table gives after a write: the value written at its number, every other entry as it was. -/

namespace Sys2Proof.Machine

/-- A lookup goes past an entry of another number. -/
theorem Tab.get?_cons {α : Type} (e : Nat × α) (t : Tab α) (j : Nat) :
    Tab.get? (e :: t) j = if e.1 = j then some e.2 else Tab.get? t j := by
  unfold Tab.get?
  rw [List.find?_cons]
  by_cases h : e.1 = j
  · simp [h]
  · simp [h, beq_eq_false_iff_ne.mpr h]

/-- A lookup after a write. -/
@[simp] theorem Tab.get?_set {α : Type} (t : Tab α) (k : Nat) (x : α) (j : Nat) :
    Tab.get? (Tab.set t k x) j = if j = k then some x else Tab.get? t j := by
  have sym : ∀ (p q : Option α), (if k = j then p else q) = if j = k then p else q := fun p q => if_congr eq_comm rfl rfl
  induction t with
  | nil => rw [Tab.set, Tab.get?_cons, sym]
  | cons e t ih =>
    unfold Tab.set
    split
    · rw [Tab.get?_cons, Tab.get?_cons, ih]
      split
      · rw [if_neg (by omega)]
      · rfl
    · split
      · rw [Tab.get?_cons, Tab.get?_cons, sym]
        split
        · rfl
        · rw [if_neg (by omega)]
      · rw [Tab.get?_cons, sym]

/-- A lookup with a default after a write. -/
@[simp] theorem Tab.getD_set {α : Type} (t : Tab α) (k : Nat) (x : α) (j : Nat) (d : α) :
    Tab.getD (Tab.set t k x) j d = if j = k then x else Tab.getD t j d := by
  unfold Tab.getD
  rw [Tab.get?_set]
  split <;> rfl

/-- A lookup after an entry has been changed. -/
@[simp] theorem Tab.get?_upd {α : Type} (t : Tab α) (k : Nat) (d : α) (f : α → α) (j : Nat) :
    Tab.get? (Tab.upd t k d f) j = if j = k then some (f (Tab.getD t k d)) else Tab.get? t j :=
  Tab.get?_set t k _ j

/-- A lookup with a default after an entry has been changed. -/
@[simp] theorem Tab.getD_upd {α : Type} (t : Tab α) (k : Nat) (d : α) (f : α → α) (j : Nat) (e : α) :
    Tab.getD (Tab.upd t k d f) j e = if j = k then f (Tab.getD t k d) else Tab.getD t j e :=
  Tab.getD_set t k _ j e

/-- A lookup after an entry has been taken out. -/
@[simp] theorem Tab.get?_erase {α : Type} (t : Tab α) (k j : Nat) :
    Tab.get? (Tab.erase t k) j = if j = k then none else Tab.get? t j := by
  induction t with
  | nil => split <;> rfl
  | cons e t ih =>
    unfold Tab.erase at ih ⊢
    rw [List.filter_cons]
    split
    · rename_i hk
      have hk : e.1 ≠ k := by simpa using hk
      rw [Tab.get?_cons, Tab.get?_cons, ih]
      split
      · rw [if_neg (by omega)]
      · rfl
    · rename_i hk
      have hk : e.1 = k := by simpa using hk
      rw [ih, Tab.get?_cons]
      split
      · rfl
      · rw [if_neg (by omega)]

end Sys2Proof.Machine
end

