-- ==== Sys2Proof/Tests/Slice0.lean ====
section
/-! SUPPORT. The model's own tests: ill-formed commands that WellFormed refuses, small steps with results written out from the
manual, and for every statement that has hypotheses a concrete state and operands that meet them (the theorems meets_…). -/

namespace Sys2Proof.Tests

open Sys2Proof Sys2Proof.Machine

set_option maxRecDepth 20000

/-! ### States of the tests -/

/-- Port 0 is UP; its partner is endpoint 0x100. -/
def linked : State := { State.reset with ports := [(0, { st := .up, enabled := true, epid := 0x100 })] }

/-- A region of one 2 MiB unit in near memory of quarter 0, OWNED, with key 7 of stall 1 for reads and writes. -/
def region5 : Region :=
  { handle := 5, comp := 1, valid := true, size4k := 511, place := [{ count := 1 }], slotA := { state := 1, stall := 1, rights := 7, key := 7 } }

/-- The region is in the map, and stall 1 is bound to endpoint 0x100. -/
def served : State := { linked with
  regs := { recs := [(5, region5)] }
  maps := { cur := { epoch := 1, handles := [(5, { comp := 1 })] } }
  stalls := [(1, { comp := some 1, binds := [0x100] })] }

/-- The endpoint's request for line 0 of the region. -/
def req5 : ReqHdr := { src := 0x100, tag := 1, stall := 1, handle := 5, mepoch := 1, len := 1, key := 7 }

/-- The state of one port. -/
def port0 (ps : PortS) : State := { State.reset with ports := [(0, ps)] }

/-! ### WellFormed refuses an ill-formed command, one for each check -/

theorem test_wf_good : Instr.wf (.load 0 req5 []) = true := by decide
theorem test_wf_port : Instr.wf (.load 256 req5 []) = false := by decide
theorem test_wf_word0 : Instr.wf (.store 0 { req5 with src := 0x10000 } []) = false := by decide
theorem test_wf_tag : Instr.wf (.store 0 { req5 with tag := 0x10000 } []) = false := by decide
theorem test_wf_stall : Instr.wf (.store 0 { req5 with stall := 4096 } []) = false := by decide
theorem test_wf_service : Instr.wf (.store 0 { req5 with svc := 8 } []) = false := by decide
theorem test_wf_class : Instr.wf (.store 0 { req5 with tc := 4 } []) = false := by decide
theorem test_wf_version : Instr.wf (.store 0 { req5 with ver := 16 } []) = false := by decide
theorem test_wf_handle : Instr.wf (.store 0 { req5 with handle := 2 ^ 24 } []) = false := by decide
theorem test_wf_mepoch : Instr.wf (.store 0 { req5 with mepoch := 256 } []) = false := by decide
theorem test_wf_request_qp : Instr.wf (.store 0 { req5 with qp := 2 ^ 16 } []) = false := by decide
theorem test_wf_request_len : Instr.wf (.store 0 { req5 with len := 256 } []) = false := by decide
theorem test_wf_request_reserved : Instr.wf (.store 0 { req5 with rsv := 32 } []) = false := by decide
theorem test_wf_ownep : Instr.wf (.store 0 { req5 with ownep := 2 ^ 16 } []) = false := by decide
theorem test_wf_offset : Instr.wf (.store 0 { req5 with offset := 2 ^ 48 } []) = false := by decide
theorem test_wf_units : Instr.wf (.store 0 req5 [0]) = false := by decide
theorem test_wf_response : Instr.wf (.snoopResponse 0 { status := 256 } []) = false := by decide
theorem test_wf_response_opc : Instr.wf (.forwardedResponse 0 { opc := 256 } []) = false := by decide
theorem test_wf_response_load : Instr.wf (.forwardedResponse 0 { load := 256 } []) = false := by decide
theorem test_wf_response_len : Instr.wf (.gatewayXferResponse 0 { len := 256 } []) = false := by decide
theorem test_wf_response_retry : Instr.wf (.forwardedResponse 0 { retry := 256 } []) = false := by decide
theorem test_wf_response_reserved : Instr.wf (.forwardedResponse 0 { rsv := 2 ^ 16 } []) = false := by decide
theorem test_wf_origid : Instr.wf (.forwardedResponse 0 { origid := 2 ^ 16 } []) = false := by decide
theorem test_wf_payload : Instr.wf (.parityDeltaResponse 0 { len := 1 } []) = false := by decide
theorem test_wf_frame : Instr.wf (.linkFrame 0 { keyid := 4 } .good {}) = false := by decide
theorem test_wf_frame_seq : Instr.wf (.linkFrame 0 { seq := 2 ^ 16 } .good {}) = false := by decide
theorem test_wf_frame_credit : Instr.wf (.linkFrame 0 { credit := 2 ^ 14 } .good {}) = false := by decide
theorem test_wf_frame_message : Instr.wf (.linkFrame 0 {} .good { kind := 4 }) = false := by decide
theorem test_wf_management : Instr.wf (.window 0 { xid := 2 ^ 24 } []) = false := by decide
theorem test_wf_mstat : Instr.wf (.hello 0 { mstat := 256 } []) = false := by decide
theorem test_wf_part : Instr.wf (.sessInit 0 { part := 16 } []) = false := by decide
theorem test_wf_lane : Instr.wf (.spareReq 0 {} 8 0) = false := by decide
theorem test_wf_frame_number : Instr.wf (.spareAck 0 {} 0 (2 ^ 16)) = false := by decide
theorem test_wf_engine : Instr.wf (.contrib 0 { block := 2 ^ 36 } []) = false := by decide
theorem test_wf_engine_jobid : Instr.wf (.query 0 { jobid := 2 ^ 32 } []) = false := by decide
theorem test_wf_engine_reserved : Instr.wf (.result 0 { rsv := 4096 } []) = false := by decide
theorem test_wf_engine_comp : Instr.wf (.partialList 0 { comp := 2 ^ 20 } []) = false := by decide
theorem test_wf_cxl_access : Instr.wf (.cxlmemAccess 0 5 2 0 64 none) = false := by decide
theorem test_wf_cxl_data : Instr.wf (.cxlmemAccess 0 5 0 0 64 (some [])) = false := by decide
theorem test_wf_cxl_length : Instr.wf (.cxlmemAccess 0 5 0 0 128 none) = false := by decide
theorem test_wf_issuer : Instr.wf (.quotaSet (.vf 0) {}) = false := by decide
theorem test_wf_issuer_port : Instr.wf (.quotaSet (.fabric 256 0 0) {}) = false := by decide
theorem test_wf_entry : Instr.wf (.quotaSet .pf { params := List.replicate 12 0 }) = false := by decide
theorem test_wf_entry_reserved : Instr.wf (.quotaSet .pf { rsv := 16 }) = false := by decide
theorem test_wf_entry_principal : Instr.wf (.quotaSet .pf { principal := 2 ^ 20 }) = false := by decide
theorem test_wf_function : Instr.wf (.snap 4097) = false := by decide
theorem test_wf_doorbell : Instr.wf (.sqtailDoorbell 0 4096 0) = false := by decide
theorem test_wf_window_register : Instr.wf (.lwSel 0 4 8 0) = false := by decide
theorem test_wf_register_size : Instr.wf (.registerWrite 0 0x400 2 0) = false := by decide
theorem test_wf_register_alignment : Instr.wf (.registerWrite 0 0x404 8 0) = false := by decide
theorem test_msix_masked_pends : let f := ({} : FuncS).signal 2 1 3; f.msixPending = [3] ∧ f.irqs = []
    ∧ (f.msixWrite 2 1 56 (0, ~~~ 0)).irqs = [(3, 2, 1)] ∧ (f.msixWrite 2 1 56 (0, ~~~ 0)).msixPending = [] := by decide
theorem test_wf_register_offset : Instr.wf (.registerWrite 0 0x22000 8 0) = false := by decide
theorem test_wf_pcap : Instr.wf (.mfrPcap 65536) = false := by decide
theorem test_wf_i3c : Instr.wf (.setdasa 0x30 128) = false := by decide
theorem test_wf_entdaa : Instr.wf (.entdaa 128) = false := by decide
theorem test_wf_straps : Instr.wf (.startupPhaseEnd { addr := 16 }) = false := by decide
theorem test_wf_die : Instr.wf (.thermalAlarm (.die 8) 0) = false := by decide
theorem test_wf_stack : Instr.wf (.thermalTrip (.stack 20) 0) = false := by decide
theorem test_wf_lane_fault : Instr.wf (.laneFault 0 0 4) = false := by decide
theorem test_wf_link_port : Instr.wf (.linkDown 256) = false := by decide
theorem test_wf_cxl_port : Instr.wf (.cxlPortDown 16) = false := by decide
theorem test_wf_tray_answer : Instr.wf (.trayReadCompletion 0 0 (.data [])) = false := by decide
theorem test_wf_stack_row : Instr.wf (.hbmCorrectableError 0 5 0 0) = false := by decide
theorem test_wf_channel : Instr.wf (.pcDrainDone 0 0 64) = false := by decide
theorem test_wf_engine_index : Instr.wf (.portionClose 0 .expander 9 {}) = false := by decide
theorem test_wf_hang_unit : Instr.wf (.hangDetected (.hbmController 0 5)) = false := by decide
theorem test_wf_quarter : Instr.wf (.watchdogExpiry 4) = false := by decide
theorem test_wf_core : Instr.wf (.coreHealthFail 0 8) = false := by decide
theorem test_wf_reset_scope : Instr.wf (.resetEnd (.quarter 4) []) = false := by decide
theorem test_wf_timed_request : Instr.wf (.aged 0 (2 ^ 16) 0) = false := by decide
theorem test_wf_snoop : Instr.wf (.snoopTimeout 0 0 (2 ^ 16)) = false := by decide
theorem test_wf_region : Instr.wf (.offerLapsed (2 ^ 24)) = false := by decide
theorem test_wf_slot : Instr.wf (.keyDrained 5 2) = false := by decide
theorem test_wf_table_slot : Instr.wf (.tableFreed 1024) = false := by decide
theorem test_wf_stream : Instr.wf (.refusingStateTimeout 0 0 0 4096 0 0) = false := by decide
theorem test_wf_queue_pair : Instr.wf (.jobAdmission (2 ^ 16)) = false := by decide
theorem test_wf_job : Instr.wf (.jobTimeout (2 ^ 32)) = false := by decide
theorem test_wf_part_number : Instr.wf (.compactSwitch 0 4) = false := by decide
theorem test_wf_composition : Instr.wf (.memoryKeyUnitDone (2 ^ 20)) = false := by decide
theorem test_wf_journal_area : Instr.wf (.journalWrite 3) = false := by decide
theorem test_wf_host_reply : Instr.wf (.hostDieReply (2 ^ 24) 0 []) = false := by decide
theorem test_wf_millivolts : Instr.wf (.vinWarning (2 ^ 17)) = false := by decide
theorem test_wf_window_slots : Instr.wf (.ledgerWindowRead 0 [512]) = false := by decide

/-! ### No row of the table has bits -/

theorem test_decode_has_no_rows : decodeTableWord 32 0 = none := by decide
theorem test_fetch_changes_nothing : State.reset.withFetchWord 32 0 = State.reset := by decide

/-! ### The machine, memory and registers: states that meet the hypotheses of the statements -/

theorem meets_StepRunsTheFrontCommand : ({ State.reset with pending := [.snap 0] } : State).pending = [.snap 0] := rfl
theorem meets_IdleStepPassesOneSclk : State.reset.pending = [] ∧ State.reset.time.phase < 1399
    ∧ 1399 ≤ ({ State.reset with time := { phase := 1399 } } : State).time.phase := by decide
theorem meets_StepKeepsInvariant : Machine.Inv State.reset ∧ ∃ t, step State.reset = .next t :=
  ⟨⟨by decide, by decide⟩, _, rfl⟩
theorem meets_BellAdvancesAtStrikesAlone : ({ State.reset with pkg := { powered := true } } : State).pkg.powered = true ∧ State.reset.pkg.powered = false
    ∧ (∃ t, exec (.snap 0) State.reset = .next t) ∧ Instr.snap 0 ≠ .bellStrike
    ∧ startsBell (.snap 0) = false ∧ losesPower (.snap 0) = false ∧ (∃ t, exec (.startupPhaseEnd {}) State.reset = .next t)
    ∧ startsBell (.startupPhaseEnd {}) = true ∧ State.reset.pkg.cold = false :=
  ⟨by decide, by decide, ⟨_, rfl⟩, by decide, by decide, by decide, ⟨_, rfl⟩, by decide, by decide⟩
theorem meets_FuseMinimumNeverFalls : (∃ t, exec (.snap 0) State.reset = .next t)
    ∧ (let s : State := { State.reset with sec := { roll := some { writing := true }, staged := some {} } };
      s.sec.roll = some { writing := true } ∧ s.sec.staged = some {}) := ⟨⟨_, rfl⟩, by decide⟩
theorem meets_BytesWrittenAreTheBytesRead : Memory.wf [] = true ∧ ((3 : Nat) < 4 ∨ 4 + [1, 2].length ≤ 3) ∧ ((6 : Nat) < 4 ∨ 4 + [1, 2].length ≤ 6) := by
  decide
theorem meets_MemoryIsWhatItReads : Memory.wf [] = true ∧ ∀ a, Memory.get [] a = Memory.get [] a := ⟨by decide, fun _ => rfl⟩
theorem meets_CommandsThatStoreNothing : storesNothing (.snap 0) = true ∧ ∃ t, exec (.snap 0) State.reset = .next t := ⟨by decide, _, rfl⟩
theorem meets_MailboxRegisters : mbOut State.reset 128 < 16 ∧ 128 ≤ 128 ∧ (1 : Nat) ≠ 0 := by decide
theorem meets_PlainRegistersTakeWrites : State.reset.pkg.recovery = false ∧ 0x410 / 8 * 8 = 0x410 + 8 * 0 ∧ 0x47C / 8 * 8 = 0x410 + 8 * 13
    ∧ 0x400 / 8 * 8 = 0x400 ∧ 0x408 / 8 * 8 = 0x408 ∧ bit (writeBits 0x408 8 2).1 1 = true ∧ bit (writeBits 0x408 8 1).1 1 = false
    ∧ 0x100 / 8 * 8 = 0x100 ∧ bit (writeBits 0x100 8 0x2000000000).1 37 = true ∧ bit (writeBits 0x100 8 0).1 37 = false
    ∧ (0x3F8 / 8 * 8 < 0x400 ∨ 0x480 ≤ 0x3F8 / 8 * 8) ∧ 0x3F8 / 8 * 8 ≠ 0x100 ∧ (0x480 / 8 * 8 < 0x400 ∨ 0x480 ≤ 0x480 / 8 * 8)
    ∧ 0x20000 / 8 * 8 < 0x20000 + 16 * msixVectors 0 ∧ 0x200F8 / 8 * 8 < 0x20000 + 16 * msixVectors 1
    ∧ 0x20000 + 16 * msixVectors 1 ≤ 0x20100 / 8 * 8 := by decide
theorem meets_RecoveryTakesAnImage :
    (∀ n ∈ [0, 5], let s : State := { State.reset with pkg := { recovery := true, rcvState := n } };
      s.pkg.recovery = true ∧ bit 1 0 = true ∧ (s.pkg.rcvState = 0 ∨ s.pkg.rcvState = 5))
    ∧ 0x408 / 8 * 8 = 0x408 ∧ 0x410 / 8 * 8 = 0x410 ∧ State.reset.pkg.recovery = false ∧ bit 0 0 = false
    ∧ (let s : State := { State.reset with pkg := { recovery := true, rcvState := 4 } }; 1 ≤ s.pkg.rcvState ∧ s.pkg.rcvState ≤ 4) := by decide
theorem meets_PinsAndManagementBuses : let s : State := { State.reset with pkg := { phase := 3 } }
    2 < s.pkg.phase ∧ s.pkg.i3cDynamic = none ∧ (127 : Nat) < 128 ∧ 0x30 = 0x30 + s.pkg.addr ∧ 0x31 ≠ 0x30 + s.pkg.addr := by decide

/-- TAI is valid and no source is lost. -/
def timed : State := { State.reset with time := { valid := true } }

theorem meets_TimeFollowsItsSources : 1000 ≤ 1000 ∧ 500000000 ≤ 500000000 ∧ 999900000 ≤ 999900000 ∧ 1000100000 ≤ 1000100000 ∧ timed.time.valid = true
    ∧ timed.time.holdover = false ∧ State.reset.time.valid = false ∧ 999 < 1000 ∧ 500000000 < 500000001
    ∧ (({ State.reset with time := { ppsOk := true } } : State).time.ppsOk = true ∧ 999899999 < 999900000 ∧ 1000100000 < 1000100001)
    ∧ ((1000000000#64).toNat : Int) - ((taiNow timed.time).toNat : Int) ≤ 1000000000
    ∧ 1000000000 < ((1000000001#64).toNat : Int) - ((taiNow timed.time).toNat : Int) ∧ timed.time.ppsOk = false := by decide
theorem meets_PowerRegistersFollowTheInput : 1000 ≤ 1000 ∧ 3300 ≤ 3300 ∧ 999 < 1000 ∧ 3300 < 3301 ∧ bellN State.reset % 1000 = 0
    ∧ State.reset.pwr.vinOut = (!(decide (42000 ≤ 42000) && decide (42000 ≤ 58000)))
    ∧ (let s : State := { State.reset with pwr := { overBells := 1000 } }; 1000 ≤ s.pwr.overBells ∧ s.pwr.statusInput.getLsbD 0 = false)
    ∧ State.reset.pwr.overBells < 1000 ∧ ({ State.reset with pwr := { statusInput := 1 } } : State).pwr.statusInput.getLsbD 0 = true := by decide
theorem meets_ThermalAlarmAndClear : limitOf (.die 0) 100 ≤ 1600 ∧ ThermalPlace.die 0 ∉ State.reset.pwr.alarm ∧ 1520 ≤ limitOf (.die 0) 95
    ∧ ThermalPlace.die 0 ∈ ({ State.reset with pwr := { alarm := [.die 0] } } : State).pwr.alarm := by decide

/-- One record waits for an area of the journal. -/
def journalling (ring : Nat) (bell : Word) : State := { State.reset with time := { bell := bell }, led := { pend := [(ring, 0, {})] } }

theorem meets_LedgerAndLifetime : (let s : State := { State.reset with time := { powered := 1000000 } }
      s.time.powered.toNat % 1000000 = 0 ∧ s.time.powered ≠ s.pwr.lastTick)
    ∧ (let s : State := { State.reset with time := { bell := 0x40000000 }, pkg := { powered := true } };
      s.pkg.powered = true ∧ s.pkg.cold = false ∧ bellN s % 2 ^ 30 = 0 ∧ s.time.bell ≠ s.pkg.flash.bell)
    ∧ (journalDue (journalling 0x10 0x10000) 0 = true ∧ slotTaken (journalling 0x10 0x10000)
        ((((journalling 0x10 0x10000).led.pend.filter (fun e => ringArea e.1 == 0)).take 64).map (·.2.2)) = false)
    ∧ journalDue (journalling 0 0x10000) (ringArea 0) = true ∧ ringArea 0 ≠ 0
    ∧ (let s : State := { State.reset with funcs := [(0, { lwSel := 0x10 })] }; fld (funcOf s 0).lwSel 8 0 = 0x10 ∧ s.led.full = false) := by decide

/-! ### Requests -/

theorem meets_RequestsAreAdmitted : (0x01, Instr.load) ∈ requestRows ∧ entersDevice served 0 1 req5 [] = true
    ∧ comesHome served 0 1 req5 [] served.maps.cur false { comp := 1 } region5 = true :=
  ⟨by simp [requestRows], by decide, by decide⟩

/-- The region's home is device 2, which port 4 leads to. -/
def elsewhere : State := { served with
  ports := served.ports ++ [(4, { st := .up, enabled := true, ptype := 1, epid := 2 })]
  maps := { cur := { epoch := 1, handles := [(5, { comp := 1, homedev := 2 })] } } }

/-- A request of the endpoint has been forwarded to device 2. -/
def forwarded : State := { elsewhere with fab := { relays := [{ home := 2, out := 4, opc := 1, h := req5 }] } }

theorem meets_RequestsForOtherHomesAreForwarded : (0x01, Instr.load) ∈ requestRows ∧ entersDevice elsewhere 0 1 req5 [] = true
    ∧ selectMap elsewhere 1 = some (elsewhere.maps.cur, false) ∧ req5.handle ≠ 0 ∧ req5.handle ≠ 0xFFFFFF
    ∧ Tab.get? elsewhere.maps.cur.handles 5 = some { comp := 1, homedev := 2 } ∧ (2 : Nat) ≠ elsewhere.dom.devid ∧ movedTo elsewhere 5 = none
    ∧ bufferRefuses elsewhere 0 req5 0 (0x100 + homeKey elsewhere elsewhere.maps.cur 5 % 4) = false
    ∧ (isXfer 1 = true → hasRole elsewhere elsewhere.maps.cur 1 2 = true) ∧ 2 ∉ elsewhere.dom.expelled
    ∧ pickPort (portsToDevice elsewhere 2) 0x100 1 0 0 = some 4 :=
  ⟨by simp [requestRows], by decide, by decide, by decide, by decide, by decide, by decide, by decide, by decide, by decide, by decide,
    by simp [pickPort, portsToDevice, elsewhere, served, linked, State.reset]⟩
theorem meets_RequestsForOtherHomesAreForwarded_answers : portUp forwarded 4 = true
    ∧ (let h : RspHdr := { src := 2, tag := 1, origid := 0x100 };
      (∃ r, forwarded.fab.relays.find? (fun r => r.home == h.src && r.h.src == h.origid && r.h.tag == h.tag && r.held.isNone) = some r
        ∧ r.acc = none ∧ r.opc ≠ 0x20) ∧ h.status ≠ DEFERRED)
    ∧ ({ status := DEFERRED } : RspHdr).status = DEFERRED
    ∧ (let h : RspHdr := { src := 2, tag := 9, origid := 0x100 };
      forwarded.fab.relays.find? (fun r => r.home == h.src && r.h.src == h.origid && r.h.tag == h.tag && r.held.isNone) = none) :=
  ⟨by decide, ⟨⟨_, rfl, by decide, by decide⟩, by decide⟩, by decide, by decide⟩
theorem meets_BadRequestsAreTurnedAway : portUp State.reset 0 = false ∧ portUp served 0 = true ∧ (portOf served 0).ptype ≠ 1
    ∧ ({ req5 with src := 0x101 } : ReqHdr).src ≠ (portOf served 0).epid ∧ req5.src = (portOf served 0).epid
    ∧ formOk 1 { req5 with len := 0 } [] = false
    ∧ isDuplicate { served with home := { reqs := [{ h := req5 }] } } req5.src req5.tag = true := by decide

/-- The region with a property of its own. -/
def having (g : Region) : State := { served with regs := { recs := [(5, g)] } }

theorem meets_HomeChecksInOrder : inService State.reset 5 = none ∧ inService served 5 = some region5 ∧ awaitsKeys served 5 = false
    ∧ (let g := { region5 with valid := false, moving := true };
      let s := { having g with regs := { recs := [(5, g)], moves := [{ handle := 5, new := true, other := 2 }] } };
      inService s 5 = some g ∧ awaitsKeys s 5 = true)
    ∧ keyTest served region5 8 1 (rightsNeeded 1) ≠ OK ∧ keyTest served region5 7 1 (rightsNeeded 1) = OK
    ∧ viewBytes served region5 1 false < 2 ^ 21 + max 1 1 * 64 ∧ (2 ^ 21 - 64) + max 1 1 * 64 ≤ viewBytes served region5 1 false
    ∧ (let g := { region5 with mode := 1 }; inService (having g) 5 = some g ∧ awaitsKeys (having g) 5 = false ∧ keyTest (having g) g 7 1 (rightsNeeded 1) = OK
      ∧ g.mode = 1 ∧ 0 + max 1 1 * 64 ≤ viewBytes (having g) g 1 false ∧ req5.src ∉ (having g).dom.caching)
    ∧ (let g := { region5 with fenced := true }; inService (having g) 5 = some g ∧ awaitsKeys (having g) 5 = false ∧ keyTest (having g) g 7 1 (rightsNeeded 2) = OK
      ∧ g.mode ≠ 1 ∧ 0 + max 1 1 * 64 ≤ viewBytes (having g) g 2 false ∧ g.fenced = true ∧ 2 ≤ rightsNeeded 2)
    ∧ region5.mode ≠ 1 ∧ region5.fenced = false ∧ rightsNeeded 1 < 2 := by decide
/-- STORE_MASKED of the last line of the region. -/
def masked5 : Req := { opc := 3, h := { req5 with offset := 2 ^ 21 - 64 }, data := List.replicate 56 0 ++ [1] ++ List.replicate 7 0 }

theorem meets_LinesChangeOnlyWhereStored : placeOf region5 (2 ^ 21 - 64) = some (2 ^ 21 - 64) ∧ framed (2 ^ 21 - 64) = false ∧ (2 ^ 21 - 64) % 64 = 0
    ∧ gwOf served region5.handle = none
    ∧ sheafOf served region5.handle = none ∧ region5.mode = 0 ∧ region5.sheaf = false ∧ poisonOf served (2 ^ 21 - 64) = none
    ∧ masked5.org = .port ∧ (masked5.opc = 2 ∨ masked5.opc = 3 ∨ masked5.opc = 0x61) ∧ maskEmpty (slice masked5.data (2 ^ 21 - 64 - masked5.h.offset) 64) = false
    ∧ chunkHeld served region5.homeq (2 ^ 21 - 64) = false ∧ sourceHeld served masked5 = false
    ∧ displaced served region5.homeq ((2 ^ 21 - 64) / 64) (keptLines served) = none
    ∧ linePlace served region5 0 = some 0 ∧ lineNeed served region5.sheaf region5.homeq 0 ≠ .fill
    ∧ displaced served region5.homeq 0 (keptLines served) = none
    ∧ (serveLine served { opc := 1, h := req5 } region5 0).isSome = true := by decide +kernel

/-- The region of 128 MiB. -/
def wide5 : Region := { region5 with size4k := 32767, place := [{ count := 64 }] }

/-- Lines of it are in the line cache. -/
def cached (l : List Nat) : State := { served with
  regs := { recs := [(5, wide5)] }
  tier := { lineCache := l.map (fun n => { line := n, data := List.replicate 64 0 }) } }

/-- A line that is not there displaces the oldest of 16 others of its set where none is in use. -/
theorem full_set (l : List Nat) (n : Nat) (keep : Nat → Bool) (hk : ∀ x, keep x = false) (hn : n ∉ l) (hl : l.length = 16)
    (hs : ∀ x ∈ l, lineSet 0 x = lineSet 0 n) : displaced (cached l) 0 n keep = some ((cached l).tier.lineCache.reverse.head?) := by
  have hc : cacheLine (cached l) n = none := by
    simp only [cacheLine, cached, List.find?_eq_none, List.mem_map]
    rintro _ ⟨x, hx, rfl⟩
    simp only [beq_iff_eq]
    rintro rfl
    exact hn hx
  have hf : (cached l).tier.lineCache.filter (fun e => e.q == 0 && lineSet 0 e.line == lineSet 0 n) = (cached l).tier.lineCache := by
    simp only [cached, List.filter_eq_self, List.mem_map]
    rintro _ ⟨x, hx, rfl⟩
    simp [hs x hx]
  have hlen : (cached l).tier.lineCache.length = 16 := by simp [cached, hl]
  unfold displaced
  rw [hc]
  simp only [Option.isSome_none, Bool.false_eq_true, if_false, hf, hlen, Nat.lt_irrefl, hk, Bool.not_false]
  cases (cached l).tier.lineCache.reverse with
  | nil => rfl
  | cons a as => rfl

/-- Of 131,073 lines some 17 fall into one set of the line cache. -/
theorem seventeen : ∃ (l : List Nat) (n : Nat), n < 131073 ∧ n ∉ l ∧ l.length = 16 ∧ ∀ x ∈ l, lineSet 0 x = lineSet 0 n := by
  obtain ⟨y, hy⟩ := Fintype.exists_lt_card_fiber_of_mul_lt_card (fun n : Fin 131073 => (⟨lineSet 0 n.val, Nat.mod_lt _ (by decide)⟩ : Fin 8192)) (n := 16)
    (by simp only [Fintype.card_fin]; decide)
  have hm : ∀ x ∈ (Finset.univ.filter (fun n : Fin 131073 => (⟨lineSet 0 n.val, Nat.mod_lt _ (by decide)⟩ : Fin 8192) = y)).toList, lineSet 0 x.val = y.val := by
    intro x hx
    rw [Finset.mem_toList, Finset.mem_filter] at hx
    exact congrArg Fin.val hx.2
  have hd := Finset.nodup_toList (Finset.univ.filter (fun n : Fin 131073 => (⟨lineSet 0 n.val, Nat.mod_lt _ (by decide)⟩ : Fin 8192) = y))
  rw [← Finset.length_toList] at hy
  revert hm hd hy
  generalize (Finset.univ.filter (fun n : Fin 131073 => (⟨lineSet 0 n.val, Nat.mod_lt _ (by decide)⟩ : Fin 8192) = y)).toList = m
  intro hy hm hd
  cases m with
  | nil => simp at hy
  | cons a as =>
    rw [List.nodup_cons] at hd
    refine ⟨(as.take 16).map Fin.val, a.val, a.isLt, ?_, ?_, ?_⟩
    · rw [List.mem_map]
      rintro ⟨x, hx, he⟩
      exact hd.1 (Fin.ext he ▸ List.mem_of_mem_take hx)
    · simp only [List.length_cons] at hy
      simp only [List.length_map, List.length_take]
      omega
    · intro x hx
      rw [List.mem_map] at hx
      obtain ⟨z, hz, rfl⟩ := hx
      rw [hm z (List.mem_cons_of_mem _ (List.mem_of_mem_take hz)), hm a List.mem_cons_self]

/-- With 16 of them there, the 17th displaces one. -/
theorem meets_LinesChangeOnlyWhereStored_displaced : ∃ (l : List Nat) (n : Nat) (o e : CacheLine),
    placeOf wide5 (64 * n) = some (64 * n) ∧ framed (64 * n) = false ∧ 64 * n % 64 = 0
    ∧ displaced (cached l) wide5.homeq (64 * n / 64) (keptLines (cached l)) = some (some o) ∧ cacheLine (cached l) o.line = some e ∧ e.data.length = 64
    ∧ displaced (cached l) wide5.homeq (64 * n / 64) (keptLines (dropHeld (cached l) wide5.handle (64 * n))) = some (some o)
    ∧ Memory.wf (cached l).tier.mem = true := by
  obtain ⟨l, n, hn, hnl, hl, hs⟩ := seventeen
  have hne : (cached l).tier.lineCache.reverse ≠ [] := by
    intro h
    have := congrArg List.length h
    simp [cached, hl] at this
  obtain ⟨o, ho⟩ : ∃ o, (cached l).tier.lineCache.reverse.head? = some o := ⟨_, List.head?_eq_some_head hne⟩
  have hom : o ∈ (cached l).tier.lineCache := List.mem_reverse.mp (List.mem_of_mem_head? ho)
  have hoc : (cacheLine (cached l) o.line).isSome = true := by
    unfold cacheLine
    rw [List.find?_isSome]
    exact ⟨o, hom, by simp⟩
  obtain ⟨e, he⟩ := Option.isSome_iff_exists.mp hoc
  have hem : e ∈ (cached l).tier.lineCache := List.mem_of_find?_eq_some he
  have hd : e.data.length = 64 := by
    simp only [cached, List.mem_map] at hem
    obtain ⟨x, _, rfl⟩ := hem
    rfl
  have h64 : 64 * n / 64 = n := by omega
  refine ⟨l, n, o, e, ?_, ?_, by omega, ?_, he, hd, ?_, rfl⟩
  · unfold placeOf
    have hu : 64 * n / 2 ^ 21 < 64 := by omega
    simp only [wide5, region5, List.find?, Nat.zero_le, decide_true, Nat.zero_add, hu, Bool.and_self, Option.map_some, nearBase]
    simp only [Bool.false_eq_true, if_false, Nat.mul_zero, Nat.zero_add, Nat.sub_zero, Option.some.injEq]
    exact Nat.div_add_mod _ _
  · simp only [framed, isTray, isProxy, Bool.or_eq_false_iff, Bool.and_eq_false_iff, decide_eq_false_iff_not]
    omega
  · rw [h64, ← ho]
    exact full_set l n _ (fun _ => rfl) hnl hl hs
  · rw [h64, ← ho]
    exact full_set l n _ (fun _ => rfl) hnl hl hs

theorem meets_AtomicsCompute : ∀ b ∈ [4, 8, 16], ∀ t ∈ [0, 1, 2],
    let a : AtomicOp := { bytes := b, type := t, operand := 2 ^ (8 * b) - 1, compare := 0, clean := true };
    (2 ^ (8 * b) - 1 < 2 ^ (8 * a.bytes) ∧ a.operand < 2 ^ (8 * a.bytes) ∧ (a.bytes = 4 ∨ a.bytes = 8 ∨ a.bytes = 16)) := by decide
theorem meets_MaskSelectsBytes : (List.replicate 56 (0#8) ++ [1, 0, 0, 0, 0, 0, 0, 8]).length = 64
    ∧ maskBase (List.replicate 56 (0#8) ++ [1, 0, 0, 0, 0, 0, 0, 8]) ≤ 8
    ∧ bit (wordAt (List.replicate 56 (0#8) ++ [1, 0, 0, 0, 0, 0, 0, 8]) 56) 0 = true
    ∧ bit (wordAt (List.replicate 56 (0#8) ++ [1, 0, 0, 0, 0, 0, 0, 8]) 56) 55 = false
    ∧ (List.replicate 64 (0#8)).length = 64 ∧ maskEmpty (List.replicate 64 0) = true := by decide

/-- Policers of stall 1 and service 0 in quarter 0. -/
def policed (mode tokens : Nat) : State :=
  { State.reset with sw := { policers := [(policerKey 0 1 0, { mode := mode, burst := 100, rate := 1, tokens := tokens })] } }

theorem meets_PolicerTakesTokens :
    (Tab.getD State.reset.sw.policers (policerKey 0 1 0) {}).mode = 0
    ∧ ((Tab.getD (policed 1 66).sw.policers (policerKey 0 1 0) {}).mode = 1 ∧ 66 ≤ (Tab.getD (policed 1 66).sw.policers (policerKey 0 1 0) {}).tokens)
    ∧ (Tab.getD (policed 1 66).sw.policers (policerKey 0 1 0) {}).tokens < 67
    ∧ (Tab.getD (policed 2 66).sw.policers (policerKey 0 1 0) {}).mode = 2 := by decide
theorem meets_CxlAccessesAreChecked : (5 : Nat) ≠ 0 ∧ 5 ≠ 0xFFFFFF ∧ Tab.get? served.maps.cur.handles 5 = some { comp := 1 }
    ∧ inService served 5 = some region5 ∧ quarterInReset served region5.homeq = false ∧ deviceInReset served = false ∧ movedTo served 5 = none
    ∧ (let h : ReqHdr := { src := 0xFFFF, stall := fnStall 2, handle := 5, len := 1, key := (slotOf region5 0).key };
      (homeCheck served 1 h true).1 = OK ∧ formOk 1 h [] = true ∧ modeRefuses served region5 1 h false true = false)
    ∧ (homeCheck served 1 { src := 0xFFFF, stall := fnStall 2, handle := 5, len := 1, key := (slotOf region5 1).key } true).1 ≠ OK
    ∧ (let s := { served with regs := { recs := [(5, region5)], moves := [{ handle := 5, switched := true, other := 2 }] } };
      Tab.get? s.maps.cur.handles 5 = some { comp := 1 } ∧ inService s 5 = some region5 ∧ quarterInReset s region5.homeq = false ∧ deviceInReset s = false
      ∧ movedTo s 5 = some 2) := by decide

/-- One snoop, one delta of request 3, one delta of a push and one transfer of a gateway are unanswered. -/
def asked : State := { linked with
  home := { snoops := [{ agent := 0x100, tag := 4, handle := 5 }], reqs := [{ id := 3 }] }
  dom := { deltas := [{ tag := 6, req := 3, handle := 5, dev := 2 }, { tag := 7, handle := 5, dev := 2 }] }
  regs := { gw := [(5, { proxy := 5 })], gwXfers := [{ tag := 8, handle := 5 }, { tag := 9, handle := 5, write := true }] } }

theorem meets_AnswersComeHome : portUp asked 0 = true
    ∧ asked.home.snoops.find? (fun n => n.agent == 0x100 && n.tag == 4 && 0x50 == (if n.inv then 0x50 else 0x51))
        = some { agent := 0x100, tag := 4, handle := 5 }
    ∧ asked.home.snoops.find? (fun n => n.agent == 0x100 && n.tag == 4 && 0x51 == (if n.inv then 0x50 else 0x51)) = none
    ∧ (let x : Delta := { tag := 6, req := 3, handle := 5, dev := 2 };
      asked.dom.deltas.find? (fun d => d.dev == 2 && d.tag == 6 && !d.acked) = some x ∧ x.req ≠ 0 ∧ asked.home.reqs.any (fun r => r.id == x.req) = true)
    ∧ (let x : Delta := { tag := 7, handle := 5, dev := 2 };
      asked.dom.deltas.find? (fun d => d.dev == 2 && d.tag == 7 && !d.acked) = some x ∧ x.req = 0 ∧ x.page = false)
    ∧ ({} : RspHdr).status = OK
    ∧ asked.regs.gwXfers.find? (fun x => x.tag == 8) = some { tag := 8, handle := 5 } ∧ gwOf asked 5 = some { proxy := 5 }
    ∧ asked.regs.gwXfers.find? (fun x => x.tag == 9) = some { tag := 9, handle := 5, write := true }
    ∧ ({ status := EPOCH_STALE } : RspHdr).status = EPOCH_STALE := by decide

/-! ### Links and sessions -/

theorem meets_FramesAreSequenced : frameCarries (portOf linked 0).st = true ∧ ({} : FrameHdr).keyid = (portOf linked 0).keyId
    ∧ extendSeq (portOf linked 0).seqIn ({} : FrameHdr).seq = (portOf linked 0).seqIn ∧ ({ idle := true } : FrameHdr).idle = true ∧ ({} : FrameHdr).idle = false
    ∧ (let s := port0 { st := .up, seqIn := 65537 }; frameCarries (portOf s 0).st = true ∧ extendSeq (portOf s 0).seqIn ({ seq := 1 } : FrameHdr).seq = (portOf s 0).seqIn)
    ∧ FrameCheck.badTag ≠ .good ∧ extendSeq (portOf linked 0).seqIn ({ seq := 1 } : FrameHdr).seq ≠ (portOf linked 0).seqIn
    ∧ (portOf (port0 { st := .up, keyId := 1, prevKeyId := some 0 }) 0).prevKeyId = some ({} : FrameHdr).keyid := by decide

/-- Port 0 in a state since bell 0, at a bell. -/
def atState (st : PortState) (bell : Word) : State :=
  { port0 { st := st, retryAt := some 10000 } with time := { bell := bell }, dom := { dvalid := true, expelled := [3] } }

/-- The HELLO payload of a device. -/
def helloOf (device : Byte) : List Byte := [device, 0, 1, 0, 10, 1] ++ List.replicate 58 0

theorem meets_PortsComeUpStepByStep : ((portOf (atState .detect 0) 0).st = .detect ∧ (atState .detect 0).dom.dvalid = true ∧ oddHalf (atState .detect 0) 0 = false)
    ∧ (portOf (atState .train 0) 0).st = .train ∧ (portOf (atState .align 0) 0).st = .align ∧ oddHalf (atState .train 0) 0 = false
    ∧ 100000 ≤ since (atState .train 100000) (portOf (atState .train 100000) 0).since
    ∧ 1000 ≤ since (atState .align 1000) (portOf (atState .align 1000) 0).since
    ∧ ((portOf (atState .hello 100) 0).st = .hello ∧ 100 ≤ since (atState .hello 100) (portOf (atState .hello 100) 0).since)
    ∧ ((portOf (atState .auth 10000) 0).st = .auth ∧ retryDue (atState .auth 10000) (portOf (atState .auth 10000) 0) = true)
    ∧ ((portOf (atState .up 0) 0).st = .up ∧ oddHalf (atState .up 0) 0 = false) := by decide
theorem meets_PortsComeUpStepByStep_hello : (portOf (atState .hello 0) 0).st = .hello ∧ mgmtOk {} = true
    ∧ helloFits (portOf (atState .hello 0) 0) (helloOf 2) = true ∧ helloClash (atState .hello 0) (helloOf 2) = false
    ∧ helloBarred (atState .hello 0) (helloOf 2) = false ∧ helloForm (helloOf 2) = true
    ∧ helloFits (portOf (atState .hello 0) 0) (helloOf 3) = true ∧ helloClash (atState .hello 0) (helloOf 3) = false
    ∧ helloBarred (atState .hello 0) (helloOf 3) = true ∧ helloForm (helloOf 3) = true
    ∧ (let d : List Byte := [2, 0, 1, 0, 10, 1, 1] ++ List.replicate 57 0;
      helloFits (portOf (atState .hello 0) 0) d = true ∧ helloClash (atState .hello 0) d = false ∧ helloForm d = false) := by decide

/-- The eight ports of a group lead to one partner that declares sparing. -/
def spared : State := { State.reset with ports := (List.range 8).map (fun i => (i, { st := .up, epid := 0x100, helloIn := true, caps := 1 })) }

theorem meets_LanesAreSpared : frameCarries (portOf linked 0).st = true ∧ oddHalf linked 0 = false ∧ 3 ∉ (portOf linked 0).badLanes
    ∧ onSpare (portOf linked 0) 3 = false ∧ (3 : Nat) < 4 ∧ groupProtected linked 0 = false
    ∧ frameCarries (portOf spared 0).st = true ∧ groupProtected spared 0 = true ∧ claimHeld spared 0x0B (spareLane 0) = none
    ∧ oddHalf spared 0 = false ∧ onSpare (portOf spared 0) 3 = false ∧ 3 ∉ (portOf spared 0).badLanes
    ∧ (portOf (port0 { st := .up, gang := true }) 0).gang = true
    ∧ (let s := { spared with mb := { claims := [{ resource := 0x0B, object := spareLane 0 }] } };
      frameCarries (portOf s 0).st = true ∧ oddHalf s 0 = false ∧ 3 ∉ (portOf s 0).badLanes ∧ onSpare (portOf s 0) 3 = false
      ∧ (claimHeld s 0x0B (spareLane 0)).isSome = true)
    ∧ (let s := port0 { st := .up, spareAsked := some (3, 65600, 1) };
      portUp s 0 = true ∧ mgmtOk {} = true ∧ claimHeld s 0x0B (spareLane 0) = none ∧ (portOf s 0).spareAsked = some (3, 65600, 1) ∧ 65600 % 65536 = 64) := by decide
/-- Port 0 moves lane 3 to its spare at frame 64; n frames have come and gone. -/
def moving3 (partner : Bool) (n : Nat) : State := port0 { st := .up, sparing := some (3, 64, partner, 1), seqIn := n, seqOut := n }

theorem meets_LanesAreSpared_frames : (portOf (moving3 true 64) 0).sparing = some (3, 64, true, 1) ∧ (portOf (moving3 false 64) 0).sparing = some (3, 64, false, 1)
    ∧ 64 ≤ (portOf (moving3 true 64) 0).seqIn ∧ 64 ≤ (portOf (moving3 false 64) 0).seqOut
    ∧ (portOf (moving3 true 63) 0).sparing = some (3, 64, true, 1) ∧ (portOf (moving3 false 63) 0).sparing = some (3, 64, false, 1)
    ∧ (portOf (moving3 true 63) 0).seqIn < 64 ∧ (portOf (moving3 false 63) 0).seqOut < 64 := by decide

/-- A WINDOW payload. -/
def windowOf (bells : Byte) : List Byte := bells :: List.replicate 63 0

theorem meets_WindowsAreAnnounced : portUp linked 0 = true ∧ mgmtOk { len := 1 } = true
    ∧ (∀ b ∈ [(4 : Byte), 40], (windowOf b).length = 64 ∧ 4 ≤ natAt (windowOf b) 0 1 ∧ natAt (windowOf b) 0 1 ≤ 40 ∧ allZero ((windowOf b).drop 1) = true)
    ∧ natAt (windowOf 3) 0 1 < 4 ∧ 40 < natAt (windowOf 41) 0 1
    ∧ (let s := port0 { st := .up, windowXid := some 0 }; portUp s 0 = true ∧ (portOf s 0).windowXid = some ({} : MgmtHdr).xid)
    ∧ ({} : MgmtHdr).mstat = OK := by decide
theorem meets_SessionsAreSetUpInSteps : (∀ st ∈ [SessStep.idle, .sentInit, .sentResp, .sentFin],
      let s := port0 { st := .up, epid := 2, step := st }; sessOpen (portOf s 0) = true ∧ (portOf s 0).step = st)
    ∧ mgmtOk {} = true ∧ (let s := port0 { st := .up, epid := 2 }; ¬((portOf s 0).st = .auth ∧ initiates s (portOf s 0) = true)) := by decide

/-- Port 0 UP with keys of bell 0, at a bell. -/
def keyed (ps : PortS) (bell : Word) : State := { port0 { ps with st := .up } with time := { bell := bell } }

theorem meets_SessionTimers :
    (let s := keyed { step := .sentInit } 100; sessOpen (portOf s 0) = true ∧ (portOf s 0).step ≠ .idle ∧ 100 ≤ since s (portOf s 0).stepBell)
    ∧ (let s := keyed {} 0x80000000; (portOf s 0).st = .up ∧ (portOf s 0).rekeying = false ∧ (portOf s 0).retryAt = none
      ∧ 2 ^ 31 ≤ since s (portOf s 0).keyBell)
    ∧ (let s := keyed { framesIn := 2 ^ 36 } 0; 2 ^ 36 ≤ (portOf s 0).framesIn) ∧ (let s := keyed { framesOut := 2 ^ 36 } 0; 2 ^ 36 ≤ (portOf s 0).framesOut)
    ∧ (let s := keyed { retryAt := some 10000 } 10000; (portOf s 0).st = .up ∧ (portOf s 0).rekeying = false ∧ (portOf s 0).retryAt = some 10000
      ∧ (10000#64).toNat ≤ bellN s)
    ∧ (let s := keyed {} 0x200000000; (portOf s 0).st = .up ∧ 2 ^ 33 ≤ since s (portOf s 0).keyBell)
    ∧ (let s := keyed { framesIn := 2 ^ 38 } 0; 2 ^ 38 ≤ (portOf s 0).framesIn) ∧ (let s := keyed { framesOut := 2 ^ 38 } 0; 2 ^ 38 ≤ (portOf s 0).framesOut)
    ∧ (∀ n ∈ [0, 1], let s := port0 { st := .auth, failures := n }; (portOf s 0).st = .auth ∧ (portOf s 0).failures < 2)
    ∧ (let s := port0 { st := .auth, failures := 2 }; (portOf s 0).st = .auth ∧ 2 ≤ (portOf s 0).failures) := by decide
/-! ### The domain -/

/-- A domain of one member, device 0 itself; its lease was counted at bell 500. -/
def member : DomainS := { dvalid := true, members := [(0, [])], grants := [(0, (500, 1))], renewals := [0], fenced := true }

/-- Port 0 UP in that domain, at a bell. -/
def domained (bell : Word) : State := { linked with dom := member, time := { bell := bell }, maps := { cur := { epoch := 1 } } }

theorem meets_DomainMessagesAndLeases : portUp (domained 500) 0 = true ∧ (portOf (domained 500) 0).ptype ≠ 3 ∧ mgmtOk { dst := 0 } = true
    ∧ ({ dst := 0 } : MgmtHdr).dst = (domained 500).dom.devid ∧ ({} : MgmtHdr).dst ≠ (domained 500).dom.devid ∧ ({} : MgmtHdr).dst = 0xFFFF
    ∧ mbOut (domained 500) 0 < 16
    ∧ (domained 500).dom.members[natAt [] 0x0C 1]? = some (0, []) ∧ ({} : MgmtHdr).mstat = OK ∧ wordAt [] 0 ∈ (domained 500).dom.renewals
    ∧ ((domained 1000).dom.dvalid = true ∧ (domained 1000).dom.members ≠ [] ∧ bellN (domained 1000) % 500 = 0
      ∧ (domained 1000).time.bell ∉ (domained 1000).dom.renewals)
    ∧ (let s := { domained 2500 with dom := { member with fenced := false } }; s.dom.dvalid = true ∧ s.dom.fenced = false ∧ leaseCurrent s = false)
    ∧ (let s := { domained 600 with dom := { member with fenced := false, outcast := true } }; s.dom.dvalid = true ∧ s.dom.fenced = false ∧ s.dom.outcast = true)
    ∧ ((domained 2499).time.phase = 0 ∧ (domained 2499).dom.fenced = true ∧ (domained 2499).dom.outcast = false ∧ leaseCurrent (domained 2499) = true
      ∧ (domained 2499).maps.cur.epoch = grantedEpoch (domained 2499)) ∧ State.reset.dom.fenced = false
    ∧ (5, region5) ∈ served.regs.recs := by decide

/-- Commands and questions of port 0 are under way: one for device 2, one at the host die. -/
def carrying : State := { elsewhere with
  ports := elsewhere.ports ++ [(8, { st := .up, ptype := 1, epid := 3 })]
  fab := { mbox := [{ port := 0, src := 0x100, xid := 5, dst := 3 }], hostAsked := [(6, 0, 0x100, 0x30)] } }

theorem meets_MailboxMessagesAreCarried : portUp carrying 0 = true ∧ mgmtOk { len := 2 } = true ∧ ({ len := 2 } : MgmtHdr).stall = 0
    ∧ (List.replicate 128 (0#8)).length = 128 ∧ ({ len := 2 } : MgmtHdr).dst = 0xFFFF ∧ ({ len := 2, src := 0x100 } : MgmtHdr).src = (portOf carrying 0).epid
    ∧ (2 : Nat) ≠ carrying.dom.devid ∧ (2 : Nat) < 0x40 ∧ (portOf carrying 0).ptype ≠ 1
    ∧ pickPort (portsToDevice carrying 2) 0x100 0 0 0 = some 4
    ∧ portUp carrying 8 = true ∧ carrying.fab.mbox.find? (fun r => r.dst == (portOf carrying 8).epid && r.xid == 5)
      = some { port := 0, src := 0x100, xid := 5, dst := 3 } ∧ mgmtPort carrying 0 0x100 = some 0 ∧ ({ mstat := UNSUPPORTED } : MgmtHdr).mstat ≠ OK
    ∧ carrying.fab.hostAsked.find? (fun a => a.1 == 6) = some (6, 0, 0x100, 0x30) ∧ (0 : Nat) ≠ ownPort :=
  ⟨by decide, by decide, by decide, by decide, by decide, by decide, by decide, by decide, by decide,
    by simp [pickPort, portsToDevice, carrying, elsewhere, served, linked, State.reset],
    by decide, by decide, by decide, by decide, by decide, by decide⟩

/-- The map has changed, a move and a retiring table slot have come to their ends. -/
def drained : State := { State.reset with
  time := { bell := 300 }
  regs := { recs := [(5, { region5 with slotA := { state := 2, stall := 1, key := 7 } })], moves := [{ handle := 5, new := true, other := 2, cursor := 512 }] }
  maps := { prev := some {}, switchBell := 290 }
  ecx := { tables := [(3, { state := 2, gen := 1, fence := 43 })] } }

/-- A move of the region that has switched. -/
def switched (m : Move) : State := { State.reset with regs := { recs := [(5, region5)], moves := [m] } }

theorem meets_LongWorkOfTheDomainEnds :
    (∃ g, regionOf drained 5 = some g ∧ slotHeld drained g 0 = true ∧ strikeAdmit drained 5 0 = 0)
    ∧ (let s := { drained with regs := { drained.regs with strikeAdmits := [(10, 1)] }, maps := { strikeFlight := 1 } };
      (∃ g, regionOf s 5 = some g) ∧ 0 < strikeAdmit s 5 0 ∧ 0 < s.maps.strikeFlight)
    ∧ (drained.maps.strikeFlight = 0 ∧ drained.maps.prev = some {} ∧ maxWindow drained ≤ since drained drained.maps.switchBell)
    ∧ (∃ m g, drained.regs.moves.find? (fun m => m.handle == 5 && m.new) = some m ∧ regionOf drained 5 = some g ∧ m.copied = false ∧ g.size4k < m.cursor)
    ∧ (let m : Move := { handle := 5, switched := true, new := true, other := 2, copied := true };
      (switched m).regs.moves.find? (fun m => m.handle == 5) = some m ∧ regionOf (switched m) 5 = some region5 ∧ m.switched = true
      ∧ stillServing (switched m) m = false ∧ m.new = true ∧ m.other ≠ (switched m).dom.devid ∧ m.copied = true)
    ∧ (let m : Move := { handle := 5, switched := true, other := 2 };
      (switched m).regs.moves.find? (fun m => m.handle == 5) = some m ∧ regionOf (switched m) 5 = some region5 ∧ m.switched = true
      ∧ stillServing (switched m) m = false ∧ m.new = false ∧ hasLines (switched m) region5.handle = false)
    ∧ (let t : TableSlot := { state := 2, gen := 1, fence := 43 };
      Tab.get? drained.ecx.tables 3 = some t ∧ t.state = 2 ∧ drained.time.phase = 0 ∧ 257 ≤ since drained t.fence ∧ tableRefs drained 3 t = 0) :=
  ⟨⟨_, rfl, by decide, by decide⟩, ⟨⟨_, rfl⟩, by decide, by decide⟩, by decide, ⟨_, _, rfl, rfl, by decide, by decide⟩, by decide, by decide,
    by decide⟩

/-- A stalk whose page work has come to its end. -/
def stalked (x : Sheaf) : State := { State.reset with regs := { recs := [(5, { region5 with size4k := 0 })] }, dom := { sheaves := [x] } }

theorem meets_LongWorkOfTheDomainEnds_sheaves :
    ((workDone (stalked { handle := 5, work := 1, cursor := 1 }) 5 1).isSome = true
      ∧ (stalked { handle := 5, work := 1, cursor := 1 }).dom.deltas.any (fun d => d.handle == 5 && d.req == 0 && !d.acked) = false)
    ∧ (workDone (stalked { handle := 5, work := 2, cursor := 1 }) 5 2).isSome = true
    ∧ (workDone (stalked { handle := 5, self := 4, work := 3 }) 5 3).isSome = true
    ∧ (let x : Sheaf := { handle := 5, self := 4 }; sheafOf (stalked x) 5 = some x ∧ x.k ≤ x.self ∧ x.work = 0 ∧ x.self ∉ x.stale)
    ∧ (let x : Sheaf := { handle := 5, self := 3 }; sheafOf (stalked x) 5 = some x ∧ x.self < x.k) := by decide

/-! ### Mailbox commands -/

/-- QUOTA_SET of stall 1. -/
def quota1 : CmdEntry := { params := [1] }

theorem meets_MailboxCommandsCommit : (0x32, Instr.quotaSet) ∈ mailboxRows ∧ mailboxTakes State.reset .pf 0x32 quota1 = true ∧ 0x32 ≠ 0x62
    ∧ hasArea 0x32 = false ∧ (let s := taken State.reset .pf 0x32 quota1; missingNeeds s (indexCmdNeeds s (committed s) 0x32 quota1 []) = [])
    ∧ ∃ u changes result drain, checkCmd (taken State.reset .pf 0x32 quota1) (committed (taken State.reset .pf 0x32 quota1))
      (newCmd State.reset .pf 0x32 quota1) quota1 [] = .commit u changes result drain :=
  ⟨by simp [mailboxRows], by decide, by decide, by decide, by decide, _, _, _, _, rfl⟩
/-- An index whose common region lies in a tray; no line of it is in HBM. -/
def trayIndex (y : IndexPart) : State := { served with
  regs := { recs := [(5, { region5 with tier := 1, place := [{ tray := true, count := 1 }] })] }
  tier := { cxl := [(0, { up := true })] }
  idx := { indexes := [{ number := 1, loaded := true, nlist := 1, common := 5, parts := [y] }] } }

theorem meets_DataAreasComeFirst : (0x20, Instr.mapStage) ∈ mailboxRows ∧ mailboxTakes State.reset .pf 0x20 { dlen := 1 } = true ∧ hasArea 0x20 = true
    ∧ 0 < ({ dlen := 1 } : CmdEntry).dlen ∧ (0x62, Instr.attest) ∈ mailboxRows ∧ mailboxTakes State.reset .pf 0x62 {} = true
    ∧ (let e : CmdEntry := { dlen := 1 }; let c : Cmd := { opc := 0x20, waiting := some e, asked := true };
      c.waiting = some e ∧ preCheck State.reset c e = none ∧ hasArea c.opc = true ∧ 0 < e.dlen ∧ c.asked = true ∧ c.reads = [] ∧ c.failed = none
      ∧ mirrorNeeded State.reset c e = none ∧ missingNeeds State.reset (indexCmdNeeds State.reset (committed State.reset) c.opc e (areaBytes c e)) = []
      ∧ ({ c with failed := some NO_REGION } : Cmd).failed = some NO_REGION)
    ∧ (let e : CmdEntry := { dlen := 1, params := [word (2 ^ 48)] }; let c : Cmd := { opc := 0x54, waiting := some e, asked := true }; let s := trayIndex {};
      c.waiting = some e ∧ preCheck s c e = none ∧ hasArea c.opc = true ∧ 0 < e.dlen ∧ c.asked = true ∧ c.reads = [] ∧ c.failed = none
      ∧ mirrorNeeded s c e = none ∧ missingNeeds s (indexCmdNeeds s (committed s) c.opc e (areaBytes c e)) ≠ []) :=
  ⟨by simp [mailboxRows], by decide, by decide, by decide, by simp [mailboxRows], by decide, by decide, by decide +kernel⟩
/-- POLICE_SET with mode 3. -/
def police3 : CmdEntry := { params := [1, pack [(62, 3)]] }

theorem meets_MailboxRefusals : (0x33, Instr.policeSet) ∈ mailboxRows ∧ State.reset.mb.cmds = [] ∧ reaches State.reset (.vf 1) = true
    ∧ mbOut State.reset (Issuer.vf 1).fn < 16 ∧ resetRefuses State.reset = false ∧ (Issuer.vf 1).operator = false ∧ classOf 0x33 ≠ .stall
    ∧ Issuer.pf.operator = true ∧ ({ rsv := 1 } : CmdEntry).rsv ≠ 0 ∧ classOf 0x12 = .stall ∧ ({ principal := 1 } : CmdEntry).principal ≠ 0
    ∧ reservedSet 0x33 { params := [0x8000] } = true
    ∧ mailboxTakes State.reset .pf 0x33 police3 = true ∧ UNSUPPORTED ≠ RESOURCE_HELD
    ∧ (let s := taken State.reset .pf 0x33 police3; missingNeeds s (indexCmdNeeds s (committed s) 0x33 police3 []) = []
      ∧ ∃ status cause words, checkCmd s (committed s) (newCmd State.reset .pf 0x33 police3) police3 [] = .refuse status cause words
        ∧ status ≠ RESOURCE_HELD) :=
  ⟨by simp [mailboxRows], by decide, by decide, by decide, by decide, by decide, by decide, by decide, by decide, by decide, by decide, by decide,
    by decide, by decide, by decide, _, _, _, rfl, by decide⟩
theorem meets_StallCommandsSpellTheirChanges :
    (let e : CmdEntry := { params := [0x100001001] };
      onlyBits (e.c 3) [(63, 44), (32, 12), (11, 0)] = true ∧ zeroFrom e 4 = true ∧ busyQp State.reset (fld (e.c 3) 11 0) = none)
    ∧ (onlyBits (quota1.c 3) [(63, 16), (11, 0)] = true ∧ zeroFrom quota1 4 = true)
    ∧ (∀ burst ∈ [(66 : Nat), 67], let e : CmdEntry := { params := [1, pack [(62, 1), (32, burst), (12, 1)]] };
      onlyBits (e.c 3) [(14, 0)] = true ∧ onlyBits (e.c 4) [(63, 62), (55, 12)] = true ∧ zeroFrom e 5 = true ∧ fld (e.c 4) 63 62 = 1
      ∧ fld (e.c 4) 63 62 ≠ 3 ∧ 66 ≤ fld (e.c 4) 55 32 ∧ fld (e.c 4) 31 12 ≠ 0)
    ∧ (let e : CmdEntry := { params := [1, pack [(60, 15), (48, 1), (42, 44), (38, 12)]] };
      onlyBits (e.c 3) [(13, 0)] = true ∧ onlyBits (e.c 4) [(63, 38)] = true ∧ zeroFrom e 5 = true ∧ fld (e.c 4) 47 42 ≤ 44 ∧ fld (e.c 4) 41 38 ≤ 12)
    ∧ (let e : CmdEntry := { params := [1] }; onlyBits (e.c 3) [(19, 0)] = true ∧ zeroFrom e 4 = true ∧ ({} : Cmd).iss.operator = true)
    ∧ stallComp served 1 = some (fld (quota1.c 3) 19 0)
    ∧ (∀ code ∈ [(0x100 : Nat), 0x1FF], let e : CmdEntry := { params := [word code] };
      onlyBits (e.c 3) [(47, 0)] = true ∧ zeroFrom e 4 = true ∧ 0x100 ≤ fld (e.c 3) 15 0 ∧ fld (e.c 3) 15 0 ≤ 0x1FF
      ∧ claimOf State.reset (fld (e.c 3) 15 0) (fld (e.c 3) 47 16) = none
      ∧ claimOf { State.reset with mb := { claims := [{ resource := code }] } } (fld (e.c 3) 15 0) (fld (e.c 3) 47 16) = some { resource := code })
    ∧ (({} : ClaimRec).stall = ({} : Cmd).stall ∧ ({} : ClaimRec).principal = ({} : Cmd).principal)
    ∧ ¬(({ stall := 1 } : ClaimRec).stall = ({} : Cmd).stall ∧ ({} : ClaimRec).principal = ({} : Cmd).principal) := by decide
theorem meets_ChangesTakeEffectAtTheStrike : (let s : State := { State.reset with mb := { changes := [(1, .quota 1 2 3)] } }
      (∀ e ∈ s.mb.changes, changeWaits s e.2 = false) ∧ ∀ e ∈ s.mb.changes, ∃ n a b, e.2 = Change.quota n a b)
    ∧ 3 < 4 ∧ 4095 < 4096 ∧ 7 < 8 :=
  ⟨⟨by decide, fun e he => by simp only [List.mem_singleton] at he; subst he; exact ⟨_, _, _, rfl⟩⟩, by decide, by decide, by decide⟩
/-! ### Trays and near memory -/

/-- Tray port 15 is up with an operation on line 3, at a bell. -/
def trayed (ops : List TrayOp) (bell : Word) : State :=
  { State.reset with tier := { cxl := [(15, { up := true, ops := ops })] }, time := { bell := bell } }

theorem meets_TrayPortsComeAndGo : (15 : Nat) < 16 ∧ missingFeature { units := 1 } = 0 ∧ ({ units := 1 } : CxlLink).l0 = true
    ∧ ({ units := 1 } : CxlLink).ide = true ∧ ({ units := 1 } : CxlLink).units ≠ 0 ∧ (cxlOf State.reset 15).up = false
    ∧ missingFeature { flit := 68 } ≠ 0 ∧ missingFeature { flit := 68, rate := 32 } = 0 ∧ (cxlOf (trayed [] 0) 15).up = true ∧ fillsOut (trayed [] 0) 15 = []
    ∧ 0 < 1 ∧ (2 ^ 25 - 1) + 1 ≤ 2 ^ 25 := by decide
theorem meets_TrayAccessesEnd :
    (let o : TrayOp := { line := 3, issued := some 0 }; trayOpOf (trayed [o] 0) 15 3 false = some o ∧ o.issued = some 0
      ∧ trayOpOf (trayed [o] 64) 15 3 false = some o ∧ opLate (trayed [o] 64) o = true ∧ o.reissued = false)
    ∧ (let o : TrayOp := { line := 3, issued := some 0, reissued := true };
      trayOpOf (trayed [o] 64) 15 3 false = some o ∧ opLate (trayed [o] 64) o = true ∧ o.reissued = true)
    ∧ (let o : TrayOp := { line := 3, write := true, issued := some 0 }; trayOpOf (trayed [o] 0) 15 3 true = some o ∧ o.issued.isSome = true
      ∧ o.again = false ∧ o.retryAt = none ∧ trayOpOf (trayed [o] 64) 15 3 true = some o ∧ opLate (trayed [o] 64) o = true ∧ o.reissued = false)
    ∧ (let o : TrayOp := { line := 3, write := true, issued := some 0, reissued := true };
      trayOpOf (trayed [o] 64) 15 3 true = some o ∧ o.retryAt = none ∧ opLate (trayed [o] 64) o = true ∧ o.reissued = true)
    ∧ (let o : TrayOp := { line := 3, write := true, retryAt := some 1000 };
      trayOpOf (trayed [o] 1000) 15 3 true = some o ∧ o.retryAt = some 1000 ∧ (1000#64).toNat ≤ bellN (trayed [o] 1000)) := by decide

/-- Errors of near memory so far. -/
def erring (t : TierS) : State := { State.reset with tier := t }

theorem meets_NearMemoryErrors :
    ((State.reset.tier.rowErrors.find? (fun e => e.1 == (0, 0, 0, 0))).map (·.2)).getD 0 + 1 ≠ 4
    ∧ (∀ repaired ∈ [[], (List.range 15).map (fun i => (0, 0, 0, i + 1)), (List.range 16).map (fun i => (0, 0, 0, i + 1))],
      let s := erring { rowErrors := [((0, 0, 0, 0), 3)], repaired := repaired };
      ((s.tier.rowErrors.find? (fun e => e.1 == (0, 0, 0, 0))).map (·.2)).getD 0 + 1 = 4 ∧ (0, 0, 0, 0) ∉ s.tier.repaired)
    ∧ (let s := erring { rowErrors := [((0, 0, 0, 0), 3)], repaired := [(0, 0, 0, 0)] };
      ((s.tier.rowErrors.find? (fun e => e.1 == (0, 0, 0, 0))).map (·.2)).getD 0 + 1 = 4 ∧ (0, 0, 0, 0) ∈ s.tier.repaired)
    ∧ ((((List.range 15).map (fun i => (0, 0, 0, i + 1)) ++ [(0, 0, 0, 0)]).filter (fun (k : Nat × Nat × Nat × Nat) =>
      k.1 == 0 && k.2.1 == 0 && k.2.2.1 == 0)).length ≤ 16)
    ∧ 16 < (((List.range 16).map (fun i => (0, 0, 0, i + 1)) ++ [(0, 0, 0, 0)]).filter (fun (k : Nat × Nat × Nat × Nat) =>
      k.1 == 0 && k.2.1 == 0 && k.2.2.1 == 0)).length
    ∧ ((addOnce State.reset.tier.badBanks (0, 0, 0, 0)).filter (fun k => k.1 == 0 && k.2.1 == 0 && k.2.2.1 == 0)).length < 2
    ∧ 2 ≤ ((addOnce (erring { badBanks := [(0, 0, 0, 1)] }).tier.badBanks (0, 0, 0, 0)).filter (fun k =>
      k.1 == 0 && k.2.1 == 0 && k.2.2.1 == 0)).length
    ∧ (let s := erring { drains := [{ retire := true }] };
      s.tier.drains.find? (fun d => d.q == 0 && d.stack == 0 && d.pc == 0) = some { retire := true }
      ∧ s.tier.frames.filter (fun f => f.q == 0 && setChannel f.set == (0, 0)) = [] ∧ ({ retire := true } : Drain).page = none ∧ pagesOn s 0 0 0 = []) := by decide

/-! ### What falls due -/

/-- The endpoint's request has been at the home since bell 0. -/
def waiting (r : Req) (bell : Word) : State := { served with home := { reqs := [{ r with h := req5 }] }, time := { bell := bell } }

theorem meets_RequestsFallDue :
    (let s := waiting { begun := true } 8; ∃ r, reqOf s 0 0x100 1 = some r ∧ r.begun = true ∧ isDue s r.bell r.lastDefer r.deferrals r.win = true)
    ∧ (let s := waiting {} 8; ∃ r, reqOf s 0 0x100 1 = some r ∧ r.org = .port ∧ r.begun = false ∧ r.bell.toNat + r.win - 2 ≤ bellN s)
    ∧ (let s := waiting {} 7; ∃ r, reqOf s 0 0x100 1 = some r ∧ bellN s < r.bell.toNat + r.win - 2)
    ∧ (let s := waiting {} 256; ∃ r, reqOf s 0 0x100 1 = some r ∧ 256 ≤ since s r.bell)
    ∧ (let s := waiting {} 255; ∃ r, reqOf s 0 0x100 1 = some r ∧ since s r.bell < 256)
    ∧ (let s := waiting { firstTry := some 0 } 4; ∃ r, reqOf s 0 0x100 1 = some r ∧ r.firstTry = some 0 ∧ r.begun = false ∧ 4 ≤ since s 0) :=
  ⟨⟨_, rfl, by decide, by decide⟩, ⟨_, rfl, by decide, by decide, by decide⟩, ⟨_, rfl, by decide⟩, ⟨_, rfl, by decide⟩, ⟨_, rfl, by decide⟩,
    ⟨_, rfl, by decide, by decide, by decide⟩⟩

/-- The region is moving away: an aged request of the line waits, and one more behind it. -/
def crowded : State := { served with
  regs := { recs := [(5, { region5 with moving := true, valid := false })] }
  home := { reqs := [{ id := 1, opc := 1, h := { req5 with tag := 2 }, old := some 0 }, { id := 99, port := 9, opc := 1, h := req5 }] } }

theorem meets_RequestsFallDue_queue : (reqOf (settleAll crowded) 9 0x100 1).any (fun r => !r.begun && queueFull (settleAll crowded) r) = true := by
  decide +kernel

/-- A snoop, an offer, a combining group, dirty lines, full points: since bell 0. -/
def ageing (bell : Word) : State := { served with
  time := { bell := bell }
  home := { snoops := [{ agent := 0x100, tag := 4, handle := 5 }, { agent := 0x101, tag := 4, handle := 5, owner := true }]
            offers := [(5, {})], groups := [{ handle := 5 }] }
  tier := { frames := [{ dirty := [(0, 0)] }] }
  sw := { full := [{ count := 1 }] }
  regs := { recs := [(5, region5)], gw := [(5, { proxy := 5 })], gwBlocks := [{ handle := 5, dirty := [0] }] } }

theorem meets_TimesOfLinesAndPoints :
    (let n : Snoop := { agent := 0x100, tag := 4, handle := 5 };
      (ageing 8).home.snoops.find? (fun n => n.q == 0 && n.agent == 0x100 && n.tag == 4) = some n ∧ 8 ≤ since (ageing 8) n.bell ∧ n.owner = false)
    ∧ (let n : Snoop := { agent := 0x101, tag := 4, handle := 5, owner := true };
      (ageing 8).home.snoops.find? (fun n => n.q == 0 && n.agent == 0x101 && n.tag == 4) = some n ∧ 8 ≤ since (ageing 8) n.bell ∧ n.owner = true
      ∧ regionOf (ageing 8) n.handle = some region5 ∧ placeOf region5 (n.line * 64) = some 0)
    ∧ (Tab.get? (ageing 64).home.offers 5 = some {} ∧ 64 ≤ since (ageing 64) ({} : Offer).bell ∧ since (ageing 63) ({} : Offer).bell < 64)
    ∧ (let s := { ageing 0 with time := { phase := 64 } }; let g : Group := { handle := 5 };
      s.home.groups.find? (fun g => g.q == 0 && lineKey g.handle (g.line * 64) == lineKey 5 0) = some g ∧ g.bell.toNat * 1400 + g.phase + 64 ≤ now s)
    ∧ (let s := ageing 1000; isTray (2 ^ 46 * 64) = true ∧ frameOf s 0 (2 ^ 46 * 64) = some { dirty := [(0, 0)] }
      ∧ Tab.get? ({ dirty := [(0, 0)] } : Frame).dirty (lineIdx (2 ^ 46 * 64)) = some 0 ∧ 1000 ≤ since s 0)
    ∧ (let s := ageing 10; s.sw.full.find? (fun f => f.q == 0 && f.point == 0) = some { count := 1 } ∧ refusingCount s 0 0 < 65536
      ∧ wMax s ≤ since s ({ count := 1 } : FullPoint).last)
    ∧ (let s := ageing 16; gwOf s 5 = some { proxy := 5 } ∧ gwBlockOf s 5 0 = some { handle := 5, dirty := [0] }
      ∧ ({ handle := 5, dirty := [0] } : GwBlock).dirty ≠ [] ∧ ({ proxy := 5 } : GwBinding).flush ≤ since s ({ handle := 5, dirty := [0] } : GwBlock).dirtySince) := by
  decide

/-- A tally of line 0 of the region. -/
def tallied (t : Tally) : State := { served with home := { tallies := [{ t with handle := 5 }] } }

theorem meets_TalliesAndShapers :
    (let t : Tally := { handle := 5 }; tallyAt (tallied t) 0 (lineKey 5 0) = some t ∧ t.closing = false ∧ t.history.length < 4)
    ∧ (let t : Tally := { handle := 5, closing := true }; tallyAt (tallied t) 0 (lineKey 5 0) = some t ∧ tallyDepth (tallied t) t = 0 ∧ t.closing = true)
    ∧ (let t : Tally := { handle := 5, history := [15, 15, 15, 15] }; tallyAt (tallied t) 0 (lineKey 5 0) = some t ∧ tallyDepth (tallied t) t = 0
      ∧ 4 ≤ t.history.length ∧ (t.history.take 4).all (· < 16) = true)
    ∧ (let s : State := { State.reset with sw := { shapers := [(0, { parked := some 2047 }), (1, {})] } };
      (0, ({ parked := some 2047 } : Shaper)) ∈ s.sw.shapers ∧ portQuarter (0 / 32768) = 0 ∧ 2047 < now s + 2048 ∧ 2047 / 8 % 256 = 255
      ∧ (1, ({} : Shaper)) ∈ s.sw.shapers ∧ ({} : Shaper).parked = none) := by decide
/-! ### Engines and queue pairs -/

/-- One job, 9, in progress, at a bell; port 0 leads to device 2. -/
def working (b : JobKind) (bell : Word) : State := { State.reset with
  ports := [(0, { st := .up, ptype := 1, epid := 2 })]
  time := { bell := bell }
  eng := { jobs := [{ jobid := 9, tmo := 100, body := b }] } }

/-- A reduction of one block with one contributor, endpoint 0x100, and one child, device 2. -/
def red9 : RedJob :=
  { nblk := 1, retain := 1, wcap := 1, infmt := 1, outfmt := 1, devices := [{ dev := 0 }, { dev := 2, depth := 1 }], contributors := [{ epid := 0x100 }] }

/-- The index of a search job of two shards, its root this device's. -/
def index1 : Index := { number := 1, nshard := 2, dim := 32, loaded := true, shards := [(0, 0), (2, 0)] }

/-- The root of a search of that index. -/
def search1 : SearchJob := { index := 1, nq := 1, merges := [{ query := 0 }] }

/-- The root at work. -/
def searching (bell : Word) : State := { working (.search search1) bell with idx := { indexes := [index1] } }

theorem meets_EngineMessagesAreTaken :
    (let h : EngHdr := { src := 0x100, jobid := 9, len := 32, fmt := 1 }; let s := working (.red red9) 0;
      engOpen s 0 1 h (List.replicate 2048 0) = true ∧ (∃ j, jobOf s 9 = some j ∧ j.body = .red red9 ∧ judgeContrib j red9 s.dom.devid h = .take
        ∧ judgeContrib j red9 s.dom.devid { h with fmt := 2 } = .discard 4))
    ∧ (let h : EngHdr := { src := 0x100, jobid := 9, len := 32, fmt := 1 }; let r := { red9 with inputs := [{ fmt := 1 }] }; let s := working (.red r) 0;
      engOpen s 0 1 h (List.replicate 2048 0) = true ∧ (∃ j, jobOf s 9 = some j ∧ j.body = .red r ∧ judgeContrib j r s.dom.devid h = .dup))
    ∧ (let h : EngHdr := { src := 2, jobid := 9, rank := 2, len := 33, fmt := 1 }; let s := working (.red red9) 0;
      engOpen s 0 4 h (List.replicate 2112 0) = true ∧ h.tc = 2 ∧ (∃ j, jobOf s 9 = some j ∧ j.body = .red red9 ∧ judgePartial j red9 s.dom.devid h = .take))
    ∧ (let w : WinnowJob := { src := 2, npart := 1 }; let h : EngHdr := { src := 2, jobid := 9 }; let s := working (.winnow w) 0;
      engOpen s 0 4 h [] = true ∧ h.tc = 2 ∧ (∃ j, jobOf s 9 = some j ∧ j.body = .winnow w ∧ judgeList j w h = .take))
    ∧ (let h : EngHdr := { src := 2, jobid := 9, tc := 3 }; engOpen (searching 0) 0 4 h [] = true ∧ h.tc = 3 ∧ judgeSearchPart (searching 0) h = .take)
    ∧ (let r := { red9 with awaiting := [(0, 0)] }; let h : EngHdr := { src := 2, jobid := 9, rank := 0xFFFF, len := 33, fmt := 1 }; let s := working (.red r) 0;
      engOpen s 0 2 h (List.replicate 2112 0) = true ∧ h.tc = 2 ∧ (∃ j, jobOf s 9 = some j ∧ j.body = .red r ∧ judgeResult j r h = .take))
    ∧ (let h : EngHdr := { src := 2, jobid := 9, tc := 3, len := 2 }; let d : List Byte := [0, 0, 1] ++ List.replicate 125 0;
      engOpen (searching 0) 0 3 h d = true ∧ judgeQuery (searching 0) h d = .take)
    ∧ portUp linked 0 = true ∧ ({ ver := 2 } : EngHdr).ver ≠ 1 ∧ 64 < ({ len := 65 } : EngHdr).len ∧ [(0 : Byte)].length ≠ 64 * ({} : EngHdr).len
    ∧ ({ rsv := 1 } : EngHdr).rsv ≠ 0
    ∧ (∀ tc ∈ [(2 : Nat), 3], let s := port0 { st := .up, ptype := 2, epid := 0x100 }; let h : EngHdr := { src := 0x101, tc := tc }; portUp s 0 = true ∧ h.ver = 1 ∧ h.len ≤ 64 ∧ ([] : List Byte).length = 64 * h.len ∧ h.rsv = 0
      ∧ (portOf s 0).ptype = 2 ∧ h.src ≠ (portOf s 0).epid ∧ h.tc = tc) := by
  refine ⟨⟨by decide +kernel, _, rfl, rfl, by decide, by decide⟩, ⟨by decide +kernel, _, rfl, rfl, by decide⟩, ⟨by decide +kernel, by decide, _, rfl, rfl, by decide⟩,
    ⟨by decide, by decide, _, rfl, rfl, by decide⟩,
    by decide, ⟨by decide +kernel, by decide, _, rfl, rfl, by decide⟩, by decide, by decide, by decide, by decide, by decide, by decide, by decide⟩

/-- A queue pair of the PF's stall with its ring in the region, at a bell. -/
def queued (c : Qp) (bell : Word) : State := { served with qps := [(7, { c with ring := 5 })], time := { bell := bell } }

/-- One access of an engine with its answer, or without. -/
def accessing (u : AccUse) (answer : Option (Nat × Word × List Byte)) : State :=
  { State.reset with eng := { access := [{ acc := 1, use := u, answer := answer }] } }

theorem meets_QueuePairsAndEnginesMove :
    (let s := queued { state := 1 } 0;
      s.qps.find? (fun e => e.2.state != 0 && e.2.stall == fnStall 0 && e.2.lq == 0) = some (7, { state := 1, ring := 5 }) ∧ quarterInReset s 0 = false
      ∧ s.qps.find? (fun e => e.2.state != 0 && e.2.stall == fnStall 0 && e.2.lq == 1) = none)
    ∧ (let s := { queued { state := 1 } 0 with rst := { running := [{ scope := .quarter 0 }] } };
      s.qps.find? (fun e => e.2.state != 0 && e.2.stall == fnStall 0 && e.2.lq == 0) = some (7, { state := 1, ring := 5 }) ∧ quarterInReset s 0 = true)
    ∧ (let c : Qp := { state := 1, irqAt := some 3, ring := 5 }; Tab.get? (queued c 3).qps 7 = some c ∧ c.state ≠ 0 ∧ c.irqAt = some 3
      ∧ (3#64).toNat ≤ bellN (queued c 3) ∧ bellN (queued c 2) < (3#64).toNat)
    ∧ (let c : Qp := { state := 3, ring := 5 }; Tab.get? (queued c 0).qps 7 = some c ∧ c.state = 3 ∧ (queued c 0).time.phase = 0
      ∧ inflight (queued c 0) 7 = 0 ∧ c.held = [])
    ∧ (let c : Qp := { state := 1, ring := 5 }; Tab.get? (queued c 0).qps 7 = some c ∧ c.state ≠ 3) := by decide
theorem meets_EnginesTakeTheirAnswers :
    (let s : State := { State.reset with eng := { portions := [{ index := 31 }] } };
      s.eng.portions.find? (fun p => p.quarter == 0 && p.kind == .thresher && p.index == 31) = some { index := 31 }
      ∧ s.eng.portions.find? (fun p => p.quarter == 0 && p.kind == .thresher && p.index == 30) = none)
    ∧ (∀ u ∈ [AccUse.admission 7 0, .ring 7, .mailbox 1, .jobStore 9 0, .lineRebuild 5 0 0, .stalkPage 5 0 0],
      (accessing u (some (0, 0, []))).eng.access.find? (fun a => a.acc == 1) = some { acc := 1, use := u, answer := some (0, 0, []) })
    ∧ (accessing (.ring 7) none).eng.access.find? (fun a => a.acc == 1) = some { acc := 1, use := .ring 7 }
    ∧ (accessing (.ring 7) none).eng.access.find? (fun a => a.acc == 2) = none
    ∧ (let r : GatherJob := { rows := [(0, 4, 0)] }; (∃ j, jobOf (working (.gather r) 0) 9 = some j ∧ j.body = .gather r)
      ∧ r.rows.find? (fun e => e.1 == 0) = some (0, 4, 0)
      ∧ (takeReads (working (.gather r) 0) (.row 9 4) 0 64).1 = .waiting
      ∧ (∀ e ∈ [((OK, 0, List.replicate 64 1), Fetched.data (List.replicate 64 1)), ((POISONED, 7, []), .failed POISONED 7), ((MEDIA_ERROR, 7, []), .failed MEDIA_ERROR 7)],
        let s := { working (.gather r) 0 with eng := { (working (.gather r) 0).eng with access := [{ acc := 1, use := .row 9 4, answer := some e.1 }] } };
        (takeReads s (.row 9 4) 0 64).1 = e.2)) :=
  ⟨by decide, by decide, by decide, by decide, ⟨_, rfl, rfl⟩, by decide, by decide, by decide⟩

/-- The index with a query that waits for its epoch, or with a part whose compaction is to switch. -/
def indexed (x : Index) (bell : Word) : State := { State.reset with idx := { indexes := [x] }, time := { bell := bell } }

theorem meets_JobsTimeOut :
    (let s := working (.red red9) 100; ∃ j, jobOf s 9 = some j ∧ j.body = .red red9 ∧ redTimeout s j red9 = some (2, 0, 1, 0))
    ∧ (let s := working (.gather { nidx := 1 }) 100; ∃ j, jobOf s 9 = some j ∧ wjobLate s j = some 0)
    ∧ (∃ j, jobOf (searching 100) 9 = some j ∧ j.body = .search search1 ∧ search1.merges.find? (fun m => m.query == 0) = some { query := 0 }
      ∧ indexAt (searching 100) 1 = some index1 ∧ ({ query := 0 } : Merge).delivered = false ∧ 0 ∉ ({ query := 0 } : Merge).ended ∧ 0 ∈ index1.tops
      ∧ j.tmo ≤ since (searching 100) ({ query := 0 } : Merge).sent)
    ∧ (let y : ShardQuery := { jobid := 9, held := true }; let x := { index1 with queries := [y] };
      indexAt (indexed x 4) 1 = some x ∧ x.queries.find? (fun y => y.jobid == 9 && y.query == 0) = some y ∧ y.held = true ∧ 4 ≤ since (indexed x 4) y.bell)
    ∧ (let y : IndexPart := { compacting := some (3, 0) }; let x := { index1 with parts := [y] };
      indexAt (indexed x 0) 1 = some x ∧ partAt x 0 = some y ∧ y.compacting = some (3, 0) ∧ missingNeeds (indexed x 0) (compactNeeds (indexed x 0) x y) = []
      ∧ (indexed x 0).time.phase = 0 ∧ y.oldPages = [] ∧ y.oldSlots = [])
    ∧ (let y : IndexPart := { compacting := some (3, 0) }; ∃ x, indexAt (trayIndex y) 1 = some x ∧ partAt x 0 = some y ∧ y.compacting = some (3, 0)
      ∧ missingNeeds (trayIndex y) (compactNeeds (trayIndex y) x y) ≠ [])
    ∧ (let y : IndexPart := {}; let x := { index1 with parts := [y] };
      indexAt (indexed x 0) 1 = some x ∧ partAt x 0 = some y ∧ y.compacting = none) :=
  ⟨⟨_, rfl, rfl, by decide⟩, ⟨_, rfl, by decide⟩, ⟨_, rfl, rfl, by decide, by decide, by decide, by decide, by decide, by decide⟩, by decide, by decide,
    ⟨_, rfl, by decide, by decide, by decide +kernel⟩, by decide⟩

/-! ### Start-up, resets and firmware -/

/-- A start in a phase. -/
def starting (n : Nat) (k : PackageS) : State := { State.reset with pkg := { k with powered := true, phase := n } }

theorem meets_StartUpGoesPhaseByPhase : State.reset.pkg.powered = false
    ∧ (∀ n ∈ [1, 2, 3, 4, 10], let s := starting n { cold := true };
      s.pkg.powered = true ∧ s.pkg.ready = false ∧ s.rst.running = [] ∧ s.pkg.recovery = false ∧ s.pkg.hold = false ∧ s.pkg.testMode = false
      ∧ s.pkg.phase = n ∧ s.pkg.resetLow = false ∧ s.pkg.cold = true)
    ∧ imageCheck (starting 3 {}) = 0 ∧ imageCheck (starting 3 { flash := { image := { fails := 2 } } }) ≠ 0 := by decide

/-- A reset in progress since bell 0. -/
def resetting (r : ResetRun) (bell : Word) : State := { State.reset with rst := { running := [r] }, time := { bell := bell } }

theorem meets_ResetPinAndPowerCycles : 9 < 10 ∧ 10 ≤ 10
    ∧ (let s := starting 3 {}; s.pkg.powered = true ∧ s.pkg.resetLow = false ∧ s.pkg.ready = false ∧ s.rst.running = [] ∧ 2 < s.pkg.phase)
    ∧ (let s := starting 15 { ready := true }; s.pkg.powered = true ∧ s.pkg.resetLow = false ∧ s.pkg.ready = true)
    ∧ (let s := starting 15 { resetLow := true }; s.pkg.resetLow = true ∧ s.pkg.flash.busy = false)
    ∧ (let r : ResetRun := { scope := .device };
      let s := { resetting r 10000000 with rst := { running := [r], flushing := some 0 } };
      s.rst.flushing = some 0 ∧ 10000000 ≤ since s 0 ∧ s.rst.running = [r] ∧ r.scope = .device)
    ∧ (let r : ResetRun := { scope := .power };
      let s := resetting r 0;
      s.rst.running = [r] ∧ r.scope = .power ∧ r.orderly = false ∧ s.rst.flushing = none ∧ s.pkg.pwrcycReq = none ∧ s.pkg.halted = false
      ∧ s.pkg.flash.pcyc < 2)
    ∧ (let r : ResetRun := { scope := .power };
      let s := { resetting r 0 with pkg := { flash := { pcyc := 2 } } };
      s.rst.running = [r] ∧ s.rst.flushing = none ∧ s.pkg.pwrcycReq = none ∧ s.pkg.halted = false ∧ 2 ≤ s.pkg.flash.pcyc)
    ∧ (let s := { starting 3 { pwrcycReq := some 0 } with time := { bell := 10000000 } };
      s.pkg.pwrcycReq = some 0 ∧ 10000000 ≤ since s 0)
    ∧ (let s := starting 15 { flash := { busy := true } };
      s.pkg.flash.busy = true ∧ s.sec.roll = none ∧ s.pkg.recovery = false ∧ s.pkg.resetLow = false) := by decide
theorem meets_TripsResetTheirQuarter : limitOf (.stack 0) 105 ≤ 1600 ∧ limitOf (.die 0) 105 ≤ 1680 ∧ ThermalPlace.die 0 ∉ State.reset.pwr.trip
    ∧ State.reset.rst.running = [] ∧ 1679 < limitOf (.die 0) 105
    ∧ (let s : State := { State.reset with pwr := { trip := [.die 0] } };
      ThermalPlace.die 0 ∈ s.pwr.trip ∧ s.pwr.trip.any (fun p => placeQuarter p == placeQuarter (.die 0)) = true)
    ∧ 3 < 4 := by decide

/-- The control cores of quarter 0. -/
def cored (k : CoreS) : State := { State.reset with rst := { cores := [k, {}, {}, {}] } }

theorem meets_ResetsBeginAndEnd : (hangable State.reset (.engine 0 .thresher 31) = true ∧ State.reset.rst.ended = [] ∧ State.reset.rst.running = [])
    ∧ (let s := cored { spare := none }; quarterInReset s 0 = false ∧ (coresOf s 0).halted = [] ∧ 3 ∉ (coresOf s 0).failed
      ∧ positionOf (coresOf s 0) 3 = some 3 ∧ (coresOf s 0).spare = none ∧ s.rst.running = [])
    ∧ (quarterInReset State.reset 0 = false ∧ (coresOf State.reset 0).halted = [] ∧ 3 ∉ (coresOf State.reset 0).failed
      ∧ positionOf (coresOf State.reset 0) 3 = some 3 ∧ (coresOf State.reset 0).spare = some 7)
    ∧ (∀ spare ∈ [none, some 7], let s := cored { spare := spare, failed := [3] }; 3 ∈ (coresOf s 0).failed ∧ (coresOf s 0).halted = []
      ∧ (coresOf s 0).spare = spare)
    ∧ (∀ e ∈ [(ResetScope.context 7, 40), (.engine 0 .thresher 31, 400), (.quarter 0, 1500000), (.device, 4500000)],
      let r : ResetRun := { scope := e.1 };
      let s := resetting r (word e.2);
      s.rst.running.find? (fun r => r.scope == e.1) = some r ∧ r.held = false ∧ since s r.counted ≤ r.scope.bound ∧ s.rst.flushing = none
      ∧ s.pkg.halted = false ∧ imageCheck s = 0)
    ∧ (let r : ResetRun := { scope := .quarter 0 };
      let s := resetting r 1500001;
      s.rst.running.find? (fun r => r.scope == .quarter 0) = some r ∧ r.held = false ∧ r.scope.bound < since s r.counted) := by decide

/-- The rotation of the memory key of composition 1 is at a unit of a region. -/
def rotating (m : MemRotation) (units : Nat) : State := { State.reset with
  regs := { recs := [(5, { region5 with size4k := 512 * units - 1, place := [{ count := units }] })] }
  sec := { rotations := [m] } }

theorem meets_FirmwareAndKeysGoStepByStep :
    (let r : Roll := { steps := 7 };
      let s : State := { State.reset with sec := { roll := some r, staged := some {} } };
      s.sec.roll = some r ∧ r.writing = false ∧ rollQuarter r = 1 ∧ rollCore s r = 7 ∧ s.sec.staged.isSome = true ∧ r.steps = 7 ∧ s.rst.running = [])
    ∧ (let r : Roll := { carrying := some (7, 0) };
      let s : State := { State.reset with sec := { roll := some r, staged := some {} } };
      s.sec.roll = some r ∧ r.writing = false ∧ rollQuarter r = 1 ∧ rollCore s r = 7 ∧ r.carrying.isSome = true)
    ∧ (let s := starting 3 { recovery := true, rcvState := 3 }; s.sec.roll = none ∧ s.pkg.recovery = true ∧ s.pkg.rcvState = 3)
    ∧ (let m : MemRotation := { comp := 1, handle := 6 };
      let s := rotating m 1;
      s.sec.rotations.find? (fun m => m.comp == 1) = some m ∧ rotationRegion s m = none ∧ s.mb.cmds = [])
    ∧ (let m : MemRotation := { comp := 1, handle := 5 };
      let s := rotating m 2;
      let g := { region5 with size4k := 1023, place := [{ count := 2 }] };
      s.sec.rotations.find? (fun m => m.comp == 1) = some m ∧ rotationRegion s m = some g ∧ g.handle = m.handle ∧ m.unit + 1 < g.units
      ∧ placeOf g (2 ^ 21 * m.unit) = some 0 ∧ isTray 0 = false ∧ s.tier.drains = []) := by decide
/-! ### Single steps; the expected values are written out from the rules named -/

/-- The state a command gives. -/
def after (i : Instr) (s : State) : State :=
  match exec i s with
  | .next t => t
  | _ => s

/-- Status of the first answer that waits on a port. -/
def answered (s : State) (p : Nat) : Option Nat :=
  match (portOf s p).egress.head?.map Queued.msg with
  | some (.rsp h _ _) => some h.status
  | _ => none

/-- R50, R51: with TAI invalid the snapshot of TAI is BELL with bit 63 set. -/
theorem test_snap : (funcOf (after (.snap 3) { State.reset with time := { bell := 7, phase := 9 } }) 3) =
    { bellSnap := 7, taiSnap := 0x8000000000000007, phaseSnap := 9 } := by decide
/-- Table 20.5: LW_SEL reads back PAGE and SOURCE alone. -/
theorem test_lw_sel : (funcOf (after (.lwSel 0 0 8 0xFFFFFFFFFFFFFFFF) State.reset) 0).lwSel = 0x0FFFFFFFFFFFE1FF := by decide
/-- R530. -/
theorem test_pcap_high : (after (.mfrPcap 3301) State.reset).pwr.pcap = 3300 := by decide
theorem test_pcap_low : (after (.mfrPcap 1000) State.reset).pwr.pcap = 1000 := by decide
/-- R557. -/
theorem test_extest : (after .extest { State.reset with pkg := { resetLow := true } }).pkg.tap = 1 := by decide
theorem test_extest_in_service : (after .extest State.reset).pkg.tap = 0 := by decide
/-- R530: 42 V is inside the range, 58.001 V is not. -/
theorem test_vin_inside : (after (.vinWarning 42000) State.reset).pwr.statusInput = 0 := by decide
theorem test_vin_outside : (after (.vinWarning 58001) State.reset).pwr.statusInput = 0x20 := by decide
/-- Table 21.2 and Table 1.7: a die at 100 °C is an alarm. -/
theorem test_alarm : (after (.thermalAlarm (.die 0) 1600) State.reset).pwr.alertN = false := by decide
/-- Table 5.5a and R125. -/
theorem test_add_wraps : atomicNew 0x10 { operand := 1, compare := 0, type := 0, bytes := 4, clean := true } 0xFFFFFFFF = 0 := by decide
theorem test_min_signed : atomicNew 0x11 { operand := 0xFFFFFFFF, compare := 0, type := 1, bytes := 4, clean := true } 1 = 0xFFFFFFFF := by decide
theorem test_min_of_zeros : atomicNew 0x11 { operand := 0x80000000, compare := 0, type := 2, bytes := 4, clean := true } 0 = 0x80000000 := by decide
theorem test_max_of_nan : atomicNew 0x12 { operand := 5, compare := 0, type := 2, bytes := 4, clean := true } 0x7FC00000 = 5 := by decide
/-- R574. -/
theorem test_window_too_small : (portOf (after (.window 0 { len := 1 } (windowOf 3)) linked) 0).partnerWindow = 0 := by decide +kernel
/-- Table 4.2: the key decides. -/
theorem test_store : (after (.store 0 { req5 with offset := 64 } (List.replicate 64 0xAB)) served).tier.lineCache =
    [{ q := 0, line := 1, dirty := true, data := List.replicate 64 0xAB }] := by decide +kernel
theorem test_store_wrong_key : (after (.store 0 { req5 with key := 8 } (List.replicate 64 0xAB)) served).tier.lineCache = [] := by decide +kernel
theorem test_load_answer : answered (after (.load 0 req5 []) served) 0 = some 0 := by decide +kernel
theorem test_load_wrong_key : answered (after (.load 0 { req5 with key := 8 } []) served) 0 = some 0x10 := by decide +kernel

end Sys2Proof.Tests
end

/-! ## Registers of one function -/

namespace Sys2Proof.Machine

/-- A command whose arm is `done` gives the state it hands over. -/
theorem Gives.of_exec_eq_done {i : Instr} {s t : State} (h : exec i s = done s t) : Gives i s t := h

/-- An update of one function's registers, as every function sees it. -/
theorem funcOf_updFunc (s : State) (fn : Nat) (f : FuncS → FuncS) (g : Nat) :
    funcOf (updFunc s fn f) g = if g = fn then f (funcOf s fn) else funcOf s g := by
  unfold funcOf
  rw [updFunc_funcs, Tab.getD_upd]

@[simp] theorem funcOf_updFunc_same (s : State) (fn : Nat) (f : FuncS → FuncS) :
    funcOf (updFunc s fn f) fn = f (funcOf s fn) := by
  rw [funcOf_updFunc, if_pos rfl]

@[simp] theorem funcOf_updFunc_of_ne (s : State) {fn g : Nat} (f : FuncS → FuncS) (h : g ≠ fn) :
    funcOf (updFunc s fn f) g = funcOf s g := by
  rw [funcOf_updFunc, if_neg h]

/-- An update of one function's registers writes no other field of the state. -/
theorem updFunc_frame (s : State) (fn : Nat) (f : FuncS → FuncS) :
    updFunc s fn f = { s with funcs := (updFunc s fn f).funcs } := rfl

/-- The arm of SNAP. -/
theorem exec_snap (fn : Nat) (s : State) : exec (.snap fn) s = done s (snapNow s fn) := rfl

/-- Settles O12: SNAP is one update of its function's registers (R51). -/
theorem snapLatchesOneFunction : Obligations.SnapLatchesOneFunction := by
  unfold Obligations.SnapLatchesOneFunction
  intro fn s
  refine ⟨snapNow s fn, .of_exec_eq_done (exec_snap fn s), ?own, ?others, ?frame⟩
  case own => exact funcOf_updFunc_same s fn _
  case others => exact fun g hg => funcOf_updFunc_of_ne s _ hg
  case frame => exact updFunc_frame s fn _

end Sys2Proof.Machine

/-! ## The completion window of a port (R88, R574) -/

namespace Sys2Proof.Machine

/-- The arm of WINDOW. -/
theorem exec_window (p : Nat) (h : MgmtHdr) (d : List Byte) (s : State) :
    exec (.window p h d) s = done s (windowCame s p h d) := rfl

/-- The arm of WINDOW_ACK. -/
theorem exec_windowAck (p : Nat) (h : MgmtHdr) (d : List Byte) (s : State) :
    exec (.windowAck p h d) s = done s (windowAcked s p h) := rfl

/-- A management message with a good header on an UP port passes the two checks that stand before its work. -/
theorem mgmtChecks_pass {s : State} {p : Nat} {h : MgmtHdr} (hup : portUp s p = true) (hok : mgmtOk h = true) (down bad good : State) :
    (if !portUp s p then down else if !mgmtOk h then bad else good) = good := by
  simp only [hup, hok, Bool.not_true, Bool.false_eq_true, if_false]

/-- The form of R574: LEN 1, byte 0 from 4 to 40, every other byte zero. -/
def WindowFits (h : MgmtHdr) (d : List Byte) : Prop :=
  h.len = 1 ∧ d.length = 64 ∧ 4 ≤ natAt d 0 1 ∧ natAt d 0 1 ≤ 40 ∧ allZero (d.drop 1) = true

theorem not_windowFits_of_outside {h : MgmtHdr} {d : List Byte} (hout : natAt d 0 1 < 4 ∨ 40 < natAt d 0 1) : ¬ WindowFits h d := by
  rintro ⟨-, -, hlow, hhigh, -⟩
  omega

/-- A WINDOW that fits sets the partner's window before the acknowledgement leaves. -/
theorem windowCame_of_fits {s : State} {p : Nat} {h : MgmtHdr} {d : List Byte} (hup : portUp s p = true) (hok : mgmtOk h = true)
    (hfit : WindowFits h d) : windowCame s p h d =
      sendMgmt (updPort s p (fun ps => { ps with partnerWindow := natAt d 0 1 })) p 0x13 { mstat := OK, xid := h.xid } [] := by
  unfold WindowFits at hfit
  unfold windowCame
  rw [mgmtChecks_pass hup hok]
  simp only [if_pos hfit]

/-- A WINDOW that does not fit has its refusal sent, and nothing else. -/
theorem windowCame_of_not_fits {s : State} {p : Nat} {h : MgmtHdr} {d : List Byte} (hup : portUp s p = true) (hok : mgmtOk h = true)
    (hfit : ¬ WindowFits h d) : windowCame s p h d = sendMgmt s p 0x13 { mstat := UNSUPPORTED, xid := h.xid } [] := by
  unfold WindowFits at hfit
  unfold windowCame
  rw [mgmtChecks_pass hup hok]
  simp only [if_neg hfit]

/-- WINDOW_ACK with OK of the WINDOW outstanding: the announced window is in force, and the PORT_SET that waits for it ends. -/
theorem windowAcked_of_outstanding {s : State} {p : Nat} {h : MgmtHdr} (hup : portUp s p = true) (hok : mgmtOk h = true)
    (hxid : (portOf s p).windowXid = some h.xid) (hstat : h.mstat = OK) : windowAcked s p h =
      endDrains (updPort s p (fun ps => { ps with window := ps.setWindow, windowXid := none })) (· == .port p 4) OK s.time.bell [] := by
  unfold windowAcked
  rw [mgmtChecks_pass hup hok, if_pos ⟨hxid, hstat⟩]

/-- Settles O35: each clause is one case of the two message handlers. -/
theorem windowsAreAnnounced : Obligations.WindowsAreAnnounced := by
  unfold Obligations.WindowsAreAnnounced
  intro p h d s hup hok
  refine ⟨fun hlen hunit hlow hhigh hzero => ?accepted, fun hout => ?refused, fun hxid hstat => ?acknowledged⟩
  case accepted =>
    have hfit : WindowFits h d := ⟨hlen, hunit, hlow, hhigh, hzero⟩
    exact .of_exec_eq_done (by rw [exec_window, windowCame_of_fits hup hok hfit])
  case refused =>
    exact .of_exec_eq_done (by rw [exec_window, windowCame_of_not_fits hup hok (not_windowFits_of_outside hout)])
  case acknowledged =>
    exact .of_exec_eq_done (by rw [exec_windowAck, windowAcked_of_outstanding hup hok hxid hstat])

end Sys2Proof.Machine

/-! ## The atomics of Table 5.5a (R124, R125) -/

namespace Sys2Proof.Machine

/-! ### The three orders of MIN and MAX -/

/-- An unsigned word of n bytes read as two's complement: the model's number is the bit vector's. -/
theorem toInt_ofNat_eq_signedOf {n v : Nat} (hn : 0 < n) (hv : v < 2 ^ (8 * n)) :
    (BitVec.ofNat (8 * n) v).toInt = signedOf n v := by
  have htop : 2 ^ (8 * n) = 2 * 2 ^ (8 * n - 1) := (mul_pow_sub_one (by omega) 2).symm
  have hlow : 2 * v < 2 ^ (8 * n) ↔ v < 2 ^ (8 * n - 1) := by omega
  simp only [BitVec.toInt_eq_toNat_cond, BitVec.toNat_ofNat, Nat.mod_eq_of_lt hv, signedOf, hlow]

/-- The largest magnitude that is no NaN: infinity of binary32 (4 bytes) or binary64. -/
def infinityBits (n : Nat) : Nat := if n = 4 then 0x7F800000 else 0x7FF0000000000000

/-- A binary32 or binary64 is a NaN where its magnitude is above infinity's. -/
theorem floatNan_iff {n v : Nat} (hn : n = 4 ∨ n = 8) (hv : v < 2 ^ (8 * n)) :
    floatNan n v = true ↔ infinityBits n < v % 2 ^ (8 * n - 1) := by
  obtain rfl | rfl := hn
  case inl =>
    simp only [floatNan, infinityBits, if_true, Bool.and_eq_true, beq_iff_eq, bne_iff_ne]
    omega
  case inr =>
    simp only [floatNan, infinityBits, if_neg (show ¬(8 = 4) by decide), Bool.and_eq_true, beq_iff_eq, bne_iff_ne]
    omega

/-- The order of sign and magnitude of R125, −0 below +0. -/
def SignMagnitudeBelow (n v w : Nat) : Prop :=
  (2 ^ (8 * n - 1) ≤ v ∧ ¬2 ^ (8 * n - 1) ≤ w) ∨ (2 ^ (8 * n - 1) ≤ v ∧ 2 ^ (8 * n - 1) ≤ w ∧ w < v)
    ∨ (¬2 ^ (8 * n - 1) ≤ v ∧ ¬2 ^ (8 * n - 1) ≤ w ∧ v < w)

theorem floatKey_lt_iff {n v w : Nat} (hn : 0 < n) (hv : v < 2 ^ (8 * n)) (hw : w < 2 ^ (8 * n)) :
    floatKey n v < floatKey n w ↔ SignMagnitudeBelow n v w := by
  have htop : 2 ^ (8 * n) = 2 * 2 ^ (8 * n - 1) := (mul_pow_sub_one (by omega) 2).symm
  unfold floatKey SignMagnitudeBelow
  split <;> split <;> omega

/-! ### What MIN and MAX choose -/

/-- MIN and MAX where no NaN is in play (R124). -/
theorem minMax_of_ordered {a : AtomicOp} {old : Nat}
    (h : a.type = 2 → floatNan a.bytes a.operand = false ∧ floatNan a.bytes old = false) :
    minMax false a old = (if typeLess a.type a.bytes a.operand old then a.operand else old)
    ∧ minMax true a old = (if typeLess a.type a.bytes old a.operand then a.operand else old) := by
  have hnone : (a.type == 2 && (floatNan a.bytes a.operand || floatNan a.bytes old)) = false := by
    rw [Bool.and_eq_false_iff, beq_eq_false_iff_ne]
    by_cases htype : a.type = 2
    case pos =>
      obtain ⟨hop, hold⟩ := h htype
      exact .inr (by rw [hop, hold, Bool.or_false])
    case neg => exact .inl htype
  simp only [minMax, hnone, Bool.false_eq_true, if_false, if_true, and_self]

/-- TYPE 0: the smaller and the larger number. -/
theorem minMax_of_unsigned {a : AtomicOp} {old : Nat} (htype : a.type = 0) :
    minMax false a old = min old a.operand ∧ minMax true a old = max old a.operand := by
  obtain ⟨hmin, hmax⟩ := minMax_of_ordered (a := a) (old := old) (fun h => by omega)
  rw [hmin, hmax, min_comm, min_def_lt, max_def_lt]
  simp only [htype, typeLess, if_true, decide_eq_true_eq, and_self]

/-- TYPE 1: the smaller and the larger two's complement number. -/
theorem signedOf_minMax {a : AtomicOp} {old : Nat} (htype : a.type = 1) :
    signedOf a.bytes (minMax false a old) = min (signedOf a.bytes old) (signedOf a.bytes a.operand)
    ∧ signedOf a.bytes (minMax true a old) = max (signedOf a.bytes old) (signedOf a.bytes a.operand) := by
  obtain ⟨hmin, hmax⟩ := minMax_of_ordered (a := a) (old := old) (fun h => by omega)
  rw [hmin, hmax, min_comm, min_def_lt, max_def_lt, apply_ite (signedOf a.bytes), apply_ite (signedOf a.bytes)]
  simp only [htype, typeLess, one_ne_zero, if_false, if_true, decide_eq_true_eq, and_self]

/-- Neither MIN nor MAX makes a value that is not one of its two. -/
theorem minMax_eq_or (isMax : Bool) (a : AtomicOp) (old : Nat) :
    minMax isMax a old = old ∨ minMax isMax a old = a.operand := by
  unfold minMax
  split_ifs <;> simp only [true_or, or_true]

theorem minMax_lt {a : AtomicOp} {old b : Nat} (isMax : Bool) (hold : old < b) (hop : a.operand < b) : minMax isMax a old < b := by
  obtain h | h := minMax_eq_or isMax a old <;> rw [h]
  · exact hold
  · exact hop

/-- R125: a NaN operand leaves the line. -/
theorem minMax_of_nan_operand {a : AtomicOp} (isMax : Bool) (old : Nat) (htype : a.type = 2)
    (hop : floatNan a.bytes a.operand = true) : minMax isMax a old = old := by
  simp only [minMax, htype, hop, beq_self_eq_true, Bool.true_or, Bool.and_true, if_true]

/-- R125: a NaN in the line gives way to an operand that is none. -/
theorem minMax_of_nan_line {a : AtomicOp} {old : Nat} (isMax : Bool) (htype : a.type = 2)
    (hold : floatNan a.bytes old = true) (hop : floatNan a.bytes a.operand = false) : minMax isMax a old = a.operand := by
  simp only [minMax, htype, hold, hop, beq_self_eq_true, Bool.or_true, Bool.and_true, Bool.false_eq_true, if_true, if_false]

/-- TYPE 2 where neither is a NaN: MIN and MAX choose by the key of the total order (R125). -/
theorem minMax_of_float {a : AtomicOp} {old : Nat} (htype : a.type = 2)
    (hop : floatNan a.bytes a.operand = false) (hold : floatNan a.bytes old = false) :
    minMax false a old = (if floatKey a.bytes a.operand < floatKey a.bytes old then a.operand else old)
    ∧ minMax true a old = (if floatKey a.bytes old < floatKey a.bytes a.operand then a.operand else old) := by
  obtain ⟨hmin, hmax⟩ := minMax_of_ordered (fun _ => ⟨hop, hold⟩)
  rw [hmin, hmax]
  simp only [htype, typeLess, OfNat.ofNat_ne_zero, OfNat.ofNat_ne_one, if_false, decide_eq_true_eq, and_self]

/-! ### The rows of Table 5.5a -/

section Rows
variable (a : AtomicOp) (old : Nat)

@[simp] theorem atomicNew_add : atomicNew 0x10 a old = (old + a.operand) % 2 ^ (8 * a.bytes) := rfl
@[simp] theorem atomicNew_min : atomicNew 0x11 a old = minMax false a old := rfl
@[simp] theorem atomicNew_max : atomicNew 0x12 a old = minMax true a old := rfl
@[simp] theorem atomicNew_cas : atomicNew 0x13 a old = if old = a.compare then a.operand else old := rfl
@[simp] theorem atomicNew_swap : atomicNew 0x14 a old = a.operand := rfl
@[simp] theorem atomicNew_and : atomicNew 0x15 a old = old &&& a.operand := rfl
@[simp] theorem atomicNew_or : atomicNew 0x16 a old = old ||| a.operand := rfl
@[simp] theorem atomicNew_xor : atomicNew 0x17 a old = old ^^^ a.operand := rfl

end Rows

/-- Settles O27: MIN and MAX choose by the order of their TYPE (R124, R125); the other rows are their own equations. -/
theorem atomicsCompute : Obligations.AtomicsCompute := by
  unfold Obligations.AtomicsCompute
  intro a old hold hop hbytes
  have hpos : 0 < a.bytes := by omega
  rw [atomicNew_min, atomicNew_max]
  refine ⟨atomicNew_add a old, minMax_of_unsigned, fun htype => ?signed, fun htype hfloat => ?float, atomicNew_cas a old,
    atomicNew_swap a old, atomicNew_and a old, atomicNew_or a old, atomicNew_xor a old⟩
  case signed =>
    rw [toInt_ofNat_eq_signedOf hpos (minMax_lt false hold hop), toInt_ofNat_eq_signedOf hpos (minMax_lt true hold hop),
      toInt_ofNat_eq_signedOf hpos hold, toInt_ofNat_eq_signedOf hpos hop]
    exact signedOf_minMax htype
  case float =>
    intro inf nan negative below
    have nan_iff {v : Nat} (hv : v < 2 ^ (8 * a.bytes)) : floatNan a.bytes v = true ↔ nan v := floatNan_iff hfloat hv
    have not_nan_iff {v : Nat} (hv : v < 2 ^ (8 * a.bytes)) : floatNan a.bytes v = false ↔ ¬nan v := by
      rw [← nan_iff hv, Bool.not_eq_true]
    refine ⟨fun hnan => ?operandNan, fun hnan hnot => ?lineNan, fun hline hnot hbelow => ?operandBelow,
      fun hline hnot hbelow => ?lineBelow⟩
    case operandNan =>
      have hopNan := (nan_iff hop).mpr hnan
      exact ⟨minMax_of_nan_operand false old htype hopNan, minMax_of_nan_operand true old htype hopNan⟩
    case lineNan =>
      have hlineNan := (nan_iff hold).mpr hnan
      have hopNum := (not_nan_iff hop).mpr hnot
      exact ⟨minMax_of_nan_line false htype hlineNan hopNum, minMax_of_nan_line true htype hlineNan hopNum⟩
    case operandBelow =>
      obtain ⟨hmin, hmax⟩ := minMax_of_float htype ((not_nan_iff hop).mpr hnot) ((not_nan_iff hold).mpr hline)
      have hlt := (floatKey_lt_iff hpos hop hold).mpr hbelow
      exact ⟨hmin.trans (if_pos hlt), hmax.trans (if_neg hlt.not_gt)⟩
    case lineBelow =>
      obtain ⟨hmin, hmax⟩ := minMax_of_float htype ((not_nan_iff hop).mpr hnot) ((not_nan_iff hold).mpr hline)
      have hlt := (floatKey_lt_iff hpos hold hop).mpr hbelow
      exact ⟨hmin.trans (if_neg hlt.not_gt), hmax.trans (if_pos hlt)⟩

end Sys2Proof.Machine

/-! ## Boundary scan (R557) -/

namespace Sys2Proof.Machine

/-- The arm of EXTEST. -/
theorem exec_extest (s : State) : exec .extest s = done s (tapTest s 1) := rfl

/-- The arm of EXTEST_PULSE. -/
theorem exec_extestPulse (s : State) : exec .extestPulse s = done s (tapTest s 2) := rfl

/-- The arm of EXTEST_TRAIN. -/
theorem exec_extestTrain (s : State) : exec .extestTrain s = done s (tapTest s 3) := rfl

/-- Loading a boundary-scan test writes the TAP's active test alone, and RESET_N decides whether it is the test or BYPASS. -/
theorem tapTest_eq (s : State) (test : Nat) :
    tapTest s test = { s with pkg := { s.pkg with tap := if s.pkg.resetLow then test else 0 } } := rfl

/-- Settles O16: the three instructions load their own test by the one rule of R557. -/
theorem boundaryScanNeedsResetLow : Obligations.BoundaryScanNeedsResetLow := by
  unfold Obligations.BoundaryScanNeedsResetLow
  intro s
  refine ⟨?extest, ?extestPulse, ?extestTrain⟩
  case extest => exact .of_exec_eq_done (by rw [exec_extest, tapTest_eq])
  case extestPulse => exact .of_exec_eq_done (by rw [exec_extestPulse, tapTest_eq])
  case extestTrain => exact .of_exec_eq_done (by rw [exec_extestTrain, tapTest_eq])

end Sys2Proof.Machine

/-! ## The step of the machine -/

namespace Sys2Proof.Machine

/-- Every arm of the dispatch hands a state over with the queue as it was. -/
theorem exec_eq_done (i : Instr) (s : State) : ∃ t, exec i s = done s t := by
  cases i <;> exact ⟨_, rfl⟩

/-- What a command gives is the state it answers. -/
theorem Gives.answers {i : Instr} {s t : State} (h : Gives i s t) : exec i s = .next { t with pending := s.pending } := h

/-- A command that hands its own state over changes nothing. -/
theorem Gives.of_unchanged {i : Instr} {s t : State} (h : exec i s = done s t) (ht : t = s) : Gives i s s := by
  subst ht
  exact .of_exec_eq_done h

/-- With a command waiting, the front one runs on the queue's rest. -/
theorem step_of_pending {c : Instr} {rest : List Instr} {s : State} (h : s.pending = c :: rest) :
    step s = exec c { s with pending := rest } := by
  unfold step
  rw [h]

/-- With none, one SCLK passes, up to the last before the strike. -/
theorem step_of_idle {s : State} (h : s.pending = []) :
    step s = .next { s with time := { s.time with phase := min (s.time.phase + 1) 1399 } } := by
  unfold step
  rw [h]

/-- Settles O1: the first arm of the step. -/
theorem stepRunsTheFrontCommand : Obligations.StepRunsTheFrontCommand :=
  fun _ _ _ => step_of_pending

/-- Settles O2: the second arm of the step, the SCLK being the lesser of its successor and 1,399. -/
theorem idleStepPassesOneSclk : Obligations.IdleStepPassesOneSclk := by
  unfold Obligations.IdleStepPassesOneSclk
  intro s hidle
  refine ⟨_, step_of_idle hidle, rfl, fun hbefore => ?before, fun hlast => ?last⟩
  case before => exact min_eq_left hbefore
  case last => exact min_eq_right (by omega)

/-- Settles O3: `exec` answers with `done`, which keeps the queue. -/
theorem everyCommandCompletes : Obligations.EveryCommandCompletes := by
  unfold Obligations.EveryCommandCompletes
  intro i s
  obtain ⟨t, ht⟩ := exec_eq_done i s
  exact ⟨_, ht, rfl⟩

end Sys2Proof.Machine

/-! ## The invariant of the view, over every command -/

namespace Sys2Proof.Machine

variable {P : View → Prop}

/-- A lemma of the Keeps files that asks nothing of the property says that the view does not change. -/
theorem view_eq_of_keeps {f : State → State} (h : ∀ (Q : View → Prop) s, Kept Q s → Kept Q (f s)) (s : State) : (f s).view = s.view :=
  h (· = s.view) s rfl

/-- A state that a command answers has what its outcome has. -/
theorem OutInv.of_next {o : Host.Outcome State Fault Refusal} {t : State} (h : OutInv P o) (e : o = .next t) : Kept P t := by
  subst e
  exact h

/-- Settles O4: memory at reset is empty, and the SCLK of the bell is 0. -/
theorem resetMeetsInvariant : Obligations.ResetMeetsInvariant := by
  unfold Obligations.ResetMeetsInvariant Inv
  exact ⟨rfl, by decide⟩

/-- The invariant of O5 as a property of the view. -/
def InvView (v : View) : Prop := Memory.wf v.mem = true ∧ v.phase < 1400

theorem inv_iff_kept (s : State) : Inv s ↔ Kept InvView s := Iff.rfl

/-- A strike starts the SCLK of the bell again, and memory stays. -/
theorem struck_invView : Struck InvView := fun _ h => ⟨h.1, Nat.zero_lt_succ _⟩

/-- A start sets BELL and starts the SCLK of the bell again. -/
theorem started_invView : Started InvView := fun _ _ h => ⟨h.1, Nat.zero_lt_succ _⟩

/-- Without power memory is empty. -/
theorem unpowered_invView : Unpowered InvView := fun _ _ => ⟨rfl, Nat.zero_lt_succ _⟩

/-- The fuse minimum is no part of the invariant. -/
theorem rolled_invView : Rolled InvView := fun _ _ h => h

/-- Every command keeps the invariant. -/
theorem exec_keeps_inv {i : Instr} {s t : State} (h : Inv s) (ht : exec i s = .next t) : Inv t :=
  (exec_inv closed_wf i s (fun _ => struck_invView) (fun _ => started_invView) (fun _ => unpowered_invView) (fun _ => rolled_invView) h).of_next ht

/-- Settles O5: a command keeps the invariant by the lemmas of the Keeps files; an idle step stops at SCLK 1,399. -/
theorem stepKeepsInvariant : Obligations.StepKeepsInvariant := by
  unfold Obligations.StepKeepsInvariant
  intro s t hinv hstep
  cases hpending : s.pending with
  | nil =>
    rw [step_of_idle hpending] at hstep
    obtain ⟨rfl⟩ := hstep
    exact ⟨hinv.1, Nat.lt_of_le_of_lt (min_le_right _ _) (by decide)⟩
  | cons c rest =>
    rw [step_of_pending hpending] at hstep
    have hrest : Inv { s with pending := rest } := hinv
    exact exec_keeps_inv hrest hstep

/-- Settles O6: the fields of the state before its first start. -/
theorem resetState : Obligations.ResetState := by
  unfold Obligations.ResetState
  exact ⟨rfl, rfl, rfl, rfl, fun _ => rfl, fun _ => rfl, fun _ => rfl, rfl, rfl, rfl⟩

/-! ### BELL -/

/-- BELL and the SCLK of the bell stand at given values. -/
def ClockAt (b : Word) (n : Nat) (v : View) : Prop := v.bell = b ∧ v.phase = n

theorem closed_clockAt (b : Word) (n : Nat) : Closed (ClockAt b n) :=
  ⟨fun _ _ _ _ h => h, fun _ _ _ _ h => h, fun _ _ h => h, fun _ _ h => h⟩

/-- The arm of BELL_STRIKE. -/
theorem exec_bellStrike (s : State) : exec .bellStrike s = done s (strike s) := rfl

theorem strike_of_unpowered {s : State} (h : s.pkg.powered = false) : strike s = s := by
  unfold strike
  rw [h]
  rfl

theorem strike_of_powered {s : State} (h : s.pkg.powered = true) :
    strike s = strikeCores (dealEngines (strikeUnits (strikeWindows (strikeFirst (finishPortions s))))) := by
  unfold strike
  rw [h]
  rfl

/-- The first actions of a strike move BELL on by one, and nothing after the tick moves it again. -/
theorem strikeFirst_clock (s : State) : Kept (ClockAt (s.time.bell + 1) 0) (strikeFirst s) := by
  have habandoned : (recordAbandoned s).view = s.view := view_eq_of_keeps (fun _ => recordAbandoned_inv) s
  have hbell : (recordAbandoned s).time.bell = s.time.bell := congrArg View.bell habandoned
  have htick : Kept (ClockAt (s.time.bell + 1) 0) { recordAbandoned s with time := tick (recordAbandoned s).time } := by
    rw [← hbell]
    exact ⟨rfl, rfl⟩
  have hbeats := heartbeats_inv _ htick
  have hadmits := Kept.congr (t := { heartbeats { recordAbandoned s with time := tick (recordAbandoned s).time } with
    regs := { (heartbeats { recordAbandoned s with time := tick (recordAbandoned s).time }).regs with
      strikeAdmits := admitCounts (heartbeats { recordAbandoned s with time := tick (recordAbandoned s).time }) } }) hbeats rfl
  have hseen := makeVisible_inv (closed_clockAt _ _) _ (countCredit_inv _ (latchUnits_inv _ hadmits))
  unfold strikeFirst
  exact Kept.congr hseen rfl

/-- A strike of a powered device moves BELL on by one and starts the SCLK of the bell again (R34). -/
theorem strike_clock {s : State} (h : s.pkg.powered = true) : Kept (ClockAt (s.time.bell + 1) 0) (strike s) := by
  have hP := closed_clockAt (s.time.bell + 1) 0
  have hportions : (finishPortions s).time.bell = s.time.bell :=
    (finishPortions_inv (closed_clockAt s.time.bell s.time.phase) s ⟨rfl, rfl⟩).1
  have hfirst := strikeFirst_clock (finishPortions s)
  rw [hportions] at hfirst
  rw [strike_of_powered h]
  exact strikeCores_inv hP _ (dealEngines_inv hP _ (strikeUnits_inv hP _ (strikeWindows_inv hP _ hfirst)))

/-- A command other than a strike, a start or a loss of power leaves BELL and its SCLK. -/
theorem exec_keeps_clock {i : Instr} {s t : State} (ht : exec i s = .next t) (hstrike : i ≠ .bellStrike) (hstart : startsBell i = false)
    (hpower : losesPower i = false) : t.time.bell = s.time.bell ∧ t.time.phase = s.time.phase :=
  (exec_inv (closed_clockAt s.time.bell s.time.phase) i s (fun h => absurd h hstrike) (fun h => absurd h (by simp [hstart]))
    (fun h => absurd h (by simp [hpower])) (fun _ _ _ h => h) ⟨rfl, rfl⟩).of_next ht

/-- A start that is not cold restores nothing. -/
theorem restoreCold_of_warm {s : State} (h : s.pkg.cold = false) : restoreCold s = s := by
  unfold restoreCold
  rw [h]
  rfl

/-- The end of a device reset that is not a cold start leaves the view. -/
theorem endDevice_keeps_of_warm {s : State} (r : ResetRun) (failed : List Nat) (hwarm : s.pkg.cold = false) (h : Kept P s) :
    Kept P (endDevice s r failed) := by
  unfold endDevice
  refine ite_inv (fun _ => enterRecovery_inv _ (Kept.congr h rfl)) (fun _ => becomeReady_inv _ ?_)
  rw [restoreCold_of_warm hwarm]
  exact Kept.congr (endRun_inv s r _ h) rfl

/-- The end of a reset that is not a cold start keeps what memory operations keep. -/
theorem resetEnds_keeps_of_warm (hP : Closed P) {s : State} (x : ResetScope) (failed : List Nat) (hwarm : s.pkg.cold = false) (h : Kept P s) :
    Kept P (resetEnds s x failed) := by
  unfold resetEnds
  split
  · exact h
  · refine ite_inv (fun _ => h) (fun _ => ?_)
    split
    case h_1 => exact runEngines_inv hP _ (endRun_inv _ _ _ h)
    case h_2 => exact settleAll_inv hP _ (endEngine_inv _ _ _ _ _ _ h)
    case h_3 => exact settleAll_inv hP _ (endQuarter_inv hP _ _ _ _ h)
    case h_4 => exact ite_inv (fun _ => h) (fun _ => endDevice_keeps_of_warm _ _ hwarm h)
    case h_5 => exact h

/-- The end of a phase of a start that is not cold leaves the view. -/
theorem phaseEnds_keeps_of_warm {s : State} (r : PhaseReport) (hwarm : s.pkg.cold = false) (h : Kept P s) : Kept P (phaseEnds s r) := by
  unfold phaseEnds
  refine ite_inv (fun _ => h) (fun _ => ?_)
  split
  case h_1 => exact Kept.congr h rfl
  case h_2 => exact latchStraps_inv s r h
  case h_3 => exact bootImage_inv s h
  case h_4 =>
    rw [restoreCold_of_warm hwarm]
    exact Kept.congr h rfl
  case h_5 => exact Kept.congr h rfl
  case h_6 => exact becomeReady_inv s h
  case h_7 => exact Kept.congr h rfl

/-- Settles O7: the strike's tick for the first clause, the Keeps lemmas with BELL and the SCLK held for the others. -/
theorem bellAdvancesAtStrikesAlone : Obligations.BellAdvancesAtStrikesAlone := by
  unfold Obligations.BellAdvancesAtStrikesAlone
  refine ⟨fun s hpowered => ?struck, fun s hdown => ?unpowered, fun i s t ht hstrike hstart hpower => ?others,
    fun i s t ht hstart hwarm => ?warm⟩
  case struck =>
    obtain ⟨hbell, hphase⟩ := strike_clock hpowered
    exact ⟨_, .of_exec_eq_done (exec_bellStrike s), hbell, hphase⟩
  case unpowered => exact .of_unchanged (exec_bellStrike s) (strike_of_unpowered hdown)
  case others => exact exec_keeps_clock ht hstrike hstart hpower
  case warm =>
    have hkept : OutInv (ClockAt s.time.bell s.time.phase) (exec i s) := by
      cases i <;> try cases hstart
      case startupPhaseEnd r => exact phaseEnds_keeps_of_warm (P := ClockAt s.time.bell s.time.phase) r hwarm ⟨rfl, rfl⟩
      case resetEnd x failed => exact resetEnds_keeps_of_warm (closed_clockAt s.time.bell s.time.phase) x failed hwarm ⟨rfl, rfl⟩
    exact hkept.of_next ht

/-! ### The fuse minimum -/

/-- The fuse minimum stands at a value or above it. -/
def SvnFrom (n : Nat) (v : View) : Prop := n ≤ v.minSvn

theorem closed_svnFrom (n : Nat) : Closed (SvnFrom n) :=
  ⟨fun _ _ _ _ h => h, fun _ _ _ _ h => h, fun _ _ h => h, fun _ _ h => h⟩

theorem rolled_svnFrom (n : Nat) : Rolled (SvnFrom n) := fun _ _ h => le_max_of_le_left h

/-- The arm of FW_FLASH_WRITE_DONE. -/
theorem exec_fwFlashWriteDone (s : State) : exec .fwFlashWriteDone s = done s (flashWritten s) := rfl

/-- The end of a roll's write raises the fuse minimum to that of the image written (R506). -/
theorem flashWritten_minSvn {s : State} {r : Roll} {img : FwImage} (hroll : s.sec.roll = some r) (hwriting : r.writing = true)
    (himg : s.sec.staged = some img) : (flashWritten s).sec.minSvn = max s.sec.minSvn img.minsvn := by
  unfold flashWritten
  simp only [hroll, hwriting, himg, Bool.not_true, Bool.false_eq_true, if_false]
  exact congrArg View.minSvn (view_eq_of_keeps (fun _ s => rollEnd_inv s r img.version 32 0x1F _) _)

/-- Settles O8: no command lowers the minimum, and the flash write of a roll takes the greater of the two. -/
theorem fuseMinimumNeverFalls : Obligations.FuseMinimumNeverFalls := by
  unfold Obligations.FuseMinimumNeverFalls
  refine ⟨fun i s t ht => ?never, fun s r img hroll hwriting himg => ?roll⟩
  case never =>
    exact (exec_inv (closed_svnFrom s.sec.minSvn) i s (fun _ _ h => h) (fun _ _ _ h => h) (fun _ _ h => h) (fun _ => rolled_svnFrom _)
      (le_refl s.sec.minSvn)).of_next ht
  case roll => exact ⟨_, .of_exec_eq_done (exec_fwFlashWriteDone s), flashWritten_minSvn hroll hwriting himg⟩

/-! ### Commands that store nothing -/

/-- Memory and the line cache stand as they are. -/
def StoreAt (m : List Host.Cell) (c : List CacheLine) (v : View) : Prop := v.mem = m ∧ v.cache = c

/-- A start keeps memory and the line cache. -/
theorem started_storeAt (m : List Host.Cell) (c : List CacheLine) : Started (StoreAt m c) := fun _ _ h => h

/-- The end of a flash write keeps them. -/
theorem rolled_storeAt (m : List Host.Cell) (c : List CacheLine) : Rolled (StoreAt m c) := fun _ _ h => h

/-- The commands of `storesNothing` keep every property of the view that a start and a roll keep: none of them calls a memory operation. -/
theorem exec_keeps_of_storesNothing (hA : Started P) (hR : Rolled P) {i : Instr} (hi : storesNothing i = true) {s : State} (hs : Kept P s) :
    OutInv P (exec i s) := by
  cases i <;> try cases hi
  case spareReq p h lane frame => exact execSpareReq_inv p h lane frame s hs
  case spareAck p h lane frame => exact execSpareAck_inv p h lane frame s hs
  case window p h d => exact execWindow_inv p h d s hs
  case windowAck p h d => exact execWindowAck_inv p h d s hs
  case mboxRsp p h d => exact execMboxRsp_inv p h d s hs
  case leaseRenew p h d => exact execLeaseRenew_inv p h d s hs
  case leaseGrant p h d => exact execLeaseGrant_inv p h d s hs
  case snap fn => exact execSnap_inv fn s hs
  case pop fn => exact execPop_inv fn s hs
  case lwSel fn offset size value => exact execLwSel_inv fn offset size value s hs
  case rcvGo value image => exact execRcvGo_inv value image s hs
  case registerWrite fn offset size value => exact execRegisterWrite_inv fn offset size value s hs
  case clearFaults => exact execClearFaults_inv s hs
  case mfrPcap value => exact execMfrPcap_inv value s hs
  case setdasa addr dynamic => exact execSetdasa_inv addr dynamic s hs
  case entdaa dynamic => exact execEntdaa_inv dynamic s hs
  case extest => exact execExtest_inv s hs
  case extestPulse => exact execExtestPulse_inv s hs
  case extestTrain => exact execExtestTrain_inv s hs
  case trstN => exact execTrstN_inv s hs
  case coldStart => exact execColdStart_inv s hs
  case startupPhaseEnd r => exact execStartupPhaseEnd_inv hA r s hs
  case resetNRelease => exact execResetNRelease_inv s hs
  case ppsEdge widthNs sinceNs => exact execPpsEdge_inv widthNs sinceNs s hs
  case ptpTime tai => exact execPtpTime_inv tai s hs
  case holdover => exact execHoldover_inv s hs
  case refclkLoss => exact execRefclkLoss_inv s hs
  case thermalAlarm place temp => exact execThermalAlarm_inv place temp s hs
  case thermalClear place temp => exact execThermalClear_inv place temp s hs
  case signalDetected p => exact execSignalDetected_inv p s hs
  case trainingDone p => exact execTrainingDone_inv p s hs
  case alignDone p => exact execAlignDone_inv p s hs
  case rekeyDue p => exact execRekeyDue_inv p s hs
  case rekeyRetry p => exact execRekeyRetry_inv p s hs
  case dynamicCapacityAdd c dpa units => exact execDynamicCapacityAdd_inv c dpa units s hs
  case trayWriteTimeout c line => exact execTrayWriteTimeout_inv c line s hs
  case trayTableEntryFree c => exact execTrayTableEntryFree_inv c s hs
  case pwrcycReq => exact execPwrcycReq_inv s hs
  case pwrcycTimeout => exact execPwrcycTimeout_inv s hs
  case flashOpDone => exact execFlashOpDone_inv s hs
  case leaseRenewalDue => exact execLeaseRenewalDue_inv s hs
  case telemetryPeriod t => exact execTelemetryPeriod_inv t s hs
  case capOverrun => exact execCapOverrun_inv s hs
  case lifetimeTick t margins badBer => exact execLifetimeTick_inv t margins badBer s hs
  case bellCheckpoint => exact execBellCheckpoint_inv s hs
  case deferredDue p src tag => exact execDeferredDue_inv p src tag s hs
  case mapRetired => exact execMapRetired_inv s hs
  case moveCopyDone handle => exact execMoveCopyDone_inv handle s hs
  case tableFreed slot => exact execTableFreed_inv slot s hs
  case refusingStateTimeout q point src stall svc qp => exact execRefusingStateTimeout_inv q point src stall svc qp s hs
  case refuseTableClear q point => exact execRefuseTableClear_inv q point s hs
  case gatewayFlush handle block => exact execGatewayFlush_inv handle block s hs
  case qpReleased qp => exact execQpReleased_inv qp s hs
  case interruptDelayExpiry qp => exact execInterruptDelayExpiry_inv qp s hs
  case fwFlashWriteDone => exact execFwFlashWriteDone_inv hR s hs
  case journalWrite area => exact execJournalWrite_inv area s hs
  case hostDieReply xid mstat d => exact execHostDieReply_inv xid mstat d s hs
  case refclkRestored => exact execRefclkRestored_inv s hs
  case tripCleared q => exact execTripCleared_inv q s hs
  case vinWarning mv => exact execVinWarning_inv mv s hs
  case ledgerWindowRead fn slots => exact execLedgerWindowRead_inv fn slots s hs
  case fineWheelSlot q slot => exact execFineWheelSlot_inv q slot s hs
  case coreHealthCheckPassed q core => exact execCoreHealthCheckPassed_inv q core s hs

/-- Settles O11: the commands leave the very cells of memory and the very lines of the line cache. -/
theorem commandsThatStoreNothing : Obligations.CommandsThatStoreNothing := by
  unfold Obligations.CommandsThatStoreNothing
  intro i s t hi ht
  obtain ⟨hmem, hcache⟩ := (exec_keeps_of_storesNothing (started_storeAt s.tier.mem s.tier.lineCache) (rolled_storeAt _ _) hi ⟨rfl, rfl⟩).of_next ht
  exact ⟨fun a => congrArg (Memory.get · a) hmem, hcache⟩

end Sys2Proof.Machine

/-! ## Byte memory -/

namespace Sys2Proof.Machine

/-! ### One byte -/

/-- No address at or below the bound is listed: it reads blank. -/
theorem Memory.get_eq_blank_of_above {m : List Host.Cell} {b a : Nat} (h : Memory.above (some b) m = true) (ha : a ≤ b) :
    Memory.get m a = Memory.blank := by
  induction m generalizing b with
  | nil => rfl
  | cons c m ih =>
    simp only [Memory.above, Bool.and_eq_true, decide_eq_true_eq] at h
    obtain ⟨⟨hb, -⟩, hm⟩ := h
    rw [Memory.get, if_neg (by omega)]
    exact ih hm (by omega)

/-- A memory whose addresses all lie above a bound lists no address twice. -/
theorem Memory.above_tail {b : Option Nat} {c : Host.Cell} {m : List Host.Cell} (h : Memory.above b (c :: m) = true) :
    Memory.above (some c.1) m = true := by
  simp only [Memory.above, Bool.and_eq_true] at h
  exact h.2

/-- What a byte reads after a write of one byte. -/
theorem Memory.get_set {b : Option Nat} {m : List Host.Cell} (h : Memory.above b m = true) (a : Nat) (x : Byte) (y : Nat) :
    Memory.get (Memory.set m a x) y = if y = a then x else Memory.get m y := by
  induction m generalizing b with
  | nil =>
    unfold Memory.set
    by_cases hx : x = Memory.blank
    · simp [hx, Memory.get]
    · simp only [if_neg hx, Memory.get, eq_comm]
  | cons c m ih =>
    have htail := Memory.above_tail h
    have hpast : ∀ z, z ≤ c.1 → Memory.get m z = Memory.blank := fun z hz => Memory.get_eq_blank_of_above htail hz
    unfold Memory.set
    split
    case isTrue hlt =>
      rw [Memory.get, Memory.get, ih htail]
      by_cases hy : y = a
      · rw [if_pos hy, if_pos hy, if_neg (by omega)]
      · rw [if_neg hy, if_neg hy]
    case isFalse hge =>
      split
      case isTrue heq =>
        by_cases hy : y = a
        · by_cases hx : x = Memory.blank <;> simp [Memory.get, hx, hy, hpast a (by omega)]
        · have hcy : c.1 ≠ y := by omega
          have hay : a ≠ y := by omega
          by_cases hx : x = Memory.blank <;> simp [Memory.get, hx, hy, hcy, hay]
      case isFalse hne =>
        by_cases hy : y = a
        · have hca : c.1 ≠ a := hne
          by_cases hx : x = Memory.blank <;> simp [Memory.get, hx, hy, hca, hpast a (by omega)]
        · have hay : a ≠ y := by omega
          by_cases hx : x = Memory.blank <;> simp [Memory.get, hx, hy, hay]

/-! ### Strings of bytes -/

/-- What a byte reads after a write: the byte written there, or what it read before. -/
theorem Memory.get_write {m : List Host.Cell} (h : Memory.wf m = true) (a : Nat) (d : List Byte) (y : Nat) :
    Memory.get (Memory.write m a d) y = if a ≤ y then (d[y - a]?).getD (Memory.get m y) else Memory.get m y := by
  induction d generalizing m a with
  | nil => simp [Memory.write]
  | cons x d ih =>
    rw [Memory.write, ih (Memory.set_wf a x h), Memory.get_set h]
    rcases Nat.lt_trichotomy y a with hlt | rfl | hgt
    · simp only [if_neg (show ¬a + 1 ≤ y by omega), if_neg (show ¬a ≤ y by omega), if_neg (show y ≠ a by omega)]
    · simp
    · obtain ⟨i, rfl⟩ : ∃ i, y = a + 1 + i := ⟨y - (a + 1), by omega⟩
      have hidx : a + 1 + i - a = i + 1 := by omega
      simp only [if_pos (show a + 1 ≤ a + 1 + i by omega), if_pos (show a ≤ a + 1 + i by omega), if_neg (show a + 1 + i ≠ a by omega), hidx,
        Nat.add_sub_cancel_left, List.getElem?_cons_succ]

/-- Outside the bytes written nothing changes. -/
theorem Memory.get_write_of_outside {m : List Host.Cell} (h : Memory.wf m = true) (a : Nat) (d : List Byte) {y : Nat}
    (hy : y < a ∨ a + d.length ≤ y) : Memory.get (Memory.write m a d) y = Memory.get m y := by
  rw [Memory.get_write h]
  split
  · rw [List.getElem?_eq_none (by omega), Option.getD_none]
  · rfl

@[simp] theorem Memory.length_read (m : List Host.Cell) (a n : Nat) : (Memory.read m a n).length = n := by
  induction n generalizing a with
  | zero => rfl
  | succ n ih => rw [Memory.read, List.length_cons, ih]

/-- Byte i of a string read is the byte at its address. -/
theorem Memory.getElem?_read (m : List Host.Cell) (a n i : Nat) :
    (Memory.read m a n)[i]? = if i < n then some (Memory.get m (a + i)) else none := by
  induction n generalizing a i with
  | zero => simp [Memory.read]
  | succ n ih =>
    cases i with
    | zero => simp [Memory.read]
    | succ i => simp only [Memory.read, List.getElem?_cons_succ, ih, Nat.add_lt_add_iff_right, Nat.add_assoc, Nat.add_comm 1 i]

/-- Two memories that agree on the bytes of a string read the same string. -/
theorem Memory.read_congr {m n : List Host.Cell} {a k : Nat} (h : ∀ i, i < k → Memory.get m (a + i) = Memory.get n (a + i)) :
    Memory.read m a k = Memory.read n a k := by
  apply List.ext_getElem?
  intro i
  rw [Memory.getElem?_read, Memory.getElem?_read]
  split
  · rw [h i ‹_›]
  · rfl

/-- The bytes written are the bytes read. -/
theorem Memory.read_write {m : List Host.Cell} (h : Memory.wf m = true) (a : Nat) (d : List Byte) :
    Memory.read (Memory.write m a d) a d.length = d := by
  apply List.ext_getElem?
  intro i
  rw [Memory.getElem?_read]
  split
  case isTrue hi =>
    rw [Memory.get_write h, if_pos (Nat.le_add_right a i), Nat.add_sub_cancel_left, List.getElem?_eq_getElem hi, Option.getD_some]
  case isFalse hi => rw [List.getElem?_eq_none (by omega)]

/-- A string that no written byte touches reads as before. -/
theorem Memory.read_write_of_outside {m : List Host.Cell} (h : Memory.wf m = true) (a : Nat) (d : List Byte) {b k : Nat}
    (hb : b + k ≤ a ∨ a + d.length ≤ b) : Memory.read (Memory.write m a d) b k = Memory.read m b k :=
  Memory.read_congr (fun _ _ => Memory.get_write_of_outside h a d (by omega))

/-- Settles O9: a write is read back byte by byte, and its bytes are the only ones that it writes. -/
theorem bytesWrittenAreTheBytesRead : Obligations.BytesWrittenAreTheBytesRead :=
  ⟨fun _ a d h => Memory.read_write h a d, fun _ a d _ h => Memory.get_write_of_outside h a d⟩

/-! ### The canonical form -/

/-- The first cell of a canonical memory is not blank, and below it every byte reads blank. -/
theorem Memory.head_le_of_reads_alike {c d : Host.Cell} {m n : List Host.Cell} {b : Option Nat} (hm : Memory.above b (c :: m) = true)
    (hn : Memory.above b (d :: n) = true) (h : ∀ a, Memory.get (c :: m) a = Memory.get (d :: n) a) : d.1 ≤ c.1 := by
  by_contra hlt
  have hblank : Memory.get (d :: n) c.1 = Memory.blank := by
    rw [Memory.get, if_neg (by omega)]
    exact Memory.get_eq_blank_of_above (Memory.above_tail hn) (by omega)
  have hread := h c.1
  rw [hblank, Memory.get, if_pos rfl] at hread
  simp only [Memory.above, Bool.and_eq_true, bne_iff_ne] at hm
  exact hm.1.2 hread

/-- A canonical memory with a cell reads a byte that is not blank. -/
theorem Memory.exists_ne_blank {c : Host.Cell} {m : List Host.Cell} {b : Option Nat} (hm : Memory.above b (c :: m) = true) :
    Memory.get (c :: m) c.1 ≠ Memory.blank := by
  simp only [Memory.above, Bool.and_eq_true, bne_iff_ne] at hm
  rw [Memory.get, if_pos rfl]
  exact hm.1.2

/-- Canonical memories above one bound that read alike are equal: their first cells are, and so on. -/
theorem Memory.eq_of_reads_alike {m n : List Host.Cell} {b : Option Nat} (hm : Memory.above b m = true) (hn : Memory.above b n = true)
    (h : ∀ a, Memory.get m a = Memory.get n a) : m = n := by
  induction m generalizing n b with
  | nil =>
    cases n with
    | nil => rfl
    | cons d n => exact absurd (h d.1).symm (Memory.exists_ne_blank hn)
  | cons c m ih =>
    cases n with
    | nil => exact absurd (h c.1) (Memory.exists_ne_blank hm)
    | cons d n =>
      have haddr : c.1 = d.1 :=
        Nat.le_antisymm (Memory.head_le_of_reads_alike hn hm (fun a => (h a).symm)) (Memory.head_le_of_reads_alike hm hn h)
      have hbyte : c.2 = d.2 := by
        have := h c.1
        rwa [Memory.get, if_pos rfl, Memory.get, if_pos haddr.symm] at this
      obtain rfl : c = d := Prod.ext haddr hbyte
      have htail : ∀ a, Memory.get m a = Memory.get n a := by
        intro a
        by_cases ha : a ≤ c.1
        · rw [Memory.get_eq_blank_of_above (Memory.above_tail hm) ha, Memory.get_eq_blank_of_above (Memory.above_tail hn) ha]
        · have := h a
          rwa [Memory.get, Memory.get, if_neg (by omega), if_neg (by omega)] at this
      rw [ih (Memory.above_tail hm) (Memory.above_tail hn) htail]

/-- Settles O10: by the lists, cell by cell. -/
theorem memoryIsWhatItReads : Obligations.MemoryIsWhatItReads :=
  fun _ _ => Memory.eq_of_reads_alike

/-! ### Masked units (Table 5.2) -/

/-- Byte i of a line after a masked unit. -/
theorem getElem?_maskedLine (u old : List Byte) (i : Nat) :
    (maskedLine u old)[i]? = (old[i]?).map (fun b =>
      if maskBase u ≤ i && decide (i < maskBase u + 56) && bit (wordAt u 56) (i - maskBase u) then (u[i - maskBase u]?).getD b else b) := by
  simp only [maskedLine, List.getElem?_map, List.getElem?_zipIdx, Option.map_map, Nat.zero_add]
  rfl

theorem length_maskedLine (u old : List Byte) : (maskedLine u old).length = old.length := by
  rw [maskedLine, List.length_map, List.length_zipIdx]

/-- A mask of zeros has no bit set. -/
theorem bit_eq_false_of_maskEmpty {u : List Byte} (h : maskEmpty u = true) {j : Nat} (hj : j < 56) : bit (wordAt u 56) j = false := by
  have hlow : (wordAt u 56).toNat % 2 ^ 56 = 0 := by
    simpa [maskEmpty, fld] using h
  have hbit : ((wordAt u 56).toNat % 2 ^ 56).testBit j = false := by rw [hlow, Nat.zero_testBit]
  rw [Nat.testBit_mod_two_pow, decide_eq_true hj, Bool.true_and] at hbit
  exact hbit

/-- Settles O28: the bytes under a set bit come from the unit, the others from the line. -/
theorem maskSelectsBytes : Obligations.MaskSelectsBytes := by
  unfold Obligations.MaskSelectsBytes
  intro u old hu hold hbase
  refine ⟨by rw [length_maskedLine, hold], fun j hj hset => ?set, fun i hi hclear => ?clear, fun hempty => ?empty⟩
  case set =>
    have hline : maskBase u + j < old.length := by omega
    have hunit : j < u.length := by omega
    rw [getElem?_maskedLine, Nat.add_sub_cancel_left, hset, decide_eq_true (show maskBase u + j < maskBase u + 56 by omega),
      decide_eq_true (Nat.le_add_right (maskBase u) j), List.getElem?_eq_getElem hline, List.getElem?_eq_getElem hunit]
    rfl
  case clear =>
    have hcond : (maskBase u ≤ i && decide (i < maskBase u + 56) && bit (wordAt u 56) (i - maskBase u)) = false := by
      rcases hclear with h | h | h
      · simp [Nat.not_le.mpr h]
      · simp [Nat.not_lt.mpr h]
      · rw [h, Bool.and_false]
    rw [getElem?_maskedLine]
    simp only [hcond, Bool.false_eq_true, if_false, Option.map_id']
  case empty =>
    apply List.ext_getElem?
    intro i
    have hcond : (maskBase u ≤ i && decide (i < maskBase u + 56) && bit (wordAt u 56) (i - maskBase u)) = false := by
      by_cases hin : maskBase u ≤ i ∧ i < maskBase u + 56
      · rw [bit_eq_false_of_maskEmpty hempty (by omega), Bool.and_false]
      · simp only [Bool.and_eq_false_iff, decide_eq_false_iff_not]
        omega
    rw [getElem?_maskedLine]
    simp only [hcond, Bool.false_eq_true, if_false, Option.map_id']

end Sys2Proof.Machine

/-! ## Requests on their way in (Table 1.2) -/

namespace Sys2Proof.Machine

/-- A command that is one of the rows of Table 3.6 is an arrival, and then what its arrival lets go on. -/
theorem exec_requestRow {row : Nat × (Nat → ReqHdr → List Byte → Instr)} (h : row ∈ requestRows) (p : Nat) (r : ReqHdr) (d : List Byte) (s : State) :
    exec (row.2 p r d) s = done s (afterRequest row.1 r (arrive s p row.1 r d)) := by
  simp only [requestRows, List.mem_cons, List.not_mem_nil, or_false] at h
  rcases h with rfl | rfl | rfl | rfl | rfl | rfl | rfl | rfl | rfl | rfl | rfl | rfl | rfl | rfl | rfl | rfl | rfl | rfl | rfl | rfl | rfl | rfl
    <;> rfl

/-- No power cycle is under way where the device is in no reset. -/
theorem powerCycling_eq_false {s : State} (h : deviceInReset s = false) : powerCycling s = false := by
  simp only [deviceInReset, powerCycling, List.any_eq_false, Bool.or_eq_true] at h ⊢
  exact fun r hr hpower => h r hr (.inr hpower)

/-- A point that no stream and no full table refuses at lets a request through. -/
theorem meetPoint_of_none_refusing {s : State} (hrefusing : s.sw.refusing = []) (hfull : s.sw.full = []) (q point home p opc : Nat) (h : ReqHdr)
    (id : Nat) : meetPoint s q point home p opc h id = (false, s) := by
  simp [meetPoint, pointFull, hrefusing, hfull]

/-- What `entersDevice` says, part by part. -/
theorem entersDevice_iff {s : State} {p opc : Nat} {h : ReqHdr} {d : List Byte} : entersDevice s p opc h d = true ↔
    portUp s p = true ∧ (portOf s p).ptype ≠ 1 ∧ h.src = (portOf s p).epid ∧ formOk opc h d = true ∧ isDuplicate s h.src h.tag = false
      ∧ (if isXfer opc then (portOf s p).ptype ≠ 2 else (portOf s p).ptype ≠ 3 ∨ opc = 0x20)
      ∧ s.sw.refusing = [] ∧ s.sw.full = [] ∧ outstanding s p < 8192
      ∧ (Tab.getD s.sw.policers (policerKey (portQuarter p) h.stall h.svc) {}).mode = 0 ∧ isBound s h.stall h.src = true := by
  cases hx : isXfer opc <;> simp [entersDevice, and_assoc, hx]

/-- The policer that is off lets every request pass. -/
theorem policer_of_off {s : State} {q : Nat} {h : ReqHdr} (hoff : (Tab.getD s.sw.policers (policerKey q h.stall h.svc) {}).mode = 0) (c : Nat) :
    policer s q h c = (true, s) := by
  simp only [policer, hoff, if_true]

/-- The request as its port makes it. -/
def portReq (s : State) (p opc : Nat) (h : ReqHdr) (d : List Byte) : Req :=
  { org := .port, port := p, opc := opc, h := h, data := d, win := (portOf s p).window }

/-- Steps 2 and 3 of Table 1.2 let a request that enters go on by the maps. -/
theorem pastHeader_of_enters {s : State} {p opc : Nat} {h : ReqHdr} {d : List Byte} (hin : entersDevice s p opc h d = true) (r : Req) :
    pastHeader s p opc h d r = route s r false := by
  obtain ⟨-, hptype, -, -, -, -, hrefusing, hfull, hout, hoff, hbound⟩ := entersDevice_iff.mp hin
  have hlimit : ¬(if (portOf s p).gang then 16384 else 8192) ≤ outstanding s p := by split <;> omega
  have hother : ((portOf s p).ptype == 1) = false := beq_eq_false_iff_ne.mpr hptype
  unfold pastHeader
  simp only [meetPoint_of_none_refusing hrefusing hfull, Bool.false_eq_true, if_false, hlimit, hptype, policer_of_off hoff, hbound, Bool.not_true,
    and_false, hother]

/-- A request that enters the device goes by the maps. -/
theorem arrive_of_enters {s : State} {p opc : Nat} {h : ReqHdr} {d : List Byte} (hin : entersDevice s p opc h d = true)
    (hpower : powerCycling s = false) : arrive s p opc h d = route s (portReq s p opc h d) false := by
  obtain ⟨hup, hptype, hsrc, hform, hdup, hkind, -⟩ := entersDevice_iff.mp hin
  have hgateway : ((portOf s p).ptype == 3 && !(isXfer opc || opc == 0x20)) = false := by
    cases hx : isXfer opc
    · simp only [hx, Bool.false_eq_true, if_false] at hkind
      simpa [beq_eq_false_iff_ne] using hkind.resolve_left
    · simp
  have hendpoint : ((portOf s p).ptype == 2 && isXfer opc) = false := by
    cases hx : isXfer opc
    · simp
    · simpa [hx] using hkind
  have hsource : ¬((portOf s p).ptype ≠ 1 ∧ h.src ≠ (portOf s p).epid) := fun hwrong => hwrong.2 hsrc
  unfold arrive
  simp only [hup, hpower, hform, hdup, hgateway, hendpoint, Bool.not_true, Bool.or_self, Bool.false_eq_true, if_false, hsource, hptype]
  exact pastHeader_of_enters hin _

/-! ### A request that comes home -/

/-- What `comesHome` says, part by part. -/
theorem comesHome_iff {s : State} {p opc : Nat} {h : ReqHdr} {d : List Byte} {m : CompMap} {prev : Bool} {e : MapEntry} {g : Region} :
    comesHome s p opc h d m prev e g = true ↔
      selectMap s h.mepoch = some (m, prev) ∧ h.handle ≠ 0 ∧ h.handle ≠ 0xFFFFFF ∧ Tab.get? m.handles h.handle = some e
        ∧ e.homedev = s.dom.devid ∧ movedTo s h.handle = none ∧ inService s h.handle = some g
        ∧ bufferRefuses s p h d.length (0x100 + g.homeq % 4) = false ∧ (isXfer opc = false ∨ hasRole s s.maps.cur g.comp 2 = true)
        ∧ (homeCheck s opc h (isXfer opc)).1 = OK ∧ deviceInReset s = false ∧ quarterInReset s g.homeq = false
        ∧ modeRefuses s g opc h false true = false ∧ ((g.sealed && isExpanded g opc h.raw) = false ∨ policyOk s p g.handle = true) := by
  cases hsealed : g.sealed <;> simp [comesHome, and_assoc, hsealed]

/-- The request as a port makes it passes step 4 where the buffer has room and a transfer goes through a gateway. -/
theorem stepFour_of_room {s : State} {r : Req} {home comp : Nat} (horg : r.org = .port)
    (hroom : bufferRefuses s r.port r.h r.data.length (0x100 + home % 4) = false)
    (hrole : isXfer r.opc = true → hasRole s s.maps.cur comp 2 = true) : stepFour s r home comp = none := by
  have hgateway : ¬((portOf s r.port).ptype = 3 ∧ isXfer r.opc = true ∧ (!hasRole s s.maps.cur comp 2) = true) := by
    rintro ⟨-, hxfer, hnone⟩
    simp [hrole hxfer] at hnone
  simp only [stepFour, horg, hroom, Bool.false_eq_true, if_false, hgateway]

/-- A port's request that the region takes, and to whose port its expanded data may go, is admitted. -/
theorem takeAtHome_of_allowed {s : State} {r : Req} {g : Region} (horg : r.org = .port) (hmode : modeRefuses s g r.opc r.h false true = false)
    (hpolicy : (g.sealed && isExpanded g r.opc r.h.raw) = false ∨ policyOk s r.port g.handle = true) :
    takeAtHome s r g = admitReq s { r with q := g.homeq, comp := g.comp } g := by
  have hallowed : (g.sealed && isExpanded g r.opc r.h.raw && !policyOk s r.port g.handle) = false := by
    rcases hpolicy with hplain | hok
    · rw [hplain]; rfl
    · rw [hok]; exact Bool.and_false _
  simp only [takeAtHome, horg, hmode, hallowed, Bool.false_eq_true, if_false]

/-- A port's request that passes the checks of Table 4.2 and step 4, in no reset, is for the region to take. -/
theorem atHome_of_checked {s : State} {r : Req} {g : Region} (horg : r.org = .port) (hcheck : (homeCheck s r.opc r.h (isXfer r.opc)).1 = OK)
    (hserved : inService s r.h.handle = some g) (hdevice : deviceInReset s = false) (hquarter : quarterInReset s g.homeq = false)
    (hfour : stepFour s r (s.dom.devid * 4 + g.homeq) g.comp = none) (comp : Nat) : atHome s r comp = takeAtHome s r g := by
  have hchecked : ((homeCheckOf s r).1 != OK) = false := by
    simpa only [homeCheckOf, horg, Bool.or_false, homeCheck, bne_eq_false_iff_eq] using hcheck
  simp only [atHome, hchecked, Bool.false_eq_true, if_false, hserved, hdevice, hquarter, hfour]

/-- A request that comes home passes the home's checks and is admitted. -/
theorem atHome_of_comesHome {s : State} {p opc : Nat} {h : ReqHdr} {d : List Byte} {m : CompMap} {prev : Bool} {e : MapEntry} {g : Region}
    (hhome : comesHome s p opc h d m prev e g = true) (comp : Nat) :
    atHome s { portReq s p opc h d with prev := prev } comp = admitReq s (arrivedReq s p opc h d prev g) g := by
  obtain ⟨-, -, -, -, -, -, hserved, hroom, hrole, hcheck, hdevice, hquarter, hmode, hpolicy⟩ := comesHome_iff.mp hhome
  have hfour : stepFour s { portReq s p opc h d with prev := prev } (s.dom.devid * 4 + g.homeq) g.comp = none := by
    refine stepFour_of_room rfl ?_ (fun hxfer => hrole.resolve_left (by simpa [portReq] using hxfer))
    have hquarterOf : (s.dom.devid * 4 + g.homeq) % 4 = g.homeq % 4 := by omega
    simpa only [portReq, hquarterOf] using hroom
  rw [atHome_of_checked (r := { portReq s p opc h d with prev := prev }) rfl hcheck hserved hdevice hquarter hfour]
  exact takeAtHome_of_allowed (r := { portReq s p opc h d with prev := prev }) rfl hmode hpolicy

/-- A request that comes home goes by its map to the home agent of this device. -/
theorem route_of_comesHome {s : State} {p opc : Nat} {h : ReqHdr} {d : List Byte} {m : CompMap} {prev : Bool} {e : MapEntry} {g : Region}
    (hhome : comesHome s p opc h d m prev e g = true) :
    route s (portReq s p opc h d) false = admitReq s (arrivedReq s p opc h d prev g) g := by
  obtain ⟨hmap, hzero, hall, hentry, hdev, hmoved, -⟩ := comesHome_iff.mp hhome
  have hnamed : ¬(h.handle = 0 ∨ h.handle = 0xFFFFFF) := fun hnone => hnone.elim hzero hall
  have hatHome := atHome_of_comesHome hhome e.comp
  simp only [portReq] at hatHome ⊢
  simp only [route, hmap, hnamed, if_false, hentry, hmoved, hdev, if_true, hatHome]

/-- Settles O22: the request passes steps 1 to 3 unchanged, its map names this device, and the home's checks let it in. -/
theorem requestsAreAdmitted : Obligations.RequestsAreAdmitted := by
  intro row p h d s m prev e g hrow hin hhome
  obtain ⟨-, -, -, -, -, -, -, -, -, -, hdevice, -⟩ := comesHome_iff.mp hhome
  have harrive : arrive s p row.1 h d = admitReq s (arrivedReq s p row.1 h d prev g) g :=
    (arrive_of_enters hin (powerCycling_eq_false hdevice)).trans (route_of_comesHome hhome)
  exact .of_exec_eq_done (harrive ▸ exec_requestRow hrow p h d s)

/-! ### Requests that a power cycle swallows -/

/-- A power cycle is under way while endpoint 0x100 holds a link on port 0, device 2 one on port 4, and region 5 lives at device 2. -/
def cyclingState : State := { State.reset with
  ports := [(0, { st := .up, enabled := true, epid := 0x100 }), (4, { st := .up, enabled := true, ptype := 1, epid := 2 })]
  maps := { cur := { epoch := 1, handles := [(5, { comp := 1, homedev := 2 })] } }
  stalls := [(1, { comp := some 1, binds := [0x100] })]
  rst := { running := [{ scope := .power }] } }

/-- The endpoint's LOAD of line 0 of region 5. -/
def loadReq : ReqHdr := { src := 0x100, tag := 1, stall := 1, handle := 5, mepoch := 1, len := 1, key := 7 }

/-- While the power is cycled a request that arrives changes nothing (R85). -/
theorem arrive_of_powerCycling {s : State} (h : powerCycling s = true) (p opc : Nat) (r : ReqHdr) (d : List Byte) : arrive s p opc r d = s := by
  simp only [arrive, h, Bool.or_true, if_true]

/-- Where no answer to a FENCE waits, none goes. -/
theorem releaseFences_of_none_held {s : State} (h : s.fab.relays.filter (·.held.isSome) = []) : releaseFences s = s := by
  simp only [releaseFences, h, each, List.foldl_nil]

/-- A LOAD that arrives while the power is cycled leaves the whole state as it was. -/
theorem exec_load_of_cycling (r : ReqHdr) : exec (.load 0 r []) cyclingState = .next cyclingState := by
  have harrive := arrive_of_powerCycling (s := cyclingState) (by decide) 0 1 r []
  have hrow := exec_requestRow (row := (0x01, .load)) (by simp [requestRows]) 0 r [] cyclingState
  rw [harrive] at hrow
  rw [hrow, afterRequest, if_neg (by decide), releaseFences_of_none_held rfl]
  rfl

/-- Refutes O23: nothing in its first clause says that the device's power is not being cycled, in which a request that arrives is not
taken (R85), so that no relay remembers it. -/
theorem not_requestsForOtherHomesAreForwarded : ¬ Obligations.RequestsForOtherHomesAreForwarded := by
  intro h
  have hforwarded := h.1 (0x01, .load) 0 4 loadReq [] cyclingState cyclingState.maps.cur false { comp := 1, homedev := 2 }
    (by simp [requestRows]) (by decide) (by decide) (by decide) (by decide) (by decide) (by decide) (by decide) (by decide) (by decide) (by decide)
    (by simp [pickPort, portsToDevice, cyclingState, State.reset])
  have hsame : _ = Host.Outcome.next _ := (exec_load_of_cycling loadReq).symm.trans hforwarded
  injection hsame with hsame
  exact absurd (congrArg (fun t => t.fab.relays.length) hsame) (by decide)

/-- Refutes O24: nothing in its second clause says that the device's power is not being cycled, in which a request that arrives is not
looked at (R85): one with the wrong source leaves no record. -/
theorem not_badRequestsAreTurnedAway : ¬ Obligations.BadRequestsAreTurnedAway := by
  intro h
  have hdiscarded := (h (0x01, .load) 0 { loadReq with src := 0x101 } [] cyclingState (by simp [requestRows])).2.1 (by decide) (by decide) (by decide)
  have hsame : _ = Host.Outcome.next _ := (exec_load_of_cycling { loadReq with src := 0x101 }).symm.trans hdiscarded
  injection hsame with hsame
  exact absurd (congrArg (fun t => t.fab.rate.length) hsame) (by decide)

/-! ### The checks of Table 4.2 and the policer -/

/-- The checks after the region's, in their order, where its keys are there. -/
theorem homeCheck_of_inService {s : State} {h : ReqHdr} {g : Region} (hserved : inService s h.handle = some g)
    (hkeys : awaitsKeys s h.handle = false) (opc : Nat) (nonCaching : Bool) : homeCheck s opc h nonCaching =
      if keyTest s g h.key h.stall (rightsNeeded opc) ≠ OK then (keyTest s g h.key h.stall (rightsNeeded opc), 0)
      else if viewBytes s g opc h.raw < h.offset + max h.len 1 * 64 then (OUT_OF_BOUNDS, 0)
      else if g.mode = 1 ∧ (nonCaching = true ∨ h.src ∉ s.dom.caching) then (NOT_COHERENT, 0)
      else if g.fenced = true ∧ 2 ≤ rightsNeeded opc then (READ_ONLY, s.dom.devid)
      else (OK, 0) := by
  simp [homeCheck, homeCheckAs, hserved, hkeys]

/-- Settles O25: the checks are one chain of conditions, whose premises each clause takes in turn. -/
theorem homeChecksInOrder : Obligations.HomeChecksInOrder := by
  intro s opc h nonCaching
  refine ⟨fun hnone => ?noRegion, fun g hserved hkeys => ?held, fun g hserved hkeys => ?_⟩
  case noRegion => simp only [homeCheck, homeCheckAs, hnone]
  case held => simp only [homeCheck, homeCheckAs, hserved, hkeys, if_true]
  rw [homeCheck_of_inService hserved hkeys]
  refine ⟨fun hkey => if_pos hkey, fun hkey hbound => ?bounds, fun hkey hbound hmode hcaching => ?coherence,
    fun hkey hbound hmode hfenced hwrites => ?fence, fun hkey hbound hmode hfence => ?passed⟩
  all_goals rw [if_neg (not_not.mpr hkey)]
  case bounds => rw [if_pos hbound]
  case coherence => rw [if_neg (Nat.not_lt.mpr hbound), if_pos ⟨hmode, hcaching⟩]
  all_goals
    have hcached : ¬(g.mode = 1 ∧ (nonCaching = true ∨ h.src ∉ s.dom.caching)) := by
      rintro ⟨hone, hbad⟩
      rcases hmode with hother | ⟨hno, hin⟩
      · exact hother hone
      · exact hbad.elim (by simp [hno]) (fun hout => hout hin)
    rw [if_neg (Nat.not_lt.mpr hbound), if_neg hcached]
  case fence => rw [if_pos ⟨hfenced, hwrites⟩]
  case passed =>
    refine if_neg ?_
    rintro ⟨hfenced, hwrites⟩
    exact hfence.elim (by simp [hfenced]) (fun hreads => absurd hwrites (Nat.not_le.mpr hreads))

/-- A drop is counted in the policer's entry, whose tokens stay. -/
theorem policeDrop_entry (s : State) (q stall svc : Nat) :
    (Tab.getD (policeDrop s q stall svc).sw.policers (policerKey q stall svc) {}).drops =
        ((Tab.getD s.sw.policers (policerKey q stall svc) {}).drops + 1) % 2 ^ 40
      ∧ (Tab.getD (policeDrop s q stall svc).sw.policers (policerKey q stall svc) {}).tokens =
        (Tab.getD s.sw.policers (policerKey q stall svc) {}).tokens := by
  unfold policeDrop
  dsimp only
  split <;> simp [record, Tab.getD_set]

/-- Settles O29: the policer's mode and tokens decide alone. -/
theorem policerTakesTokens : Obligations.PolicerTakesTokens := by
  intro s q c h
  refine ⟨fun hoff => policer_of_off hoff c, fun hon hcovered => ?pays, fun hrefused => ?drops⟩
  case pays =>
    have hnonzero : (Tab.getD s.sw.policers (policerKey q h.stall h.svc) {}).mode ≠ 0 := by omega
    simp only [policer, hnonzero, if_false, and_self, if_pos (And.intro hon hcovered)]
  case drops =>
    have hnonzero : (Tab.getD s.sw.policers (policerKey q h.stall h.svc) {}).mode ≠ 0 := by omega
    have hshort : ¬((Tab.getD s.sw.policers (policerKey q h.stall h.svc) {}).mode = 1
        ∧ c ≤ (Tab.getD s.sw.policers (policerKey q h.stall h.svc) {}).tokens) := by omega
    simp only [policer, hnonzero, if_false, hshort, true_and]
    exact policeDrop_entry s q h.stall h.svc

/-! ### CXL.mem accesses -/

theorem exec_cxlmemAccess (fn handle slot offset len : Nat) (write : Option (List Byte)) (s : State) :
    exec (.cxlmemAccess fn handle slot offset len write) s = done s (cxlAccess s fn handle slot offset len write) := rfl

/-- Settles O30: a window's access passes the home's checks, and goes on or fails as they say. -/
theorem cxlAccessesAreChecked : Obligations.CxlAccessesAreChecked := by
  intro fn handle slot offset len write s e g hzero hall hentry hserved hquarter hdevice opc h
  have hnamed : ¬(handle = 0 ∨ handle = 0xFFFFFF) := fun hnone => hnone.elim hzero hall
  refine ⟨fun hmoved hcheck hform hmode => .of_exec_eq_done ?admitted, fun hmoved hcheck => .of_exec_eq_done ?refused,
    fun dev hmoved => .of_exec_eq_done ?moved⟩
  all_goals
    rw [exec_cxlmemAccess]
    simp only [cxlAccess, hnamed, if_false, hentry, hserved, hquarter, hdevice, Bool.or_self, Bool.false_eq_true, hmoved]
  case admitted =>
    have hpassed : ((homeCheck s opc h true).1 != OK) = false := bne_eq_false_iff_eq.mpr hcheck
    simp only [opc, h] at hpassed hform hmode ⊢
    simp only [hpassed, hform, hmode, Bool.not_true, Bool.or_self, Bool.false_eq_true, if_false]
  case refused =>
    have hfailed : ((homeCheck s opc h true).1 != OK) = true := bne_iff_ne.mpr hcheck
    simp only [opc, h] at hfailed ⊢
    simp only [hfailed, if_true]
  case moved => rfl

/-! ### Answers to the device's own messages -/

theorem exec_snoopResponse (p : Nat) (h : RspHdr) (d : List Byte) (s : State) :
    exec (.snoopResponse p h d) s = done s (snoopAnswer s p h d) := rfl

theorem exec_parityDeltaResponse (p : Nat) (h : RspHdr) (d : List Byte) (s : State) :
    exec (.parityDeltaResponse p h d) s = done s (deltaAnswer s p h) := rfl

theorem exec_gatewayXferResponse (p : Nat) (h : RspHdr) (d : List Byte) (s : State) :
    exec (.gatewayXferResponse p h d) s = done s (xferAnswer s p h d) := rfl

/-- Settles O31: what is outstanding and the answer's status decide what an answer does. -/
theorem answersComeHome : Obligations.AnswersComeHome := by
  refine ⟨fun p h d s hup => ⟨fun n hfound => .of_exec_eq_done ?snoop, fun hnone => .of_exec_eq_done ?noSnoop⟩,
    fun p h d s x hup hok hfound => ⟨fun hreq hserved => .of_exec_eq_done ?acknowledged, fun hreq hpage => .of_exec_eq_done ?pushed⟩,
    fun p h d s x g hup hfound hgw => ?transfer⟩
  case snoop => simp only [exec_snoopResponse, snoopAnswer, hup, Bool.not_true, Bool.false_eq_true, if_false, hfound]
  case noSnoop => simp only [exec_snoopResponse, snoopAnswer, hup, Bool.not_true, Bool.false_eq_true, if_false, hnone]
  case acknowledged =>
    have hfinal : (OK == DEFERRED) = false := rfl
    simp only [exec_parityDeltaResponse, deltaAnswer, hup, hfinal, Bool.not_true, Bool.or_self, Bool.false_eq_true, if_false, hfound, hok, if_true,
      hreq, hserved, decide_false, Bool.false_and]
  case pushed =>
    have hfinal : (OK == DEFERRED) = false := rfl
    simp only [exec_parityDeltaResponse, deltaAnswer, hup, hfinal, Bool.not_true, Bool.or_self, Bool.false_eq_true, if_false, hfound, hok, if_true,
      hreq, hpage, decide_true, Bool.true_or, Bool.not_false, Bool.and_self]
  case transfer =>
    have hanswer : h.status ≠ DEFERRED → xferAnswer s p h d =
        if h.status = BUSY_RETRY ∨ h.status = POLICED ∨ h.status = AGED then
          settleAll { s with regs := { s.regs with
            gwXfers := adjustWhere s.regs.gwXfers (fun y => y.tag == x.tag) (fun y => { y with retryAt := some (now s + 140 * h.retry) }) } }
        else if h.status = EPOCH_STALE then
          reissue { s with regs := { s.regs with gw := Tab.adjust s.regs.gw x.handle (fun g => { g with rmepoch := fld h.detail 7 0 }) } } x
        else if x.write then
          settleAll (if h.status = OK then { s with regs := { s.regs with gwXfers := s.regs.gwXfers.filter (fun y => y.tag != x.tag) } }
            else flushFails { s with regs := { s.regs with gwXfers := s.regs.gwXfers.filter (fun y => y.tag != x.tag) } } x h.status)
        else if h.status = OK then
          settleAll (fillBlock { s with regs := { s.regs with gwXfers := s.regs.gwXfers.filter (fun y => y.tag != x.tag) } } g x d)
        else settleAll (failBlock { s with regs := { s.regs with gwXfers := s.regs.gwXfers.filter (fun y => y.tag != x.tag) } } g
          (x.line * 64 / gwBlockBytes g) h.status h.detail) := by
      intro hfinal
      have hbound : gwOf { s with regs := { s.regs with gwXfers := s.regs.gwXfers.filter (fun y => y.tag != x.tag) } } x.handle = some g := hgw
      simp only [xferAnswer, hup, beq_false_of_ne hfinal, Bool.not_true, Bool.or_self, Bool.false_eq_true, if_false, hfound, hbound]
    refine ⟨fun hok hread => .of_exec_eq_done ?read, fun hok hwrite => .of_exec_eq_done ?written, fun hstale => .of_exec_eq_done ?stale,
      fun hbusy => .of_exec_eq_done ?retried⟩
    case read =>
      rw [exec_gatewayXferResponse, hanswer (by rw [hok]; decide), hok, if_neg (by decide), if_neg (by decide), hread]
      simp only [Bool.false_eq_true, if_false, if_true]
    case written =>
      rw [exec_gatewayXferResponse, hanswer (by rw [hok]; decide), hok, if_neg (by decide), if_neg (by decide), hwrite]
      simp only [if_true]
    case stale => rw [exec_gatewayXferResponse, hanswer (by rw [hstale]; decide), hstale, if_neg (by decide), if_pos rfl]
    case retried =>
      have hfinal : h.status ≠ DEFERRED := by rcases hbusy with hbusy | hbusy <;> rw [hbusy] <;> decide
      rw [exec_gatewayXferResponse, hanswer hfinal, if_pos (hbusy.imp_right Or.inl)]

end Sys2Proof.Machine

/-! ## Registers, pins and time (Tables 2.3, 15.1, 16.2 to 16.4, 22.8 and 22.9) -/

namespace Sys2Proof.Machine

/-! ### BAR0 -/

theorem exec_pop (fn : Nat) (s : State) : exec (.pop fn) s = done s (popResponse s fn) := rfl
theorem exec_lwSel (fn offset size : Nat) (value : Word) (s : State) :
    exec (.lwSel fn offset size value) s = done s (writeLwSel s fn offset size value) := rfl
theorem exec_go (fn : Nat) (s : State) : exec (.go fn) s = done s (goNow s fn) := rfl
theorem exec_registerWrite (fn offset size : Nat) (value : Word) (s : State) :
    exec (.registerWrite fn offset size value) s = done s (plainWrite s fn offset size value) := rfl
theorem exec_rcvGo (value : Word) (image : List Byte) (s : State) :
    exec (.rcvGo value image) s = done s (recoveryGo s value image) := rfl

/-- Which bits PAGE and SOURCE are. -/
theorem testBit_page_source : ∀ j, j < 64 → Nat.testBit 0x0FFFFFFFFFFFE1FF j = (decide (j < 9) || (decide (13 ≤ j) && decide (j < 60))) := by
  decide

/-- A field of a word, bit by bit. -/
theorem testBit_fld (w : Word) (hi lo j : Nat) : (fld w hi lo).testBit j = (decide (j < hi + 1 - lo) && w.getLsbD (j + lo)) := by
  rw [fld, Nat.testBit_mod_two_pow, Nat.testBit_div_two_pow, BitVec.getLsbD]

/-- A word that keeps PAGE and SOURCE keeps just their bits. -/
theorem pack_page_source (w : Word) : pack [(13, fld w 59 13), (0, fld w 8 0)] = w &&& 0x0FFFFFFFFFFFE1FF#64 := by
  have hpack : pack [(13, fld w 59 13), (0, fld w 8 0)] = BitVec.ofNat 64 (2 ^ 13 * fld w 59 13 + fld w 8 0) := by
    simp only [pack, word, List.foldl_cons, List.foldl_nil, Nat.zero_add, Nat.pow_zero, Nat.mul_one, Nat.mul_comm (fld w 59 13)]
  have hsource : fld w 8 0 < 2 ^ 13 := by unfold fld; omega
  apply BitVec.eq_of_getLsbD_eq
  intro j hj
  rw [hpack, BitVec.getLsbD_and, BitVec.getLsbD_ofNat, BitVec.getLsbD_ofNat, testBit_page_source j hj, Nat.testBit_two_pow_mul_add _ hsource]
  simp only [hj, decide_true, Bool.true_and]
  by_cases hlow : j < 13
  · simp only [hlow, if_true, testBit_fld, Nat.not_le.mpr hlow, decide_false, Bool.false_and, Bool.or_false, Nat.add_zero, Bool.and_comm]
  · have hhigh : j - 13 + 13 = j := by omega
    have hpage : j - 13 < 59 + 1 - 13 ↔ j < 60 := by omega
    simp only [hlow, if_false, testBit_fld, hhigh, hpage, show ¬j < 9 by omega, Nat.not_lt.mp hlow, decide_true, decide_false, Bool.false_or,
      Bool.true_and, Bool.and_comm]

/-- Settles O13: POP and LW_SEL are updates of one function's registers, and GO takes the command that MB_CMD spells. -/
theorem mailboxRegisters : Obligations.MailboxRegisters := by
  refine ⟨fun fn s => ⟨popResponse s fn, .of_exec_eq_done (exec_pop fn s), ?popped, ?popOthers, ?popFrame⟩,
    fun fn offset size value s => ⟨writeLwSel s fn offset size value, .of_exec_eq_done (exec_lwSel fn offset size value s), ?selected, ?selFrame,
      ?selOthers⟩, fun fn s hroom _ => .of_exec_eq_done ?taken⟩
  case popped => exact funcOf_updFunc_same s fn _
  case popOthers => exact fun g hg => funcOf_updFunc_of_ne s _ hg
  case popFrame => exact updFunc_frame s fn _
  case selected => simp only [writeLwSel, funcOf_updFunc_same, pack_page_source]
  case selFrame => exact updFunc_frame s fn _
  case selOthers => exact fun g hg => funcOf_updFunc_of_ne s _ hg
  case taken =>
    have hfn : (issuerOf fn).fn = fn := by
      unfold issuerOf
      split
      · next hpf => exact hpf.symm
      · rfl
    have hreach : reaches s (issuerOf fn) = true := by
      unfold issuerOf
      split <;> rfl
    simp only [exec_go, goNow, mailbox, hreach, hfn, Nat.not_le.mpr hroom, Bool.not_true, Bool.false_eq_true, if_false]

/-- Element i of a list that a change of element k leaves. -/
theorem getD_modNth {α : Type} (l : List α) (i k : Nat) (f : α → α) (d : α) (hk : k < l.length) :
    (modNth l i f).getD k d = if k = i then f (l.getD k d) else l.getD k d := by
  induction l generalizing i k with
  | nil => simp at hk
  | cons a l ih =>
    cases i with
    | zero => cases k with
      | zero => rfl
      | succ k => rfl
    | succ i => cases k with
      | zero => rfl
      | succ k => simpa [modNth] using ih i k (by simpa using hk)

/-- A list made up to n elements reads the same. -/
theorem getD_append_replicate {α : Type} (l : List α) (n k : Nat) (d : α) : (l ++ List.replicate n d).getD k d = l.getD k d := by
  simp only [List.getD_eq_getElem?_getD, List.getElem?_append, List.getElem?_replicate]
  split
  · rfl
  · next hout =>
    rw [List.getElem?_eq_none (Nat.not_lt.mp hout)]
    split <;> rfl

section
variable {s : State} {fn offset size : Nat} {value : Word} (hrecovery : s.pkg.recovery = false)
include hrecovery

/-- A write to word i of MB_CMD. -/
theorem plainWrite_cmd {i : Nat} (hi : i < 14) (hat : offset / 8 * 8 = 0x410 + 8 * i) :
    plainWrite s fn offset size value = updFunc s fn (fun f => { f with
      cmd := modNth (f.cmd ++ List.replicate (14 - f.cmd.length) 0) i (fun old => merged old (writeBits offset size value)) }) := by
  have hword : (0x410 + 8 * i - 0x410) / 8 = i := by omega
  have hivec : ¬(0x410 + 8 * i = 0x400) := by omega
  have hstatus : ¬(0x410 + 8 * i = 0x408) := by omega
  have hin : 0x410 ≤ 0x410 + 8 * i ∧ 0x410 + 8 * i < 0x480 := by omega
  simp only [plainWrite, hrecovery, Bool.false_eq_true, if_false, hat, hivec, hstatus, hin, and_self, if_true, hword]

/-- A write to IVEC's register. -/
theorem plainWrite_ivec (hat : offset / 8 * 8 = 0x400) : plainWrite s fn offset size value =
    updFunc s fn (fun f => { f with ivec := fld (merged (pack [(9, f.ivec)]) (writeBits offset size value)) 17 9 }) := by
  simp only [plainWrite, hrecovery, Bool.false_eq_true, if_false, hat, if_true]

/-- A write to OVERRUN's register. -/
theorem plainWrite_overrun (hat : offset / 8 * 8 = 0x408) : plainWrite s fn offset size value =
    if bit (writeBits offset size value).1 1 then updFunc s fn (fun f => { f with overrun := f.overrun && f.overrunAt == now s }) else s := by
  simp only [plainWrite, hrecovery, Bool.false_eq_true, if_false, hat, show ¬(0x408 = 0x400) by decide, if_true]

/-- A write to the time status. -/
theorem plainWrite_time (hat : offset / 8 * 8 = 0x100) : plainWrite s fn offset size value =
    if fn = 0 && bit (writeBits offset size value).1 37 then
      { s with time := { s.time with stepped := s.time.stepped && s.time.steppedAt == now s } } else s := by
  simp only [plainWrite, hrecovery, Bool.false_eq_true, if_false, hat, show ¬(0x100 = 0x400) by decide, show ¬(0x100 = 0x408) by decide,
    show ¬(0x410 ≤ 0x100 ∧ 0x100 < 0x480) by decide, if_true]

/-- A write from 0x20000 on reaches the MSI-X table as far as it goes (log 151). -/
theorem plainWrite_msix (hat : 0x20000 ≤ offset) (hend : offset / 8 * 8 < 0x20000 + 16 * msixVectors fn) : plainWrite s fn offset size value =
    updFunc s fn (fun f => f.msixWrite s.fab.front (s.fab.sriov.routingId fn) (offset / 8 * 8 - 0x20000) (writeBits offset size value)) := by
  have hlow : 0x20000 ≤ offset / 8 * 8 := by omega
  have hivec : ¬(offset / 8 * 8 = 0x400) := by omega
  have hstatus : ¬(offset / 8 * 8 = 0x408) := by omega
  have hcmd : ¬(0x410 ≤ offset / 8 * 8 ∧ offset / 8 * 8 < 0x480) := by omega
  have htime : ¬(offset / 8 * 8 = 0x100) := by omega
  simp only [plainWrite, hrecovery, Bool.false_eq_true, if_false, hivec, hstatus, hcmd, htime, hlow, hend, and_self, if_true]

/-- A write to any other offset changes nothing. -/
theorem plainWrite_other (hmailbox : offset / 8 * 8 < 0x400 ∨ 0x480 ≤ offset / 8 * 8) (htime : offset / 8 * 8 ≠ 0x100)
    (hmsix : offset < 0x20000 ∨ 0x20000 + 16 * msixVectors fn ≤ offset / 8 * 8) : plainWrite s fn offset size value = s := by
  have hivec : ¬(offset / 8 * 8 = 0x400) := by omega
  have hstatus : ¬(offset / 8 * 8 = 0x408) := by omega
  have hcmd : ¬(0x410 ≤ offset / 8 * 8 ∧ offset / 8 * 8 < 0x480) := by omega
  have htable : ¬(0x20000 ≤ offset / 8 * 8 ∧ offset / 8 * 8 < 0x20000 + 16 * msixVectors fn) := by omega
  simp only [plainWrite, hrecovery, Bool.false_eq_true, if_false, hivec, hstatus, hcmd, htime, htable]

end

/-- A command that is one update of a function's registers: what that function sees of it, and that nothing else moves. -/
theorem gives_updFunc {i : Instr} {s t : State} (hexec : exec i s = done s t) {fn : Nat} {f : FuncS → FuncS} (ht : t = updFunc s fn f) :
    ∃ u, Gives i s u ∧ u = { s with funcs := u.funcs } ∧ funcOf u fn = f (funcOf s fn) ∧ (∀ g, g ≠ fn → funcOf u g = funcOf s g) :=
  ⟨updFunc s fn f, .of_exec_eq_done (ht ▸ hexec), updFunc_frame s fn f, funcOf_updFunc_same s fn f, fun _ hg => funcOf_updFunc_of_ne s f hg⟩

/-- Settles O14: the offset decides which register a write reaches. -/
theorem plainRegistersTakeWrites : Obligations.PlainRegistersTakeWrites := by
  intro fn offset size value s hrecovery
  have hexec := exec_registerWrite fn offset size value s
  refine ⟨fun i hi hat => ?word, fun hat => gives_updFunc hexec (plainWrite_ivec hrecovery hat),
    fun hat hset => gives_updFunc hexec ((plainWrite_overrun hrecovery hat).trans (if_pos hset)),
    fun hat hclear => .of_unchanged hexec ((plainWrite_overrun hrecovery hat).trans (if_neg (by simp [hclear]))),
    fun hat hfn hset => .of_exec_eq_done (hexec.trans (congrArg (done s) ((plainWrite_time hrecovery hat).trans (if_pos (by simp [hfn, hset]))))),
    fun hat hkept => .of_unchanged hexec ((plainWrite_time hrecovery hat).trans (if_neg (by simpa [or_iff_not_imp_left] using hkept))),
    fun hat hend => gives_updFunc hexec (plainWrite_msix hrecovery hat hend),
    fun hmailbox htime hmsix => .of_unchanged hexec (plainWrite_other hrecovery hmailbox htime hmsix)⟩
  case word =>
    obtain ⟨t, hgives, hframe, hown, hothers⟩ := gives_updFunc hexec (plainWrite_cmd hrecovery hi hat)
    refine ⟨t, hgives, hframe, fun k hk => ?_, by rw [hown], hothers⟩
    have hlength : k < ((funcOf s fn).cmd ++ List.replicate (14 - (funcOf s fn).cmd.length) 0).length := by
      rw [List.length_append, List.length_replicate]; omega
    rw [hown, getD_modNth _ _ _ _ _ hlength, getD_append_replicate]

/-- Settles O15: in recovery two registers and RCV_GO act, by the STATE and by what the image's checks say (R566, R567). -/
theorem recoveryTakesAnImage : Obligations.RecoveryTakesAnImage := by
  intro offset size value image s
  refine ⟨fun hrecovery hat => .of_exec_eq_done ?address, fun hrecovery hat => .of_exec_eq_done ?length, fun hrecovery hgo hstate => ?fetched,
    fun hidle => .of_unchanged (exec_rcvGo value image s) ?idle⟩
  case address => simp only [exec_registerWrite, plainWrite, hrecovery, if_true, ne_eq, not_true, if_false, hat]
  case length =>
    simp only [exec_registerWrite, plainWrite, hrecovery, if_true, ne_eq, not_true, if_false, hat, show ¬(0x410 = 0x408) by decide, fld,
      Nat.pow_zero, Nat.div_one, Nat.sub_zero]
  case fetched =>
    have hopen : ¬((!s.pkg.recovery) = true ∨ (!bit value 0) = true ∨ (s.pkg.rcvState ≠ 0 ∧ s.pkg.rcvState ≠ 5)) := by
      rw [hrecovery, hgo]
      rintro (hbad | hbad | hbad)
      · exact Bool.noConfusion hbad
      · exact Bool.noConfusion hbad
      · omega
    refine .of_exec_eq_done ?_
    rw [exec_rcvGo, recoveryGo, if_neg hopen]
    by_cases hverified : (imageOf s.sec.minSvn (image.take s.pkg.rcvLen)).fails = 0
    · simp only [hverified, ne_eq, not_true, if_false, if_true]
    · simp only [hverified, ne_eq, not_false_eq_true, if_true, if_false]
  case idle =>
    refine if_pos ?_
    rcases hidle with hnone | hno | hbusy
    · exact .inl (by rw [hnone]; rfl)
    · exact .inr (.inl (by rw [hno]; rfl))
    · exact .inr (.inr (by omega))

/-! ### Pins, management buses and the reference clock -/

theorem exec_trstN (s : State) : exec .trstN s = done s { s with pkg := { s.pkg with tap := 4 } } := rfl
theorem exec_setdasa (addr dynamic : Nat) (s : State) :
    exec (.setdasa addr dynamic) s = done s (if addr = 0x30 + s.pkg.addr then assignAddress s dynamic else s) := rfl
theorem exec_entdaa (dynamic : Nat) (s : State) : exec (.entdaa dynamic) s = done s (assignAddress s dynamic) := rfl
theorem exec_refclkLoss (s : State) : exec .refclkLoss s = done s (updTime s (fun t => { t with refclkLost := true })) := rfl
theorem exec_refclkRestored (s : State) : exec .refclkRestored s = done s (updTime s (fun t => { t with refclkLost := false })) := rfl

/-- A target that answers and has no dynamic address takes one. -/
theorem assignAddress_of_free {s : State} {dynamic : Nat} (hphase : 2 < s.pkg.phase) (hfree : s.pkg.i3cDynamic = none) (hsmall : dynamic < 128) :
    assignAddress s dynamic = { s with pkg := { s.pkg with i3cDynamic := some dynamic } } := by
  simp only [assignAddress, i3cAnswers, hphase, decide_true, hfree, Option.isNone_none, Bool.and_self, if_true, Nat.mod_eq_of_lt hsmall]

/-- Settles O17: each of these events writes one field. -/
theorem pinsAndManagementBuses : Obligations.PinsAndManagementBuses := by
  refine ⟨fun s => .of_exec_eq_done (exec_trstN s), fun addr dynamic s hphase hfree hsmall => ⟨fun hown => .of_exec_eq_done ?assigned,
    fun hother => .of_unchanged (exec_setdasa addr dynamic s) (if_neg hother), .of_exec_eq_done ?entered⟩,
    fun s => ⟨.of_exec_eq_done (exec_refclkLoss s), .of_exec_eq_done (exec_refclkRestored s)⟩⟩
  case assigned => rw [exec_setdasa, if_pos hown, assignAddress_of_free hphase hfree hsmall]
  case entered => rw [exec_entdaa, assignAddress_of_free hphase hfree hsmall]

/-! ### Wall time -/

theorem exec_ppsEdge (widthNs sinceNs : Nat) (s : State) : exec (.ppsEdge widthNs sinceNs) s = done s (ppsIn s widthNs sinceNs) := rfl
theorem exec_ptpTime (tai : Word) (s : State) : exec (.ptpTime tai) s = done s (ptpIn s tai) := rfl
theorem exec_holdover (s : State) : exec .holdover s = done s (holdoverIn s) := rfl

/-- An edge of the right width a second after the last accepted one is accepted. -/
theorem ppsAccepted_of_inside {s : State} {width gap : Nat} (hwide : 1000 ≤ width) (hnarrow : width ≤ 500000000) (hlate : 999900000 ≤ gap)
    (hsoon : gap ≤ 1000100000) : ppsAccepted s width gap = true := by
  simp [ppsAccepted, hwide, hnarrow, hlate, hsoon]

/-- An edge of another width, or at another distance while PPS holds, is not. -/
theorem ppsAccepted_of_outside {s : State} {width gap : Nat}
    (hout : width < 1000 ∨ 500000000 < width ∨ (s.time.ppsOk = true ∧ (gap < 999900000 ∨ 1000100000 < gap))) : ppsAccepted s width gap = false := by
  rcases hout with hshort | hlong | ⟨hok, hgap⟩
  · simp [ppsAccepted, hshort]
  · simp [ppsAccepted, hlong]
  · have hfar : (decide (999900000 ≤ gap) && decide (gap ≤ 1000100000)) = false := by
      rw [← Bool.decide_and, decide_eq_false_iff_not]; omega
    rw [ppsAccepted, hok, hfar]
    exact Bool.and_false _

/-- Outside holdover a source that comes changes nothing more. -/
theorem leaveHoldover_of_disciplined {s : State} (h : s.time.holdover = false) (offset : Int) : leaveHoldover s offset = s := by
  simp only [leaveHoldover, h, Bool.false_eq_true, if_false]

/-- An accepted edge notes the bell and the rate, and with valid TAI slews the offset out. -/
theorem ppsIn_of_accepted {s : State} {width gap : Nat} (h : ppsAccepted s width gap = true) : ppsIn s width gap =
    if s.time.valid then leaveHoldover { s with time := { s.time with
        ppsOk := true, lastPps := some s.time.bell, rateBells := measuredRate s.time, slewLeft := secondOffset s.time } } (secondOffset s.time)
    else { s with time := { s.time with ppsOk := true, lastPps := some s.time.bell, rateBells := measuredRate s.time } } := by
  simp only [ppsIn, h, Bool.not_true, Bool.false_eq_true, if_false]
  rfl

/-- IEEE 1588 time labels the second, slews or steps. -/
theorem ptpIn_eq (s : State) (tai : Word) : ptpIn s tai =
    if !s.time.valid then timeRecord { s with time := { s.time with
        ptpOk := true, tai := tai - phaseNs s.time, valid := true, slewLeft := 0 } } 0x0105 s.time.bell tai
    else leaveHoldover (if 1000000000 < (tai.toNat : Int) - ((taiNow s.time).toNat : Int) then
        timeRecord { s with time := { s.time with
          ptpOk := true, tai := tai - phaseNs s.time, stepped := true, steppedAt := now s, slewLeft := 0 } } 0x0102 (taiNow s.time) tai
      else { s with time := { s.time with ptpOk := true, slewLeft := (tai.toNat : Int) - ((taiNow s.time).toNat : Int) } })
      ((tai.toNat : Int) - ((taiNow s.time).toNat : Int)) := rfl

/-- Settles O18: each source's event by whether TAI is valid and how far it lies off (log 29, log 164). -/
theorem timeFollowsItsSources : Obligations.TimeFollowsItsSources := by
  refine ⟨fun widthNs sinceNs s => ⟨fun hwide hnarrow hlate hsoon hvalid hheld => .of_exec_eq_done ?slewed,
      fun hwide hnarrow hlate hsoon hinvalid => .of_exec_eq_done ?noted,
      fun hout => .of_unchanged (exec_ppsEdge widthNs sinceNs s) ?ignored⟩,
    fun tai s => ⟨fun hinvalid => .of_exec_eq_done ?labelled, fun hvalid hheld hnear => .of_exec_eq_done ?ptpSlewed,
      fun hvalid hheld hfar => .of_exec_eq_done ?stepped, fun hvalid hheld hlost => .of_exec_eq_done ?heldOver⟩⟩
  case slewed =>
    rw [exec_ppsEdge, ppsIn_of_accepted (ppsAccepted_of_inside hwide hnarrow hlate hsoon), if_pos hvalid,
      leaveHoldover_of_disciplined (by exact hheld)]
  case noted =>
    rw [exec_ppsEdge, ppsIn_of_accepted (ppsAccepted_of_inside hwide hnarrow hlate hsoon), if_neg (Bool.eq_false_iff.mp hinvalid)]
  case ignored => simp only [ppsIn, ppsAccepted_of_outside hout, Bool.not_false, if_true]
  case labelled => rw [exec_ptpTime, ptpIn_eq, if_pos (by rw [hinvalid]; rfl)]
  case ptpSlewed =>
    rw [exec_ptpTime, ptpIn_eq, if_neg (by simp [hvalid]), if_neg (Int.not_lt.mpr hnear), leaveHoldover_of_disciplined (by exact hheld)]
  case stepped =>
    rw [exec_ptpTime, ptpIn_eq, if_neg (by simp [hvalid]), if_pos hfar, leaveHoldover_of_disciplined (by exact hheld)]
  case heldOver =>
    have hgoes : ¬(s.time.ppsOk = true ∨ s.time.holdover = true ∨ (!s.time.valid) = true) := by simp [hlost, hheld, hvalid]
    rw [exec_holdover, holdoverIn, if_neg hgoes]
    rfl

end Sys2Proof.Machine

/-! ## Power, temperature, lifetime and the ledger (Tables 20.4, 20.6, 21.1 to 21.3) -/

namespace Sys2Proof.Machine

/-! ### What writes the power registers and the ledger alone -/

/-- A state that differs from another in its power registers and its ledger alone. -/
def OnlyPower (s t : State) : Prop := t = { s with pwr := t.pwr, led := t.led }

theorem OnlyPower.refl (s : State) : OnlyPower s s := rfl

theorem OnlyPower.trans {s t u : State} (hst : OnlyPower s t) (htu : OnlyPower t u) : OnlyPower s u := by
  rw [OnlyPower, htu, hst]

/-- An update of the power registers. -/
theorem onlyPower_updPower (s : State) (f : PowerS → PowerS) : OnlyPower s (updPower s f) := rfl

/-- A record of the power controller. -/
theorem onlyPower_powerRecord (s : State) (code : Nat) (p0 p1 p2 p3 : Word) : OnlyPower s (powerRecord s code p0 p1 p2 p3) := rfl

/-- ALERT_N follows the alarms and the ledger. -/
theorem onlyPower_alert (s : State) : OnlyPower s (alert s) := rfl

/-- What each step of a loop keeps, the loop keeps. -/
theorem each_rel {α : Type} {R : State → State → Prop} (hrefl : ∀ s, R s s) (htrans : ∀ {s t u}, R s t → R t u → R s u) {f : α → State → State}
    (hf : ∀ a s, R s (f a s)) (l : List α) (s : State) : R s (each l f s) := by
  induction l generalizing s with
  | nil => exact hrefl s
  | cons a l ih => exact htrans (hf a s) (ih _)

/-! ### The PMBus registers -/

theorem exec_clearFaults (s : State) : exec .clearFaults s = done s (clearFaults s) := rfl
theorem exec_mfrPcap (value : Nat) (s : State) : exec (.mfrPcap value) s = done s (setPcap s value) := rfl
theorem exec_telemetryPeriod (r : Telemetry) (s : State) : exec (.telemetryPeriod r) s = done s (telemetry s r) := rfl
theorem exec_vinWarning (mv : Nat) (s : State) : exec (.vinWarning mv) s = done s (vinCross s mv) := rfl
theorem exec_capOverrun (s : State) : exec .capOverrun s = done s (capOver s) := rfl

/-- Bit 5 of STATUS_INPUT stands while the input lies outside 42 to 58 V. -/
theorem statusWith_bit5 (st : BitVec 8) (mv : Nat) : (statusWith st mv).getLsbD 5 = !vinInside mv := by
  unfold statusWith
  cases vinInside mv <;> simp

/-- The input's crossing writes the power registers and the ledger. -/
theorem onlyPower_vinCross (s : State) (mv : Nat) : OnlyPower s (vinCross s mv) := by
  unfold vinCross
  dsimp only
  split
  · rfl
  · rfl

/-- The power registers after the input's crossing. -/
@[simp] theorem vinCross_pwr (s : State) (mv : Nat) :
    (vinCross s mv).pwr = { s.pwr with vin := mv, vinOut := !vinInside mv, statusInput := statusWith s.pwr.statusInput mv } := by
  unfold vinCross
  dsimp only
  split <;> rfl

/-- An input that stays on its side is not recorded. -/
theorem vinCross_led_of_same_side {s : State} {mv : Nat} (h : s.pwr.vinOut = !vinInside mv) : (vinCross s mv).led = s.led := by
  simp only [vinCross, h, BEq.rfl, if_true, updPower_led]

/-- What the warnings of a reading leave: the caps, the input and STATUS_INPUT. -/
def SamePower (s t : State) : Prop :=
  OnlyPower s t ∧ t.pwr.pcap = s.pwr.pcap ∧ t.pwr.vin = s.pwr.vin ∧ t.pwr.statusInput = s.pwr.statusInput

theorem samePower_warnings (s : State) (r : Telemetry) : SamePower s (warnings s r) := by
  refine each_rel (R := SamePower) (fun s => ⟨rfl, rfl, rfl, rfl⟩) ?_ (fun e s => ?_) _ s
  · rintro s t u ⟨hst, hp, hv, hi⟩ ⟨htu, hp', hv', hi'⟩
    exact ⟨hst.trans htu, hp'.trans hp, hv'.trans hv, hi'.trans hi⟩
  · split
    · exact ⟨rfl, rfl, rfl, rfl⟩
    · exact ⟨rfl, rfl, rfl, rfl⟩

/-- A telemetry period: the input, the warnings, the thermal cap and then the effective cap. -/
theorem telemetry_of_due {s : State} (hdue : bellN s % 1000 = 0) (r : Telemetry) :
    let u := vinCross (updPower s (fun p => { p with last := r, vin := r.vinMv, lastThrottled := p.throttled, throttled := (0, 0) })) r.vinMv
    let v := updPower (warnings u r) (fun p => { p with thermalCap := nextThermalCap p })
    OnlyPower s (telemetry s r) ∧ (telemetry s r).pwr = { v.pwr with cap := (effectiveCap v.pwr r.vinMv).1 } := by
  intro u v
  have hpower : OnlyPower s (updPower v (fun p => { p with cap := (effectiveCap v.pwr r.vinMv).1 })) :=
    ((onlyPower_updPower s _).trans (onlyPower_vinCross _ _)).trans ((samePower_warnings u r).1.trans
      ((onlyPower_updPower _ _).trans (onlyPower_updPower _ _)))
  have htelemetry : telemetry s r = if (effectiveCap v.pwr r.vinMv).1 = v.pwr.cap
      then updPower v (fun p => { p with cap := (effectiveCap v.pwr r.vinMv).1 })
      else powerRecord (updPower v (fun p => { p with cap := (effectiveCap v.pwr r.vinMv).1 })) 0x1601 (word (effectiveCap v.pwr r.vinMv).1)
        (word (effectiveCap v.pwr r.vinMv).2) v.time.bell 0 := by
    rw [telemetry, if_neg (not_not.mpr hdue)]
    rfl
  rw [htelemetry]
  split
  · exact ⟨hpower, rfl⟩
  · exact ⟨hpower.trans (onlyPower_powerRecord _ _ _ _ _ _), rfl⟩

/-- Settles O19: each of these events is an update of the power registers, with its record. -/
theorem powerRegistersFollowTheInput : Obligations.PowerRegistersFollowTheInput := by
  refine ⟨fun s => ⟨clearFaults s, .of_exec_eq_done (exec_clearFaults s), rfl, ?input, ?temperature⟩,
    fun value s => ⟨fun hlow hhigh => .of_exec_eq_done ?taken, fun hout => .of_unchanged (exec_mfrPcap value s) (if_neg (by omega))⟩,
    fun r s hdue => ⟨telemetry s r, .of_exec_eq_done (exec_telemetryPeriod r s), (telemetry_of_due hdue r).1, ?period⟩,
    fun mv s => ⟨vinCross s mv, .of_exec_eq_done (exec_vinWarning mv s), onlyPower_vinCross s mv, ?vin, ?crossing, vinCross_led_of_same_side⟩,
    fun s => ⟨fun hlong hclear => .of_exec_eq_done ?overrun, fun hkept => .of_unchanged (exec_capOverrun s) ?quiet⟩⟩
  case input =>
    intro i hi
    simp only [clearFaults, updPower_pwr]
    by_cases hexceeds : 62000 < s.pwr.vin <;> by_cases hunder : s.pwr.vin < 38000 <;>
      simp only [hexceeds, hunder, decide_true, decide_false, if_true, Bool.false_eq_true, if_false] <;> interval_cases i <;> simp
  case temperature =>
    intro i hi
    simp only [clearFaults, updPower_pwr]
    cases s.pwr.trip.isEmpty <;> cases s.pwr.alarm.isEmpty <;> cases s.pwr.warning.isEmpty <;>
      simp only [Bool.not_true, Bool.not_false, if_true, Bool.false_eq_true, if_false] <;> interval_cases i <;> simp
  case taken => rw [exec_mfrPcap, setPcap, if_pos ⟨hlow, hhigh⟩]; rfl
  case period =>
    obtain ⟨-, hpcap, hvin, hstatus⟩ := samePower_warnings (vinCross (updPower s (fun p =>
      { p with last := r, vin := r.vinMv, lastThrottled := p.throttled, throttled := (0, 0) })) r.vinMv) r
    rw [(telemetry_of_due hdue r).2]
    exact ⟨rfl, hpcap.trans (by rw [vinCross_pwr]; rfl), hvin.trans (by rw [vinCross_pwr]),
      (congrArg (·.getLsbD 5) hstatus).trans (by rw [vinCross_pwr]; exact statusWith_bit5 _ _)⟩
  case vin => rw [vinCross_pwr]
  case crossing => rw [vinCross_pwr]; exact statusWith_bit5 _ _
  case overrun =>
    rw [exec_capOverrun, capOver, if_neg (by simp only [hclear, Nat.not_lt.mpr hlong, decide_false, Bool.or_self, Bool.false_eq_true, not_false_eq_true])]
    rfl
  case quiet => exact if_pos (by simpa using hkept)

/-! ### Thermal alarms -/

theorem exec_thermalAlarm (place : ThermalPlace) (temp : Nat) (s : State) : exec (.thermalAlarm place temp) s = done s (alarmSet s place temp) := rfl
theorem exec_thermalClear (place : ThermalPlace) (temp : Nat) (s : State) :
    exec (.thermalClear place temp) s = done s (thermalCleared s place temp) := rfl

/-- ALERT_N is the only power register that follows the alarms and the ledger. -/
theorem alert_pwr (s : State) : (alert s).pwr = { s.pwr with alertN := s.pwr.alarm.isEmpty && !s.led.full } := rfl

/-- A die's lifetime counters are in the power registers. -/
theorem lifeDie_pwr (s : State) (i : Nat) (f : DieLife → DieLife) :
    (lifeDie s i f).pwr = { s.pwr with life := { s.pwr.life with dies := Tab.upd s.pwr.life.dies i {} f } } := rfl

/-- An alarm's own update, and its count in the die's lifetime. -/
def alarmEntered (s : State) (place : ThermalPlace) : State :=
  let t := updPower s (fun p => { p with alarm := p.alarm ++ [place], floor := 14, statusTemp := p.statusTemp ||| 0x40#8 })
  match place with
  | .die i => lifeDie t i (fun d => { d with alarms := up32 d.alarms })
  | .stack _ => t

theorem onlyPower_alarmEntered (s : State) (place : ThermalPlace) : OnlyPower s (alarmEntered s place) := by
  cases place <;> rfl

theorem alarmEntered_pwr (s : State) (place : ThermalPlace) : (alarmEntered s place).pwr.alarm = s.pwr.alarm ++ [place]
    ∧ (alarmEntered s place).pwr.floor = 14 ∧ (alarmEntered s place).pwr.statusTemp = s.pwr.statusTemp ||| 0x40#8 := by
  cases place <;> exact ⟨rfl, rfl, rfl⟩

/-- An alarm of a place that is at none. -/
theorem alarmSet_of_new {s : State} {place : ThermalPlace} {temp : Nat} (hhot : limitOf place 100 ≤ temp) (hnew : place ∉ s.pwr.alarm) :
    alarmSet s place temp = alert (powerRecord (alarmEntered s place) 0x1605 (placeWord place) (word temp) 1 0) := by
  have hgoes : ¬(temp < limitOf place 100 ∨ s.pwr.alarm.contains place = true) := by simp [Nat.not_lt.mpr hhot, hnew]
  rw [alarmSet, if_neg hgoes]
  cases place <;> rfl

/-- The warning of a place that has cooled below the warning's clear level goes. -/
def warningEnded (s : State) (place : ThermalPlace) (temp : Nat) : State :=
  if temp ≤ limitOf place 90 then updPower s (fun p => { p with warning := p.warning.filter (· != place) }) else s

theorem onlyPower_warningEnded (s : State) (place : ThermalPlace) (temp : Nat) : OnlyPower s (warningEnded s place temp) := by
  unfold warningEnded
  split <;> rfl

theorem warningEnded_pwr (s : State) (place : ThermalPlace) (temp : Nat) : (warningEnded s place temp).pwr.alarm = s.pwr.alarm
    ∧ (warningEnded s place temp).pwr.statusTemp = s.pwr.statusTemp := by
  unfold warningEnded
  split <;> exact ⟨rfl, rfl⟩

/-- The end of the alarm of a place that is at one. -/
theorem thermalCleared_of_alarm {s : State} {place : ThermalPlace} {temp : Nat} (hcool : temp ≤ limitOf place 95) (hat : place ∈ s.pwr.alarm) :
    thermalCleared s place temp = alert (powerRecord (updPower (warningEnded s place temp) (fun p => { p with
      alarm := p.alarm.filter (· != place), floor := if (p.alarm.filter (· != place)).isEmpty then 0 else p.floor }))
      0x1605 (placeWord place) (word temp) 0 0) := by
  have hends : temp ≤ limitOf place 95 ∧ (warningEnded s place temp).pwr.alarm.contains place = true :=
    ⟨hcool, by rw [(warningEnded_pwr s place temp).1]; simpa using hat⟩
  exact if_pos hends

/-- Settles O20: an alarm enters its place in the list that holds the engines, its end takes it out. -/
theorem thermalAlarmAndClear : Obligations.ThermalAlarmAndClear := by
  refine fun place temp s => ⟨fun hhot hnew => ⟨_, .of_exec_eq_done (exec_thermalAlarm place temp s), ?set⟩,
    fun hcool hat => ⟨_, .of_exec_eq_done (exec_thermalClear place temp s), ?cleared⟩⟩
  case set =>
    obtain ⟨halarm, hfloor, hstatus⟩ := alarmEntered_pwr s place
    rw [alarmSet_of_new hhot hnew]
    refine ⟨(onlyPower_alarmEntered s place).trans ((onlyPower_powerRecord _ _ _ _ _ _).trans (onlyPower_alert _)), ?_⟩
    simp only [alert_pwr, powerRecord_pwr, halarm, hfloor, hstatus, true_and, and_true]
    simp
  case cleared =>
    obtain ⟨halarm, hstatus⟩ := warningEnded_pwr s place temp
    rw [thermalCleared_of_alarm hcool hat]
    refine ⟨(onlyPower_warningEnded s place temp).trans ((onlyPower_updPower _ _).trans ((onlyPower_powerRecord _ _ _ _ _ _).trans (onlyPower_alert _))), ?_⟩
    simp only [alert_pwr, powerRecord_pwr, updPower_pwr, halarm, hstatus, true_and, and_true]
    intro hnone
    rw [hnone]
    rfl

/-! ### Lifetime counters and the checkpoint -/

theorem exec_lifetimeTick (r : Telemetry) (margins badBer : List Nat) (s : State) :
    exec (.lifetimeTick r margins badBer) s = done s (lifeTick s r margins badBer) := rfl
theorem exec_bellCheckpoint (s : State) : exec .bellCheckpoint s =
    done s (if s.pkg.powered ∧ !s.pkg.cold ∧ bellN s % 2 ^ 30 = 0 ∧ s.time.bell ≠ s.pkg.flash.bell then checkpoint s else s) := rfl

/-- What a lane's tick leaves: all but the power registers and the ledger, and of the former the ticks counted. -/
def SameTicks (s t : State) : Prop := OnlyPower s t ∧ t.pwr.lastTick = s.pwr.lastTick ∧ t.pwr.life.ticks = s.pwr.life.ticks

theorem sameTicks_laneTick (lane margin : Nat) (bad : Bool) (s : State) : SameTicks s (laneTick s lane margin bad) := by
  unfold laneTick
  dsimp only
  split <;> exact ⟨rfl, rfl, rfl⟩

theorem sameTicks_laneTicks (margins : List (Nat × Nat)) (bad : List Nat) (s : State) :
    SameTicks s (each margins (fun e s => laneTick s e.2 e.1 (bad.contains e.2)) s) := by
  refine each_rel (R := SameTicks) (fun s => ⟨rfl, rfl, rfl⟩) ?_ (fun (e : Nat × Nat) s => sameTicks_laneTick e.2 e.1 (bad.contains e.2) s) _ s
  rintro s t u ⟨hst, hl, ht⟩ ⟨htu, hl', ht'⟩
  exact ⟨hst.trans htu, hl'.trans hl, ht'.trans ht⟩

/-- A checkpoint writes the ledger and the checkpoint in the flash. -/
theorem checkpoint_frame (s : State) : checkpoint s = { s with led := (checkpoint s).led, pkg := { s.pkg with flash := { s.pkg.flash with
    bell := s.time.bell, life := s.pwr.life, powered := s.time.powered, fresh := false } } } := by
  unfold checkpoint signOpen
  dsimp only
  split <;> rfl

/-! ### The journal -/

theorem exec_journalWrite (area : Nat) (s : State) : exec (.journalWrite area) s = done s (if journalDue s area then journalPage s area else s) := rfl
theorem exec_ledgerWindowRead (fn : Nat) (slots : List Nat) (s : State) : exec (.ledgerWindowRead fn slots) s = done s (readMarks s fn slots) := rfl

/-- A record that enters a ring leaves the journal. -/
theorem LedgerS.put_journal (l : LedgerS) (bell : Word) (ring : Nat) (r : Rec) : (l.put bell ring r).journal = l.journal := rfl

/-- So do the records of a signature. -/
theorem LedgerS.sign_journal (l : LedgerS) (bell time : Word) (cgen count : Nat) (interim : Bool) :
    (l.sign bell time cgen count interim).journal = l.journal := by
  have hfold : ∀ (rs : List Rec) (l : LedgerS), (rs.foldl (fun l r => l.put bell 0x12 r) l).journal = l.journal := by
    intro rs
    induction rs with
    | nil => exact fun _ => rfl
    | cons r rs ih => exact fun l => (ih _).trans (l.put_journal bell 0x12 r)
  exact hfold _ l

theorem LedgerS.write_journal (l : LedgerS) (bell time : Word) (cgen : Nat) (r : Rec) : (l.write bell time cgen r).journal = l.journal := by
  unfold LedgerS.write
  dsimp only
  split
  · exact (LedgerS.sign_journal _ _ _ _ _ _).trans (LedgerS.put_journal _ _ _ _)
  · exact LedgerS.put_journal _ _ _ _

/-- LEDGER_FULL writes its record and ALERT_N, and leaves the journal. -/
theorem checkFull_frame (s : State) : checkFull s = { s with led := (checkFull s).led, pwr := { s.pwr with alertN := (checkFull s).pwr.alertN } }
    ∧ (checkFull s).led.journal = s.led.journal := by
  unfold checkFull
  split
  · exact ⟨rfl, rfl⟩
  · exact ⟨rfl, LedgerS.write_journal _ _ _ _ _⟩

/-- The records of the page of an area that is due, oldest first. -/
def duePage (s : State) (area : Nat) : List (Nat × Rec) := ((s.led.pend.filter (fun e => ringArea e.1 == area)).take 64).map (fun e => (e.1, e.2.2))

/-- An area's journal after its page: the page before what it held, as far as the area goes. -/
def journalAfter (s : State) (area : Nat) : List (Nat × Rec) :=
  let all := (duePage s area).reverse ++ Tab.getD s.led.journal area []
  if area = 0 then all.filter (fun e => !(duePage s area).any (fun r => r.2.count / 4096 == e.2.count / 4096 + 64))
  else if areaSize area < all.length then all.take (areaSize area - 1024) else all

/-- A page whose slots are free enters its area's journal; beyond that the ledger and ALERT_N alone change. -/
theorem journalPage_of_free {s : State} {area : Nat} (hfree : area = 0 → slotTaken s ((duePage s area).map (·.2)) = false) :
    journalPage s area = { s with led := (journalPage s area).led, pwr := { s.pwr with alertN := (journalPage s area).pwr.alertN } }
      ∧ (journalPage s area).led.journal = Tab.set s.led.journal area (journalAfter s area) := by
  have hgoes : ¬(area = 0 ∧ slotTaken s ((duePage s area).map (·.2)) = true) := fun htaken => by simp [hfree htaken.1] at htaken
  have hpage : ∃ l : LedgerS, journalPage s area = checkFull { s with led := l } ∧ l.journal = Tab.set s.led.journal area (journalAfter s area) :=
    ⟨_, if_neg hgoes, rfl⟩
  obtain ⟨l, hpage, hjournal⟩ := hpage
  rw [hpage]
  exact ⟨(checkFull_frame { s with led := l }).1, (checkFull_frame { s with led := l }).2.trans hjournal⟩

/-- A record of a page due to an area other than the audit area stays in it. -/
theorem mem_journalAfter {s : State} {area : Nat} (harea : area ≠ 0) {e : Nat × Rec} (he : e ∈ duePage s area) : e ∈ journalAfter s area := by
  have hlength : (duePage s area).reverse.length ≤ 64 := by
    rw [List.length_reverse, duePage, List.length_map]
    exact List.length_take_le 64 _
  have hsize : 64 ≤ areaSize area - 1024 := by unfold areaSize; split <;> omega
  have hmem : e ∈ (duePage s area).reverse := List.mem_reverse.mpr he
  simp only [journalAfter, harea, if_false]
  split
  · rw [List.take_append]
    exact List.mem_append_left _ (by rwa [List.take_of_length_le (hlength.trans hsize)])
  · exact List.mem_append_left _ hmem

/-- The counts of the audit records that a read of the PF's window touches. -/
def countsRead (s : State) (slots : List Nat) : List Nat :=
  (slots.map (fun i => 512 * fld (funcOf s 0).lwSel 59 13 + i)).filter (fun n => decide (n < (Tab.getD s.led.rings 0x10 {}).next))

/-- While LEDGER_FULL does not stand, a read of the audit ring's MARK words marks them and collects the segments read whole. -/
theorem readMarks_of_not_full {s : State} {slots : List Nat} (hring : fld (funcOf s 0).lwSel 8 0 = 0x10) (hfull : s.led.full = false) :
    readMarks s 0 slots = { s with led := { s.led with
      uncollected := s.led.uncollected.filter (fun n => !segmentRead ((countsRead s slots).foldl addOnce s.led.marksRead) n)
      marksRead := ((countsRead s slots).foldl addOnce s.led.marksRead).filter (fun n =>
        !(s.led.uncollected.filter (segmentRead ((countsRead s slots).foldl addOnce s.led.marksRead))).contains (n / 4096)) } } := by
  have hshown : ¬((0 : Nat) ≠ 0 ∨ fld (funcOf s 0).lwSel 8 0 ≠ 0x10) := by simp [hring]
  refine (if_neg hshown).trans (if_neg ?_)
  simp only [hfull, Bool.false_and, Bool.false_eq_true, not_false_eq_true]

/-- Settles O21: the tick and the checkpoint write their counters; a page goes from the pending records to its area; a read of MARK
words collects the segments read whole. -/
theorem ledgerAndLifetime : Obligations.LedgerAndLifetime := by
  refine ⟨fun r margins badBer s hdue hnew => ⟨_, .of_exec_eq_done (exec_lifetimeTick r margins badBer s), ?tick⟩,
    fun s hpowered hwarm hdue hnew => ⟨_, .of_exec_eq_done (exec_bellCheckpoint s), ?checkpoint⟩,
    fun area s hdue hfree => ⟨_, .of_exec_eq_done (exec_journalWrite area s), ?page⟩,
    fun slots s hring hfull => ⟨_, .of_exec_eq_done (exec_ledgerWindowRead 0 slots s), ?marks⟩⟩
  case tick =>
    rw [lifeTick, if_neg (by simp [hdue, hnew])]
    dsimp only
    obtain ⟨honly, hlast, hticks⟩ := sameTicks_laneTicks margins.zipIdx badBer (updPower s _)
    refine ⟨?_, hlast, hticks⟩
    conv_lhs => rw [honly]
    rfl
  case checkpoint =>
    rw [if_pos ⟨hpowered, by simp [hwarm], hdue, hnew⟩]
    exact checkpoint_frame s
  case page =>
    have hslots : area = 0 → slotTaken s ((duePage s area).map (·.2)) = false := fun hzero => by
      simpa only [duePage, List.map_map, Function.comp_def] using hfree hzero
    obtain ⟨hframe, hjournal⟩ := journalPage_of_free hslots
    rw [if_pos hdue]
    refine ⟨hframe, fun other hother => ?_, fun harea e he => ?_⟩
    · rw [hjournal, Tab.getD_set, if_neg hother]
    · rw [hjournal, Tab.getD_set, if_pos rfl]
      exact mem_journalAfter harea (List.mem_map_of_mem he)
  case marks =>
    rw [readMarks_of_not_full hring hfull]
    refine ⟨rfl, fun n => ?_⟩
    simp only [List.mem_filter, Bool.not_eq_true']
    rfl

end Sys2Proof.Machine

/-! ## Links: frames, port states and spare lanes (Tables 3.1, 3.2 and 3.9) -/

namespace Sys2Proof.Machine

/-! ### Ports -/

/-- An update of one port, as every port sees it. -/
theorem portOf_updPort (s : State) (p : Nat) (f : PortS → PortS) (o : Nat) :
    portOf (updPort s p f) o = if o = p then f (portOf s p) else portOf s o := by
  unfold portOf
  rw [updPort_ports, Tab.getD_upd]

@[simp] theorem portOf_updPort_same (s : State) (p : Nat) (f : PortS → PortS) : portOf (updPort s p f) p = f (portOf s p) := by
  rw [portOf_updPort, if_pos rfl]

/-- A port's state depends on the ports alone. -/
theorem portOf_congr {s t : State} (h : t.ports = s.ports) (p : Nat) : portOf t p = portOf s p := by
  rw [portOf, h, portOf]

/-! ### Frames -/

theorem exec_linkFrame (p : Nat) (f : FrameHdr) (check : FrameCheck) (m : FrameMsg) (s : State) :
    exec (.linkFrame p f check m) s = done s (frameIn s p f check m) := rfl

/-- A frame under the session's key, or the one before, keeps its check. -/
theorem keyCheck_of_known {ps : PortS} {f : FrameHdr} (h : f.keyid = ps.keyId ∨ ps.prevKeyId = some f.keyid) (check : FrameCheck) :
    keyCheck ps f check = check := by
  rcases h with h | h <;> simp [keyCheck, h]

/-- A frame that has failed already keeps its cause. -/
theorem keyCheck_of_bad {ps : PortS} {f : FrameHdr} {check : FrameCheck} (h : check ≠ .good) : keyCheck ps f check = check := by
  cases check <;> first | exact absurd rfl h | rfl

/-- What a frame does on a port that carries frames. -/
theorem frameIn_of_carries {s : State} {p : Nat} (hcarries : frameCarries (portOf s p).st = true) (f : FrameHdr) (check : FrameCheck) (m : FrameMsg) :
    frameIn s p f check m =
      if keyCheck (portOf s p) f check ≠ .good ∨ extendSeq (portOf s p).seqIn f.seq ≠ (portOf s p).seqIn then
        frameFails s p f.seq (keyCheck (portOf s p) f check)
      else if f.idle then frameHeader s p f else unknownMessage (frameHeader s p f) p m := by
  simp only [frameIn, hcarries, Bool.not_true, Bool.false_eq_true, if_false]

/-- Settles O32: the check, the key and the sequence number of a frame decide. -/
theorem framesAreSequenced : Obligations.FramesAreSequenced := by
  intro p f check m s hcarries
  have hframe := frameIn_of_carries hcarries f check m
  have hgood : check = .good → (f.keyid = (portOf s p).keyId ∨ (portOf s p).prevKeyId = some f.keyid) →
      extendSeq (portOf s p).seqIn f.seq = (portOf s p).seqIn →
      frameIn s p f check m = if f.idle then frameHeader s p f else unknownMessage (frameHeader s p f) p m := fun hcheck hkey hseq => by
    rw [hframe, keyCheck_of_known hkey, if_neg (by simp [hcheck, hseq])]
  refine ⟨fun hcheck hkey hseq hidle => .of_exec_eq_done ?idle, fun hcheck hkey hseq hidle => .of_exec_eq_done ?message, fun hbad => ?failed⟩
  case idle => rw [exec_linkFrame, hgood hcheck hkey hseq, if_pos hidle]
  case message => rw [exec_linkFrame, hgood hcheck hkey hseq, if_neg (by simp [hidle])]
  case failed =>
    have hfails : keyCheck (portOf s p) f check ≠ .good ∨ extendSeq (portOf s p).seqIn f.seq ≠ (portOf s p).seqIn :=
      hbad.imp_left (fun hcheck => by rwa [keyCheck_of_bad hcheck])
    exact ⟨keyCheck (portOf s p) f check, .of_exec_eq_done (by rw [exec_linkFrame, hframe, if_pos hfails]), keyCheck_of_bad⟩

/-! ### A port on its way up -/

theorem exec_signalDetected (p : Nat) (s : State) : exec (.signalDetected p) s =
    done s (if (portOf s p).st = .detect ∧ s.dom.dvalid ∧ !oddHalf s p then enterState s p .train else s) := rfl
theorem exec_trainingDone (p : Nat) (s : State) : exec (.trainingDone p) s =
    done s (if (portOf s p).st = .train then enterState s p .align else s) := rfl
theorem exec_alignDone (p : Nat) (s : State) : exec (.alignDone p) s = done s (if (portOf s p).st = .align then aligned s p else s) := rfl
theorem exec_portStateTimeout (p : Nat) (s : State) : exec (.portStateTimeout p) s = done s (stateTimeout s p) := rfl
theorem exec_authRetry (p : Nat) (s : State) : exec (.authRetry p) s = done s (authAgain s p) := rfl
theorem exec_linkDown (p : Nat) (s : State) : exec (.linkDown p) s = done s (if oddHalf s p then s else linkLost s p) := rfl
theorem exec_hello (p : Nat) (h : MgmtHdr) (d : List Byte) (s : State) : exec (.hello p h d) s = done s (helloCame s p h d) := rfl
theorem exec_helloAck (p : Nat) (h : MgmtHdr) (d : List Byte) (s : State) : exec (.helloAck p h d) s = done s (helloAckCame s p h d) := rfl

/-- A record with a rate rule writes the ledger and its own rate. -/
theorem recordRate_frame (s : State) (key : Nat) (r : Rec) :
    recordRate s key r = { s with fab := { s.fab with rate := (recordRate s key r).fab.rate }, led := (recordRate s key r).led } := by
  unfold recordRate
  dsimp only
  split
  · split <;> rfl
  · rfl

/-- The watch of a pool is no port's. -/
theorem poolWatch_ports (s : State) (q : Nat) : (poolWatch s q).ports = s.ports := by
  unfold poolWatch
  dsimp only
  split
  · split
    · rw [recordRate_frame]
    · rfl
  · split
    · rw [recordRate_frame]
    · rfl

/-- Granules given back are no port's. -/
theorem poolGive_ports (s : State) (q key g : Nat) : (poolGive s q key g).ports = s.ports := by
  unfold poolGive
  rw [poolWatch_ports]

/-- Nor are those of its egress queues. -/
theorem freeEgress_ports (s : State) (p : Nat) (ms : List Queued) : (freeEgress s p ms).ports = s.ports := by
  unfold freeEgress
  generalize ms.filter (·.shared) = l
  induction l generalizing s with
  | nil => rfl
  | cons m l ih => exact (ih _).trans (poolGive_ports _ _ _ _)

/-- A state that is entered is the port's. -/
theorem enterState_st (s : State) (p : Nat) (st : PortState) : (portOf (enterState s p st) p).st = st := by
  have hports : (enterState s p st).ports = (updPort s p (fun ps => { ps with st := st, since := s.time.bell })).ports := by
    unfold enterState
    dsimp only
    split <;> rfl
  rw [portOf_congr hports, portOf_updPort_same]

/-- A port that is not UP and leaves stands in the state it leaves for. -/
theorem dropPort_st {s : State} {p : Nat} (hup : (portOf s p).st ≠ .up) (toward : PortState) : (portOf (dropPort s p toward) p).st = toward := by
  unfold dropPort
  dsimp only
  rw [if_neg hup, portOf_congr (freeEgress_ports _ _ _), portOf_updPort_same]
  exact enterState_st _ _ _

/-- A step back to DETECT of a port that is not UP. -/
theorem gives_dropPort {i : Instr} {s t : State} {p : Nat} (hexec : exec i s = done s t) (ht : t = dropPort s p .detect)
    (hup : (portOf s p).st ≠ .up) : ∃ u, Gives i s u ∧ (portOf u p).st = .detect :=
  ⟨dropPort s p .detect, .of_exec_eq_done (ht ▸ hexec), dropPort_st hup .detect⟩

/-- A state that lasts past its bound ends in DETECT. -/
theorem stateTimeout_of_late {s : State} {p : Nat}
    (hlate : ((portOf s p).st = .train ∧ 100000 ≤ since s (portOf s p).since) ∨ ((portOf s p).st = .align ∧ 1000 ≤ since s (portOf s p).since)
      ∨ ((portOf s p).st = .hello ∧ 100 ≤ since s (portOf s p).since)) : stateTimeout s p = dropPort s p .detect := by
  rcases hlate with ⟨hst, hlate⟩ | ⟨hst, hlate⟩ | ⟨hst, hlate⟩ <;> simp only [stateTimeout, hst, hlate, if_true]

/-- A link that is lost past DETECT drops its port. -/
theorem linkLost_of_past_detect {s : State} {p : Nat} (hst : (portOf s p).st = .train ∨ (portOf s p).st = .align ∨ (portOf s p).st = .hello
    ∨ (portOf s p).st = .auth ∨ (portOf s p).st = .up) : linkLost s p = dropPort s p .detect := by
  rcases hst with hst | hst | hst | hst | hst <;> simp only [linkLost, hst]

/-- What a HELLO does on a port in HELLO. -/
theorem helloCame_of_hello {s : State} {p : Nat} {h : MgmtHdr} {d : List Byte} (hst : (portOf s p).st = .hello) (hok : mgmtOk h = true)
    (hfits : helloFits (portOf s p) d = true) (hclash : helloClash s d = false) : helloCame s p h d =
      if !helloForm d then discardMessage s p h.src 3 1
      else if helloBarred s d then dropPort s p .detect
      else
        let t := updPort s p (fun ps => { ps with
          helloIn := true, helloGot := d, epid := natAt d 0 2, ptype := natAt d 2 1, caps := natAt d 3 1, partnerWindow := natAt d 4 1
          creditsHeld := (List.range 4).map (fun i => natAt d (8 + 4 * i) 4), partnerPort := natAt d 0x18 2, iddig := slice d 0x20 32 })
        helloDone (sendMgmt t p 2 { xid := h.xid } (helloBytes t p)) p := by
  simp only [helloCame, hst, ne_eq, not_true, if_false, hok, Bool.not_true, Bool.false_eq_true, hclash, hfits, Bool.false_or]

/-- What a HELLO_ACK does on a port in HELLO. -/
theorem helloAckCame_of_hello {s : State} {p : Nat} {h : MgmtHdr} {d : List Byte} (hst : (portOf s p).st = .hello) (hok : mgmtOk h = true)
    (hfits : helloFits (portOf s p) d = true) : helloAckCame s p h d =
      if !helloForm d then discardMessage s p h.src 3 1
      else helloDone (updPort s p (fun ps => { ps with helloAckIn := true, ackGot := d })) p := by
  simp only [helloAckCame, hst, ne_eq, not_true, if_false, hok, Bool.not_true, Bool.false_eq_true, hfits]

/-- Settles O33: each event moves a port in the state that waits for it (R64, R430 to R432). -/
theorem portsComeUpStepByStep : Obligations.PortsComeUpStepByStep := by
  refine ⟨fun p s => ⟨fun hst hvalid heven => .of_exec_eq_done ?found, fun hst => .of_exec_eq_done ?trained, fun hst => .of_exec_eq_done ?aligned,
      fun hlate => gives_dropPort (exec_portStateTimeout p s) (stateTimeout_of_late hlate) ?notUp,
      fun hst hdue => gives_dropPort (exec_authRetry p s) (if_pos ⟨hst, hdue⟩) (by simp [hst]),
      fun hst heven => gives_dropPort (exec_linkDown p s) ?lost ?pastDetect, fun hst heven => .of_exec_eq_done ?wasUp⟩,
    fun p h d s hst hok hfits => ⟨fun hclash hbarred hform => .of_exec_eq_done ?hello, fun hform => .of_exec_eq_done ?ack,
      fun hclash hform => .of_exec_eq_done ?badHello, fun hform => .of_exec_eq_done ?badAck,
      fun hclash hform hbarred => .of_exec_eq_done ?barred⟩⟩
  case found => rw [exec_signalDetected, if_pos ⟨hst, hvalid, by simp [heven]⟩]; rfl
  case trained => rw [exec_trainingDone, if_pos hst]; rfl
  case aligned => rw [exec_alignDone, if_pos hst]; rfl
  case notUp => rcases hlate with ⟨hst, -⟩ | ⟨hst, -⟩ | ⟨hst, -⟩ <;> simp [hst]
  case lost =>
    rw [if_neg (by simp [heven])]
    exact linkLost_of_past_detect (by tauto)
  case pastDetect => rcases hst with hst | hst | hst | hst <;> simp [hst]
  case wasUp => rw [exec_linkDown, if_neg (by simp [heven]), linkLost_of_past_detect (by tauto)]
  case hello => rw [exec_hello, helloCame_of_hello hst hok hfits hclash, if_neg (by simp [hform]), if_neg (by simp [hbarred])]
  case ack => rw [exec_helloAck, helloAckCame_of_hello hst hok hfits, if_neg (by simp [hform])]
  case badHello => rw [exec_hello, helloCame_of_hello hst hok hfits hclash, if_pos (by simp [hform])]
  case badAck => rw [exec_helloAck, helloAckCame_of_hello hst hok hfits, if_pos (by simp [hform])]
  case barred => rw [exec_hello, helloCame_of_hello hst hok hfits hclash, if_neg (by simp [hform]), if_pos hbarred]

/-! ### Spare lanes -/

theorem exec_laneFault (p lane cause : Nat) (s : State) : exec (.laneFault p lane cause) s =
    done s (if frameCarries (portOf s p).st && !oddHalf s p then laneFails s p lane cause else s) := rfl
theorem exec_spareReq (p : Nat) (h : MgmtHdr) (lane frame : Nat) (s : State) :
    exec (.spareReq p h lane frame) s = done s (spareRequested s p h lane frame) := rfl
theorem exec_spareAck (p : Nat) (h : MgmtHdr) (lane frame : Nat) (s : State) :
    exec (.spareAck p h lane frame) s = done s (spareAcked s p h lane frame) := rfl

/-- The claim of a spare lane takes no time. -/
theorem takeSpare_time (s : State) (p : Nat) : (takeSpare s p).time = s.time := by
  unfold takeSpare displaceClaim
  dsimp only
  split <;> rfl

/-- A lane that was good so far is spared where it may be, or the port goes on without it. -/
theorem laneFails_of_good {s : State} {p lane : Nat} (hgood : lane ∉ (portOf s p).badLanes) (hown : onSpare (portOf s p) lane = false)
    (hlane : (portOf s p).gang = true ∨ lane < 4) (cause : Nat) : laneFails s p lane cause =
      if groupProtected s p && (claimHeld s 0x0B (spareLane p)).isNone then
        send (updPort (takeSpare s p) p (fun ps => { ps with spareAsked := some (lane, 0, cause) })) p (.spare 0x10 (bellN s % 2 ^ 24) lane 0)
      else degrade s p lane := by
  have hthere : ((portOf s p).badLanes.contains lane || onSpare (portOf s p) lane || (!(portOf s p).gang && decide (4 ≤ lane))) = false := by
    have hpresent : (!(portOf s p).gang && decide (4 ≤ lane)) = false := by
      rcases hlane with hgang | hlow
      · rw [hgang]; rfl
      · rw [decide_eq_false (Nat.not_le.mpr hlow), Bool.and_false]
    simp [hgood, hown, hpresent]
  unfold laneFails
  dsimp only
  rw [if_neg (by rw [hthere]; exact Bool.false_ne_true), bellN, updPort_time, takeSpare_time]
  rfl

/-- Settles O34: a lane goes to a spare that is free, when the frame named has come (log 165). -/
theorem lanesAreSpared : Obligations.LanesAreSpared := by
  refine ⟨fun p lane cause s hcarries heven hgood hown hlane => ⟨fun hno => .of_exec_eq_done ?degraded, fun hprotected hfree => .of_exec_eq_done ?asked⟩,
    fun p lane frame cause f h s hup hok => ⟨fun hfree => .of_exec_eq_done ?taken, fun hasked hframe => .of_exec_eq_done ?acknowledged⟩,
    fun p lane frame cause partner s hsparing => ⟨fun hearly => ?early, fun hcame => ?moved⟩⟩
  case degraded =>
    have hnone : (groupProtected s p && (claimHeld s 0x0B (spareLane p)).isNone) = false := by
      rcases hno with hno | hno
      · rw [hno, Bool.false_and]
      · rw [← Option.not_isSome, hno, Bool.not_true, Bool.and_false]
    rw [exec_laneFault, if_pos (by simp [hcarries, heven]), laneFails_of_good hgood hown hlane, hnone, if_neg Bool.false_ne_true]
  case asked =>
    rw [exec_laneFault, if_pos (by simp [hcarries, heven]), laneFails_of_good hgood hown hlane, if_pos (by simp [hprotected, hfree])]
  case taken =>
    simp only [exec_spareReq, spareRequested, hup, hok, hfree, Bool.not_true, Bool.false_eq_true, if_false, Option.isSome_none]
  case acknowledged =>
    simp only [exec_spareAck, spareAcked, hup, hok, Bool.not_true, Bool.false_eq_true, if_false, hasked, hframe, and_self, if_true]
  case early => simp only [moveLane, hsparing, hearly, if_true]
  case moved =>
    have hmove : moveLane s p = record { updPort s p (fun ps => { ps with sparing := none, sparedLane := some lane }) with
        pwr := { s.pwr with life := { s.pwr.life with lanes := Tab.upd s.pwr.life.lanes (p * 4 + lane) {} (fun x => { x with sparings := x.sparings + 1 }) } } }
        { code := 0x0302, quarter := portQuarter p, kind := 2, inst := portInst p, p0 := pack [(8, p), (0, lane)], p1 := word (spareLane p), p2 := word cause } := by
      simp only [moveLane, hsparing, Nat.not_lt.mpr hcame, if_false]
      rfl
    rw [hmove]
    exact ⟨(portOf_congr (s := updPort s p (fun ps => { ps with sparing := none, sparedLane := some lane })) rfl p).trans (portOf_updPort_same s p _), rfl⟩

end Sys2Proof.Machine

/-! ## Sessions and messages of management and of the domain (Tables 3.16, 17.2 and 20.8) -/

namespace Sys2Proof.Machine

/-! ### The messages of a session -/

theorem exec_sessInit (p : Nat) (h : MgmtHdr) (d : List Byte) (s : State) : exec (.sessInit p h d) s = done s (initCame s p h d) := rfl
theorem exec_sessResp (p : Nat) (h : MgmtHdr) (d : List Byte) (s : State) : exec (.sessResp p h d) s = done s (respCame s p h d) := rfl
theorem exec_sessFin (p : Nat) (h : MgmtHdr) (d : List Byte) (s : State) : exec (.sessFin p h d) s = done s (finCame s p h d) := rfl
theorem exec_sessAck (p : Nat) (h : MgmtHdr) (d : List Byte) (s : State) : exec (.sessAck p h d) s = done s (ackCame s p h d) := rfl

/-- The four words of a fresh nonce. -/
theorem drawNonce_eq (s : State) :
    drawNonce s = (wordsBytes ((List.range 4).map (fun i => Config.drbg (s.free + i))), { s with free := s.free + 4 }) := rfl

/-- SESS_INIT at a responder that is at rest: its sender is judged first. -/
theorem initCame_of_rest {s : State} {p : Nat} {h : MgmtHdr} (hopen : sessOpen (portOf s p) = true) (hok : mgmtOk h = true)
    (hresponds : ¬((portOf s p).st = .auth ∧ initiates s (portOf s p) = true)) (hrest : (portOf s p).step = .idle) (d : List Byte) :
    initCame s p h d = match judge s (portOf s p) d with
      | .error cause => sessionFails s p 1 cause
      | .ok (key, ev) =>
        let u := { s with free := s.free + 5 }
        let nonce := wordsBytes ((List.range 4).map (fun i => Config.drbg (s.free + i)))
        let k := Config.kemEncaps (slice d 32 1568) (s.free + 4)
        let body := (nonce ++ padTo 1568 (k.1.take 1568)) ++ deviceChain u ++ padTo evidenceBytes ((evidence u nonce).take evidenceBytes)
        let T := transcriptOf (portOf s p).helloGot (portOf s p).helloSent (d.take bodyBytes) body
        sendMgmt (updPort u p (fun ps => { ps with
              rekeying := ps.st == .up, nonce := nonce, transcript := T, finishKey := finishKeyOf k.2 T, partnerKey := key, partnerNext := ev
              keysNext := linkKeysOf k.2 T false, step := .sentResp, stepBell := s.time.bell }))
            p 9 { xid := h.xid } (padUnits (body ++ signT u T)) := by
  have htakes : ¬(((portOf s p).st = .auth ∧ initiates s (portOf s p) = true) ∨ ((portOf s p).step ≠ .idle ∧ initiates s (portOf s p) = true)) := by
    rintro (hbad | hbad)
    · exact hresponds hbad
    · exact hbad.1 hrest
  simp only [initCame, hopen, hok, Bool.not_true, Bool.false_eq_true, if_false, htakes]
  cases judge s (portOf s p) d with
  | error cause => rfl
  | ok seen => rfl

/-- SESS_RESP at an initiator that waits for it. -/
theorem respCame_of_sentInit {s : State} {p : Nat} {h : MgmtHdr} (hopen : sessOpen (portOf s p) = true) (hok : mgmtOk h = true)
    (hstep : (portOf s p).step = .sentInit) (d : List Byte) :
    respCame s p h d = match judge s (portOf s p) d with
      | .error cause => sessionFails s p 2 cause
      | .ok (key, ev) =>
        let T := transcriptOf (portOf s p).helloSent (portOf s p).ackGot (portOf s p).transcript (d.take bodyBytes)
        let ss := Config.kemDecaps (portOf s p).kemDraw (slice d 32 1568)
        if Config.mldsaVerify key T (slice d bodyBytes 3309) = true
        then sendMgmt (updPort s p (fun ps => { ps with
              transcript := T, finishKey := finishKeyOf ss T, partnerKey := key, partnerNext := ev, keysNext := linkKeysOf ss T true
              step := .sentFin, stepBell := s.time.bell })) p 0x0A { xid := h.xid } (padUnits (signT s T ++ finishValue (finishKeyOf ss T) T))
        else sessionFails s p 2 1 := by
  simp only [respCame, hopen, hok, hstep, ne_eq, not_true, decide_false, Bool.not_true, Bool.or_self, Bool.false_eq_true, if_false]
  cases judge s (portOf s p) d with
  | error cause => rfl
  | ok seen =>
    dsimp only
    cases Config.mldsaVerify seen.1 (transcriptOf (portOf s p).helloSent (portOf s p).ackGot (portOf s p).transcript (d.take bodyBytes))
        (slice d bodyBytes 3309) with
    | true => rfl
    | false => rfl

/-- Settles O36: each message is judged by what its step of the exchange waits for (log 79). -/
theorem sessionsAreSetUpInSteps : Obligations.SessionsAreSetUpInSteps := by
  intro p h d s hopen hok
  refine ⟨fun hresponds hrest => ⟨_, .of_exec_eq_done (exec_sessInit p h d s), ?init⟩, fun hstep => ⟨_, .of_exec_eq_done (exec_sessResp p h d s), ?resp⟩,
    fun hstep => .of_exec_eq_done ?fin, fun hstep => .of_exec_eq_done ?ack⟩
  case init =>
    rw [initCame_of_rest hopen hok hresponds hrest]
    cases judge s (portOf s p) d with
    | error cause => rfl
    | ok seen => rfl
  case resp =>
    rw [respCame_of_sentInit hopen hok hstep]
    cases judge s (portOf s p) d with
    | error cause => rfl
    | ok seen =>
      dsimp only
      split <;> rfl
  case fin =>
    simp only [exec_sessFin, finCame, hopen, hok, hstep, ne_eq, not_true, decide_false, Bool.not_true, Bool.or_self, Bool.false_eq_true, if_false,
      Bool.not_eq_true']
  case ack =>
    simp only [exec_sessAck, ackCame, hopen, hok, hstep, ne_eq, not_true, decide_false, Bool.not_true, Bool.or_self, Bool.false_eq_true, if_false,
      ite_not]

/-! ### The timers of a session -/

theorem exec_sessionStepTimeout (p : Nat) (s : State) : exec (.sessionStepTimeout p) s = done s (stepTimeout s p) := rfl
theorem exec_rekeyDue (p : Nat) (s : State) : exec (.rekeyDue p) s = done s (rekeyNow s p) := rfl
theorem exec_rekeyRetry (p : Nat) (s : State) : exec (.rekeyRetry p) s = done s (rekeyAgain s p) := rfl
theorem exec_sessionKeysExpired (p : Nat) (s : State) : exec (.sessionKeysExpired p) s = done s (keysExpire s p) := rfl

/-- A session's use has reached a limit of frames or bells. -/
theorem sessionAt_iff {s : State} {ps : PortS} {frames bells : Nat} :
    sessionAt s ps frames bells = true ↔ 2 ^ frames ≤ ps.framesIn ∨ 2 ^ frames ≤ ps.framesOut ∨ 2 ^ bells ≤ since s ps.keyBell := by
  simp only [sessionAt, Bool.or_eq_true, decide_eq_true_eq, or_assoc]

/-- A rekey sends SESS_INIT over the live session, with a fresh nonce and key. -/
theorem rekey_eq (s : State) (p : Nat) : rekey s p =
    let nonce := wordsBytes ((List.range 4).map (fun i => Config.drbg (s.free + i)))
    let u := updPort { s with free := s.free + 5 } p (fun ps => { ps with rekeying := true })
    let d := (nonce ++ padTo 1568 ((Config.kemPublic (s.free + 4)).take 1568)) ++ deviceChain u
      ++ padTo evidenceBytes ((evidence u nonce).take evidenceBytes)
    sendMgmt (updPort u p (fun ps => { ps with
      nonce := nonce, kemDraw := s.free + 4, transcript := d, retryAt := none, step := .sentInit, stepBell := s.time.bell }))
      p 8 { xid := bellN s % 2 ^ 24 } d := rfl

/-- A failed attempt of an UP port keeps its session. -/
theorem sessionFails_of_up {s : State} {p : Nat} (hup : (portOf s p).st = .up) (step cause : Nat) :
    sessionFails s p step cause = updPort (portRecord s p 0x0308 (word step) (word 4) 0) p
      (fun ps => { ps with step := .idle, rekeying := false, retryAt := some (s.time.bell + 10000) }) := by
  simp only [sessionFails, hup, if_true]
  rfl

/-- One of a port in AUTH is counted; the third in a row ends the tries. -/
theorem sessionFails_of_auth {s : State} {p : Nat} (hauth : (portOf s p).st = .auth) (step cause : Nat) :
    let t := updPort (portRecord s p 0x0308 (word step) (word cause) 0) p
      (fun ps => { ps with failures := ps.failures + 1, step := .idle, retryAt := some (s.time.bell + 10000) })
    sessionFails s p step cause = if 3 ≤ (portOf s p).failures + 1 then dropPort t p .authFail else t := by
  simp only [sessionFails, hauth, reduceCtorEq, if_false]
  rfl

/-- Settles O37: the limits and what a failed attempt leaves (log 80). -/
theorem sessionTimers : Obligations.SessionTimers := by
  intro p step cause s
  refine ⟨fun hopen hstep hlate => .of_exec_eq_done ?late, fun hup hrekeying => ⟨fun hretry hused => .of_exec_eq_done ?due,
    fun b hretry hpast => .of_exec_eq_done ?retry⟩, fun hup hused => .of_exec_eq_done ?expired, fun hup => ?kept, fun hauth hfew => ?counted,
    fun hauth hmany => ?ended⟩
  case late => rw [exec_sessionStepTimeout, stepTimeout, if_pos (by simp [hopen, hstep, hlate])]
  case due =>
    rw [exec_rekeyDue, rekeyNow, if_pos ⟨hup, by simp [hrekeying], by simp [hretry], sessionAt_iff.mpr hused⟩, rekey_eq]
  case retry =>
    rw [exec_rekeyRetry, rekeyAgain, if_pos ⟨hup, by simp [hrekeying], by simp [retryDue, hretry, hpast]⟩, rekey_eq]
  case expired => rw [exec_sessionKeysExpired, keysExpire, if_pos ⟨hup, sessionAt_iff.mpr hused⟩]
  case kept =>
    rw [sessionFails_of_up hup, portOf_updPort_same]
    rfl
  case counted =>
    rw [sessionFails_of_auth hauth, if_neg (by omega), portOf_updPort_same]
    rfl
  case ended =>
    rw [sessionFails_of_auth hauth, if_pos (by omega)]
    refine dropPort_st ?_ .authFail
    have hport : portOf (portRecord s p 0x0308 (word step) (word cause) 0) p = portOf s p := portOf_congr rfl p
    rw [portOf_updPort_same, hport]
    simp [hauth]

/-! ### Leases and the quorum -/

theorem exec_leaseRenew (p : Nat) (h : MgmtHdr) (d : List Byte) (s : State) : exec (.leaseRenew p h d) s =
    done s (domainMessage s p h (fun s => if h.dst = s.dom.devid then toHost s p h 0x30 else s)) := rfl
theorem exec_quorum (p : Nat) (h : MgmtHdr) (d : List Byte) (s : State) : exec (.quorum p h d) s = done s (domainMessage s p h (fun s =>
    if h.dst = s.dom.devid then toHost s p h 0x38 else if h.dst = 0xFFFF then quorumCommand s p h d else s)) := rfl
theorem exec_leaseGrant (p : Nat) (h : MgmtHdr) (d : List Byte) (s : State) :
    exec (.leaseGrant p h d) s = done s (domainMessage s p h (fun s => grant s h.mstat d)) := rfl
theorem exec_leaseRenewalDue (s : State) : exec .leaseRenewalDue s = done s (renewLease s) := rfl
theorem exec_leaseLost (s : State) : exec .leaseLost s = done s (leaseLost s) := rfl
theorem exec_leaseRegained (s : State) : exec .leaseRegained s = done s (leaseRegained s) := rfl

/-- A message of the domain in form, on an UP port that leads to no other domain, is taken. -/
theorem domainMessage_of_taken {s : State} {p : Nat} {h : MgmtHdr} (hup : portUp s p = true) (hdomain : (portOf s p).ptype ≠ 3)
    (hok : mgmtOk h = true) (take : State → State) : domainMessage s p h take = take s := by
  simp only [domainMessage, hup, hok, beq_false_of_ne hdomain, Bool.not_true, Bool.or_self, Bool.false_eq_true, if_false]

/-- Settles O38: messages of the domain are passed on, counted or taken; a lease lost or regained sets FENCED (log 85, log 86). -/
theorem domainMessagesAndLeases : Obligations.DomainMessagesAndLeases := by
  refine ⟨fun p h d s hup hdomain hok => ⟨fun hdst => .of_exec_eq_done ?renew, fun hdst => .of_exec_eq_done ?quorum,
      fun hdst hall hroom => .of_exec_eq_done ?command, fun e hmember hstat hown => .of_exec_eq_done ?grant⟩,
    fun s => ⟨fun hvalid hmembers hdue hnew => .of_exec_eq_done ?renewal, fun hvalid hopen hlost => .of_exec_eq_done ?lost,
      fun hstrike hfenced hin hcurrent hepoch => .of_exec_eq_done ?regained, fun hfenced => .of_unchanged (exec_leaseLost s) ?stays,
      fun hopen => .of_unchanged (exec_leaseRegained s) ?open_, fun b => ⟨rfl, rfl, fun e he => ?records⟩⟩⟩
  case renew => rw [exec_leaseRenew, domainMessage_of_taken hup hdomain hok, if_pos hdst]; rfl
  case quorum => rw [exec_quorum, domainMessage_of_taken hup hdomain hok, if_pos hdst]; rfl
  case command =>
    rw [exec_quorum, domainMessage_of_taken hup hdomain hok, if_neg hdst, if_pos hall]
    simp only [quorumCommand, Nat.not_le.mpr hroom, if_false]
  case grant =>
    rw [exec_leaseGrant, domainMessage_of_taken hup hdomain hok]
    simp only [grant, hmember, hstat, true_and, List.contains_iff_mem, hown]
  case renewal =>
    have hgoes : (!s.dom.dvalid || s.dom.members.isEmpty || bellN s % 500 != 0 || s.dom.renewals.contains s.time.bell) = false := by
      simp [hvalid, hmembers, hdue, hnew]
    simp only [exec_leaseRenewalDue, renewLease, hgoes, Bool.false_eq_true, if_false]
    rfl
  case lost =>
    have hgoes : (s.dom.dvalid && !s.dom.fenced && (s.dom.outcast || !leaseCurrent s)) = true := by
      rcases hlost with hlost | hlost <;> simp [hvalid, hopen, hlost]
    rw [exec_leaseLost, leaseLost, if_pos hgoes]
    rfl
  case regained =>
    rw [exec_leaseRegained, leaseRegained, if_pos (by simp [hstrike, hfenced, hin, hcurrent, hepoch])]
    rfl
  case stays => exact if_neg (by simp [hfenced])
  case open_ => exact if_neg (by simp [hopen])
  case records => exact List.mem_map_of_mem (f := fun e => if homeDevice s e.2 = s.dom.devid then (e.1, { e.2 with fenced := b }) else e) he

/-! ### Mailbox messages on their way -/

/-- An endpoint's port 0 is UP, and port 4 leads to device 2. -/
def bridgingState : State := { State.reset with
  ports := [(0, { st := .up, enabled := true, ptype := 2, epid := 0x100 }), (4, { st := .up, enabled := true, ptype := 1, epid := 2 })] }

set_option maxRecDepth 4000 in
/-- Refutes O39: its second clause asks nothing of SRCID, and an MBOX_CMD for another device that does not come from the port's own
source is discarded (R78). -/
theorem not_mailboxMessagesAreCarried : ¬ Obligations.MailboxMessagesAreCarried := by
  intro h
  have hcarried := (h 0 4 { src := 0x101, dst := 2, len := 2 } (List.replicate 128 0) bridgingState (by decide) (by decide)).2.1 (by decide) (by decide)
    List.length_replicate (by decide) (by decide) (by decide) (by simp [pickPort, portsToDevice, bridgingState, State.reset])
  have hsame : exec (.mboxCmd 0 { src := 0x101, dst := 2, len := 2 } (List.replicate 128 0)) bridgingState =
      done bridgingState (discardMessage bridgingState 0 0x101 3 2) := rfl
  have hsame := hsame.symm.trans hcarried
  injection hsame with hsame
  exact absurd (congrArg (fun t => t.fab.mbox.length) hsame) (by decide)

end Sys2Proof.Machine

/-! ## Long work of the domain -/

namespace Sys2Proof.Machine

/-- Region 5 has moved here from device 2: its pages are copied, the switch has struck, and nothing is in service. -/
def arrivedRegion : Region := { handle := 5, comp := 1, moving := true, place := [{ count := 1 }] }
def arrivedMove : Move := { handle := 5, switched := true, new := true, other := 2, copied := true }
def movedState : State := { State.reset with regs := { recs := [(5, arrivedRegion)], moves := [arrivedMove] } }

/-- The record that comes with a move passes through the record cache of its quarter (R172). -/
theorem recCache_of_moveComplete : ∀ t, exec (.moveComplete 5) movedState = .next t → t.tier.recCache.length = 1 := by
  intro t ht
  have hexec : exec (.moveComplete 5) movedState = done movedState (moveEnds movedState 5) := rfl
  rw [hexec] at ht
  injection ht with ht
  rw [← ht]
  decide +kernel

/-- Refutes O40: its clause on a region that has come to its new home writes the record alone, where the record also passes through
the record cache (R172) and its placement chain is laid out (R192). -/
theorem not_longWorkOfTheDomainEnds : ¬ Obligations.LongWorkOfTheDomainEnds := by
  intro h
  obtain ⟨-, -, -, -, -, hcomplete, -⟩ := h.1 5 0 movedState arrivedRegion
  have hgives := hcomplete arrivedMove (by decide) (by decide) (by decide) (by decide) (by decide) (by decide) (by decide)
  exact absurd (recCache_of_moveComplete _ hgives) (by decide +kernel)

end Sys2Proof.Machine

/-! ## Mailbox commands (Tables 16.5 to 16.16) -/

namespace Sys2Proof.Machine

/-! ### A command that is taken -/

/-- A command that is a row of Tables 16.9 to 16.16 is taken by its mailbox. -/
theorem exec_mailboxRow {row : Nat × (Issuer → CmdEntry → Instr)} (h : row ∈ mailboxRows) (i : Issuer) (e : CmdEntry) (s : State) :
    exec (row.2 i e) s = done s (mailbox s i row.1 e) := by
  have hall : ∀ row ∈ mailboxRows, exec (row.2 i e) s = done s (mailbox s i row.1 e) := by
    simp only [mailboxRows, List.forall_mem_cons, List.not_mem_nil, false_implies, implies_true, and_true]
    repeat' apply And.intro
    all_goals rfl
  exact hall row h

/-- What `mailboxTakes` says, part by part. -/
theorem mailboxTakes_iff {s : State} {i : Issuer} {opc : Nat} {e : CmdEntry} : mailboxTakes s i opc e = true ↔
    s.mb.cmds = [] ∧ reaches s i = true ∧ mbOut s i.fn < 16 ∧ preCheck (taken s i opc e) (newCmd s i opc e) e = none := by
  simp [mailboxTakes, and_assoc]

/-- A mailbox at rest goes on with the command it takes. -/
theorem mailbox_of_rest {s : State} {i : Issuer} (hrest : s.mb.cmds = []) (hreach : reaches s i = true) (hroom : mbOut s i.fn < 16) (opc : Nat)
    (e : CmdEntry) : mailbox s i opc e = settleAll (stepCmd (taken s i opc e) (newCmd s i opc e) e) := by
  have hcmds : (takeCmd s i opc e).mb.cmds = [newCmd s i opc e] := by simp [takeCmd, hrest]
  have hahead : cmdBehind (takeCmd s i opc e) (newCmd s i opc e) = false := by simp [cmdBehind, hcmds]
  have hrun : runMailboxes (takeCmd s i opc e) = stepCmd (taken s i opc e) (newCmd s i opc e) e := by
    have hwaiting : (newCmd s i opc e).waiting = some e := rfl
    simp only [runMailboxes, hcmds, List.map_cons, List.map_nil, each, List.foldl_cons, List.foldl_nil, List.find?_cons, BEq.rfl, hwaiting, hahead,
      Bool.false_eq_true, if_false]
    rfl
  simp only [mailbox, hreach, Nat.not_le.mpr hroom, Bool.not_true, Bool.false_eq_true, if_false, hrun]

/-- A row's command at a mailbox at rest. -/
theorem gives_mailboxRow {row : Nat × (Issuer → CmdEntry → Instr)} (hrow : row ∈ mailboxRows) {i : Issuer} {s : State} (hrest : s.mb.cmds = [])
    (hreach : reaches s i = true) (hroom : mbOut s i.fn < 16) {e : CmdEntry} {t : State}
    (hstep : stepCmd (taken s i row.1 e) (newCmd s i row.1 e) e = t) : Gives (row.2 i e) s (settleAll t) :=
  .of_exec_eq_done (by rw [exec_mailboxRow hrow, mailbox_of_rest hrest hreach hroom, hstep])

/-! ### One command's step -/

/-- A command that fails a check that every command passes first is refused. -/
theorem stepCmd_of_preCheck {s : State} {c : Cmd} {e : CmdEntry} {status cause : Nat} {words : List Word} {audit : Bool}
    (h : preCheck s c e = some (status, cause, words, audit)) : stepCmd s c e = refuseCmd s c status cause words audit := by
  simp only [stepCmd, h]

/-- A command without a data area is checked at once. -/
theorem stepCmd_of_no_area {s : State} {c : Cmd} {e : CmdEntry} (h : preCheck s c e = none) (hattest : c.opc ≠ 0x62)
    (harea : hasArea c.opc = false ∨ e.dlen = 0) : stepCmd s c e = decide_ s c e := by
  have hnone : (hasArea c.opc && decide (0 < e.dlen)) = false := by
    rcases harea with harea | harea
    · rw [harea, Bool.false_and]
    · rw [harea]; exact Bool.and_false _
  simp only [stepCmd, h, hattest, if_false, hnone, Bool.false_eq_true]

/-- A command with a data area: first the area, then its check. -/
theorem stepCmd_of_area {s : State} {c : Cmd} {e : CmdEntry} (h : preCheck s c e = none) (harea : hasArea c.opc = true) (hlen : 0 < e.dlen) :
    stepCmd s c e =
      if !c.asked then askArea s c e
      else if !c.reads.isEmpty then s
      else match c.failed with
        | some status => refuseCmd s c status 0 [] true
        | none => match mirrorNeeded s c e with
          | some x => askMirror s c x
          | none => decide_ s c e := by
  have hattest : c.opc ≠ 0x62 := fun hopc => by simp [hopc, hasArea] at harea
  simp only [stepCmd, h, hattest, if_false, harea, hlen, decide_true, Bool.and_self, if_true] <;> rfl

/-- The check of a command whose lines are there. -/
theorem decide_of_lines {s : State} {c : Cmd} {e : CmdEntry} (h : missingNeeds s (indexCmdNeeds s (committed s) c.opc e (areaBytes c e)) = []) :
    decide_ s c e = match checkCmd s (committed s) c e (areaBytes c e) with
      | .refuse status cause words => refuseCmd (if status = RESOURCE_HELD then claimRefused s c e words else s) c status cause words true
      | .commit u changes result drain => commitCmd u c changes result drain := by
  simp only [decide_, h, List.isEmpty_nil, Bool.not_true, Bool.false_eq_true, if_false] <;> rfl

/-- A command that has just been taken has no data yet. -/
theorem areaBytes_newCmd (s : State) (i : Issuer) (opc : Nat) (e : CmdEntry) : areaBytes (newCmd s i opc e) e = [] := by
  simp [areaBytes, newCmd, Tab.getD, Tab.get?]

/-- Settles O41: a command that passes every check is committed. -/
theorem mailboxCommandsCommit : Obligations.MailboxCommandsCommit := by
  intro row i e s u changes result drain hrow htakes hattest harea hlines hcheck
  obtain ⟨hrest, hreach, hroom, hpre⟩ := mailboxTakes_iff.mp htakes
  refine gives_mailboxRow hrow hrest hreach hroom ?_
  rw [stepCmd_of_no_area hpre hattest harea, decide_of_lines (by rw [areaBytes_newCmd]; exact hlines), areaBytes_newCmd, hcheck]

/-- Settles O42: the area is asked for, or written, before the check (log 18). -/
theorem dataAreasComeFirst : Obligations.DataAreasComeFirst := by
  refine ⟨fun row i e s hrow htakes => ⟨fun harea hlen => ?asked, fun hattest => ?evidence⟩,
    fun s c e hwaiting hpre harea hlen hasked hreads => ⟨fun hgood hmirror hlines => ?checked, fun missing hgood hmirror hlines hsome => ?lines,
      fun status hfailed => ?failed⟩⟩
  case asked =>
    obtain ⟨hrest, hreach, hroom, hpre⟩ := mailboxTakes_iff.mp htakes
    exact gives_mailboxRow hrow hrest hreach hroom (by rw [stepCmd_of_area hpre harea hlen]; rfl)
  case evidence =>
    obtain ⟨hrest, hreach, hroom, hpre⟩ := mailboxTakes_iff.mp htakes
    refine gives_mailboxRow hrow hrest hreach hroom ?_
    have hopc : (newCmd s i row.1 e).opc = 0x62 := hattest
    have hfresh : (newCmd s i row.1 e).asked = false := rfl
    simp only [stepCmd, hpre, hopc, if_true, attestCmd, hfresh, Bool.not_false]
    cases attestBytes (taken s i row.1 e) e <;> rfl
  case checked =>
    simp only [stepCmd_of_area hpre harea hlen, hasked, hreads, hgood, hmirror, List.isEmpty_nil, Bool.not_true, Bool.false_eq_true, if_false,
      decide_of_lines hlines]
    cases checkCmd s (committed s) c e (areaBytes c e) <;> rfl
  case lines =>
    have hask : (!(missingNeeds s (indexCmdNeeds s (committed s) c.opc e (areaBytes c e))).isEmpty) = true := by simp [hlines, hsome]
    simp only [stepCmd_of_area hpre harea hlen, hasked, hreads, hgood, hmirror, List.isEmpty_nil, Bool.not_true, Bool.false_eq_true, if_false,
      decide_, hask, if_true]
    rw [hlines]
  case failed =>
    simp only [stepCmd_of_area hpre harea hlen, hasked, hreads, hfailed, List.isEmpty_nil, Bool.not_true, Bool.false_eq_true, if_false]

/-- A command that is the only one does not make a reset. -/
theorem resetRefuses_taken {s : State} (hrest : s.mb.cmds = []) (hreset : resetRefuses s = false) (i : Issuer) (opc : Nat) (e : CmdEntry) :
    resetRefuses (taken s i opc e) = false := by
  simpa [resetRefuses, taken, takeCmd, newCmd, hrest] using hreset

/-- Settles O43: the checks before a row's own, in their order (log 60). -/
theorem mailboxRefusals : Obligations.MailboxRefusals := by
  intro row i e s hrow hrest hreach hroom hreset
  have hquiet := resetRefuses_taken hrest hreset i row.1 e
  have hopc : (newCmd s i row.1 e).opc = row.1 := rfl
  have hiss : (newCmd s i row.1 e).iss = i := rfl
  refine ⟨fun hvf hclass => gives_mailboxRow hrow hrest hreach hroom (stepCmd_of_preCheck ?privilege),
    fun hallowed hfields => gives_mailboxRow hrow hrest hreach hroom (stepCmd_of_preCheck ?fields),
    fun status cause words htakes hattest harea hstatus hlines hcheck => gives_mailboxRow hrow hrest hreach hroom ?checked⟩
  case privilege => simp [preCheck, hquiet, hopc, hiss, hvf, hclass]
  case fields =>
    have hprivileged : (!i.operator && classOf row.1 != .stall) = false := by
      rcases hallowed with hallowed | hallowed <;> simp [hallowed]
    have hreserved : (decide (e.rsv ≠ 0) || (!i.operator && decide (e.principal ≠ 0)) || reservedSet row.1 e) = true := by
      rcases hfields with hfields | ⟨hvf, hprincipal⟩ | hfields
      · simp [hfields]
      · simp [hvf, hprincipal]
      · rw [hfields, Bool.or_true]
    simp only [preCheck, hquiet, hopc, hiss, hprivileged, hreserved, Bool.false_eq_true, if_false, if_true]
  case checked =>
    obtain ⟨-, -, -, hpre⟩ := mailboxTakes_iff.mp htakes
    rw [stepCmd_of_no_area hpre hattest harea, decide_of_lines (by rw [areaBytes_newCmd]; exact hlines), areaBytes_newCmd, hcheck]
    simp only [hstatus, if_false]

/-! ### What commands change -/

/-- Settles O44: each check comes to the change that its words spell (log 137). -/
theorem stallCommandsSpellTheirChanges : Obligations.StallCommandsSpellTheirChanges := by
  intro s v c e d
  refine ⟨fun hopc hbits hzero hidle => ?stallSet, fun hopc hbits hzero => ?quotaSet, fun hopc hbits hbits4 hzero hmode hon => ?policeSet,
    fun hopc hbits hbits4 hzero hretain harrays => ?engineSet, fun hopc hbits hzero hown => ?meterRead,
    fun hopc hbits hzero hlow hhigh hfree => ?claim, fun r hopc hbits hzero hlow hhigh hheld => ⟨fun hmine => ?release, fun hother => ?refused⟩⟩
  case stallSet =>
    simp only [checkCmd, hopc, cmdStallSet, hbits, hzero, Bool.not_true, Bool.or_self, Bool.false_eq_true, if_false, hidle, ite_self]
  case quotaSet => simp only [checkCmd, hopc, cmdQuotaSet, hbits, hzero, Bool.not_true, Bool.or_self, Bool.false_eq_true, if_false]
  case policeSet =>
    have hvalid : (decide (fld (e.c 4) 63 62 = 3) || (decide (fld (e.c 4) 63 62 = 1) && (decide (fld (e.c 4) 55 32 < 66) || decide (fld (e.c 4) 31 12 = 0))))
        = false := by
      simp only [Bool.or_eq_false_iff, Bool.and_eq_false_imp, decide_eq_false_iff_not, decide_eq_true_eq]
      exact ⟨hmode, fun h1 => ⟨Nat.not_lt.mpr (hon h1).1, (hon h1).2⟩⟩
    simp only [checkCmd, hopc, cmdPoliceSet, hbits, hbits4, hzero, Bool.not_true, Bool.false_or, hvalid, Bool.false_eq_true, if_false]
  case engineSet =>
    simp only [checkCmd, hopc, cmdEngineSet, hbits, hbits4, hzero, Bool.not_true, Bool.or_self, Bool.false_eq_true, if_false,
      decide_eq_false (Nat.not_lt.mpr hretain), decide_eq_false (Nat.not_lt.mpr harrays)]
  case meterRead =>
    have hshown : (!c.iss.operator && stallComp s c.stall != some (fld (e.c 3) 19 0)) = false := by
      rcases hown with hown | hown <;> simp [hown]
    simp only [checkCmd, hopc, cmdMeterRead, hbits, hzero, hshown, Bool.not_true, Bool.or_self, Bool.false_eq_true, if_false, reply]
  all_goals
    have hrange : (decide (fld (e.c 3) 15 0 < 0x100) || decide (0x1FF < fld (e.c 3) 15 0)) = false := by
      rw [decide_eq_false (Nat.not_lt.mpr hlow), decide_eq_false (Nat.not_lt.mpr hhigh)]; rfl
  case claim =>
    simp only [checkCmd, hopc, cmdClaim, hbits, hzero, Bool.not_true, Bool.false_or, hrange, Bool.false_eq_true, if_false, hfree]
    exact ⟨_, _, rfl, rfl, rfl, rfl, rfl, rfl⟩
  case release =>
    simp only [checkCmd, hopc, cmdRelease, hbits, hzero, Bool.not_true, Bool.false_or, hrange, Bool.false_eq_true, if_false, hheld,
      hmine, and_self, if_true]
    exact ⟨_, rfl⟩
  case refused =>
    simp only [checkCmd, hopc, cmdRelease, hbits, hzero, Bool.not_true, Bool.false_or, hrange, Bool.false_eq_true, if_false, hheld,
      hother, bad]

/-- A policer's entry at one service of a stall, in each quarter in turn. -/
theorem applyChange_police (s : State) (n svc mode burst rate : Nat) {q : Nat} (hq : q < 4) :
    Tab.getD (applyChange s (.police n svc mode burst rate)).sw.policers (policerKey q n svc) {} =
      (fun (p : Policer) => { p with mode := mode, burst := burst, rate := rate, tokens := if mode = 1 ∧ p.mode ≠ 1 then burst else min p.tokens burst })
        (Tab.getD s.sw.policers (policerKey q n svc) {}) := by
  have hkey : ∀ a b : Nat, policerKey a n svc = policerKey b n svc ↔ a = b := fun a b => by unfold policerKey; omega
  simp only [applyChange, each, List.foldl_cons, List.foldl_nil, Tab.getD_upd, hkey]
  interval_cases q <;> rfl

/-- Settles O45: a bell's changes of quotas are applied in order at the strike, and each change writes its own entry. -/
theorem changesTakeEffectAtTheStrike : Obligations.ChangesTakeEffectAtTheStrike := by
  intro s
  refine ⟨fun l hl hready hquota => ?strike, fun n near tray => ?quota, fun n svc mode burst rate q hq _ _ => applyChange_police s n svc mode burst rate hq,
    fun n principal comp => ?stall⟩
  case strike =>
    have hfold : ∀ (l : List (Nat × Change)) (s : State), (∀ e ∈ l, ∃ n a b, e.2 = .quota n a b) →
        each l (fun e s => if changeWaits s e.2 then { s with mb := { s.mb with changes := s.mb.changes ++ [e] } }
          else changeSeen s (applyChange s e.2) e.2) s = l.foldl (fun s e => applyChange s e.2) s := by
      intro l
      induction l with
      | nil => exact fun _ _ => rfl
      | cons e l ih =>
        intro s hquota
        obtain ⟨n, a, b, he⟩ := hquota e List.mem_cons_self
        refine Eq.trans ?_ (ih _ (fun e he => hquota e (List.mem_cons_of_mem _ he)))
        simp only [each, List.foldl_cons, he]
        rfl
    rw [makeVisible, hl]
    exact hfold l _ hquota
  case quota => simp only [applyChange, Tab.getD_upd, if_true]
  case stall => simp only [applyChange, Tab.getD_upd, if_true]

end Sys2Proof.Machine

/-! ## Trays and the errors of near memory -/

namespace Sys2Proof.Machine

/-! ### Tray ports -/

theorem exec_cxlPortUp (c : Nat) (link : CxlLink) (s : State) : exec (.cxlPortUp c link) s = done s (cxlUp s c link) := rfl
theorem exec_cxlPortDown (c : Nat) (s : State) : exec (.cxlPortDown c) s = done s (cxlDown s c) := rfl
theorem exec_dynamicCapacityAdd (c dpa units : Nat) (s : State) :
    exec (.dynamicCapacityAdd c dpa units) s = done s (capacityAdd s c dpa units) := rfl
theorem exec_trayTableEntryFree (c : Nat) (s : State) : exec (.trayTableEntryFree c) s = done s (traySettle s c) := rfl

/-- The keys of a link: eight words drawn one after another. -/
theorem draw_eight (s : State) :
    (List.range 8).foldl (fun (e : List Word × State) _ => let d := drawWord e.2; (e.1 ++ [d.1], d.2)) ([], s) =
      ((List.range 8).map (fun i => Config.drbg (s.free + i)), { s with free := s.free + 8 }) := by
  simp only [drawWord, List.range, List.range.loop, List.foldl_cons, List.foldl_nil, List.map_cons, List.map_nil, Nat.add_assoc, List.nil_append,
    List.cons_append, Nat.reduceAdd, Nat.add_zero]

/-- A tray that offers every feature of Table 7.4 opens its capacity, and its dirty lines are written back. -/
theorem cxlUp_of_featured {s : State} {c : Nat} {link : CxlLink} (hc : c < 16) (hfeat : missingFeature link = 0) (hl0 : link.l0 = true)
    (hide : link.ide = true) (hunits : link.units ≠ 0) (hdown : (cxlOf s c).up = false) : cxlUp s c link =
      settleAll (each (s.tier.frames.filter (·.port == c)) (fun f s => each f.dirty (fun d s => writeBack s f d.1) s)
        (updCxl { s with free := s.free + 8 } c (fun x => { x with
          up := true, link := link, ideKeys := (List.range 8).map (fun i => Config.drbg (s.free + i))
          extents := [(0, min link.units (2 ^ 25))], arriving := [] }))) := by
  have hopen : (!link.l0 || !link.ide || decide (link.units = 0) || (cxlOf s c).up) = false := by simp [hl0, hide, hunits, hdown]
  simp only [cxlUp, Nat.not_le.mpr hc, hfeat, ne_eq, not_true_eq_false, if_false, hopen, Bool.false_eq_true, draw_eight]
  rfl

/-- A tray that lacks a feature is recorded. -/
theorem cxlUp_of_missing {s : State} {c : Nat} {link : CxlLink} (hc : c < 16) (hmissing : missingFeature link ≠ 0) : cxlUp s c link =
    record s { code := 0x0701, quarter := cxlQuarter c, kind := 7, inst := c % 4, p0 := word c, p1 := word (missingFeature link) } := by
  simp only [cxlUp, Nat.not_le.mpr hc, if_false, ne_eq, hmissing, not_false_eq_true, if_true]

/-- The number of the first row that is not met is 0 where every row is met. -/
theorem findIdx?_not_eq_none_iff (rows : List Bool) : rows.findIdx? (!·) = none ↔ ∀ b ∈ rows, b = true := by
  simp [List.findIdx?_eq_none_iff]

/-- No feature is missing where every row of Table 7.4 is met. -/
theorem missingFeature_eq_zero_iff (l : CxlLink) : missingFeature l = 0 ↔
    l.type3 = true ∧ (l.lanes = 16 ∨ l.lanes = 8) ∧ (l.rate = 64 ∨ l.rate = 32) ∧ (l.flit = 256 ∨ (l.flit = 68 ∧ l.rate = 32)) ∧ l.io = true
      ∧ l.mem = true ∧ l.interleave = false ∧ l.addEvents = true ∧ l.poison = true ∧ l.ideOffered = true ∧ l.unsupported = false := by
  have hnone : missingFeature l = 0 ↔ [l.type3, (l.lanes == 16 || l.lanes == 8) && (l.rate == 64 || l.rate == 32)
      , l.flit == 256 || (l.flit == 68 && l.rate == 32), l.io && l.mem, !l.interleave, l.addEvents, l.poison, l.ideOffered
      , !l.unsupported].findIdx? (!·) = none := by
    unfold missingFeature
    dsimp only
    split <;> simp_all
  rw [hnone, findIdx?_not_eq_none_iff]
  simp [and_assoc]

/-- A port that goes down with no read outstanding. -/
theorem cxlDown_of_no_reads {s : State} {c : Nat} (hup : (cxlOf s c).up = true) (hno : fillsOut s c = []) :
    ∃ u, cxlDown s c = settleAll u ∧ (cxlOf u c).up = false ∧ (cxlOf u c).ops = [] ∧ u.tier.frames = s.tier.frames ∧ u.tier.mem = s.tier.mem
      ∧ u.home = s.home := by
  simp only [cxlDown, hup, Bool.not_true, Bool.false_eq_true, if_false, hno, each, List.foldl_nil]
  exact ⟨_, rfl, by simp [cxlOf, updCxl, Tab.getD_upd], by simp [cxlOf, updCxl, Tab.getD_upd], rfl, rfl, rfl⟩

/-- Settles O46: each clause is one branch of a tray port's commands. -/
theorem trayPortsComeAndGo : Obligations.TrayPortsComeAndGo := by
  unfold Obligations.TrayPortsComeAndGo
  intro c dpa units link s
  refine ⟨fun hc hfeat hl0 hide hunits hdown => .of_exec_eq_done ?opens, fun hc hmissing => .of_exec_eq_done ?missing,
    missingFeature_eq_zero_iff link, fun hup hno => ?down, fun hup hunits hroom => .of_exec_eq_done ?adds, fun hdown => ⟨?closedAdd, ?closedFree,
    ?closedDown⟩, fun hup => .of_exec_eq_done ?frees⟩
  case opens => rw [exec_cxlPortUp, cxlUp_of_featured hc hfeat hl0 hide hunits hdown]
  case missing => rw [exec_cxlPortUp, cxlUp_of_missing hc hmissing]
  case down =>
    obtain ⟨u, hu, hrest⟩ := cxlDown_of_no_reads hup hno
    exact ⟨u, .of_exec_eq_done (by rw [exec_cxlPortDown, hu]), hrest⟩
  case adds => simp only [exec_dynamicCapacityAdd, capacityAdd, hup, hunits, hroom, decide_true, Bool.and_self, if_true]
  case closedAdd => exact .of_unchanged (exec_dynamicCapacityAdd ..) (by simp only [capacityAdd, hdown, Bool.false_and, Bool.false_eq_true, if_false])
  case closedFree => exact .of_unchanged (exec_trayTableEntryFree ..) (by simp only [traySettle, hdown, Bool.false_eq_true, if_false])
  case closedDown => exact .of_unchanged (exec_cxlPortDown ..) (by simp only [cxlDown, hdown, Bool.not_false, if_true])
  case frees => simp only [exec_trayTableEntryFree, traySettle, hup, if_true]

/-! ### Tray reads and writes -/

theorem exec_trayReadCompletion (c line : Nat) (answer : TrayAnswer) (s : State) :
    exec (.trayReadCompletion c line answer) s = done s (trayRead s c line answer) := rfl
theorem exec_trayReadTimeout (c line : Nat) (s : State) : exec (.trayReadTimeout c line) s = done s (trayReadLate s c line) := rfl
theorem exec_trayWriteCompletion (c line : Nat) (answer : TrayAnswer) (s : State) :
    exec (.trayWriteCompletion c line answer) s = done s (trayWritten s c line answer) := rfl
theorem exec_trayWriteTimeout (c line : Nat) (s : State) : exec (.trayWriteTimeout c line) s = done s (trayWriteLate s c line) := rfl

section
variable {s : State} {c line : Nat} {o : TrayOp}

theorem trayRead_of_data {t : Nat} (hop : trayOpOf s c line false = some o) (hissued : o.issued = some t) (d : List Byte) :
    trayRead s c line (.data d) = settleAll (fillLine (readTaken s c line t) c line d) := by
  simp only [trayRead, hop, hissued]; rfl

theorem trayRead_of_error {t : Nat} (hop : trayOpOf s c line false = some o) (hissued : o.issued = some t) : trayRead s c line .error =
    settleAll (failFill (readFailed (readTaken s c line t) c line 3).1 (trayPlace c line) (readFailed (readTaken s c line t) c line 3).2) := by
  simp only [trayRead, hop, hissued]; rfl

/-- A read that nothing answers is issued once more, and then fails. -/
theorem trayReadLate_of_late (hop : trayOpOf s c line false = some o) (hlate : opLate s o = true) : trayReadLate s c line =
    if !o.reissued then updOps s c (fun l => adjustWhere l (isOp line false) (fun o => { o with issued := some (now s), reissued := true }))
    else let u := updOps s c (·.filter (fun o => !isOp line false o))
      settleAll (failFill (readFailed u c line 1).1 (trayPlace c line) (readFailed u c line 1).2) := by
  simp only [trayReadLate, hop, hlate, Bool.not_true, Bool.false_eq_true, if_false]

theorem trayWritten_of_data (hop : trayOpOf s c line true = some o) (hissued : o.issued.isSome = true) (hagain : o.again = false) (d : List Byte) :
    let u := updOps s c (·.filter (fun o => !isOp line true o))
    trayWritten s c line (.data d) = settleAll { u with tier := { u.tier with
      frames := adjustWhere u.tier.frames (holdsLine c line) (fun f => { f with dirty := Tab.erase f.dirty (line % 64) }) } } := by
  have hwaits : o.issued.isNone = false := by simpa using hissued
  simp only [trayWritten, hop, hwaits, hagain, Bool.false_eq_true, if_false]

theorem trayWritten_of_error (hop : trayOpOf s c line true = some o) (hissued : o.issued.isSome = true) :
    trayWritten s c line .error = writeFailed s c line 3 o := by
  have hwaits : o.issued.isNone = false := by simpa using hissued
  simp only [trayWritten, hop, hwaits, Bool.false_eq_true, if_false]

/-- A write that nothing answers is issued once more, and then fails. -/
theorem trayWriteLate_of_late (hop : trayOpOf s c line true = some o) (hretry : o.retryAt = none) (hlate : opLate s o = true) :
    trayWriteLate s c line =
      if !o.reissued then updOps s c (fun l => adjustWhere l (isOp line true) (fun o => { o with issued := some (now s), reissued := true }))
      else writeFailed s c line 1 o := by
  simp only [trayWriteLate, hop, hretry, hlate, Bool.not_true, Bool.false_eq_true, if_false]

/-- A write that failed is tried again when its time has come. -/
theorem trayWriteLate_of_retry {b : Word} (hop : trayOpOf s c line true = some o) (hretry : o.retryAt = some b) (hdue : b.toNat ≤ bellN s) :
    trayWriteLate s c line = traySettle (updOps s c (fun l => adjustWhere l (isOp line true) (fun o => { o with retryAt := none }))) c := by
  simp only [trayWriteLate, hop, hretry, hdue, if_true]

end

/-- Settles O47: each clause is one branch of a tray operation's completion or timeout. -/
theorem trayAccessesEnd : Obligations.TrayAccessesEnd := by
  unfold Obligations.TrayAccessesEnd
  intro c line s o
  refine ⟨fun t hop hissued => ⟨fun d => .of_exec_eq_done ?fills, .of_exec_eq_done ?fails⟩, fun hop hlate hfirst => .of_exec_eq_done ?readAgain,
    fun hop hlate hsecond => .of_exec_eq_done ?readLost, fun d hop hissued hagain => .of_exec_eq_done ?clean,
    fun hop hissued => .of_exec_eq_done ?writeFails, fun hop hretry hlate hfirst => .of_exec_eq_done ?writeAgain,
    fun hop hretry hlate hsecond => .of_exec_eq_done ?writeLost, fun b hop hretry hdue => .of_exec_eq_done ?retried⟩
  case fills => rw [exec_trayReadCompletion, trayRead_of_data hop hissued]
  case fails => rw [exec_trayReadCompletion, trayRead_of_error hop hissued]
  case readAgain => rw [exec_trayReadTimeout, trayReadLate_of_late hop hlate, hfirst]; rfl
  case readLost => rw [exec_trayReadTimeout, trayReadLate_of_late hop hlate, hsecond]; rfl
  case clean => rw [exec_trayWriteCompletion, trayWritten_of_data hop hissued hagain]
  case writeFails => rw [exec_trayWriteCompletion, trayWritten_of_error hop hissued]
  case writeAgain => rw [exec_trayWriteTimeout, trayWriteLate_of_late hop hretry hlate, hfirst]; rfl
  case writeLost => rw [exec_trayWriteTimeout, trayWriteLate_of_late hop hretry hlate, hsecond]; rfl
  case retried => rw [exec_trayWriteTimeout, trayWriteLate_of_retry hop hretry hdue]

/-! ### Errors of near memory -/

theorem exec_hbmCorrectableError (q stack pc row : Nat) (s : State) :
    exec (.hbmCorrectableError q stack pc row) s = done s (correctable s q stack pc row) := rfl
theorem exec_hbmUncorrectableError (q stack pc bank line : Nat) (s : State) :
    exec (.hbmUncorrectableError q stack pc bank line) s = done s (uncorrectable s q stack pc bank line) := rfl
theorem exec_pcDrainDone (q stack pc : Nat) (s : State) : exec (.pcDrainDone q stack pc) s = done s (drainDone s q stack pc) := rfl

/-- Correctable errors of a row in this lifetime tick, the one that comes now among them. -/
def rowErrorCount (s : State) (key : Nat × Nat × Nat × Nat) : Nat := ((s.tier.rowErrors.find? (fun e => e.1 == key)).map (·.2)).getD 0 + 1

/-- A correctable error of a row is counted, in the tick's list and in the stack's lifetime counter. -/
def errorCounted (s : State) (q stack pc row : Nat) : State :=
  lifeStack { s with tier := { s.tier with
    rowErrors := ((q, stack, pc, row), rowErrorCount s (q, stack, pc, row)) :: s.tier.rowErrors.filter (fun e => e.1 != (q, stack, pc, row)) } }
    (q * 5 + stack) (fun l => { l with correctable := up32 l.correctable })

/-- A row is repaired: it joins the repaired rows, its stack counts it, and it is recorded. -/
def rowRepaired (s : State) (q stack pc row : Nat) : State :=
  record (lifeStack { s with tier := { s.tier with repaired := s.tier.repaired ++ [(q, stack, pc, row)] } } (q * 5 + stack)
    (fun l => { l with repaired := up32 l.repaired }))
    { code := 0x0703, quarter := q, kind := 6, inst := stack, p0 := pack [(56, q * 5 + stack), (48, pc), (0, row)] }

/-- A correctable error, by its number in the tick and the rows repaired so far. -/
theorem correctable_eq (s : State) (q stack pc row : Nat) : correctable s q stack pc row =
    if rowErrorCount s (q, stack, pc, row) ≠ 4 || s.tier.repaired.contains (q, stack, pc, row) then errorCounted s q stack pc row
    else
      let u := rowRepaired (errorCounted s q stack pc row) q stack pc row
      if 16 < ((s.tier.repaired ++ [(q, stack, pc, row)]).filter (fun k => k.1 == q && k.2.1 == stack && k.2.2.1 == pc)).length then
        let v := scheduleRetire u q stack pc
        if v.tier.held.contains (q, stack, pc) then startDrain v q stack pc false else v
      else startDrain u q stack pc false := rfl

/-- An uncorrectable error poisons its line; errors in a second bank retire the pseudo-channel. -/
theorem uncorrectable_eq (s : State) (q stack pc bank line : Nat) :
    let l := addOnce s.tier.badBanks (q, stack, pc, bank)
    ∃ u, u = { s with tier := { s.tier with badBanks := l }, pwr := u.pwr, home := { s.home with poison := Tab.set s.home.poison line 0 } }
      ∧ uncorrectable s q stack pc bank line =
        if 2 ≤ (l.filter (fun k => k.1 == q && k.2.1 == stack && k.2.2.1 == pc)).length then scheduleRetire u q stack pc else u := by
  have hline : line * 64 / 64 = line := Nat.mul_div_cancel line (by decide)
  simp only [uncorrectable, setPoison, hline]
  exact ⟨_, rfl, rfl⟩

/-- A drain ends once nothing of its pseudo-channel is left. -/
theorem drainDone_of_empty {s : State} {q stack pc : Nat} {x : Drain}
    (hdrain : s.tier.drains.find? (fun d => d.q == q && d.stack == stack && d.pc == pc) = some x)
    (hframes : s.tier.frames.filter (fun f => f.q == q && setChannel f.set == (stack, pc)) = []) (hpage : x.page = none)
    (hpages : pagesOn s q stack pc = []) :
    ∃ u, drainDone s q stack pc = settleAll u
      ∧ u.tier.drains = s.tier.drains.filter (fun d => !(d.q == q && d.stack == stack && d.pc == pc))
      ∧ u.tier.retired = (if x.retire then s.tier.retired ++ [(q, stack, pc)] else s.tier.retired) ∧ u.tier.mem = s.tier.mem := by
  have hnone : s.tier.frames.any (fun f => f.q == q && setChannel f.set == (stack, pc)) = false := by
    rw [List.any_eq_false]; exact List.filter_eq_nil_iff.mp hframes
  simp only [drainDone, hdrain, hnone, hpage, hpages, Option.isSome_none, List.isEmpty_nil, Bool.not_true, Bool.or_self, Bool.false_eq_true, if_false]
  refine ⟨_, rfl, ?_⟩
  cases x.retire <;> exact ⟨rfl, rfl, rfl⟩

/-- Settles O48: each clause is one branch of an error of near memory or of the end of a drain. -/
theorem nearMemoryErrors : Obligations.NearMemoryErrors := by
  unfold Obligations.NearMemoryErrors
  intro q stack pc row bank line s
  refine ⟨fun hfew => .of_exec_eq_done ?counted, fun hfourth hfresh =>
    ⟨rowRepaired (errorCounted s q stack pc row) q stack pc row, rfl, rfl, rfl, fun hfit => .of_exec_eq_done ?repaired,
      fun hover => .of_exec_eq_done ?retires⟩, fun hfourth hdone => .of_exec_eq_done ?again, fun l hl => ?poisons,
    fun x hdrain hframes hpage hpages => ?drained⟩
  case counted =>
    have hcount : rowErrorCount s (q, stack, pc, row) ≠ 4 := hfew
    simp only [exec_hbmCorrectableError, correctable_eq, hcount, ne_eq, not_false_eq_true, decide_true, Bool.true_or, if_true]; rfl
  case again =>
    simp only [exec_hbmCorrectableError, correctable_eq, List.contains_iff_mem.mpr hdone, Bool.or_true, if_true]; rfl
  case repaired =>
    have hcount : rowErrorCount s (q, stack, pc, row) = 4 := hfourth
    simp only [exec_hbmCorrectableError, correctable_eq, hcount, List.contains_eq_mem, hfresh, Nat.not_lt.mpr hfit, ne_eq, not_true_eq_false, decide_false,
      Bool.or_self, Bool.false_eq_true, if_false]
  case retires =>
    have hcount : rowErrorCount s (q, stack, pc, row) = 4 := hfourth
    simp only [exec_hbmCorrectableError, correctable_eq, hcount, List.contains_eq_mem, hfresh, hover, ne_eq, not_true_eq_false, decide_false,
      Bool.or_self, Bool.false_eq_true, if_false, if_true]
  case poisons =>
    obtain ⟨u, hu, hgives⟩ := uncorrectable_eq s q stack pc bank line
    subst hl
    refine ⟨u, hu, fun hone => .of_exec_eq_done ?_, fun htwo => .of_exec_eq_done ?_⟩
    · rw [exec_hbmUncorrectableError, hgives, if_neg (Nat.not_le.mpr hone)]
    · rw [exec_hbmUncorrectableError, hgives, if_pos htwo]
  case drained =>
    obtain ⟨u, hu, hrest⟩ := drainDone_of_empty hdrain hframes hpage hpages
    exact ⟨u, .of_exec_eq_done (by rw [exec_pcDrainDone, hu]), hrest⟩

end Sys2Proof.Machine

/-! ## What falls due -/

namespace Sys2Proof.Machine

/-! ### Requests -/

theorem exec_deferredDue (p src tag : Nat) (s : State) : exec (.deferredDue p src tag) s = done s (deferDue s p src tag) := rfl
theorem exec_aged (p src tag : Nat) (s : State) : exec (.aged p src tag) s = done s (ageOut s p src tag) := rfl
theorem exec_requestExpired (p src tag : Nat) (s : State) : exec (.requestExpired p src tag) s = done s (expire s p src tag) := rfl
theorem exec_lineQueuePresentation (p src tag : Nat) (s : State) :
    exec (.lineQueuePresentation p src tag) s = done s (present s p src tag) := rfl
theorem exec_lineQueueAgeing (p src tag : Nat) (s : State) : exec (.lineQueueAgeing p src tag) s = done s (queueAge s p src tag) := rfl

section
variable {s : State} {p src tag : Nat} {r : Req}

theorem deferDue_of_due (hreq : reqOf s p src tag = some r) (hbegun : r.begun = true)
    (hdue : isDue s r.bell r.lastDefer r.deferrals r.win = true) : deferDue s p src tag = defer s r := by
  simp only [deferDue, hreq, hbegun, hdue, Bool.and_self, if_true]

/-- A request that has not begun ages; another stays. -/
theorem ageOut_of_reqOf (hreq : reqOf s p src tag = some r) :
    ageOut s p src tag = if !r.begun && agedNow s r then settleAll (finish s r AGED 0 []) else s := by
  simp only [ageOut, hreq]

/-- A request of a port is old W − 2 bells after its admission. -/
theorem agedNow_of_port (horg : r.org = .port) (hold : r.bell.toNat + r.win - 2 ≤ bellN s) : agedNow s r = true := by
  simp only [agedNow, horg, hold, decide_true, Bool.and_self]

theorem agedNow_of_young (hyoung : bellN s < r.bell.toNat + r.win - 2) : agedNow s r = false := by
  simp only [agedNow, Nat.not_le.mpr hyoung, decide_false, Bool.and_false]

/-- A request expires 256 bells after its admission. -/
theorem expire_of_reqOf (hreq : reqOf s p src tag = some r) : expire s p src tag =
    if decide (256 ≤ since s r.bell) then settleAll (finish
        (cancelDeltas (record s { code := 0x0307, quarter := portQuarter p, kind := 2, inst := portInst p, stall := r.h.stall, principal := stallPrincipal s r.h.stall
                                  p0 := pack [(16, src), (0, tag)], p1 := word r.h.handle, p2 := r.bell }) r.id MEDIA_ERROR)
        r MEDIA_ERROR (nextSeq s 0x0307 (portQuarter p)) [])
    else s := by
  simp only [expire, hreq]

theorem present_of_full (hreq : reqOf (settleAll s) p src tag = some r) (hwaits : r.begun = false) (hfull : queueFull (settleAll s) r = true) :
    let u := updReq (settleAll s) r.id (fun r => { r with retries := r.retries + 1, firstTry := some (r.firstTry.getD (settleAll s).time.bell) })
    present s p src tag = if 8 ≤ r.retries + 1 then ageReq u r else u := by
  simp only [present, hreq, hwaits, hfull, Bool.not_true, Bool.or_self, Bool.false_eq_true, if_false]

theorem queueAge_of_old {b : Word} (hreq : reqOf s p src tag = some r) (hfirst : r.firstTry = some b) (hwaits : r.begun = false)
    (hold : 4 ≤ since s b) : queueAge s p src tag = settleAll (ageReq s r) := by
  simp only [queueAge, hreq, hfirst, hwaits, hold, Bool.not_false, decide_true, Bool.and_self, if_true]

end

/-- Settles O49: each clause is one branch of a request's time. -/
theorem requestsFallDue : Obligations.RequestsFallDue := by
  unfold Obligations.RequestsFallDue
  intro p src tag s r
  refine ⟨fun hreq hbegun hdue => .of_exec_eq_done ?deferred, fun hreq horg hwaits hold => .of_exec_eq_done ?aged,
    fun hreq hstays => .of_unchanged (exec_aged ..) ?stays, fun hreq hold => .of_exec_eq_done ?expired,
    fun hreq hyoung => .of_unchanged (exec_requestExpired ..) ?young, fun hreq hwaits hfull => .of_exec_eq_done ?presented,
    fun b hreq hfirst hwaits hold => .of_exec_eq_done ?queueAged⟩
  case deferred => rw [exec_deferredDue, deferDue_of_due hreq hbegun hdue]
  case aged =>
    rw [exec_aged, ageOut_of_reqOf hreq, hwaits, agedNow_of_port horg hold]; rfl
  case stays =>
    rw [ageOut_of_reqOf hreq]
    rcases hstays with hbegun | hyoung
    · rw [hbegun]; rfl
    · rw [agedNow_of_young hyoung, Bool.and_false]; rfl
  case expired => rw [exec_requestExpired, expire_of_reqOf hreq, if_pos (decide_eq_true hold)]
  case young => rw [expire_of_reqOf hreq, if_neg (by simpa using hyoung)]
  case presented => rw [exec_lineQueuePresentation, present_of_full hreq hwaits hfull]
  case queueAged => rw [exec_lineQueueAgeing, queueAge_of_old hreq hfirst hwaits hold]

/-! ### Snoops, offers, groups, dirty lines and refusing points -/

theorem exec_snoopTimeout (q agent tag : Nat) (s : State) : exec (.snoopTimeout q agent tag) s = done s (snoopLapse s q agent tag) := rfl
theorem exec_offerLapsed (handle : Nat) (s : State) : exec (.offerLapsed handle) s = done s (offerLapse s handle) := rfl
theorem exec_offerTableEntryFree (q : Nat) (s : State) : exec (.offerTableEntryFree q) s = done s (settleAll s) := rfl
theorem exec_frameAvailable (q set : Nat) (s : State) : exec (.frameAvailable q set) s = done s (settleAll s) := rfl
theorem exec_combiningGroupClose (q line : Nat) (s : State) : exec (.combiningGroupClose q line) s = done s (groupClose s q line) := rfl
theorem exec_dirtyWritebackDue (q line : Nat) (s : State) : exec (.dirtyWritebackDue q line) s = done s (writebackDue s q line) := rfl
theorem exec_refusingStateTimeout (q point src stall svc qp : Nat) (s : State) :
    exec (.refusingStateTimeout q point src stall svc qp) s = done s (refusingLapse s q point src stall svc qp) := rfl
theorem exec_refuseTableClear (q point : Nat) (s : State) : exec (.refuseTableClear q point) s = done s (refuseClear s q point) := rfl
theorem exec_gatewayFlush (handle block : Nat) (s : State) : exec (.gatewayFlush handle block) s = done s (flushDue s handle block) := rfl

/-- A snoop that nothing answers: its record, and the agent dropped from the snoops and from the line's directory entry. -/
def snoopDropped (s : State) (q agent tag : Nat) (n : Snoop) : State :=
  let t := record s { code := 0x0602, quarter := q, kind := 5, p0 := word n.handle, p1 := word (n.line * 64), p2 := word agent, p3 := word (b2n n.owner) }
  { t with home := { t.home with
    snoops := t.home.snoops.filter (fun m => !(m.agent == agent && m.tag == tag))
    dir := adjustWhere t.home.dir (fun o => o.handle == n.handle && o.line == n.line) (fun e => { e with ptrs := e.ptrs.filter (· != agent) }) } }

/-- The requests that wait for a line end POISONED. -/
def poisonWaiters (s : State) (n : Snoop) (seq : Word) : State :=
  each (s.home.reqs.filter (fun r => r.begun && r.h.handle == n.handle && (reqLines s r).contains (n.line * 64) && !r.done.contains (n.line * 64)))
    (fun r s => finish s r POISONED seq []) s

section
variable {s : State} {q agent tag : Nat} {n : Snoop}

/-- A snoop of an agent that does not own the line lapses 8 bells old. -/
theorem snoopLapse_of_shared (hsnoop : s.home.snoops.find? (fun n => n.q == q && n.agent == agent && n.tag == tag) = some n)
    (hold : 8 ≤ since s n.bell) (howner : n.owner = false) : snoopLapse s q agent tag = settleAll (snoopEnd (snoopDropped s q agent tag n) n) := by
  simp only [snoopLapse, hsnoop, Nat.not_lt.mpr hold, if_false, howner, Bool.false_eq_true, snoopDropped]

/-- With the snoop of an owner its line is poisoned. -/
theorem snoopLapse_of_owner {g : Region} {x : Nat} (hsnoop : s.home.snoops.find? (fun n => n.q == q && n.agent == agent && n.tag == tag) = some n)
    (hold : 8 ≤ since s n.bell) (howner : n.owner = true) (hregion : regionOf s n.handle = some g) (hplace : placeOf g (n.line * 64) = some x) :
    snoopLapse s q agent tag =
      settleAll (snoopEnd (poisonWaiters (setPoison (snoopDropped s q agent tag n) x (nextSeq s 0x0602 q)) n (nextSeq s 0x0602 q)) n) := by
  have hdropped : regionOf (snoopDropped s q agent tag n) n.handle = some g := hregion
  have hfound : (regionOf (snoopDropped s q agent tag n) n.handle).bind (fun g => placeOf g (n.line * 64)) = some x := by
    rw [hdropped, Option.bind_some, hplace]
  simp only [snoopDropped, howner] at hfound
  simp only [snoopLapse, hsnoop, Nat.not_lt.mpr hold, if_false, howner, if_true, hfound, snoopDropped, poisonWaiters]

end

theorem offerLapse_of_offer {s : State} {handle : Nat} {o : Offer} (hoffer : Tab.get? s.home.offers handle = some o) : offerLapse s handle =
    if since s o.bell < 64 then s
    else settleAll (dropOffer (record s { code := 0x0601, quarter := (regionOf s handle).elim 0 (·.homeq), kind := 5, p0 := word handle
                                          p1 := word o.toward, p2 := word o.ownep }) handle) := by
  simp only [offerLapse, hoffer]

theorem groupClose_of_due {s : State} {q line : Nat} {g : Group}
    (hgroup : s.home.groups.find? (fun g => g.q == q && lineKey g.handle (g.line * 64) == line) = some g)
    (hdue : g.bell.toNat * 1400 + g.phase + 64 ≤ now s) : groupClose s q line = settleAll (closeGroup s g) := by
  simp only [groupClose, hgroup, hdue, if_true]

theorem writebackDue_of_old {s : State} {q line : Nat} {f : Frame} {since_ : Word} (htray : isTray (line * 64) = true)
    (hframe : frameOf s q (line * 64) = some f) (hdirty : Tab.get? f.dirty (lineIdx (line * 64)) = some since_) (hold : 1000 ≤ since s since_) :
    writebackDue s q line = writeBack s f (lineIdx (line * 64)) := by
  simp only [writebackDue, htray, hframe, hdirty, hold, Bool.not_true, Bool.false_eq_true, if_false, true_or, if_true]

theorem refuseClear_of_quiet {s : State} {q point : Nat} {f : FullPoint} (hfull : s.sw.full.find? (fun f => f.q == q && f.point == point) = some f)
    (hfree : refusingCount s q point < 65536) (hquiet : wMax s ≤ since s f.last) : refuseClear s q point =
      record { s with sw := { s.sw with full := s.sw.full.filter (fun e => !(e.q == q && e.point == point)) } }
        { code := 0x0502, quarter := q, kind := 5, p0 := pack [(8, q), (0, point)], p1 := word f.count } := by
  simp only [refuseClear, hfull, hfree, hquiet, and_self, if_true]

theorem flushDue_of_due {s : State} {handle block : Nat} {g : GwBinding} {b : GwBlock} (hgw : gwOf s handle = some g)
    (hblock : gwBlockOf s handle block = some b) (hdirty : b.dirty ≠ []) (hdue : g.flush ≤ since s b.dirtySince) :
    flushDue s handle block = gwFlushBlock s g block := by
  have hsome : (!b.dirty.isEmpty) = true := by simpa using hdirty
  simp only [flushDue, hgw, hblock, hsome, hdue, and_self, if_true]

/-- Settles O50: each clause is one branch of a line's or a point's time. -/
theorem timesOfLinesAndPoints : Obligations.TimesOfLinesAndPoints := by
  unfold Obligations.TimesOfLinesAndPoints
  intro q a b c d e s
  refine ⟨fun n hsnoop hold => ⟨fun howner => .of_exec_eq_done ?shared, fun g x howner hregion hplace => .of_exec_eq_done ?owned⟩,
    fun o hoffer hold => .of_exec_eq_done ?lapses, fun o hoffer hyoung => .of_unchanged (exec_offerLapsed ..) ?stays,
    .of_exec_eq_done (exec_offerTableEntryFree ..), .of_exec_eq_done (exec_frameAvailable ..), fun g hgroup hdue => .of_exec_eq_done ?closes,
    fun f at_ htray hframe hdirty hold => .of_exec_eq_done ?writesBack, .of_exec_eq_done (exec_refusingStateTimeout ..),
    fun f hfull hfree hquiet => .of_exec_eq_done ?clears, fun g x hgw hblock hdirty hdue => .of_exec_eq_done ?flushes⟩
  case shared => rw [exec_snoopTimeout, snoopLapse_of_shared hsnoop hold howner]; rfl
  case owned => rw [exec_snoopTimeout, snoopLapse_of_owner hsnoop hold howner hregion hplace]; rfl
  case lapses => rw [exec_offerLapsed, offerLapse_of_offer hoffer, if_neg (Nat.not_lt.mpr hold)]
  case stays => rw [offerLapse_of_offer hoffer, if_pos hyoung]
  case closes => rw [exec_combiningGroupClose, groupClose_of_due hgroup hdue]
  case writesBack => rw [exec_dirtyWritebackDue, writebackDue_of_old htray hframe hdirty hold]
  case clears => rw [exec_refuseTableClear, refuseClear_of_quiet hfull hfree hquiet]
  case flushes => rw [exec_gatewayFlush, flushDue_of_due hgw hblock hdirty hdue]

/-! ### Tallies and shapers -/

theorem exec_tallyAbsorb (q line : Nat) (s : State) : exec (.tallyAbsorb q line) s = done s (tallyStep s q line) := rfl
theorem exec_tallyDemote (q line : Nat) (s : State) : exec (.tallyDemote q line) s = done s (tallyDemotion s q line) := rfl
theorem exec_fineWheelSlot (q slot : Nat) (s : State) : exec (.fineWheelSlot q slot) s = done s (wheelSlot s q slot) := rfl

theorem tallyStep_of_open {s : State} {q line : Nat} {t : Tally} (htally : tallyAt s q line = some t) (hopen : t.closing = false) :
    tallyStep s q line = settleAll (absorb s t) := by
  simp only [tallyStep, htally, hopen, Bool.false_eq_true, if_false]

/-- An empty tally that is closing or quiet gives up its slot; another stays. -/
theorem tallyDemotion_of_tally {s : State} {q line : Nat} {t : Tally} (htally : tallyAt s q line = some t) : tallyDemotion s q line =
    if tallyDepth s t = 0 ∧ (t.closing = true ∨ (4 ≤ t.history.length ∧ (t.history.take 4).all (· < 16) = true)) then
      settleAll (tallyFlush { s with home := { s.home with tallies := s.home.tallies.filter (fun x => !(x.handle == t.handle && x.line == t.line)) } }
        t.handle t.line)
    else s := by
  simp only [tallyDemotion, htally]

/-- Is a shaper node parked in a fine slot of a quarter's wheel. -/
def parkedIn (s : State) (q slot key : Nat) (sh : Shaper) : Bool :=
  match sh.parked with
  | some t => portQuarter (key / 32768) == q && decide (t < now s + 2048) && t / 8 % 256 == slot
  | none => false

/-- The ports whose shapers wake with a fine slot. -/
def wokenPorts (s : State) (q slot : Nat) : List Nat :=
  ((s.sw.shapers.filter (fun e => parkedIn s q slot e.1 e.2)).map (fun e => e.1 / 32768)).eraseDups

/-- A node parked in a slot leaves it. -/
def wake (s : State) (q slot : Nat) (e : Nat × Shaper) : Nat × Shaper := if parkedIn s q slot e.1 e.2 then (e.1, { e.2 with parked := none }) else e

theorem wheelSlot_eq (s : State) (q slot : Nat) : wheelSlot s q slot =
    each (wokenPorts s q slot) (fun p s => pump s p) { s with sw := { s.sw with shapers := s.sw.shapers.map (wake s q slot) } } := rfl

theorem wake_fst (s : State) (q slot : Nat) (e : Nat × Shaper) : (wake s q slot e).1 = e.1 := by
  unfold wake; split <;> rfl

theorem parkedIn_of_parked {s : State} {q slot key at_ : Nat} {sh : Shaper} (hparked : sh.parked = some at_) (hquarter : portQuarter (key / 32768) = q)
    (hsoon : at_ < now s + 2048) (hslot : at_ / 8 % 256 = slot) : parkedIn s q slot key sh = true := by
  simp only [parkedIn, hparked, hquarter, hsoon, hslot, BEq.rfl, decide_true, Bool.and_self]

/-- Settles O51: the tallies by their branches, the shapers by the map that wakes the parked ones. -/
theorem talliesAndShapers : Obligations.TalliesAndShapers := by
  unfold Obligations.TalliesAndShapers
  intro q line slot s t
  refine ⟨fun htally hopen => .of_exec_eq_done ?absorbs, fun htally hempty hquiet => .of_exec_eq_done ?demotes,
    fun htally hopen hshort => .of_unchanged (exec_tallyDemote ..) ?stays,
    { s with sw := { s.sw with shapers := s.sw.shapers.map (wake s q slot) } }, wokenPorts s q slot, .of_exec_eq_done ?slot, rfl, ?keys,
    fun e he at_ hparked hquarter hsoon hslot => ?woken, fun e he hidle => ?idle⟩
  case absorbs => rw [exec_tallyAbsorb, tallyStep_of_open htally hopen]
  case demotes => rw [exec_tallyDemote, tallyDemotion_of_tally htally, if_pos ⟨hempty, hquiet⟩]
  case stays =>
    refine (tallyDemotion_of_tally htally).trans (if_neg ?_)
    rintro ⟨-, hclosing | ⟨hlong, -⟩⟩
    · exact absurd hclosing (by simp [hopen])
    · exact absurd hlong (Nat.not_le.mpr hshort)
  case slot => rw [exec_fineWheelSlot, wheelSlot_eq]
  case keys => simp only [List.map_map]; exact List.map_congr_left (fun e _ => wake_fst s q slot e)
  case woken =>
    have hin : parkedIn s q slot e.1 e.2 = true := parkedIn_of_parked hparked hquarter hsoon hslot
    constructor
    · exact List.mem_map.mpr ⟨e, he, by simp only [wake, hin, if_true]⟩
    · rw [wokenPorts, List.mem_eraseDups]
      exact List.mem_map.mpr ⟨e, List.mem_filter.mpr ⟨he, hin⟩, rfl⟩
  case idle => exact List.mem_map.mpr ⟨e, he, by simp only [wake, parkedIn, hidle, Bool.false_eq_true, if_false]⟩

end Sys2Proof.Machine

/-! ## Engines, queue pairs and jobs -/

namespace Sys2Proof.Machine

/-! ### Lists whose elements are changed in place -/

/-- The first element that a change finds is the first one it changed, where the change does not hide it. -/
theorem find?_adjustWhere {α : Type} {p : α → Bool} {f : α → α} (hkeeps : ∀ a, p a = true → p (f a) = true) (l : List α) :
    (adjustWhere l p f).find? p = (l.find? p).map f := by
  induction l with
  | nil => rfl
  | cons a l ih =>
    cases ha : p a with
    | true => simp only [adjustWhere, List.map_cons, ha, if_true, List.find?_cons, hkeeps a ha, Option.map_some]
    | false =>
      simp only [adjustWhere, List.map_cons, ha, Bool.false_eq_true, if_false, List.find?_cons]
      exact ih

/-- A change that keeps the JOBID changes the job that is found. -/
theorem jobOf_updJob {s : State} {jobid : Nat} {f : Job → Job} (hkeeps : ∀ j, (f j).jobid = j.jobid) :
    jobOf (updJob s jobid f) jobid = (jobOf s jobid).map f :=
  find?_adjustWhere (fun j hj => by rw [hkeeps j]; exact hj) _

theorem jobOf_updRed {s : State} {jobid : Nat} {j : Job} {r : RedJob} (hjob : jobOf s jobid = some j) (hbody : j.body = .red r)
    (f : RedJob → RedJob) : jobOf (updRed s jobid f) jobid = some { j with body := .red (f r) } := by
  refine (jobOf_updJob (fun j => by cases j.body <;> rfl)).trans ?_
  rw [hjob, Option.map_some]
  simp only [hbody]

/-- A change that keeps the number changes the index that is found. -/
theorem indexAt_updIndex {s : State} {n : Nat} {f : Index → Index} (hkeeps : ∀ x, (f x).number = x.number) :
    indexAt (updIndex s n f) n = (indexAt s n).map f :=
  find?_adjustWhere (fun x hx => by rw [hkeeps x]; exact hx) _

/-! ### Engine messages -/

theorem exec_contrib (p : Nat) (h : EngHdr) (d : List Byte) (s : State) : exec (.contrib p h d) s = done s (engArrive s p 1 h d) := rfl
theorem exec_result (p : Nat) (h : EngHdr) (d : List Byte) (s : State) : exec (.result p h d) s = done s (engArrive s p 2 h d) := rfl
theorem exec_query (p : Nat) (h : EngHdr) (d : List Byte) (s : State) : exec (.query p h d) s = done s (engArrive s p 3 h d) := rfl
theorem exec_partialList (p : Nat) (h : EngHdr) (d : List Byte) (s : State) : exec (.partialList p h d) s = done s (engArrive s p 4 h d) := rfl

/-- A message that crosses the switch to its engine at once. -/
def engCrossed (s : State) (p opc : Nat) (h : EngHdr) (d : List Byte) : State :=
  engGranted s { port := p, entered := now s, opc := opc, h := h, data := d }

section
variable {s : State} {p opc : Nat} {h : EngHdr} {d : List Byte}

/-- What `engOpen` says, part by part. -/
theorem engOpen_iff : engOpen s p opc h d = true ↔ portUp s p = true ∧ h.ver = 1 ∧ h.len ≤ 64 ∧ d.length = 64 * h.len ∧ h.rsv = 0
    ∧ engTcOk opc h.tc = true ∧ (portOf s p).ptype ≠ 3 ∧ ((portOf s p).ptype = 1 ∨ h.src = (portOf s p).epid) ∧ isMirror s opc h = false
    ∧ engBehind s p h = false := by
  simp [engOpen, and_assoc]

/-- A message that is open, and that its job does not keep waiting, is dealt with as it is judged. -/
theorem engArrive_of_open (hopen : engOpen s p opc h d = true) {v : Judged} (hjudged : judgeEng s p opc h d = v) (hnow : v.verdict ≠ .wait) :
    engArrive s p opc h d = runEngines (applyJudged (engCrossed s p opc h d) h.jobid v) := by
  obtain ⟨hup, hver, hlen, hdata, hrsv, htc, htype, hsrc, hmirror, hbehind⟩ := engOpen_iff.mp hopen
  have hform : ¬ (h.ver ≠ 1 ∨ 64 < h.len ∨ d.length ≠ 64 * h.len ∨ h.rsv ≠ 0 ∨ !engTcOk opc h.tc ∨ (portOf s p).ptype = 3) := by
    simp [hver, hlen, hdata, hrsv, htc, htype]
  have hown : ¬ ((portOf s p).ptype ≠ 1 ∧ h.src ≠ (portOf s p).epid) := by
    rintro ⟨hne, hother⟩; exact hsrc.elim hne hother
  have hgoes : (engBehind s p h || v.verdict == .wait) = false := by simp [hbehind, hnow]
  simp only [engArrive, hup, Bool.not_true, Bool.false_eq_true, if_false, hform, hown, hmirror, hjudged, hgoes, engCrossed]

theorem engArrive_of_take (hopen : engOpen s p opc h d = true) {v : Judged} (hjudged : judgeEng s p opc h d = v) (htake : v.verdict = .take) :
    engArrive s p opc h d = runEngines (v.take (engCrossed s p opc h d)) := by
  rw [engArrive_of_open hopen hjudged (by simp [htake]), applyJudged, htake]

/-- A message out of form is discarded. -/
theorem engArrive_of_malformed (hup : portUp s p = true) (hbad : h.ver ≠ 1 ∨ 64 < h.len ∨ d.length ≠ 64 * h.len ∨ h.rsv ≠ 0) (opc : Nat) :
    engArrive s p opc h d = discardMessage s p h.src 2 1 := by
  have hform : h.ver ≠ 1 ∨ 64 < h.len ∨ d.length ≠ 64 * h.len ∨ h.rsv ≠ 0 ∨ !engTcOk opc h.tc ∨ (portOf s p).ptype = 3 := by tauto
  simp only [engArrive, hup, Bool.not_true, Bool.false_eq_true, if_false, hform, if_true]

/-- A message in form from another source than the endpoint at the port is discarded. -/
theorem engArrive_of_wrong_source (hup : portUp s p = true) (hver : h.ver = 1) (hlen : h.len ≤ 64) (hdata : d.length = 64 * h.len) (hrsv : h.rsv = 0)
    (htype : (portOf s p).ptype = 2) (hsrc : h.src ≠ (portOf s p).epid) (htc : engTcOk opc h.tc = true) :
    engArrive s p opc h d = discardMessage s p h.src 2 2 := by
  have hform : ¬ (h.ver ≠ 1 ∨ 64 < h.len ∨ d.length ≠ 64 * h.len ∨ h.rsv ≠ 0 ∨ !engTcOk opc h.tc ∨ (portOf s p).ptype = 3) := by
    simp [hver, hlen, hdata, hrsv, htc, htype]
  have hother : (portOf s p).ptype ≠ 1 ∧ h.src ≠ (portOf s p).epid := ⟨by simp [htype], hsrc⟩
  simp only [engArrive, hup, Bool.not_true, Bool.false_eq_true, if_false, hform, hother, not_false_eq_true, and_self, if_true, ne_eq]

variable {j : Job} {r : RedJob}

/-- A CONTRIB, a PARTIAL and a RESULT of a reduction are judged by it. -/
theorem judgeEng_of_contrib (htc : h.tc ≠ 3) (hjob : jobOf s h.jobid = some j) (hbody : j.body = .red r) : judgeEng s p 1 h d =
    { verdict := judgeContrib j r s.dom.devid h, discard := jobDiscard j h, take := fun s => takeContrib s r h d } := by
  have hopc : (1 : Nat) ≠ 3 := by decide
  simp only [judgeEng, hopc, htc, if_false, hjob, hbody, if_true]

theorem judgeEng_of_partial (htc : h.tc ≠ 3) (hjob : jobOf s h.jobid = some j) (hbody : j.body = .red r) : judgeEng s p 4 h d =
    { verdict := judgePartial j r s.dom.devid h, discard := jobDiscard j h, take := fun s => takePartial s r h d } := by
  have hopc : (4 : Nat) ≠ 3 ∧ (4 : Nat) ≠ 1 := by decide
  simp only [judgeEng, hopc, htc, if_false, hjob, hbody, if_true]

theorem judgeEng_of_result (htc : h.tc ≠ 3) (hjob : jobOf s h.jobid = some j) (hbody : j.body = .red r) : judgeEng s p 2 h d =
    { verdict := judgeResult j r h, discard := jobDiscard j h, take := fun s => takeResult s j r h d } := by
  have hopc : (2 : Nat) ≠ 3 ∧ (2 : Nat) ≠ 1 ∧ (2 : Nat) ≠ 4 := by decide
  simp only [judgeEng, hopc, htc, if_false, hjob, hbody]

/-- A list for a winnow is judged by it. -/
theorem judgeEng_of_winnow {w : WinnowJob} (htc : h.tc ≠ 3) (hjob : jobOf s h.jobid = some j) (hbody : j.body = .winnow w) :
    judgeEng s p 4 h d = { verdict := judgeList j w h, take := fun s => takeList s h d, discard := jobDiscard j h } := by
  have hopc : (4 : Nat) ≠ 3 := by decide
  simp only [judgeEng, hopc, htc, if_false, hjob, hbody, if_true]

/-- A list of a search is judged by its query or its root. -/
theorem judgeEng_of_searchPart (htc : h.tc = 3) : ∃ discard, judgeEng s p 4 h d =
    { verdict := judgeSearchPart s h, take := fun s => takeSearchPart s h d, discard := discard } := by
  have hopc : (4 : Nat) ≠ 3 := by decide
  simp only [judgeEng, hopc, htc, if_false, if_true]
  exact ⟨_, rfl⟩

theorem judgeEng_of_query : ∃ discard, judgeEng s p 3 h d =
    { verdict := judgeQuery s h d, take := fun s => takeQuery s h d, discard := discard } := ⟨_, rfl⟩

/-- A CONTRIB comes on TC2. -/
theorem tc_of_contrib (hopen : engOpen s p 1 h d = true) : h.tc = 2 := by
  obtain ⟨-, -, -, -, -, htc, -⟩ := engOpen_iff.mp hopen
  simpa [engTcOk] using htc

/-- A duplicate of a reduction's message is counted. -/
theorem applyJudged_of_dup {t : State} (hjob : jobOf t h.jobid = some j) (hbody : j.body = .red r) {v : Judged} (hdup : v.verdict = .dup) :
    applyJudged t h.jobid v = countDup t h.jobid := by
  have hred : ((jobOf t h.jobid).any (fun j => j.body.code == 4)) = false := by rw [hjob]; simp [hbody, JobKind.code]
  simp only [applyJudged, hdup, hred, Bool.false_eq_true, if_false]

theorem applyJudged_of_discard {v : Judged} {cause : Nat} (hdiscard : v.verdict = .discard cause) (n : Nat) :
    applyJudged s n v = v.discard cause s := by
  simp only [applyJudged, hdiscard]

/-- A message that a reduction refuses is counted and recorded. -/
theorem jobDiscard_of_red (hbody : j.body = .red r) (cause : Nat) (t : State) :
    jobDiscard j h cause t = discardRed (countDiscard t j.jobid) j.quarter h cause := by
  simp only [jobDiscard, hbody]

end

/-- A retained input joins the inputs of its reduction. -/
theorem jobOf_retain {s : State} {jobid : Nat} {j : Job} {r : RedJob} (hjob : jobOf s jobid = some j) (hbody : j.body = .red r) (i : Input) :
    jobOf (retain s jobid i) jobid = some { j with heard := s.time.bell, body := .red { r with
      inputs := r.inputs ++ [i]
      firstInput := if Tab.has r.firstInput i.block = true then r.firstInput else Tab.set r.firstInput i.block s.time.bell } } := by
  have hheard : jobOf (updJob s jobid (fun j => { j with heard := s.time.bell })) jobid = some { j with heard := s.time.bell } := by
    refine (jobOf_updJob ?_).trans (by rw [hjob, Option.map_some])
    exact fun _ => rfl
  exact jobOf_updRed hheard hbody _

/-- Settles O52: a message that is open crosses to its engine and is dealt with as it is judged; the clauses are the verdicts. -/
theorem engineMessagesAreTaken : Obligations.EngineMessagesAreTaken := by
  unfold Obligations.EngineMessagesAreTaken
  refine ⟨fun p h d s j => ?_, fun s jobid j r i hjob hbody => jobOf_retain hjob hbody i⟩
  refine ⟨fun r hopen hjob hbody => ⟨fun htake => .of_exec_eq_done ?contrib, fun hdup => .of_exec_eq_done ?dup,
      fun c hdiscard => .of_exec_eq_done ?discard⟩, fun r hopen htc hjob hbody htake => .of_exec_eq_done ?partial_,
    fun w hopen htc hjob hbody htake => .of_exec_eq_done ?list, fun hopen htc htake => .of_exec_eq_done ?searchPart,
    fun r hopen htc hjob hbody htake => .of_exec_eq_done ?result, fun hopen htake => .of_exec_eq_done ?query,
    fun hup hbad => ⟨.of_exec_eq_done ?badContrib, .of_exec_eq_done ?badResult, .of_exec_eq_done ?badQuery, .of_exec_eq_done ?badPartial⟩,
    fun hup hver hlen hdata hrsv htype hsrc => ⟨fun htc => ⟨.of_exec_eq_done ?srcContrib, .of_exec_eq_done ?srcResult,
      .of_exec_eq_done ?srcPartial⟩, fun htc => .of_exec_eq_done ?srcQuery⟩⟩
  case contrib =>
    have hjudged := judgeEng_of_contrib (p := p) (d := d) (by simp [tc_of_contrib hopen]) hjob hbody
    rw [exec_contrib, engArrive_of_take hopen hjudged htake]; rfl
  case dup =>
    have hjudged := judgeEng_of_contrib (p := p) (d := d) (by simp [tc_of_contrib hopen]) hjob hbody
    have hthere : jobOf (engCrossed s p 1 h d) h.jobid = some j := hjob
    rw [exec_contrib, engArrive_of_open hopen hjudged (by simp [hdup]), applyJudged_of_dup hthere hbody hdup]; rfl
  case discard =>
    have hjudged := judgeEng_of_contrib (p := p) (d := d) (by simp [tc_of_contrib hopen]) hjob hbody
    rw [exec_contrib, engArrive_of_open hopen hjudged (by simp [hdiscard]), applyJudged_of_discard hdiscard]
    dsimp only
    rw [jobDiscard_of_red hbody]; rfl
  case partial_ => rw [exec_partialList, engArrive_of_take hopen (judgeEng_of_partial (by simp [htc]) hjob hbody) htake]; rfl
  case list => rw [exec_partialList, engArrive_of_take hopen (judgeEng_of_winnow (by simp [htc]) hjob hbody) htake]; rfl
  case searchPart =>
    obtain ⟨discard, hjudged⟩ := judgeEng_of_searchPart (s := s) (p := p) (d := d) htc
    rw [exec_partialList, engArrive_of_take hopen hjudged htake]; rfl
  case result => rw [exec_result, engArrive_of_take hopen (judgeEng_of_result (by simp [htc]) hjob hbody) htake]; rfl
  case query =>
    obtain ⟨discard, hjudged⟩ := judgeEng_of_query (s := s) (p := p) (h := h) (d := d)
    rw [exec_query, engArrive_of_take hopen hjudged htake]; rfl
  case badContrib => rw [exec_contrib, engArrive_of_malformed hup hbad]
  case badResult => rw [exec_result, engArrive_of_malformed hup hbad]
  case badQuery => rw [exec_query, engArrive_of_malformed hup hbad]
  case badPartial => rw [exec_partialList, engArrive_of_malformed hup hbad]
  case srcContrib => rw [exec_contrib, engArrive_of_wrong_source hup hver hlen hdata hrsv htype hsrc (by simp [engTcOk, htc])]
  case srcResult => rw [exec_result, engArrive_of_wrong_source hup hver hlen hdata hrsv htype hsrc (by simp [engTcOk, htc])]
  case srcPartial => rw [exec_partialList, engArrive_of_wrong_source hup hver hlen hdata hrsv htype hsrc (by simp [engTcOk, htc])]
  case srcQuery => rw [exec_query, engArrive_of_wrong_source hup hver hlen hdata hrsv htype hsrc (by simp [engTcOk, htc])]

/-! ### Doorbells, admission, interrupts and the release of queue pairs -/

theorem exec_sqtailDoorbell (fn lq : Nat) (value : Word) (s : State) :
    exec (.sqtailDoorbell fn lq value) s = done s (doorbell s fn lq true value) := rfl
theorem exec_cqheadDoorbell (fn lq : Nat) (value : Word) (s : State) :
    exec (.cqheadDoorbell fn lq value) s = done s (doorbell s fn lq false value) := rfl
theorem exec_jobAdmission (n : Nat) (s : State) : exec (.jobAdmission n) s = done s (runEngines (takeSubmissions s n)) := rfl
theorem exec_interruptDelayExpiry (n : Nat) (s : State) : exec (.interruptDelayExpiry n) s = done s (interruptDue s n) := rfl
theorem exec_qpReleased (n : Nat) (s : State) : exec (.qpReleased n) s = done s (releaseQp s n) := rfl

/-- The queue pair that a doorbell of a function names. -/
def rungQp (s : State) (fn lq : Nat) : Option (Nat × Qp) := s.qps.find? (fun e => e.2.state != 0 && e.2.stall == fnStall fn && e.2.lq == lq)

/-- The header of the ATOMIC_MAX on a word of a queue pair's control line. -/
def doorbellHdr (n : Nat) (c : Qp) (at_ : Nat) : ReqHdr :=
  { stall := c.stall, qp := n, handle := c.ring, key := c.rkey, offset := c.control + at_, len := 1 }

section
variable {s : State} {fn lq n : Nat} {value : Word} {c : Qp}

theorem doorbell_of_none (hnone : rungQp s fn lq = none) (isTail : Bool) : doorbell s fn lq isTail value = s := by
  rw [rungQp] at hnone
  simp only [doorbell, hnone]

theorem doorbell_of_qp (hqp : rungQp s fn lq = some (n, c)) (isTail : Bool) : doorbell s fn lq isTail value =
    if quarterInReset s c.quarter then ring s n (if isTail then value.toNat else 0) (if isTail then 0 else value.toNat)
    else runEngines (takeSubmissions (settleAll (submit s (.ring n) 0x12 (doorbellHdr n c (if isTail then 0 else 8)) (maxUnit value)).2) n) := by
  rw [rungQp] at hqp
  simp only [doorbell, hqp, doorbellHdr]

/-- The interrupt of a queue pair is raised at the strike set for it. -/
theorem interruptDue_of_set {b : Word} (hqp : Tab.get? s.qps n = some c) (hstate : c.state ≠ 0) (hset : c.irqAt = some b) :
    interruptDue s n = if b.toNat ≤ bellN s then qpInterrupt s n c else s := by
  simp only [interruptDue, hqp, hset, hstate, ne_eq, not_false_eq_true, decide_true, Option.any_some, Bool.true_and, decide_eq_true_eq]

/-- A RELEASING queue pair at rest is freed at a strike; another stays. -/
theorem releaseQp_of_qp (hqp : Tab.get? s.qps n = some c) : releaseQp s n =
    if c.state = 3 ∧ s.time.phase = 0 ∧ inflight s n = 0 ∧ c.held = [] then
      endDrains (qpRecord { s with qps := Tab.erase s.qps n } c 0x0F04 (word n) s.time.bell 0 0) (fun d => d == .qp n) OK s.time.bell []
    else s := by
  simp only [releaseQp, hqp, Bool.and_eq_true, decide_eq_true_eq, beq_iff_eq, List.isEmpty_iff, and_assoc, qpRecord, record_time]

end

@[simp] theorem length_natLe (n v : Nat) : (natLe n v).length = n := by
  induction n generalizing v with
  | zero => rfl
  | succ n ih => rw [natLe, List.length_cons, ih]

/-- The low bytes of a number give it back, modulo what they hold. -/
theorem leNat_natLe (n v : Nat) : leNat (natLe n v) = v % 256 ^ n := by
  induction n generalizing v with
  | zero => simp [natLe, leNat, Nat.mod_one]
  | succ n ih =>
    have hbyte : (BitVec.ofNat 8 v).toNat = v % 256 := BitVec.toNat_ofNat v 8
    rw [natLe, leNat, ih, hbyte, Nat.pow_succ', Nat.mod_mul]

/-- A slice that is the first part of a byte string, and one that lies in its second part. -/
theorem slice_append_left (a b : List Byte) : slice (a ++ b) 0 a.length = a := by simp [slice]

theorem slice_append_right (a b : List Byte) (off n : Nat) : slice (a ++ b) (a.length + off) n = slice b off n := by
  simp only [slice, List.drop_length_add_append]

/-- What follows the value in the operand unit of a doorbell: SIZE 1 and TYPE 0 at byte 32. -/
def maxUnitTail : List Byte := List.replicate 24 0 ++ wordBytes (pack [(0, 1)]) ++ List.replicate 24 0

theorem maxUnit_eq (value : Word) : maxUnit value = natLe 8 value.toNat ++ maxUnitTail := by
  simp [maxUnit, padTo, wordBytes, maxUnitTail]

theorem slice_maxUnit (value : Word) (off n : Nat) : slice (maxUnit value) (8 + off) n = slice maxUnitTail off n := by
  have h := slice_append_right (natLe 8 value.toNat) maxUnitTail off n
  rwa [length_natLe, ← maxUnit_eq] at h

/-- The value of a doorbell is the low half of its operand. -/
theorem natAt_maxUnit (value : Word) : natAt (maxUnit value) 0 8 = value.toNat := by
  have h := slice_append_left (natLe 8 value.toNat) maxUnitTail
  rw [length_natLe, ← maxUnit_eq] at h
  rw [natAt, h, leNat_natLe]
  exact Nat.mod_eq_of_lt (lt_of_lt_of_eq value.isLt (by norm_num))

/-- The operand unit of a doorbell: SIZE 1, TYPE 0, and the value as its operand. -/
theorem atomicOperand_maxUnit (value : Word) : (maxUnit value).length = 64 ∧ (atomicOperand (maxUnit value)).bytes = 8
    ∧ (atomicOperand (maxUnit value)).type = 0 ∧ (atomicOperand (maxUnit value)).operand = value.toNat := by
  have hlength : (maxUnit value).length = 64 := by simp [maxUnit_eq, maxUnitTail, wordBytes]
  have hhigh : natAt (maxUnit value) 16 8 = 0 := by rw [natAt, slice_maxUnit value 8 8]; decide
  have hform : wordAt (maxUnit value) 32 = 1 := by rw [wordAt, slice_maxUnit value 24 8]; decide
  have hsize : 2 ^ (fld (1 : Word) 1 0 + 2) = 8 := by decide
  have htype : fld (1 : Word) 3 2 = 0 := by decide
  refine ⟨hlength, ?_, ?_, ?_⟩
  · simp only [atomicOperand, hform, hsize]
  · simp only [atomicOperand, hform, htype]
  · simp only [atomicOperand, hform, hsize, hhigh, natAt_maxUnit, Nat.mul_zero, Nat.add_zero]
    exact Nat.mod_eq_of_lt value.isLt

/-- Settles O53: each clause is one branch of the queue sequencer's commands. -/
theorem queuePairsAndEnginesMove : Obligations.QueuePairsAndEnginesMove := by
  unfold Obligations.QueuePairsAndEnginesMove
  refine ⟨fun fn lq n value s c => ⟨fun hqp hruns => ⟨.of_exec_eq_done ?tail, .of_exec_eq_done ?head⟩,
    fun hqp hreset => ⟨.of_exec_eq_done ?tailWaits, .of_exec_eq_done ?headWaits⟩,
    fun hnone => ⟨.of_unchanged (exec_sqtailDoorbell ..) (doorbell_of_none hnone true),
      .of_unchanged (exec_cqheadDoorbell ..) (doorbell_of_none hnone false)⟩,
    .of_exec_eq_done (exec_jobAdmission ..), fun b hqp hstate hset => ⟨fun hdue => .of_exec_eq_done ?raised,
      fun hyoung => .of_unchanged (exec_interruptDelayExpiry ..) ?notYet⟩,
    fun hqp hreleasing hstrike hidle hheld => .of_exec_eq_done ?released,
    fun hqp hstays => .of_unchanged (exec_qpReleased ..) ?stays⟩, atomicOperand_maxUnit⟩
  case tail => simp only [exec_sqtailDoorbell, doorbell_of_qp hqp, hruns, Bool.false_eq_true, if_false, if_true, doorbellHdr, Nat.add_zero]
  case head => simp only [exec_cqheadDoorbell, doorbell_of_qp hqp, hruns, Bool.false_eq_true, if_false, doorbellHdr]
  case tailWaits => rw [exec_sqtailDoorbell, doorbell_of_qp hqp, hreset]; rfl
  case headWaits => rw [exec_cqheadDoorbell, doorbell_of_qp hqp, hreset]; rfl
  case raised => rw [exec_interruptDelayExpiry, interruptDue_of_set hqp hstate hset, if_pos hdue]
  case notYet => rw [interruptDue_of_set hqp hstate hset, if_neg (Nat.not_le.mpr hyoung)]
  case released => rw [exec_qpReleased, releaseQp_of_qp hqp, if_pos ⟨hreleasing, hstrike, hidle, hheld⟩]
  case stays =>
    rw [releaseQp_of_qp hqp]
    exact if_neg (by tauto)

end Sys2Proof.Machine

/-! ## What comes to the engines, and the times of their jobs -/

namespace Sys2Proof.Machine

/-! ### Portions, accesses and row reads -/

/-- What a portion that closes leaves. -/
def portionClosed (s : State) (q : Nat) (kind : EngineKind) (i : Nat) (rep : PortionReport) : State :=
  match s.eng.portions.find? (fun p => p.quarter == q && p.kind == kind && p.index == i) with
  | some p => runEngines (closePortion (runEngines s) p rep)
  | none => s

/-- What a row read of a gather that is answered leaves. -/
def rowReadDone (s : State) (jobid pos : Nat) : State :=
  match jobOf s jobid with
  | some j => match j.body with
    | .gather r => match r.rows.find? (fun e => e.1 == pos) with
      | some e => runEngines (rowRead s jobid e.2.1)
      | none => s
    | _ => s
  | none => s

theorem exec_portionClose (q : Nat) (kind : EngineKind) (i : Nat) (rep : PortionReport) (s : State) :
    exec (.portionClose q kind i rep) s = done s (portionClosed s q kind i rep) := rfl
theorem exec_engineAccessResponse (acc : Nat) (s : State) : exec (.engineAccessResponse acc) s = done s (accessResponse s acc) := rfl
theorem exec_rowReadCompletion (jobid pos : Nat) (s : State) :
    exec (.rowReadCompletion jobid pos) s = done s (rowReadDone s jobid pos) := rfl

/-- Where an answered access goes: to what made it. -/
def accessTaken (s : State) (a : Access) (status : Nat) (d : List Byte) : State :=
  match a.use with
  | .admission n _ => takeSubmissions s n
  | .ring n => ringAnswer s a n status
  | .mailbox n => areaAnswer s a n status d
  | .lineRebuild _ _ _ => sheafStep s
  | .stalkPage _ _ _ => sheafStep s
  | _ => s

section
variable {s : State} {acc : Nat} {a : Access}

theorem accessResponse_of_answer (hacc : s.eng.access.find? (fun a => a.acc == acc) = some a) {status : Nat} {lines : Word} {d : List Byte}
    (hanswer : a.answer = some (status, lines, d)) : accessResponse s acc = runEngines (accessTaken s a status d) := by
  simp only [accessResponse, hacc, hanswer]
  rfl

theorem accessResponse_of_unanswered (hacc : s.eng.access.find? (fun a => a.acc == acc) = some a) (hanswer : a.answer = none) :
    accessResponse s acc = s := by
  simp only [accessResponse, hacc, hanswer]

theorem accessResponse_of_none (hnone : s.eng.access.find? (fun a => a.acc == acc) = none) : accessResponse s acc = s := by
  simp only [accessResponse, hnone]

end

/-- A row that is not delivered leaves the state as it was. -/
theorem deliverRow_of_not {s : State} {j : Job} {r : GatherJob} {i row : Nat} {d : List Byte} (hnot : (deliverRow s j r i row d).1 = false) :
    (deliverRow s j r i row d).2 = s := by
  revert hnot
  unfold deliverRow
  dsimp only
  split
  · simp
  · split
    · split <;> simp
    · split <;> simp

/-- Taking what loads have answered leaves the time. -/
theorem takeReads_time (s : State) (u : AccUse) (off n : Nat) : (takeReads s u off n).2.time = s.time := by
  unfold takeReads
  dsimp only
  split
  · rfl
  · split <;> rfl

/-- A row has been heard of, and its reads are taken off the gather. -/
def rowTaken (t : State) (bell : Word) (jobid row : Nat) : State :=
  updGather (updJob t jobid (fun j => { j with heard := bell })) jobid (fun r => { r with rows := r.rows.filter (fun x => x.2.1 != row) })

/-- Positions of a gather that wait for a row. -/
def rowPositions (r : GatherJob) (row : Nat) : List Nat := (r.rows.filter (fun x => x.2.1 == row)).map (·.1)

section
variable {s : State} {jobid row : Nat} {j : Job} {r : GatherJob}

/-- A row that still waits for an answer. -/
theorem rowRead_of_waiting (hjob : jobOf s jobid = some j) (hbody : j.body = .gather r)
    (hreads : (takeReads s (.row jobid row) (r.rowOff row) (r.rowb * 64)).1 = .waiting) :
    rowRead s jobid row = (takeReads s (.row jobid row) (r.rowOff row) (r.rowb * 64)).2 := by
  simp only [rowRead, hjob, hbody, hreads]

/-- A row that reads good is delivered to every position that it serves. -/
theorem rowRead_of_data (hjob : jobOf s jobid = some j) (hbody : j.body = .gather r) {d : List Byte}
    (hreads : (takeReads s (.row jobid row) (r.rowOff row) (r.rowb * 64)).1 = .data d) : rowRead s jobid row =
      each (rowPositions r row) (fun i v => let o := deliverRow v j r i row d
        if o.1 = true then o.2 else badRow o.2 j i POISONED 0)
        (rowTaken (takeReads s (.row jobid row) (r.rowOff row) (r.rowb * 64)).2 s.time.bell jobid row) := by
  have hsame : ∀ (i : Nat) (v : State), (if (deliverRow v j r i row d).1 = true then (deliverRow v j r i row d).2 else badRow v j i POISONED 0) =
      if (deliverRow v j r i row d).1 = true then (deliverRow v j r i row d).2 else badRow (deliverRow v j r i row d).2 j i POISONED 0 := by
    intro i v
    cases hdelivered : (deliverRow v j r i row d).1 with
    | true => rfl
    | false => rw [deliverRow_of_not hdelivered]
  simp only [rowRead, hjob, hbody, hreads, hsame, takeReads_time, rowPositions, rowTaken]

/-- A row that reads bad counts as a bad row at each position. -/
theorem rowRead_of_failed (hjob : jobOf s jobid = some j) (hbody : j.body = .gather r) {status : Nat} {seq : Word}
    (hreads : (takeReads s (.row jobid row) (r.rowOff row) (r.rowb * 64)).1 = .failed status seq) (hbad : status = POISONED ∨ status = MEDIA_ERROR) :
    rowRead s jobid row = each (rowPositions r row) (fun i v => badRow v j i status seq)
      (rowTaken (takeReads s (.row jobid row) (r.rowOff row) (r.rowb * 64)).2 s.time.bell jobid row) := by
  simp only [rowRead, hjob, hbody, hreads, hbad, if_true, takeReads_time, rowPositions, rowTaken]

theorem rowReadDone_of_row (hjob : jobOf s jobid = some j) (hbody : j.body = .gather r) {pos : Nat} {e : Nat × Nat × Nat}
    (hrow : r.rows.find? (fun e => e.1 == pos) = some e) : rowReadDone s jobid pos = runEngines (rowRead s jobid e.2.1) := by
  simp only [rowReadDone, hjob, hbody, hrow]

end

/-- Settles O54: portions and accesses by their branches, row reads by what their loads have come to. -/
theorem enginesTakeTheirAnswers : Obligations.EnginesTakeTheirAnswers := by
  unfold Obligations.EnginesTakeTheirAnswers
  intro q i jobid pos acc kind rep s
  refine ⟨fun p hportion => .of_exec_eq_done ?closes, fun hnone => .of_unchanged (exec_portionClose ..) ?noPortion,
    fun a status lines d hacc hanswer => .of_exec_eq_done ?taken,
    fun a hacc hanswer => .of_unchanged (exec_engineAccessResponse ..) (accessResponse_of_unanswered hacc hanswer),
    fun hnone => .of_unchanged (exec_engineAccessResponse ..) (accessResponse_of_none hnone),
    fun j r e hjob hbody hrow => ⟨fun hwaits => .of_exec_eq_done ?waits, fun d hdata => .of_exec_eq_done ?delivered,
      fun status seq hfailed hbad => .of_exec_eq_done ?bad⟩⟩
  case closes => rw [exec_portionClose, portionClosed, hportion]
  case noPortion => rw [portionClosed, hnone]
  case taken => rw [exec_engineAccessResponse, accessResponse_of_answer hacc hanswer]; rfl
  case waits => rw [exec_rowReadCompletion, rowReadDone_of_row hjob hbody hrow, rowRead_of_waiting hjob hbody hwaits]
  case delivered => rw [exec_rowReadCompletion, rowReadDone_of_row hjob hbody hrow, rowRead_of_data hjob hbody hdata]; rfl
  case bad => rw [exec_rowReadCompletion, rowReadDone_of_row hjob hbody hrow, rowRead_of_failed hjob hbody hfailed hbad]; rfl

/-! ### Timeouts of jobs, held queries and compactions -/

theorem exec_jobTimeout (jobid : Nat) (s : State) : exec (.jobTimeout jobid) s = done s (runEngines (jobTimeout s jobid)) := rfl
theorem exec_wjobTimeout (jobid : Nat) (s : State) : exec (.wjobTimeout jobid) s = done s (runEngines (wjobTimeout s jobid)) := rfl
theorem exec_shardTimeout (jobid query rank : Nat) (s : State) :
    exec (.shardTimeout jobid query rank) s = done s (runEngines (shardTimeout s jobid query rank)) := rfl
theorem exec_queryEpochHoldExpiry (n jobid query : Nat) (s : State) :
    exec (.queryEpochHoldExpiry n jobid query) s = done s (runEngines (holdExpiry s n jobid query)) := rfl
theorem exec_compactSwitch (n part : Nat) (s : State) : exec (.compactSwitch n part) s = done s (settleAll (compactSwitch s n part)) := rfl

theorem jobTimeout_of_late {s : State} {jobid which b mkind miss : Nat} {j : Job} {r : RedJob} (hjob : jobOf s jobid = some j)
    (hbody : j.body = .red r) (hlate : redTimeout s j r = some (which, b, mkind, miss)) : jobTimeout s jobid =
      endJob (engRecord s j.quarter 0x0A02 j.stall (word jobid) (pack [(16, mkind), (0, miss)]) (word b) (word which)) jobid MEDIA_ERROR mkind miss b := by
  simp only [jobTimeout, hjob, hbody, hlate]

theorem wjobTimeout_of_late {s : State} {jobid miss : Nat} {j : Job} (hjob : jobOf s jobid = some j) (hlate : wjobLate s j = some miss) :
    wjobTimeout s jobid =
      endJob (engRecord s j.quarter 0x0B03 j.stall (word jobid) (word miss) (word (since s j.heard)) 0) jobid MEDIA_ERROR 0 miss 0 := by
  simp only [wjobTimeout, hjob, hlate]

theorem shardTimeout_of_late {s : State} {jobid query rank : Nat} {j : Job} {r : SearchJob} {m : Merge} {x : Index} (hjob : jobOf s jobid = some j)
    (hbody : j.body = .search r) (hmerge : r.merges.find? (fun m => m.query == query) = some m) (hindex : indexAt s r.index = some x)
    (hopen : m.delivered = false) (hlacks : rank ∉ m.ended) (htop : rank ∈ x.tops) (hlate : j.tmo ≤ since s m.sent) :
    shardTimeout s jobid query rank = deliverReady
      (updSearch (engRecord s j.quarter 0x0C02 j.stall (word jobid) (word query) (word rank) 0) jobid (fun r => { r with
        merges := adjustWhere r.merges (fun m => m.query == query) (fun m => { m with
          ended := addOnce m.ended rank, sum := addSummary m.sum { status := MEDIA_ERROR, failrank := rank } }) })) jobid := by
  have hgoes : (m.delivered || m.ended.contains rank || !x.tops.contains rank || decide (since s m.sent < j.tmo)) = false := by
    simp [hopen, hlacks, htop, hlate]
  simp only [shardTimeout, hjob, hbody, hmerge, hindex, hgoes, Bool.false_eq_true, if_false]

theorem holdExpiry_of_held {s : State} {n jobid query : Nat} {x : Index} {y : ShardQuery} (hindex : indexAt s n = some x)
    (hquery : x.queries.find? (fun y => y.jobid == jobid && y.query == query) = some y) (hheld : y.held = true) (hold : 4 ≤ since s y.bell) :
    holdExpiry s n jobid query = failList s x y EPOCH_STALE := by
  simp only [holdExpiry, hindex, hquery, hheld, hold, decide_true, Bool.and_self, if_true]

section
variable {s : State} {n part : Nat} {x : Index} {y : IndexPart}

theorem compactSwitch_of_idle (hindex : indexAt s n = some x) (hpart : partAt x part = some y) (hidle : y.compacting = none) :
    compactSwitch s n part = s := by
  simp only [compactSwitch, hindex, hpart, hidle]

/-- A compaction whose lines are not all there asks for them. -/
theorem compactSwitch_of_missing {c : Nat × Word} (hindex : indexAt s n = some x) (hpart : partAt x part = some y) (hruns : y.compacting = some c)
    (hmissing : missingNeeds s (compactNeeds s x y) ≠ []) : compactSwitch s n part = askNeeds s (missingNeeds s (compactNeeds s x y)) := by
  have hlacks : (!(missingNeeds s (compactNeeds s x y)).isEmpty) = true := by simpa using hmissing
  simp only [compactSwitch, hindex, hpart, hruns, hlacks, if_true]

/-- The last of a switch: the floor rises to the epoch of the compaction, it is recorded, and what waited for it ends. -/
theorem switch_ends {v : State} {bell : Word} (hbell : v.time.bell = bell) (n part quarter cepoch : Nat) (p0 p1 p2 p3 : Word) :
    ∃ u, (let t := engRecord (updIndex v n (fun x => { x with floor := cepoch })) quarter 0x0C05 0 p0 p1 p2 p3
        endDrains (freeOld t n) (fun d => d == .compact n part) OK t.time.bell [])
      = endDrains (freeOld u n) (fun d => d == .compact n part) OK bell [] ∧ ∀ x', indexAt u n = some x' → x'.floor = cepoch := by
  refine ⟨engRecord (updIndex v n (fun x => { x with floor := cepoch })) quarter 0x0C05 0 p0 p1 p2 p3, ?_, fun x' hx' => ?_⟩
  · rw [← hbell]; rfl
  · have hindex : indexAt (updIndex v n (fun x => { x with floor := cepoch })) n = (indexAt v n).map (fun x => { x with floor := cepoch }) :=
      indexAt_updIndex (by exact fun _ => rfl)
    obtain ⟨y, -, rfl⟩ := Option.map_eq_some_iff.mp (hindex.symm.trans hx')
    rfl

/-- A compaction switches at a strike, and the floor of its index is its epoch. -/
theorem compactSwitch_of_ready {cepoch : Nat} {b : Word} (hindex : indexAt s n = some x) (hpart : partAt x part = some y)
    (hruns : y.compacting = some (cepoch, b)) (hthere : missingNeeds s (compactNeeds s x y) = []) (hstrike : s.time.phase = 0)
    (hpages : y.oldPages = []) (hslots : y.oldSlots = []) :
    ∃ u, compactSwitch s n part = endDrains (freeOld u n) (fun d => d == .compact n part) OK s.time.bell []
      ∧ ∀ x', indexAt u n = some x' → x'.floor = cepoch := by
  have hP := closed_clockAt s.time.bell s.time.phase
  have hnow : ¬ (s.time.phase ≠ 0 ∨ (!y.oldPages.isEmpty) = true ∨ (!y.oldSlots.isEmpty) = true) := by simp [hstrike, hpages, hslots]
  simp only [compactSwitch, hindex, hpart, hruns, hthere, List.isEmpty_nil, Bool.not_true, Bool.false_eq_true, if_false, hnow]
  refine switch_ends ?_ n part ..
  refine (each_inv (P := ClockAt s.time.bell s.time.phase) _ _ (fun e v hv => rewriteList_inv hP v _ _ _ _ hv) _ ?_).1
  refine each_inv _ _ (fun o v hv => each_inv _ _ (fun t v hv => ?_) v hv) _ (updIndex_inv s n _ ⟨rfl, rfl⟩)
  split
  · exact pokeAt_inv hP v _ _ _ hv
  · exact hv

end

/-- Settles O55: each clause is one branch of a timeout, of a held query's expiry or of a compaction's switch. -/
theorem jobsTimeOut : Obligations.JobsTimeOut := by
  unfold Obligations.JobsTimeOut
  intro jobid n query rank part s j
  refine ⟨fun r which b mkind miss hjob hbody hlate => .of_exec_eq_done ?reduction, fun miss hjob hlate => .of_exec_eq_done ?winnow,
    fun r m x hjob hbody hmerge hindex hopen hlacks htop hlate => .of_exec_eq_done ?shard,
    fun x y hindex hquery hheld hold => .of_exec_eq_done ?held,
    fun x y cepoch b hindex hpart hruns hthere hstrike hpages hslots => ?switches,
    fun x y c missing hindex hpart hruns heq hmissing => .of_exec_eq_done ?asks,
    fun x y hindex hpart hidle => .of_exec_eq_done ?idle⟩
  case reduction => rw [exec_jobTimeout, jobTimeout_of_late hjob hbody hlate]
  case winnow => rw [exec_wjobTimeout, wjobTimeout_of_late hjob hlate]
  case shard => rw [exec_shardTimeout, shardTimeout_of_late hjob hbody hmerge hindex hopen hlacks htop hlate]
  case held => rw [exec_queryEpochHoldExpiry, holdExpiry_of_held hindex hquery hheld hold]
  case switches =>
    obtain ⟨u, hu, hfloor⟩ := compactSwitch_of_ready hindex hpart hruns hthere hstrike hpages hslots
    exact ⟨u, .of_exec_eq_done (by rw [exec_compactSwitch, hu]), hfloor⟩
  case asks =>
    subst heq
    rw [exec_compactSwitch, compactSwitch_of_missing hindex hpart hruns hmissing]
  case idle => rw [exec_compactSwitch, compactSwitch_of_idle hindex hpart hidle]

end Sys2Proof.Machine

/-! ## Starts, the reset pin and power cycles -/

namespace Sys2Proof.Machine

/-! ### A start, phase by phase -/

theorem exec_coldStart (s : State) : exec .coldStart s = done s (coldBegin s) := rfl
theorem exec_startupPhaseEnd (r : PhaseReport) (s : State) : exec (.startupPhaseEnd r) s = done s (phaseEnds s r) := rfl
theorem exec_startupPhaseOverrun (s : State) : exec .startupPhaseOverrun s = done s (phaseOverrun s) := rfl
theorem exec_inputOutOfRange (exceeds : Bool) (s : State) :
    exec (.inputOutOfRange exceeds) s = done s (if s.pkg.powered then unpowered s exceeds else s) := rfl

/-- A ring that resumes writes the ledger alone. -/
theorem resumeRing_pkg (s : State) (ring : Nat) : (resumeRing s ring).pkg = s.pkg := by
  unfold resumeRing
  split <;> rfl

/-- A cold start begins phase 1. -/
theorem coldBegin_pkg {s : State} (hoff : s.pkg.powered = false) :
    (coldBegin s).pkg = { s.pkg with powered := true, cold := true, phase := 1 } := by
  have hrings (t : State) : (each allRings (fun r s => resumeRing s r) t).pkg = t.pkg :=
    each_rel (R := fun t u => u.pkg = t.pkg) (fun _ => rfl) (fun htu huv => huv.trans htu) (f := fun r s => resumeRing s r)
      (fun r t => resumeRing_pkg t r) allRings t
  have hfull (t : State) : (checkFull t).pkg = t.pkg := by rw [(checkFull_frame t).1]
  simp only [coldBegin, hoff, Bool.false_eq_true, if_false]
  rw [hfull, hrings]

/-- A powered device in a start that nothing holds. -/
def Starting (s : State) : Prop :=
  s.pkg.powered = true ∧ s.pkg.ready = false ∧ s.rst.running = [] ∧ s.pkg.recovery = false ∧ s.pkg.hold = false ∧ s.pkg.testMode = false

section
variable {s : State}

/-- The phase of a start that nothing holds ends as its number says. -/
theorem phaseEnds_of_starting (hstart : Starting s) (r : PhaseReport) : (s.pkg.phase = 1 → phaseEnds s r = { s with pkg := { s.pkg with phase := 2 } })
    ∧ (s.pkg.phase = 2 → phaseEnds s r = latchStraps s r) ∧ (s.pkg.phase = 3 → phaseEnds s r = bootImage s)
    ∧ (s.pkg.phase = 4 → phaseEnds s r = { restoreCold s with pkg := { (restoreCold s).pkg with phase := (restoreCold s).pkg.phase + 1 } })
    ∧ (s.pkg.phase = 10 → phaseEnds s r = becomeReady s) := by
  obtain ⟨hpowered, hready, hrunning, hrecovery, hhold, htest⟩ := hstart
  have hgoes (n : Nat) : ¬ ((!s.pkg.powered) = true ∨ s.pkg.ready = true ∨ (!s.rst.running.isEmpty) = true ∨ s.pkg.recovery = true
      ∨ s.pkg.hold = true ∨ (s.pkg.testMode = true ∧ 3 ≤ n)) := by
    simp [hpowered, hready, hrunning, hrecovery, hhold, htest]
  refine ⟨fun h => ?_, fun h => ?_, fun h => ?_, fun h => ?_, fun h => ?_⟩ <;> simp only [phaseEnds, hgoes, if_false, h, Nat.reduceAdd]

theorem latchStraps_of_high (hhigh : s.pkg.resetLow = false) (r : PhaseReport) : latchStraps s r =
    { s with pkg := { s.pkg with addr := r.addr % 16, testMode := r.testMode, phase := 3 } } := by
  simp only [latchStraps, hhigh, Bool.false_eq_true, if_false]

theorem bootImage_of_good (hgood : imageCheck s = 0) : bootImage s =
    { s with sec := { s.sec with running := s.pkg.flash.image }, pkg := { s.pkg with phase := 4, rcvState := 0 } } := by
  simp only [bootImage, hgood, ne_eq, not_true_eq_false, if_false]

theorem bootImage_of_bad (hbad : imageCheck s ≠ 0) : bootImage s = enterRecovery s := by
  simp only [bootImage, ne_eq, hbad, not_false_eq_true, if_true]

/-- Phase 4 of a cold start sets BELL to the checkpoint plus 2^30. -/
theorem restoreCold_of_cold (hcold : s.pkg.cold = true) : (restoreCold s).time.bell = s.pkg.flash.bell + word (2 ^ 30)
    ∧ (restoreCold s).time.powered = s.pkg.flash.powered + s.time.powered
    ∧ (restoreCold s).pkg.flash.bell = s.pkg.flash.bell + word (2 ^ 30) ∧ (restoreCold s).pkg.phase = s.pkg.phase := by
  simp only [restoreCold, hcold, Bool.not_true, Bool.false_eq_true, if_false]
  exact ⟨rfl, rfl, rfl, rfl⟩

theorem phaseOverrun_of_starting (hstart : Starting s) (hhigh : s.pkg.resetLow = false) : phaseOverrun s = beginDevice s .device 4 none false := by
  obtain ⟨hpowered, hready, hrunning, hrecovery, hhold, -⟩ := hstart
  refine if_neg ?_
  simp [hpowered, hready, hrunning, hrecovery, hhold, hhigh]

end

/-- Settles O56: each clause is one phase of a start, by its number. -/
theorem startUpGoesPhaseByPhase : Obligations.StartUpGoesPhaseByPhase := by
  unfold Obligations.StartUpGoesPhaseByPhase
  intro s r
  refine ⟨fun hoff => ⟨coldBegin s, .of_exec_eq_done (exec_coldStart s), coldBegin_pkg hoff⟩,
    fun hpowered hready hrunning hrecovery hhold htest => ?_,
    fun exceeds hpowered => ⟨unpowered s exceeds, .of_exec_eq_done ?lost, rfl, rfl, rfl, rfl⟩⟩
  case lost => rw [exec_inputOutOfRange, hpowered, if_pos rfl]
  have hstart : Starting s := ⟨hpowered, hready, hrunning, hrecovery, hhold, htest⟩
  obtain ⟨hpower, hstraps, himage, hcheckpoint, hlast⟩ := phaseEnds_of_starting hstart r
  refine ⟨fun h1 => .of_exec_eq_done ?power, fun h2 hhigh => .of_exec_eq_done ?straps, fun h3 hgood => .of_exec_eq_done ?boots,
    fun h3 hbad => ⟨enterRecovery s, .of_exec_eq_done ?recovers, rfl, rfl⟩, fun h4 hcold => ?restores,
    fun h10 => ⟨becomeReady s, .of_exec_eq_done ?ready, rfl, rfl⟩, fun hhigh => .of_exec_eq_done ?overrun⟩
  case power => rw [exec_startupPhaseEnd, hpower h1]
  case straps => rw [exec_startupPhaseEnd, hstraps h2, latchStraps_of_high hhigh]
  case boots => rw [exec_startupPhaseEnd, himage h3, bootImage_of_good hgood]
  case recovers => rw [exec_startupPhaseEnd, himage h3, bootImage_of_bad hbad]
  case restores =>
    obtain ⟨hbell, hpoweredOn, hflash, hsame⟩ := restoreCold_of_cold hcold
    refine ⟨{ restoreCold s with pkg := { (restoreCold s).pkg with phase := (restoreCold s).pkg.phase + 1 } }, .of_exec_eq_done ?_, hbell, hpoweredOn,
      hflash, ?_⟩
    · rw [exec_startupPhaseEnd, hcheckpoint h4]
    · rw [hsame, h4]
  case ready => rw [exec_startupPhaseEnd, hlast h10]
  case overrun => rw [exec_startupPhaseOverrun, phaseOverrun_of_starting hstart hhigh]

/-! ### RESET_N -/

theorem exec_resetN (us : Nat) (s : State) : exec (.resetN us) s = done s (resetPin s us) := rfl
theorem exec_resetNRelease (s : State) : exec .resetNRelease s = done s (resetRelease s) := rfl

/-- A claim that is dropped leaves the package and the time. -/
theorem dropClaim_frame (s : State) (resource object : Nat) : (dropClaim s resource object).pkg = s.pkg ∧ (dropClaim s resource object).time = s.time := by
  unfold dropClaim
  split <;> exact ⟨rfl, rfl⟩

theorem releaseClaims_frame (s : State) (p : ClaimRec → Bool) : (releaseClaims s p).pkg = s.pkg ∧ (releaseClaims s p).time = s.time :=
  each_rel (R := fun t u => u.pkg = t.pkg ∧ u.time = t.time) (fun _ => ⟨rfl, rfl⟩) (fun htu huv => ⟨huv.1.trans htu.1, huv.2.trans htu.2⟩)
    (f := fun (r : ClaimRec) t => dropClaim t r.resource r.object) (fun r t => dropClaim_frame t r.resource r.object) ((allClaims s).filter p) s

/-- The reset of the pin, held while the pin stays low. -/
def pinRun (s : State) : ResetRun := { scope := .device, cause := 2, begun := s.time.bell, counted := s.time.bell, held := true }

/-- The pin's reset is counted and the device has its reset asserted. -/
def pinAsserted (s : State) : State :=
  assertDevice (updPower { s with rst := { s.rst with running := [pinRun s] } }
    (fun p => { p with life := { p.life with deviceResets := up32 p.life.deviceResets } }))

theorem pinAsserted_frame (v : State) : (pinAsserted v).pkg.resetLow = v.pkg.resetLow ∧ (pinAsserted v).pkg.ready = false ∧ (pinAsserted v).tier.mem = []
    ∧ (pinAsserted v).rst.running = [pinRun v] := ⟨rfl, rfl, rfl, rfl⟩

section
variable {s : State} {us : Nat}

theorem resetPin_of_short (hshort : us < 10) : resetPin s us = s := if_pos (.inl hshort)

/-- In a start past phase 2 the pin brings the device back to the end of phase 2. -/
theorem resetPin_of_start (hlong : 10 ≤ us) (hpowered : s.pkg.powered = true) (hhigh : s.pkg.resetLow = false) (hready : s.pkg.ready = false)
    (hrunning : s.rst.running = []) (hphase : 2 < s.pkg.phase) :
    resetPin s us = { s with pkg := { s.pkg with resetLow := true, phase := 2, hold := true, recovery := false, failChk := 0 } } := by
  have hgoes : ¬ (us < 10 ∨ (!s.pkg.powered) = true ∨ s.pkg.resetLow = true) := by simp [hlong, hpowered, hhigh]
  simp only [resetPin, hgoes, if_false, hready, hrunning, Bool.not_false, List.isEmpty_nil, and_self, if_true,
    Nat.not_le.mpr hphase]

/-- A ready device is reset by the pin, once the reset is recorded and the claims are released. -/
theorem resetPin_of_ready (hlong : 10 ≤ us) (hpowered : s.pkg.powered = true) (hhigh : s.pkg.resetLow = false) (hready : s.pkg.ready = true) :
    ∃ v, v.pkg = { s.pkg with resetLow := true } ∧ v.time = s.time ∧ resetPin s us = pinAsserted v := by
  have hgoes : ¬ (us < 10 ∨ (!s.pkg.powered) = true ∨ s.pkg.resetLow = true) := by simp [hlong, hpowered, hhigh]
  have hnot : ¬ ((!s.pkg.ready) = true ∧ s.rst.running.isEmpty = true) := by simp [hready]
  let begun := resetBegin { s with pkg := { s.pkg with resetLow := true }, rst := { s.rst with dseq := s.rst.dseq + 1 } } .device 2 (s.rst.dseq + 1) 0
  obtain ⟨hpkg, htime⟩ := releaseClaims_frame begun (fun _ => true)
  refine ⟨releaseClaims begun (fun _ => true), hpkg, htime, ?_⟩
  rw [resetPin, if_neg hgoes]
  exact if_neg hnot

theorem resetRelease_of_low (hlow : s.pkg.resetLow = true) (hidle : s.pkg.flash.busy = false) : resetRelease s =
    releaseHeldResets { s with pkg := { s.pkg with resetLow := false, hold := false, phase := if s.pkg.hold then 3 else s.pkg.phase
                                                   tap := if 1 ≤ s.pkg.tap ∧ s.pkg.tap ≤ 3 then 0 else s.pkg.tap } } := by
  simp only [resetRelease, hlow, hidle, Bool.not_true, Bool.false_eq_true, if_false]

theorem resetRelease_of_high (hhigh : s.pkg.resetLow = false) : resetRelease s = s := by
  simp only [resetRelease, hhigh, Bool.not_false, if_true]

end

/-! ### The orderly flush, power cycles and the flash -/

theorem exec_orderlyFlushAbandoned (s : State) : exec .orderlyFlushAbandoned s = done s (flushAbandoned s) := rfl
theorem exec_pwrcycReq (s : State) : exec .pwrcycReq s = done s (powerDue s) := rfl
theorem exec_pwrcycTimeout (s : State) : exec .pwrcycTimeout s = done s (powerTimeout s) := rfl
theorem exec_flashOpDone (s : State) : exec .flashOpDone s = done s (flashDone s) := rfl

section
variable {s : State} {r : ResetRun} {b : Word}

/-- The flush of a device reset that is 10 s old is abandoned. -/
theorem flushAbandoned_of_device (hflush : s.rst.flushing = some b) (hold : 10000000 ≤ since s b) (hrunning : s.rst.running = [r])
    (hdevice : r.scope = .device) :
    flushAbandoned s = assertDevice { s with rst := { s.rst with flushing := none, running := [{ r with counted := s.time.bell }] } } := by
  have hnot : ([{ r with counted := s.time.bell }].any (fun r => r.scope == .power)) = false := by simp [hdevice]
  simp only [flushAbandoned, hflush, Nat.not_lt.mpr hold, if_false, hrunning, List.map_cons, List.map_nil, hnot, Bool.false_eq_true]

/-- A power cycle that need not be flushed asks for the loss of the input. -/
theorem powerDue_of_power (hrunning : s.rst.running = [r]) (hpower : r.scope = .power) (horderly : r.orderly = false)
    (hflush : s.rst.flushing = none) : powerDue s = askPower s 2 := by
  have hfound : s.rst.running.find? (fun r => r.scope == .power || (r.scope == .device && overrun s r)) = some r := by
    rw [hrunning]; simp [hpower]
  simp only [powerDue, hfound, hflush, hpower, horderly, Option.isSome_none, Bool.false_eq_true, if_false, and_false]

/-- A request for a power cycle is counted, up to two without READY. -/
theorem askPower_of_idle (hreq : s.pkg.pwrcycReq = none) (hhalted : s.pkg.halted = false) (cause : Nat) : askPower s cause =
    if 2 ≤ s.pkg.flash.pcyc then { s with pkg := { s.pkg with halted := true } }
    else resetRecord { s with pkg := { s.pkg with pwrcycReq := some s.time.bell, flash := { s.pkg.flash with pcyc := s.pkg.flash.pcyc + 1 } } }
      0x1406 (word cause) (word (s.pkg.flash.pcyc + 1)) 0 0 := by
  simp only [askPower, hreq, hhalted, Option.isSome_none, Bool.or_self, Bool.false_eq_true, if_false]

theorem powerTimeout_of_old (hreq : s.pkg.pwrcycReq = some b) (hold : 10000000 ≤ since s b) : powerTimeout s =
    resetRecord { s with pkg := { s.pkg with pwrcycReq := none, halted := true } } 0x1406 3 (word s.pkg.flash.pcyc) 0 0 := by
  simp only [powerTimeout, hreq, Nat.not_lt.mpr hold, if_false]

theorem flashDone_of_busy (hbusy : s.pkg.flash.busy = true) (hroll : s.sec.roll = none) (hrecovery : s.pkg.recovery = false)
    (hhigh : s.pkg.resetLow = false) :
    flashDone s = releaseHeldResets { s with pkg := { s.pkg with flash := { s.pkg.flash with busy := false } } } := by
  have hgoes : ¬ ((!s.pkg.flash.busy) = true ∨ (s.sec.roll.any (·.writing)) = true ∨ (s.pkg.recovery = true ∧ s.pkg.rcvState = 3)) := by
    simp [hbusy, hroll, hrecovery]
  simp only [flashDone, hgoes, if_false, hhigh, Bool.false_eq_true]

end

/-- Settles O57: each clause is one branch of the reset pin, of a flush's end, of a power cycle or of a flash operation's end. -/
theorem resetPinAndPowerCycles : Obligations.ResetPinAndPowerCycles := by
  unfold Obligations.ResetPinAndPowerCycles
  refine ⟨fun us s => ⟨fun hshort => .of_unchanged (exec_resetN us s) (resetPin_of_short hshort),
      fun hlong hpowered hhigh hready hrunning hphase => .of_exec_eq_done ?start,
      fun hlong hpowered hhigh hready => ?ready,
      fun hlow hidle => .of_exec_eq_done ?rises, fun hhigh => .of_unchanged (exec_resetNRelease s) (resetRelease_of_high hhigh)⟩,
    fun s r b => ⟨fun hflush hold hrunning hdevice => .of_exec_eq_done ?abandoned,
      fun hrunning hpower horderly hflush hreq hhalted => ⟨fun hfew => ?asks, fun hmany => .of_exec_eq_done ?halts⟩,
      fun hreq hold => ?timesOut, fun hbusy hroll hrecovery hhigh => .of_exec_eq_done ?flash⟩⟩
  case start => rw [exec_resetN, resetPin_of_start hlong hpowered hhigh hready hrunning hphase]
  case ready =>
    obtain ⟨v, hpkg, htime, hv⟩ := resetPin_of_ready hlong hpowered hhigh hready
    obtain ⟨hlow, hnot, hmem, hrun⟩ := pinAsserted_frame v
    refine ⟨pinAsserted v, .of_exec_eq_done (by rw [exec_resetN, hv]), by rw [hlow, hpkg], hnot, hmem, ?_⟩
    rw [hrun, pinRun, htime]
  case rises => rw [exec_resetNRelease, resetRelease_of_low hlow hidle]
  case abandoned => rw [exec_orderlyFlushAbandoned, flushAbandoned_of_device hflush hold hrunning hdevice]
  case asks =>
    have hdue := (powerDue_of_power hrunning hpower horderly hflush).trans ((askPower_of_idle hreq hhalted 2).trans (if_neg (Nat.not_le.mpr hfew)))
    exact ⟨_, .of_exec_eq_done ((exec_pwrcycReq s).trans (congrArg (done s) hdue)), rfl, rfl⟩
  case halts => rw [exec_pwrcycReq, powerDue_of_power hrunning hpower horderly hflush, askPower_of_idle hreq hhalted, if_pos hmany]
  case timesOut =>
    exact ⟨_, .of_exec_eq_done ((exec_pwrcycTimeout s).trans (congrArg (done s) (powerTimeout_of_old hreq hold))), rfl, rfl⟩
  case flash => rw [exec_flashOpDone, flashDone_of_busy hbusy hroll hrecovery hhigh]

end Sys2Proof.Machine

/-! ## Trips, resets and firmware -/

namespace Sys2Proof.Machine

/-! ### Trips and watchdogs -/

theorem exec_thermalTrip (place : ThermalPlace) (temp : Nat) (s : State) : exec (.thermalTrip place temp) s = done s (tripSet s place temp) := rfl
theorem exec_tripCleared (q : Nat) (s : State) : exec (.tripCleared q) s = done s (tripCleared s q) := rfl
theorem exec_watchdogExpiry (q : Nat) (s : State) :
    exec (.watchdogExpiry q) s = done s (if q < 4 then beginReset s (.quarter q) 5 none false else s) := rfl

/-- With no reset in progress a quarter's reset begins. -/
theorem beginReset_of_quarter {s : State} (hrunning : s.rst.running = []) (q cause : Nat) (unit : Option HangUnit) (held : Bool) :
    beginReset s (.quarter q) cause unit held = beginQuarter s q cause unit held := by
  simp only [beginReset, suspended, hrunning, List.any_nil, Bool.false_eq_true, if_false]

/-- With no reset in progress an engine's reset begins. -/
theorem beginReset_of_engine {s : State} (hrunning : s.rst.running = []) (q : Nat) (k : EngineKind) (i cause : Nat) (unit : Option HangUnit)
    (held : Bool) : beginReset s (.engine q k i) cause unit held = beginEngine s q k i cause unit := by
  simp only [beginReset, suspended, hrunning, List.any_nil, Bool.false_eq_true, if_false]

/-- A trip is noted, counted and recorded. -/
def tripNoted (s : State) (place : ThermalPlace) (temp : Nat) : State :=
  powerRecord (updPower s (fun p => { p with trip := p.trip ++ [place], statusTemp := p.statusTemp ||| 0x80#8
                                             life := { p.life with trips := up32 p.life.trips } }))
    0x1606 (placeWord place) (word temp) (word (placeQuarter place)) 0

section
variable {s : State} {place : ThermalPlace} {temp : Nat}

/-- A place that comes to its trip level resets its quarter. -/
theorem tripSet_of_trip (hhot : limitOf place 105 ≤ temp) (hnew : place ∉ s.pwr.trip) (hrunning : s.rst.running = []) :
    tripSet s place temp = beginQuarter (tripNoted s place temp) (placeQuarter place) 3 none true := by
  have hgoes : ¬ (temp < limitOf place 105 ∨ s.pwr.trip.contains place = true) := by simp [hhot, hnew]
  have hnone : (tripNoted s place temp).rst.running = [] := hrunning
  have hfree : ((tripNoted s place temp).rst.running.any (fun r => r.scope == .quarter (placeQuarter place))) = false := by rw [hnone]; rfl
  rw [tripSet, if_neg hgoes]
  refine (if_neg ?_).trans (beginReset_of_quarter hnone ..)
  exact ne_true_of_eq_false hfree

theorem tripSet_of_cool (hcool : temp < limitOf place 105 ∨ place ∈ s.pwr.trip) : tripSet s place temp = s := by
  refine if_pos ?_
  simpa using hcool

theorem tripCleared_of_tripped {q : Nat} (htripped : s.pwr.trip.any (fun p => placeQuarter p == q) = true) : tripCleared s q = { s with
    pwr := { s.pwr with trip := s.pwr.trip.filter (fun x => placeQuarter x != q) }
    rst := { s.rst with running := adjustWhere s.rst.running (fun r => r.scope == .quarter q) (fun r => { r with held := false, counted := s.time.bell }) } } := by
  simp only [tripCleared, htripped, Bool.not_true, Bool.false_eq_true, if_false, updPower]

end

/-- Settles O58: each clause is one branch of a trip, of its end or of a watchdog's expiry. -/
theorem tripsResetTheirQuarter : Obligations.TripsResetTheirQuarter := by
  unfold Obligations.TripsResetTheirQuarter
  intro place temp q s
  refine ⟨fun hhot hnew hrunning => .of_exec_eq_done ?trips, fun hcool => .of_unchanged (exec_thermalTrip ..) (tripSet_of_cool hcool),
    fun htripped => .of_exec_eq_done ?clears, fun hq hrunning => .of_exec_eq_done ?watchdog⟩
  case trips => rw [exec_thermalTrip, tripSet_of_trip hhot hnew hrunning]; rfl
  case clears => rw [exec_tripCleared, tripCleared_of_tripped htripped]
  case watchdog => rw [exec_watchdogExpiry, if_pos hq, beginReset_of_quarter hrunning]

/-! ### Resets begin, end and escalate -/

theorem exec_hangDetected (u : HangUnit) (s : State) : exec (.hangDetected u) s = done s (hang s u u.threshold) := rfl
theorem exec_coreHealthFail (q core : Nat) (s : State) :
    exec (.coreHealthFail q core) s = done s (coreFails s q core (some (.controlCore q core))) := rfl
theorem exec_coreHealthCheckPassed (q core : Nat) (s : State) : exec (.coreHealthCheckPassed q core) s = done s (corePasses s q core) := rfl
theorem exec_resetEnd (x : ResetScope) (failed : List Nat) (s : State) : exec (.resetEnd x failed) s = done s (resetEnds s x failed) := rfl
theorem exec_escalated (x : ResetScope) (s : State) : exec (.escalated x) s = done s (escalate s x) := rfl

/-- A hang is recorded, and its detector starts again. -/
def hangNoted (s : State) (u : HangUnit) (stalled : Nat) : State :=
  let t := resetRecord s 0x1401 (pack [(16, unitNumber s u), (8, u.kind)]) (word u.threshold) (progressOf s u) (word stalled)
  { t with rst := { t.rst with detectors := t.rst.detectors.filter (fun d => d.unit != u) } }

section
variable {s : State} {q core : Nat}

/-- An engine that hangs for the first time is reset. -/
theorem hang_of_engine {k : EngineKind} {i : Nat} (hhangs : hangable s (.engine q k i) = true) (hended : s.rst.ended = [])
    (hrunning : s.rst.running = []) (stalled : Nat) : hang s (.engine q k i) stalled =
      beginEngine (hangNoted s (.engine q k i) stalled) q k i 1 (some (.engine q k i)) := by
  simp only [hang, hhangs, Bool.not_true, Bool.false_eq_true, if_false, hangScope, resetRecord_rst, hended, List.any_nil, hangNoted]
  rw [beginReset_of_engine]
  exact hrunning

/-- What a core that fails its check does while its quarter runs and none of its cores is halted or has failed before. -/
theorem coreFails_of_active {pos : Nat} (hruns : quarterInReset s q = false) (hhalted : (coresOf s q).halted = [])
    (hfirst : core ∉ (coresOf s q).failed) (hpos : positionOf (coresOf s q) core = some pos) (unit : Option HangUnit) :
    (∀ sp, (coresOf s q).spare = some sp → coreFails s q core unit =
      claimSpare (updCores (releaseClaims (abortWaiting s (fun c => servingCore s c.iss.fn == (q, core))) (fun r => r.quarter == q && r.core == core)) q
        (fun k => { k with active := modNth k.active pos (fun _ => sp), spare := none, failed := k.failed ++ [core] })) q sp)
    ∧ ((coresOf s q).spare = none → coreFails s q core unit = beginReset s (.quarter q) 1 unit false) := by
  have hgoes : (quarterInReset s q || (coresOf s q).halted.any (fun h => h.1 == core) || (coresOf s q).failed.contains core) = false := by
    simp [hruns, hhalted, hfirst]
  constructor
  · intro sp hspare
    simp only [coreFails, hgoes, Bool.false_eq_true, if_false, hpos, hspare]
  · intro hspare
    simp only [coreFails, hgoes, Bool.false_eq_true, if_false, hpos, hspare]

/-- A core that failed and passes becomes the spare where there is none. -/
theorem corePasses_of_failed (hfailed : core ∈ (coresOf s q).failed) (hhalted : (coresOf s q).halted = []) : corePasses s q core =
    let u := updCores s q (fun k => { k with
      spare := if k.spare.isNone then some core else k.spare, failed := k.failed.filter (· != core), halted := k.halted.filter (fun h => h.1 != core) })
    if (coresOf s q).spare = none then freeSpare u q else u := by
  have hgoes : (!(coresOf s q).failed.contains core) = false := by simpa using hfailed
  have hnone : (coresOf s q).halted.find? (fun h => h.1 == core) = none := by rw [hhalted]; rfl
  simp only [corePasses, hgoes, Bool.false_eq_true, if_false, hnone, Option.isNone_iff_eq_none]

end

section
variable {s : State} {x : ResetScope} {r : ResetRun}

/-- A reset that is not held and within its bound ends, as its scope says. -/
theorem resetEnds_of_run (hrun : s.rst.running.find? (fun r => r.scope == x) = some r) (hheld : r.held = false)
    (hbound : since s r.counted ≤ r.scope.bound) (hflush : s.rst.flushing = none) (failed : List Nat) :
    (∀ qp, x = .context qp → resetEnds s x failed = runEngines (endRun s r 0))
    ∧ (∀ q k i, x = .engine q k i → resetEnds s x failed = settleAll (endEngine s r q k i failed))
    ∧ (∀ q, x = .quarter q → resetEnds s x failed = settleAll (endQuarter s r q failed))
    ∧ (x = .device → s.pkg.halted = false → resetEnds s x failed = endDevice s r failed) := by
  have hgoes : (r.held || overrun s r || s.rst.flushing.isSome) = false := by simp [hheld, hflush, overrun, hbound]
  refine ⟨fun qp hx => ?_, fun q k i hx => ?_, fun q hx => ?_, fun hx hhalted => ?_⟩ <;> subst hx
  · simp only [resetEnds, hrun, hgoes, Bool.false_eq_true, if_false]
  · simp only [resetEnds, hrun, hgoes, Bool.false_eq_true, if_false]
  · simp only [resetEnds, hrun, hgoes, Bool.false_eq_true, if_false]
  · simp only [resetEnds, hrun, hgoes, Bool.false_eq_true, if_false, hhalted]

/-- A device reset that ends with an image that verifies leaves the device ready. -/
theorem endDevice_of_good (hgood : imageCheck s = 0) (failed : List Nat) :
    (endDevice s r failed).pkg.ready = true ∧ (endDevice s r failed).pkg.flash.pcyc = 0 := by
  simp only [endDevice, hgood, ne_eq, not_true_eq_false, if_false]
  exact ⟨rfl, rfl⟩

theorem resetEnds_of_none (hnone : s.rst.running = []) (failed : List Nat) : resetEnds s x failed = s := by
  simp only [resetEnds, hnone, List.find?_nil]

theorem escalate_of_none (hnone : s.rst.running = []) : escalate s x = s := by
  simp only [escalate, hnone, List.find?_nil]

/-- A quarter's reset that has outlasted its bound goes on as a device reset. -/
theorem escalate_of_quarter {q : Nat} (hrun : s.rst.running.find? (fun r => r.scope == .quarter q) = some r) (hheld : r.held = false)
    (hover : r.scope.bound < since s r.counted) :
    ∃ t, escalate s (.quarter q) = beginDevice t .device 4 r.unit false ∧ t.home = s.home ∧ t.eng = s.eng := by
  have hgoes : (!overrun s r || decide (4 < (ResetScope.quarter q).level)) = false := by
    simp [overrun, hheld, hover, ResetScope.level]
  simp only [escalate, hrun, hgoes, Bool.false_eq_true, if_false, nextScope, reduceCtorEq]
  exact ⟨_, rfl, rfl, rfl⟩

end

/-- Settles O59: each clause is one branch of a hang, of a core's check, or of a reset's end or escalation. -/
theorem resetsBeginAndEnd : Obligations.ResetsBeginAndEnd := by
  unfold Obligations.ResetsBeginAndEnd
  intro q core pos sp x failed r s
  refine ⟨fun k i hhangs hended hrunning => .of_exec_eq_done ?hangs,
    fun hruns hhalted hfirst hpos hspare hrunning => .of_exec_eq_done ?noSpare,
    fun hruns hhalted hfirst hpos hspare => .of_exec_eq_done ?spare, fun hfailed hhalted => .of_exec_eq_done ?passes,
    fun hrun hheld hbound hflush => ?ends, fun hrun hheld hover => ?escalates,
    fun hnone => ⟨.of_unchanged (exec_resetEnd ..) (resetEnds_of_none hnone failed), .of_unchanged (exec_escalated ..) (escalate_of_none hnone)⟩⟩
  case hangs => rw [exec_hangDetected, hang_of_engine hhangs hended hrunning]; rfl
  case noSpare => rw [exec_coreHealthFail, (coreFails_of_active hruns hhalted hfirst hpos _).2 hspare, beginReset_of_quarter hrunning]
  case spare => rw [exec_coreHealthFail, (coreFails_of_active hruns hhalted hfirst hpos _).1 sp hspare]
  case passes => rw [exec_coreHealthCheckPassed, corePasses_of_failed hfailed hhalted]
  case ends =>
    obtain ⟨hcontext, hengine, hquarter, hdevice⟩ := resetEnds_of_run hrun hheld hbound hflush failed
    refine ⟨fun qp hx => .of_exec_eq_done ?_, fun q k i hx => .of_exec_eq_done ?_, fun hx => .of_exec_eq_done ?_, fun hx hhalted hgood =>
      ⟨endDevice s r failed, .of_exec_eq_done ?_, endDevice_of_good hgood failed⟩⟩
    · rw [exec_resetEnd, hcontext qp hx]
    · rw [exec_resetEnd, hengine q k i hx]
    · rw [exec_resetEnd, hquarter q hx]
    · rw [exec_resetEnd, hdevice hx hhalted]
  case escalates =>
    obtain ⟨t, ht, hhome, heng⟩ := escalate_of_quarter hrun hheld hover
    exact ⟨t, .of_exec_eq_done (by rw [exec_escalated, ht]), hhome, heng⟩

/-! ### Firmware and keys -/

theorem exec_fwCoreCheck (q core : Nat) (passed : Bool) (s : State) :
    exec (.fwCoreCheck q core passed) s = done s (coreChecked s q core passed) := rfl
theorem exec_memoryKeyUnitDone (comp : Nat) (s : State) : exec (.memoryKeyUnitDone comp) s = done s (settleAll (unitRotated s comp)) := rfl

section
variable {s : State} {q core comp : Nat} {r : Roll} {m : MemRotation}

/-- The check of the core that a roll is at decides whether the roll goes on. -/
theorem coreChecked_of_roll (hroll : s.sec.roll = some r) (hwrites : r.writing = false) (hq : rollQuarter r = q) (hcore : rollCore s r = core)
    (hstaged : s.sec.staged.isSome = true) (hstep : r.steps = 7 ∨ r.carrying.isSome = true) (hrunning : s.rst.running = []) (passed : Bool) :
    coreChecked s q core passed = if passed then corePassed s r core else coreFailed s r core := by
  have hthere : s.sec.staged.isNone = false := by simpa using hstaged
  have hready : ¬ (r.steps < 7 ∧ passed = true ∧ r.carrying.isNone = true) := by
    rintro ⟨hfew, -, hnone⟩
    rcases hstep with hlast | hcarries
    · omega
    · simp [Option.isNone_iff_eq_none.mp hnone] at hcarries
  have hgoes : ¬ (r.writing = true ∨ rollQuarter r ≠ q ∨ rollCore s r ≠ core ∨ s.sec.staged.isNone = true
      ∨ (r.steps < 7 ∧ passed = true ∧ r.carrying.isNone = true) ∨ (s.rst.running.any (fun x => decide (3 ≤ x.scope.level))) = true) := by
    simp only [hwrites, hq, hcore, hthere, hready, hrunning, List.any_nil, Bool.false_eq_true, ne_eq, not_true_eq_false, or_self, not_false_eq_true]
  simp only [coreChecked, hroll, hgoes, if_false]

/-- The flash write of a recovery restarts the start with the new image. -/
theorem flashWritten_of_recovery (hroll : s.sec.roll = none) (hrecovery : s.pkg.recovery = true) (hstate : s.pkg.rcvState = 3) :
    flashWritten s = { s with pkg := { s.pkg with
      recovery := false, failChk := 0, rcvState := 4, rcvProgress := s.pkg.rcvImage.len / 2 ^ 20, phase := 3
      flash := { s.pkg.flash with image := s.pkg.rcvImage, busy := false } } } := by
  have hgoes : ¬ ((!s.pkg.recovery) = true ∨ s.pkg.rcvState ≠ 3) := by simp [hrecovery, hstate]
  simp only [flashWritten, hroll, hgoes, if_false]

/-- With no command in its mailboxes a device has no drain to end. -/
theorem endDrains_of_no_cmds (hcmds : s.mb.cmds = []) (p : DrainOn → Bool) (status : Nat) (bell : Word) (result : List Word) :
    endDrains s p status bell result = s := by
  simp only [endDrains, hcmds, List.filter_nil, List.map_nil, each, List.foldl_nil]

/-- A rotation past its last unit: the key moves on by one generation. -/
def keyMoved (s : State) (comp : Nat) : State :=
  { s with sec := { s.sec with rotations := s.sec.rotations.filter (fun x => x.comp != comp)
                               memKeys := Tab.upd s.sec.memKeys comp (s.sec.era, 0) (fun k => (k.1, k.2 + 1)) } }

theorem rotationEnd_of_last (hrot : s.sec.rotations.find? (fun m => m.comp == comp) = some m) (hlast : rotationRegion s m = none)
    (hcmds : s.mb.cmds = []) : rotationEnd s comp =
      trustRecord (keyMoved s comp) 0x1507 (rotateOrigin (keyMoved s comp) 2 comp).1 (rotateOrigin (keyMoved s comp) 2 comp).2 2 (word comp)
        (word m.units) 0 := by
  simp only [rotationEnd, hrot, hlast, Option.isSome_none, Bool.false_eq_true, if_false, keyMoved]
  rw [endDrains_of_no_cmds]
  exact hcmds

/-- A rotation that has a region left goes on. -/
theorem rotationEnd_of_more {g : Region} (hrot : s.sec.rotations.find? (fun m => m.comp == comp) = some m) (hmore : rotationRegion s m = some g) :
    rotationEnd s comp = s := by
  simp only [rotationEnd, hrot, hmore, Option.isSome_some, if_true]

/-- The cursor of a rotation after a unit of its region that is not the last. -/
def cursorMoved (g : Region) (unit : Nat) (m : MemRotation) : MemRotation :=
  if unit + 1 < g.units then { m with handle := g.handle, unit := unit + 1, units := m.units + 1 }
  else { m with handle := g.handle + 1, unit := 0, units := m.units + 1 }

/-- A near unit that is not under drain counts as rewritten. -/
theorem unitRotated_of_near {g : Region} {a : Nat} (hrot : s.sec.rotations.find? (fun m => m.comp == comp) = some m)
    (hregion : rotationRegion s m = some g) (hhandle : g.handle = m.handle) (hplace : placeOf g (2 ^ 21 * m.unit) = some a)
    (hnear : isTray a = false) (hdrains : s.tier.drains = []) :
    unitRotated s comp = rotationEnd (updRotation s comp (cursorMoved g m.unit)) comp := by
  simp only [unitRotated, hrot, hregion, hhandle, if_true, hplace, hnear, hdrains, List.any_nil, Bool.false_eq_true, if_false]
  rw [← hhandle]
  rfl

theorem find?_updRotation {f : MemRotation → MemRotation} (hkeeps : ∀ m, (f m).comp = m.comp) :
    (updRotation s comp f).sec.rotations.find? (fun m => m.comp == comp) = (s.sec.rotations.find? (fun m => m.comp == comp)).map f :=
  find?_adjustWhere (fun m hm => by rw [hkeeps m]; exact hm) _

end

/-- Settles O60: the roll and the recovery by their branches, a key's rotation by its cursor. -/
theorem firmwareAndKeysGoStepByStep : Obligations.FirmwareAndKeysGoStepByStep := by
  unfold Obligations.FirmwareAndKeysGoStepByStep
  intro q core comp s r m g
  refine ⟨fun hroll hwrites hq hcore hstaged hstep hrunning => ⟨.of_exec_eq_done ?passed, .of_exec_eq_done ?failed⟩,
    fun hroll hrecovery hstate => .of_exec_eq_done ?recovery, fun hrot hlast hcmds => ?last,
    fun hrot hregion hhandle hunits hplace hdrains => ?more⟩
  case passed => rw [exec_fwCoreCheck, coreChecked_of_roll hroll hwrites hq hcore hstaged hstep hrunning, if_pos rfl]
  case failed => rw [exec_fwCoreCheck, coreChecked_of_roll hroll hwrites hq hcore hstaged hstep hrunning, if_neg Bool.false_ne_true]
  case recovery => rw [exec_fwFlashWriteDone, flashWritten_of_recovery hroll hrecovery hstate]
  case last =>
    have hunit : unitRotated s comp = rotationEnd s comp := by simp only [unitRotated, hrot, hlast]
    refine ⟨unitRotated s comp, (unitRotated s comp).led, .of_exec_eq_done (exec_memoryKeyUnitDone comp s), ?_, ?_⟩
    · rw [hunit, rotationEnd_of_last hrot hlast hcmds]; rfl
    · rw [hunit, rotationEnd_of_last hrot hlast hcmds]; rfl
  case more =>
    obtain ⟨a, hplace, hnear⟩ := hplace
    have hcursor : cursorMoved g m.unit m = { m with unit := m.unit + 1, units := m.units + 1 } := by
      rw [cursorMoved, if_pos hunits, hhandle]
    have hfound : (updRotation s comp (cursorMoved g m.unit)).sec.rotations.find? (fun m => m.comp == comp) =
        some { m with unit := m.unit + 1, units := m.units + 1 } := by
      rw [find?_updRotation (fun m => by unfold cursorMoved; split <;> rfl), hrot, Option.map_some, hcursor]
    have hmore : rotationRegion (updRotation s comp (cursorMoved g m.unit)) { m with unit := m.unit + 1, units := m.units + 1 } = some g := hregion
    have hunit := (unitRotated_of_near hrot hregion hhandle hplace hnear hdrains).trans (rotationEnd_of_more hfound hmore)
    exact ⟨updRotation s comp (cursorMoved g m.unit), .of_exec_eq_done (by rw [exec_memoryKeyUnitDone, hunit]), rfl, hfound⟩

end Sys2Proof.Machine

/-! ## The lines that a request changes -/

namespace Sys2Proof.Machine

/-! ### What a line reads -/

/-- The 64 bytes at a place, of what a view keeps: the line cache's, else memory's. -/
def View.lineBytes (v : View) (a : Nat) : List Byte :=
  match v.cache.find? (fun e => e.line == a / 64) with
  | some e => e.data
  | none => Memory.read v.mem a 64

theorem lineBytes_eq_view (s : State) (a : Nat) : lineBytes s a = s.view.lineBytes a := rfl

/-- Two states that keep the same view read the same lines. -/
theorem lineBytes_of_view_eq {s t : State} (h : t.view = s.view) (a : Nat) : lineBytes t a = lineBytes s a := by
  rw [lineBytes_eq_view, h, ← lineBytes_eq_view]

/-- A line that the cache holds reads its bytes there, and one that it lacks those of memory. -/
theorem lineBytes_of_cached {s : State} {a : Nat} {e : CacheLine} (h : cacheLine s (a / 64) = some e) : lineBytes s a = e.data := by
  simp only [lineBytes, h]

theorem lineBytes_of_uncached {s : State} {a : Nat} (h : cacheLine s (a / 64) = none) : lineBytes s a = Memory.read s.tier.mem a 64 := by
  simp only [lineBytes, h]

/-- A line reads alike in two states that agree on what the cache holds of it and on memory. -/
theorem lineBytes_congr {s t : State} {a : Nat} (hcache : cacheLine t (a / 64) = cacheLine s (a / 64)) (hmem : t.tier.mem = s.tier.mem) :
    lineBytes t a = lineBytes s a := by
  simp only [lineBytes, hcache, hmem]

/-! ### The line cache -/

/-- The lines of the cache after one of them is put at its front. -/
theorem find?_front (e : CacheLine) (l : List CacheLine) (n : Nat) :
    (e :: l.filter (fun x => x.line != e.line)).find? (fun x => x.line == n) = if e.line = n then some e else l.find? (fun x => x.line == n) := by
  by_cases h : e.line = n
  · simp [h]
  · have hkept : (fun x : CacheLine => decide ((x.line != e.line) = true ∧ (x.line == n) = true)) = fun x => x.line == n := by
      funext x
      by_cases hx : x.line = n
      · simp [hx, Ne.symm h]
      · simp [hx]
    rw [if_neg h, List.find?_cons_of_neg (by simpa using h), List.find?_filter, hkept]

theorem cacheLine_congr {s t : State} (h : t.tier.lineCache = s.tier.lineCache) (n : Nat) : cacheLine t n = cacheLine s n := by
  simp only [cacheLine, h]

/-- The line that a new one displaces is a matter of the line cache. -/
theorem displaced_congr {s t : State} (h : t.tier.lineCache = s.tier.lineCache) (q n : Nat) (inUse : Nat → Bool) :
    displaced t q n inUse = displaced s q n inUse := by
  simp only [displaced, cacheLine_congr h, h]

/-- Where a line has its way or its set has room, it displaces none, whatever is in use. -/
theorem displaced_eq_none_of {s : State} {q n : Nat} {inUse : Nat → Bool} (h : displaced s q n inUse = none) (inUse' : Nat → Bool) :
    displaced s q n inUse' = none := by
  unfold displaced at h ⊢
  split
  · rfl
  · rename_i habsent
    rw [if_neg habsent] at h
    dsimp only at h ⊢
    split
    · rfl
    · rename_i hfull
      rw [if_neg hfull] at h
      exact absurd h (by simp)

/-- A line that is displaced is one that the cache holds, in the place of a line that it does not hold. -/
theorem displaced_ne {s : State} {q n : Nat} {inUse : Nat → Bool} {o : CacheLine} (h : displaced s q n inUse = some (some o)) :
    cacheLine s n = none := by
  unfold displaced at h
  split at h
  · exact absurd h (by simp)
  · rename_i habsent
    simpa using habsent

/-- The state in which a line is put into the cache: a line that was not there is brought by its HBM controller. -/
def lineBrought (s : State) (a : Nat) : State := if (cacheLine s (a / 64)).isSome then s else hbmDone s a

theorem lineBrought_view (s : State) (a : Nat) : (lineBrought s a).view = s.view := by
  unfold lineBrought
  split <;> rfl

/-- A line is put at the front of the cache. -/
def linePut (s : State) (q a : Nat) (dirty : Bool) (d : List Byte) : State :=
  { s with tier := { s.tier with
    lineCache := { q := q, line := a / 64, dirty := dirty, data := d } :: s.tier.lineCache.filter (fun e => e.line != a / 64) } }

theorem cacheLine_linePut (s : State) (q a : Nat) (dirty : Bool) (d : List Byte) (n : Nat) : cacheLine (linePut s q a dirty d) n =
    if a / 64 = n then some { q := q, line := a / 64, dirty := dirty, data := d } else cacheLine s n :=
  find?_front { q := q, line := a / 64, dirty := dirty, data := d } s.tier.lineCache n

/-- A line put into the cache reads its bytes, and every other line reads as before. -/
theorem lineBytes_linePut (s : State) (q a : Nat) (dirty : Bool) (d : List Byte) : lineBytes (linePut s q a dirty d) a = d
    ∧ ∀ x, x / 64 ≠ a / 64 → lineBytes (linePut s q a dirty d) x = lineBytes s x := by
  refine ⟨lineBytes_of_cached ((cacheLine_linePut ..).trans (if_pos rfl)), fun x hx => lineBytes_congr ?_ rfl⟩
  rw [cacheLine_linePut, if_neg (Ne.symm hx)]

/-- A line with a way of its own, or with room in its set, is put into the cache. -/
theorem touchLine_of_room {s : State} {q a : Nat} {inUse : Nat → Bool} (h : displaced s q (a / 64) inUse = none) (dirty : Bool) (d : List Byte) :
    touchLine s q a dirty d inUse = linePut (lineBrought s a) q a (dirty || (cacheLine s (a / 64)).elim false (·.dirty)) d := by
  have hnone : displaced (lineBrought s a) q (a / 64) inUse = none :=
    (displaced_congr (congrArg View.cache (lineBrought_view s a)) q (a / 64) inUse).trans h
  rw [lineBrought] at hnone
  simp only [touchLine, hnone, linePut, lineBrought]

/-- A line whose set is full is put into the cache in place of another. -/
theorem touchLine_of_displaced {s : State} {q a : Nat} {inUse : Nat → Bool} {o : CacheLine}
    (h : displaced s q (a / 64) inUse = some (some o)) (dirty : Bool) (d : List Byte) : touchLine s q a dirty d inUse =
      linePut (dropLine (lineBrought s a) (o.line * 64)) q a (dirty || (cacheLine s (a / 64)).elim false (·.dirty)) d := by
  have hsome : displaced (lineBrought s a) q (a / 64) inUse = some (some o) :=
    (displaced_congr (congrArg View.cache (lineBrought_view s a)) q (a / 64) inUse).trans h
  rw [lineBrought] at hsome
  simp only [touchLine, hsome, linePut, lineBrought]

/-- The lines of the cache after one of them is written to its place and dropped. -/
theorem find?_dropped (l : List CacheLine) (m n : Nat) (h : n ≠ m) :
    ((adjustWhere l (fun x => x.line == m) (fun x => { x with dirty := false })).filter (fun x => x.line != m)).find? (fun x => x.line == n)
      = l.find? (fun x => x.line == n) ∧ (l.filter (fun x => x.line != m)).find? (fun x => x.line == n) = l.find? (fun x => x.line == n) := by
  induction l with
  | nil => exact ⟨rfl, rfl⟩
  | cons e l ih =>
    by_cases he : e.line = m
    · have hn : (e.line == n) = false := by simp [he, Ne.symm h]
      simpa [adjustWhere, he, Ne.symm h] using ih
    · by_cases hen : e.line = n
      · subst hen
        simp [adjustWhere, he]
      · simpa [adjustWhere, he, hen] using ih

/-- A line that is given up: its bytes are in memory if it was dirty, and the cache holds it no more. -/
theorem dropLine_frame {s : State} {n : Nat} {e : CacheLine} (h : cacheLine s n = some e) :
    (dropLine s (n * 64)).tier.mem = (if e.dirty then Memory.write s.tier.mem (e.line * 64) e.data else s.tier.mem)
    ∧ cacheLine (dropLine s (n * 64)) n = none ∧ ∀ m, m ≠ n → cacheLine (dropLine s (n * 64)) m = cacheLine s m := by
  have hn : n * 64 / 64 = n := Nat.mul_div_cancel n (by decide)
  have hline : e.line = n := by simpa using List.find?_some h
  have hgone (l : List CacheLine) : (l.filter (fun x => x.line != n)).find? (fun x => x.line == n) = none := by
    rw [List.find?_eq_none]
    intro x hx
    simpa using (List.mem_filter.mp hx).2
  cases hdirty : e.dirty with
  | true =>
    simp only [dropLine, flushLine, hn, h, hdirty, if_true, hline]
    exact ⟨rfl, hgone _, fun m hm => (find?_dropped s.tier.lineCache n m hm).1⟩
  | false =>
    simp only [dropLine, flushLine, hn, h, hdirty, Bool.false_eq_true, if_false]
    exact ⟨trivial, hgone _, fun m hm => (find?_dropped s.tier.lineCache n m hm).2⟩

/-! ### A store of a line -/

section
variable {P : View → Prop}

/-- A gateway's note of a dirty line leaves the view, whether the region has a binding or none. -/
theorem kept_gwMarkDirty {s : State} (h : Kept P s) (o : Option GwBinding) (line : Nat) :
    Kept P (match o with | some b => gwMarkDirty s b line | none => s) := by
  cases o with
  | none => exact h
  | some b => exact gwMarkDirty_inv s b line h

/-- Of what a write of a line does, its step through the line cache alone changes the view. -/
theorem writeNow_view {s : State} {r : Req} {a : Nat} (hplain : isAtomic r.opc = false) (hnear : framed a = false) (g : Region) (off : Nat)
    (old new : List Byte) : (writeNow s r g a off old new).view =
      (touchLine (dropHeld s g.handle off) g.homeq a true new (keptLines (dropHeld s g.handle off))).view := by
  simp only [writeNow, hplain, hnear, Bool.false_eq_true, false_and, if_false]
  generalize touchLine (dropHeld s g.handle off) g.homeq a true new (keptLines (dropHeld s g.handle off)) = t
  have hclear : Kept (· = t.view) (if fullStore r then clearPoison t a else t) := ite_inv (fun _ => clearPoison_inv t a rfl) (fun _ => rfl)
  have hmark := kept_gwMarkDirty (trackWrite_inv _ g.handle off hclear)
    (gwOf (trackWrite (if fullStore r then clearPoison t a else t) g.handle off) g.handle) (off / 64)
  have hbell := ite_inv (c := (g.mode == 0) = true) (d := inferInstance) (fun _ => passDoorbell_inv _ r off new hmark) (fun _ => hmark)
  exact lineDone_inv _ r off (ite_inv (fun _ => dirDone_inv _ g.homeq r.opc r.h.src r.port g.handle (off / 64) hbell) (fun _ => hbell))

end

/-- A line of a STORE, a STORE_MASKED or an XFER_WRITE of an OWNED region, in near memory, that nothing holds. -/
structure PlainStore (s : State) (r : Req) (g : Region) (a off : Nat) : Prop where
  place : placeOf g off = some a
  near : framed a = false
  proxy : gwOf s g.handle = none
  parity : sheafOf s g.handle = none
  owned : g.mode = 0
  sheaf : g.sheaf = false
  fromPort : r.org = .port
  store : r.opc = 2 ∨ r.opc = 3 ∨ r.opc = 0x61
  clean : poisonOf s a = none
  masked : r.opc = 3 → maskEmpty (slice r.data (off - r.h.offset) 64) = false
  chunk : chunkHeld s g.homeq a = false
  source : sourceHeld s r = false

section
variable {s : State} {r : Req} {g : Region} {a off : Nat}

theorem isAtomic_of_store (h : r.opc = 2 ∨ r.opc = 3 ∨ r.opc = 0x61) : isAtomic r.opc = false ∧ readsLines r.opc = false := by
  rcases h with h | h | h <;> rw [h] <;> decide

/-- A line of near memory needs nothing of the tiers. -/
theorem lineNeed_of_near (hnear : framed a = false) (sheaf : Bool) (q : Nat) : lineNeed s sheaf q a = .ready := by
  have htray : isTray a = false := (Bool.or_eq_false_iff.mp hnear).1
  simp only [lineNeed, htray, Bool.false_eq_true, if_false]

/-- A line that has a way is written now. -/
theorem serveLine_of_store (h : PlainStore s r g a off) (hroom : lineRoom s g.homeq a (keptLines s) = true) :
    serveLine s r g off = some (writeNow s r g a off (lineBytes s a) (newLine s r off (lineBytes s a))) := by
  obtain ⟨hatomic, hreads⟩ := isAtomic_of_store h.store
  have hline : linePlace s g off = some a := by simp [linePlace, h.proxy, h.place]
  have hidle : deltaIdle s r off = false := by simp [deltaIdle, h.fromPort]
  have hmask : (r.opc == 3 && maskEmpty (slice r.data (off - r.h.offset) 64)) = false := by
    by_cases hopc : r.opc = 3
    · rw [h.masked hopc, Bool.and_false]
    · simp [hopc]
  have hmode : (g.mode != 1) = true := by simp [h.owned]
  simp only [serveLine, hline, h.parity, Option.any_none, h.chunk, h.source, Bool.or_self, Bool.false_eq_true, if_false, hidle, hmask, hmode, if_true,
    tierLine, hroom, Bool.not_true, h.proxy, lineNeed_of_near h.near, performLine, h.clean, hreads, parityStep, h.sheaf, Bool.false_and]

/-- What memory and the line cache hold after the store of a line. -/
theorem view_of_store (h : PlainStore s r g a off) (hroom : lineRoom s g.homeq a (keptLines s) = true) :
    ∃ t, serveLine s r g off = some t ∧ t.view = (touchLine (dropHeld s g.handle off) g.homeq a true (newLine s r off (lineBytes s a))
      (keptLines (dropHeld s g.handle off))).view :=
  ⟨_, serveLine_of_store h hroom, writeNow_view (isAtomic_of_store h.store).1 h.near g off _ _⟩

/-- A line with a way of its own takes its new bytes, and no other line changes. -/
theorem serveLine_of_room (h : PlainStore s r g a off) (hroom : displaced s g.homeq (a / 64) (keptLines s) = none) :
    ∃ t, serveLine s r g off = some t ∧ lineBytes t a = newLine s r off (lineBytes s a) ∧ t.tier.mem = s.tier.mem
      ∧ ∀ x, x / 64 ≠ a / 64 → lineBytes t x = lineBytes s x := by
  obtain ⟨t, ht, hview⟩ := view_of_store h (by simp [lineRoom, hroom])
  have hheld : displaced (dropHeld s g.handle off) g.homeq (a / 64) (keptLines (dropHeld s g.handle off)) = none :=
    displaced_eq_none_of ((displaced_congr rfl ..).trans hroom) _
  rw [touchLine_of_room hheld] at hview
  have hbrought := lineBrought_view (dropHeld s g.handle off) a
  obtain ⟨hnew, hothers⟩ := lineBytes_linePut (lineBrought (dropHeld s g.handle off) a) g.homeq a
    (true || (cacheLine (dropHeld s g.handle off) (a / 64)).elim false (·.dirty)) (newLine s r off (lineBytes s a))
  refine ⟨t, ht, (lineBytes_of_view_eq hview a).trans hnew, (congrArg View.mem hview).trans (congrArg View.mem hbrought), fun x hx => ?_⟩
  exact (lineBytes_of_view_eq hview x).trans ((hothers x hx).trans (lineBytes_of_view_eq hbrought x))

/-- A line whose set is full takes its new bytes in place of another, which is written to its own place if it was dirty. -/
theorem serveLine_of_displaced {o e : CacheLine} (h : PlainStore s r g a off) (hfull : displaced s g.homeq (a / 64) (keptLines s) = some (some o))
    (hgiven : cacheLine s o.line = some e) (hlength : e.data.length = 64)
    (hkept : displaced s g.homeq (a / 64) (keptLines (dropHeld s g.handle off)) = some (some o)) (hwf : Memory.wf s.tier.mem = true) :
    ∃ t, serveLine s r g off = some t ∧ lineBytes t a = newLine s r off (lineBytes s a)
      ∧ t.tier.mem = (if e.dirty then Memory.write s.tier.mem (e.line * 64) e.data else s.tier.mem)
      ∧ (∀ x, x % 64 = 0 → x / 64 ≠ a / 64 → x / 64 ≠ o.line → lineBytes t x = lineBytes s x)
      ∧ (e.dirty = true → lineBytes t (o.line * 64) = lineBytes s (o.line * 64)) := by
  obtain ⟨t, ht, hview⟩ := view_of_store h (by simp [lineRoom, hfull])
  have hheld : displaced (dropHeld s g.handle off) g.homeq (a / 64) (keptLines (dropHeld s g.handle off)) = some (some o) :=
    (displaced_congr rfl ..).trans hkept
  rw [touchLine_of_displaced hheld] at hview
  have hbrought : (lineBrought (dropHeld s g.handle off) a).view = s.view := lineBrought_view (dropHeld s g.handle off) a
  have hsame (n : Nat) : cacheLine (lineBrought (dropHeld s g.handle off) a) n = cacheLine s n := cacheLine_congr (congrArg View.cache hbrought) n
  obtain ⟨hmem, hgone, hrest⟩ := dropLine_frame ((hsame o.line).trans hgiven)
  rw [show (lineBrought (dropHeld s g.handle off) a).tier.mem = s.tier.mem from congrArg View.mem hbrought] at hmem
  obtain ⟨hnew, hothers⟩ := lineBytes_linePut (dropLine (lineBrought (dropHeld s g.handle off) a) (o.line * 64)) g.homeq a
    (true || (cacheLine (dropHeld s g.handle off) (a / 64)).elim false (·.dirty)) (newLine s r off (lineBytes s a))
  have hline : e.line = o.line := by simpa using List.find?_some hgiven
  have hplace : o.line * 64 / 64 = o.line := Nat.mul_div_cancel o.line (by decide)
  have hapart : o.line ≠ a / 64 := by
    intro heq
    rw [← heq] at hfull
    exact absurd hgiven (by rw [displaced_ne hfull]; simp)
  refine ⟨t, ht, (lineBytes_of_view_eq hview a).trans hnew, (congrArg View.mem hview).trans hmem, fun x haligned hxa hxo => ?_, fun hdirty => ?_⟩
  · refine (lineBytes_of_view_eq hview x).trans ((hothers x hxa).trans ?_)
    cases hcached : cacheLine s (x / 64) with
    | some c =>
      rw [lineBytes_of_cached hcached, lineBytes_of_cached ((hrest _ hxo).trans ((hsame _).trans hcached))]
    | none =>
      rw [lineBytes_of_uncached hcached, lineBytes_of_uncached ((hrest _ hxo).trans ((hsame _).trans hcached)), hmem]
      split
      · exact Memory.read_write_of_outside hwf _ _ (by omega)
      · rfl
  · have hback : lineBytes (dropLine (lineBrought (dropHeld s g.handle off) a) (o.line * 64)) (o.line * 64) = e.data := by
      rw [lineBytes_of_uncached (by rw [hplace]; exact hgone), hmem, hdirty, if_pos rfl, hline, ← hlength, Memory.read_write hwf]
    refine (lineBytes_of_view_eq hview _).trans ((hothers _ (by rw [hplace]; exact hapart)).trans (hback.trans ?_))
    rw [lineBytes_of_cached (by rw [hplace]; exact hgiven)]

end

/-! ### A load of a line -/

/-- A view that reads as a state does, line by line, over the same memory. -/
def ReadsAs (s : State) (v : View) : Prop := v.mem = s.tier.mem ∧ ∀ x, x % 64 = 0 → v.lineBytes x = lineBytes s x

section
variable {s : State} {r : Req} {g : Region} {a off : Nat}

theorem readsAs_self (s : State) : Kept (ReadsAs s) s := ⟨rfl, fun _ _ => rfl⟩

/-- A line that is read passes through the cache, and every line reads as before. -/
theorem touchLine_readsAs {q : Nat} (haligned : a % 64 = 0) {inUse : Nat → Bool} (hroom : displaced s q (a / 64) inUse = none) {t : State}
    (hview : t.view = s.view) (inUse' : Nat → Bool) : Kept (ReadsAs s) (touchLine t q a false (lineBytes s a) inUse') := by
  have hroom' : displaced t q (a / 64) inUse' = none := displaced_eq_none_of ((displaced_congr (congrArg View.cache hview) ..).trans hroom) _
  have hbrought : (lineBrought t a).view = s.view := (lineBrought_view t a).trans hview
  rw [touchLine_of_room hroom']
  obtain ⟨hread, hothers⟩ := lineBytes_linePut (lineBrought t a) q a (false || (cacheLine t (a / 64)).elim false (·.dirty)) (lineBytes s a)
  refine ⟨congrArg View.mem hbrought, fun x hx => ?_⟩
  by_cases hline : x / 64 = a / 64
  · have hsame : x = a := by omega
    rw [hsame]
    exact hread
  · exact (hothers x hline).trans (lineBytes_of_view_eq hbrought x)

theorem readNow_readsAs (haligned : a % 64 = 0) (hroom : displaced s g.homeq (a / 64) (keptLines s) = none) :
    Kept (ReadsAs s) (readNow s r g a off) := by
  have hhit : (if hbmHit s r g.homeq a off then updFrame s g.homeq a (fun f => { f with rrpv := 0 }) else s).view = s.view := by
    split <;> rfl
  have htouch := touchLine_readsAs haligned hroom hhit
    (keptLines (if hbmHit s r g.homeq a off then updFrame s g.homeq a (fun f => { f with rrpv := 0 }) else s))
  unfold readNow
  exact lineDone_inv _ _ off (ite_inv (fun _ => dirDone_inv _ _ _ _ _ _ _ htouch) (fun _ => htouch))

theorem performLine_readsAs (hreads : readsLines r.opc = true) (haligned : a % 64 = 0)
    (hroom : displaced s g.homeq (a / 64) (keptLines s) = none) : OptInv (Kept (ReadsAs s)) (performLine s r g a off) := by
  unfold performLine
  split
  · simp only [hreads, Bool.true_or, if_true]
    split
    · exact askRebuild_inv s r g off (readsAs_self s)
    · exact finishCrew_inv s r POISONED _ (readsAs_self s)
  · simp only [hreads, if_true]
    exact readNow_readsAs haligned hroom

theorem tierLine_readsAs (hreads : readsLines r.opc = true) (haligned : a % 64 = 0) (hgw : gwOf s g.handle = none)
    (hneed : lineNeed s g.sheaf g.homeq a ≠ .fill) (hroom : displaced s g.homeq (a / 64) (keptLines s) = none) :
    OptInv (Kept (ReadsAs s)) (tierLine s r g a off) := by
  have hway : lineRoom s g.homeq a (keptLines s) = true := by simp [lineRoom, hroom]
  simp only [tierLine, hway, Bool.not_true, Bool.false_eq_true, if_false, hgw]
  split
  · split
    · exact askRebuild_inv s r g off (readsAs_self s)
    · exact finishCrew_inv s r MEDIA_ERROR _ (readsAs_self s)
  · exact absurd ‹_› hneed
  · exact performLine_readsAs hreads haligned hroom

/-- A directory entry that is made room for, or none that is needed. -/
theorem dirRoomInv_ite {P : View → Prop} {c : Prop} [Decidable c] {space : DirRoom} (h : DirRoomInv P space) :
    DirRoomInv P (if c then space else .room) := by
  split
  · exact h
  · exact True.intro

/-- Service of a line of a LOAD or an XFER_READ that needs no fill and displaces no line leaves every line as it was. -/
theorem serveLine_readsAs (hload : r.opc = 1 ∨ r.opc = 0x60) (hplace : linePlace s g off = some a) (haligned : a % 64 = 0)
    (hgw : gwOf s g.handle = none) (hneed : lineNeed s g.sheaf g.homeq a ≠ .fill)
    (hroom : displaced s g.homeq (a / 64) (keptLines s) = none) : OptInv (Kept (ReadsAs s)) (serveLine s r g off) := by
  have hreads : readsLines r.opc = true := by rcases hload with h | h <;> rw [h] <;> decide
  have hmask : (r.opc == 3) = false := by rcases hload with h | h <;> rw [h] <;> decide
  have hevict : (r.opc == 7) = false ∧ (r.opc == 6) = false := by rcases hload with h | h <;> rw [h] <;> decide
  have htier := tierLine_readsAs (off := off) hreads haligned hgw hneed hroom
  simp only [serveLine, hplace, hmask, hevict, Bool.false_and, Bool.or_self, Bool.false_eq_true, if_false]
  split
  · exact True.intro
  split
  · exact lineDone_inv s r off (readsAs_self s)
  split
  · exact htier
  split
  · exact True.intro
  · exact updReq_inv _ _ _ (DirRoomInv.of_eq ‹_› (dirRoomInv_ite (dirRoom_inv s _ _ _ _ (readsAs_self s))))
  · split
    · exact True.intro
    · exact updReq_inv _ _ _ (DirInv.of_eq ‹_› (dirStep_inv s _ _ _ _ _ _ (readsAs_self s)))
    · exact htier

end

/-- Settles O26: a store goes through the line cache and gives up one line at most; a load leaves every line. -/
theorem linesChangeOnlyWhereStored : Obligations.LinesChangeOnlyWhereStored := by
  unfold Obligations.LinesChangeOnlyWhereStored
  constructor
  · intro s r g a off hplace hnear _ hgw hsheaf hmode hstalk hport hstore hclean hmask hchunk hsource
    have h : PlainStore s r g a off := ⟨hplace, hnear, hgw, hsheaf, hmode, hstalk, hport, hstore, hclean, hmask, hchunk, hsource⟩
    exact ⟨serveLine_of_room h, fun o e hfull hgiven hlength hkept hwf => serveLine_of_displaced h hfull hgiven hlength hkept hwf⟩
  · intro s t r g a off hload hplace haligned hgw hneed hroom ht
    have hreads := serveLine_readsAs hload hplace haligned hgw hneed hroom
    rw [ht] at hreads
    exact hreads

end Sys2Proof.Machine
